-- ==== Sys2Proof/Word.lean ====
section
/-! DEFINITION. The word types of the manual (R3 to R5) and the one finite table used for
every numbered collection of the device. -/

namespace Sys2Proof

/-- One byte of memory, of a hasp entry or of a message (R4). -/
abbrev Byte := BitVec 8

/-- A 32-bit register or stack cell (R506, R267). -/
abbrev Word32 := BitVec 32

/-- A 64-bit value: a count, a handle, a double cell (R508, R78). -/
abbrev Word64 := BitVec 64

/-- A sparse table from a number to a value, sorted by number and without repeats. -/
abbrev Tab (α : Type) := List (Nat × α)

end Sys2Proof
end

