-- ==== Sys2Proof/Syntax.lean ====
section
/-! DEFINITION. The commands of the Norni NK8: one constructor of `Instr` for each row of
spec/opcode_table.json, with the operands that the row's step takes from outside the block. -/

namespace Sys2Proof

abbrev Region := Fin 4
abbrev Fn := Fin 64
abbrev Engine := Fin 18
abbrev Role := Fin 16
abbrev Lane := Fin 2
abbrev Source := Fin 8
abbrev Bank := Fin 12
abbrev Slot := Fin 2
abbrev Channel := Fin 8
abbrev DmaInst := Fin 5
abbrev Station := Fin 14
abbrev PageNo := Fin 196
abbrev Sensor := Fin 16
abbrev TamperClass := Fin 15
/-- An address of the 40-bit internal map (R511). -/
abbrev Addr := Nat

/-- The four worlds (R18). -/
inductive World where
  | K | C | T | D
  deriving DecidableEq, Repr, Inhabited

/-- A core slot by region and position of R15; position 6 is the spare Qn.K3.S. -/
structure CoreId where
  region : Region
  pos : Fin 7
  deriving DecidableEq, Repr

/-- Who makes an access: the authority tag of R18, and the function for the host interface (R508). -/
structure Access where
  world : World
  tenant : Nat
  master : Byte
  fn : Nat
  deriving DecidableEq, Repr

/-- The ports of a region crossbar (R358). -/
inductive Port where
  | k0 | k1 | k2 | k3 | bridge
  deriving DecidableEq, Repr

/-- A keyway unit (R362): one of a region's five, or that of central window 0 to 8
(boot ROM, barrel array, vault, key store, NVM, host, always-on, clocks, monitor: R511). -/
inductive KwUnit where
  | region (r : Region) (p : Port)
  | central (i : Fin 9)
  deriving DecidableEq, Repr

/-- The blocks that containment names (R10, R443, R529). -/
inductive Blk where
  | core (c : CoreId)
  | bolt (r : Region)
  | digestLane (r : Region) (l : Lane)
  | dma (i : DmaInst)
  | barrel (e : Engine)
  | conditioner
  | vault
  | drbg (r : Region)
  | tumbler (r : Region)
  | keyStore
  | nvm
  | nvmBank (b : Bank)
  | hostInterface
  | spine
  | alwaysOn
  deriving DecidableEq, Repr

/-- One element of a scatter list (R58). -/
structure SgElem where
  iova : Word64
  len : Nat
  flags : Byte
  reserved : Nat
  deriving DecidableEq, Repr

/-- One fragment descriptor of a DIG command with what its source gave (R184, R187). -/
structure Frag where
  bytes : List Byte
  data : List Byte
  err : Option Word64
  deriving DecidableEq, Repr

/-- What the NK8 reads from host memory for a command: the scatter lists of R58, the input
bytes, the bytes at out_ptr (R188), the digest fragments, and the address of a read error (R59). -/
structure HostRead where
  inSg : List SgElem
  outSg : List SgElem
  data : List Byte
  outData : List Byte
  frags : List Frag
  err : Option Word64
  deriving DecidableEq, Repr

/-- The answer of host memory to the fetch of one submission entry (R56, R59). -/
inductive EntryRead where
  | ok (bytes : List Byte)
  | error
  deriving DecidableEq, Repr

/-- What a configuration read names of what the manual gives a function's configuration space (R41, R42, R62). -/
inductive CfgItem where
  | totalVfs | firstVfOffset | vfStride | numVfs | vfEnable
  /-- A BAR by its number, as it reads after all ones have been written to it. -/
  | bar (n : Nat)
  | maxPayload | maxReadRequest | ecrc | aer | power | msix
  deriving DecidableEq, Repr

/-- A PCIe configuration request (R41, R42, R43, R62). -/
inductive ConfigReq where
  | setNumVfs (n : Nat)
  | setVfEnable (on : Bool)
  | setMsix (enable mask : Bool)
  | setMaxPayload (bytes : Nat)
  | setMaxReadRequest (bytes : Nat)
  | setEcrc (generate check : Bool)
  | setPower (d3hot : Bool)
  /-- A write of ones to bits of the AER status clears them. -/
  | clearAer (bits : Word32)
  | read (item : CfgItem)
  | other
  deriving DecidableEq, Repr

/-- What the host enables, masks or unmasks (R62). -/
inductive MsixOp where
  | enable
  | unmaskFunction
  | unmaskVector (v : Nat)
  | disable
  | maskFunction
  | maskVector (v : Nat)
  deriving DecidableEq, Repr

/-- The kinds of engine of the destinations mask (R84). -/
inductive EngineKind where
  | bolt | digest | barrel | vault | wrap
  deriving DecidableEq, Repr

/-- What an engine presents to the key store (R86). `use` is a usage bit of R83, or none. -/
structure KeyReq where
  kind : EngineKind
  handle : Word64
  world : World
  tenant : Nat
  session : Word32
  use : Option Nat
  fn : Nat
  /-- The algorithms and lengths in bytes that the command takes; none where it takes any. -/
  suits : Option (List (Nat × Nat))
  deriving DecidableEq, Repr

/-- How a refill's vault read ends (R96, R97). -/
inductive SpillRead where
  | fromBuffer
  | payload (bytes : List Byte)
  | integrity
  | unwritten
  | retry
  deriving DecidableEq, Repr

/-- How a barrel engine's run ends (R151, R159, R160, R167). -/
inductive RunEnd where
  | finished
  | mismatch
  | guardViolation (slot : Nat)
  | yields
  | katPass
  | katFail (prog : Nat)
  deriving DecidableEq, Repr

/-- Which known-answer test (R214). -/
inductive KatTarget where
  | conditioner
  | drbg (r : Region)
  deriving DecidableEq, Repr

/-- Why a busy card is deactivated (R333, EV_6103). -/
inductive BusyCause where
  | busyLimit | wtxLimit | lineLow
  deriving DecidableEq, Repr

/-- The QoS classes of the spine, highest rank first (R353). -/
inductive QosClass where
  | ctrl | rt | bulk | bg
  deriving DecidableEq, Repr

/-- The kinds of traffic on the spine (R353). -/
inductive Traffic where
  | tamper | clockPower | recorder | registerPage
  | haspEntry | msix | txnData | coreAccess | keyStore
  | vaultData | barrelData | digestFragment | hingeDma | hostData
  | nvmScrub | wearMove | rebuild | telemetry | katData
  deriving DecidableEq, Repr

/-- The kinds of access a keyway rule judges (R363). -/
inductive AccKind where
  | read | write | execute
  deriving DecidableEq, Repr

/-- The width of a register access (R506). -/
inductive AccSize where
  | b1 | b2 | b4 | b8
  deriving DecidableEq, Repr

/-- What a register access is aimed at: an internal address, or an offset of a function's BAR0 (R44, R504). -/
inductive RegTarget where
  | internal (a : Addr)
  | bar (fn : Fn) (off : Nat)
  deriving DecidableEq, Repr

/-- What the fabric did during a DMA descriptor: whether the descriptor could be fetched, an access
error of R374 with the bytes completed before it, the bytes read from host memory, whether the status
word could be written back, and the retries after which an access went well. -/
structure DescRead where
  fetched : Bool
  fail : Option (Nat × Nat)
  host : List Byte
  statusOk : Bool
  retried : Nat
  deriving DecidableEq, Repr

/-- The scope of a G1 response (R418). -/
inductive G1Scope where
  | region (r : Region)
  | die
  deriving DecidableEq, Repr

/-- What start-up finds (R472, R473): images that fail verification, and members that fail self-test;
the strike file check and the batteries' state come from State. -/
structure BootReport where
  imageAFails : Bool
  imageBFails : Bool
  /-- Regions that fail their bring-up, with the stage of EV_7103 (R528). -/
  regionsFail : List (Region × Nat)
  coresFail : List CoreId
  enginesFail : List Engine
  banksFail : List Bank
  lanesFail : List (Region × Lane)
  boltsFail : List Region
  /-- The conditioner fails its known-answer test (R214). -/
  conditionerFails : Bool
  /-- The central block that fails its self-test (R528). -/
  centralFails : Option Blk
  deviceSecretReadable : Bool
  logBroken : Bool
  /-- The persistent registers whose rings have no readable copy of any word (R408). -/
  ringsLost : List (Fin 384)
  deriving DecidableEq, Repr

/-- The length of a low pulse on pwr_fail_n (R466). -/
inductive PulseWidth where
  | below1us
  | qualified
  deriving DecidableEq, Repr

/-- Why a management SPI frame is not executed (R522). -/
inductive SpiErr where
  | crc | short | midWord | form | busy
  deriving DecidableEq, Repr

/-- The commands, one constructor for each row of spec/opcode_table.json. -/
inductive Instr where
  /-- BG_CHUNK_END (R404): A background NVM transfer reaches a chunk boundary and yields to any waiting foreground transfer. -/
  | bgChunkEnd
  /-- UNCORRECTABLE_ERROR (R10): An uncorrectable SRAM or NVM word is detected, and the tile re-reads it or relocates the row with EV_4020. -/
  | uncorrectableError (blk : Blk) (tile : Nat) (row : Nat) (rereadOk : Bool)
  /-- BLOCK_FAULT (R10): A block detects a fault or receives uncorrectable data and starts a block reset and self-test. -/
  | blockFault (blk : Blk) (reason : Nat)
  /-- BLOCK_SELF_TEST_END (R529): A block reset and its self-test end, and the block returns to service or is taken out of service with escalation under R11. -/
  | blockSelfTestEnd (blk : Blk) (pass : Bool)
  /-- CONFIG_REQUEST (R43): A PCIe configuration request arrives and is answered with retry status until READY, or normally afterwards. -/
  | configRequest (fn : Fn) (req : ConfigReq)
  /-- FN_ENABLE (R47): A write of 1 to CTRL.enable starts queue pair 0 from AQ_CFG, or sets cfg_error. -/
  | fnEnable (fn : Fn)
  /-- FN_DISABLE (R47): A write of 0 to CTRL.enable stops every queue pair of the function. -/
  | fnDisable (fn : Fn)
  /-- SQ_TAIL (R53): An SQ_TAIL doorbell write hands entries to the NK8 or puts the queue pair into error state. -/
  | sqTail (fn : Fn) (qp : Nat) (value : BitVec 32)
  /-- CQ_HEAD (R53): A CQ_HEAD doorbell write returns completion entries and releases held completions. -/
  | cqHead (fn : Fn) (qp : Nat) (value : BitVec 32)
  /-- SQ_ENTRY_FETCH (R55): The host interface fetches a submission entry by priority and round robin, then checks it, sequences it and routes it. -/
  | sqEntryFetch (rd : EntryRead)
  /-- SQ_PRIORITY_PROMOTE (R55): An SQ left unserved for 100 µs is served at the next higher level. -/
  | sqPriorityPromote (fn : Fn) (qp : Nat)
  /-- SEQ_HOLD_TIMEOUT (R68): An early command held for 100 µs completes with ST_SEQ_GAP. -/
  | seqHoldTimeout (cid : Nat)
  /-- COMPLETION_POST (R72): A finished command's completion entry is posted in sequence order, with output written first and MSI-X after it. -/
  | completionPost (cid : Nat)
  /-- CQ_COAL_TIMEOUT (R62): coal_time elapses since the first uncounted completion, and the CQ raises its MSI-X vector. -/
  | cqCoalTimeout (fn : Fn) (qp : Nat)
  /-- MSIX_UNMASK (R62): MSI-X is enabled or a vector is unmasked, and a message is sent if its pending bit is set. -/
  | msixUnmask (fn : Fn) (what : MsixOp)
  /-- QUEUE_CREATE (R51): Creates a queue pair of the function. -/
  | queueCreate (cid : Nat) (hr : HostRead)
  /-- QUEUE_DELETE (R52): Stops fetching from a queue pair, completes fetched commands and deletes the pair. -/
  | queueDelete (cid : Nat) (hr : HostRead)
  /-- SESSION_OPEN (R64): Opens a session on a home region and returns its ID. -/
  | sessionOpen (cid : Nat) (hr : HostRead)
  /-- SESSION_CLOSE (R66): Closes a session after its commands complete, zeroing its workspace and replay cache. -/
  | sessionClose (cid : Nat) (hr : HostRead)
  /-- FLR_VF (R74): A function level reset of a VF stops its queues, closes its sessions and clears its page. -/
  | flrVf (fn : Fn)
  /-- FLR_PF (R74): A function level reset of the PF resets the PF and every VF and clears VF Enable. -/
  | flrPf
  /-- HOT_RESET (R74): A PCIe hot reset resets every function and logs EV_5121. -/
  | hotReset (linkUp : Bool)
  /-- LINK_DOWN (R74): A PCIe link down resets every function and logs EV_5121. -/
  | linkDown (linkUp : Bool)
  /-- PCIE_PERST (R517): Assertion of pcie_perst_n acts as a link down. -/
  | pciePerst (linkUp : Bool)
  /-- LC_PROVISION (R31): Moves MANUFACTURE to PROVISIONED on a provisioning token. -/
  | lcProvision (cid : Nat) (hr : HostRead)
  /-- LC_DEVELOP (R31): Moves PROVISIONED to DEVELOP under a quorum. -/
  | lcDevelop (cid : Nat) (hr : HostRead)
  /-- LC_PROVISION_BACK (R31): Moves DEVELOP back to PROVISIONED with its erasures. -/
  | lcProvisionBack (cid : Nat) (hr : HostRead)
  /-- LC_OPERATE (R31): Moves PROVISIONED to OPERATIONAL. -/
  | lcOperate (cid : Nat) (hr : HostRead)
  /-- LC_QUARANTINE (R31): Moves the device to QUARANTINE with the G3 erasure. -/
  | lcQuarantine (cid : Nat) (hr : HostRead)
  /-- LC_RETIRE (R31): Moves the device to RETIRED under a quorum or a retirement token. -/
  | lcRetire (cid : Nat) (hr : HostRead)
  /-- LC_TRANSITION (R32): Once the accepted commands have completed, the transition writes its intent, erases, commits the state, completes the LC command and warm resets. -/
  | lcTransition
  /-- CUS_ENROL (R27): Sets M and registers N cards without a quorum. -/
  | cusEnrol (cid : Nat) (hr : HostRead)
  /-- CUS_REGISTER (R38): Registers one card at a free index. -/
  | cusRegister (cid : Nat) (hr : HostRead)
  /-- CUS_REVOKE (R38): Revokes a card registration. -/
  | cusRevoke (cid : Nat) (hr : HostRead)
  /-- CUS_SET_M (R38): Changes the quorum size M. -/
  | cusSetM (cid : Nat) (hr : HostRead)
  /-- CUS_SET_LIFE (R37): Sets the quorum lifetime in AON_QUORUM_LIFE. -/
  | cusSetLife (cid : Nat) (hr : HostRead)
  /-- ENROL_WINDOW_EXPIRE (R38): window_s passes before enrolment or registration is complete, and the command ends with ST_ABORTED. -/
  | enrolWindowExpire
  /-- QUORUM_END (R38): Ends the live quorum. -/
  | quorumEnd (cid : Nat) (hr : HostRead)
  /-- QUORUM_WINDOW_EXPIRE (R24): 600 s pass before M cards have counted, and the counted cards are discarded. -/
  | quorumWindowExpire
  /-- QUORUM_LIFETIME_EXPIRE (R25): The quorum lifetime expires and the quorum ends with reason 2. -/
  | quorumLifetimeExpire
  /-- VF_BIND (R23): Binds a VF to world T and commits the tenant settings. -/
  | vfBind (cid : Nat) (hr : HostRead)
  /-- VF_UNBIND (R23): Unbinds a VF, closing its sessions and deleting its keys and partitions. -/
  | vfUnbind (cid : Nat) (hr : HostRead)
  /-- SESSION_QUOTA_SET (R65): Sets a function's session quota. -/
  | sessionQuotaSet (cid : Nat) (hr : HostRead)
  /-- IDENT (R40): Returns the 64 B identity block. -/
  | ident (cid : Nat) (hr : HostRead)
  /-- TEL_STATUS (R40): Returns the 64 B status block. -/
  | telStatus (cid : Nat) (hr : HostRead)
  /-- TEL_READ (R40): Returns register words from the telemetry snapshot. -/
  | telRead (cid : Nat) (hr : HostRead)
  /-- KEY_GENERATE (R88): Creates a new key from the DRBG or by a barrel keygen job. -/
  | keyGenerate (cid : Nat) (hr : HostRead)
  /-- KEY_IMPORT_X9143 (R90): Unwraps an X9.143 key block into a new key. -/
  | keyImportX9143 (cid : Nat) (hr : HostRead)
  /-- KEY_IMPORT_38F (R90): Unwraps an SP 800-38F wrapping into a new key. -/
  | keyImport38f (cid : Nat) (hr : HostRead)
  /-- KEY_EXPORT (R90): Wraps a key under a KEK and writes it out. -/
  | keyExport (cid : Nat) (hr : HostRead)
  /-- KEY_DELETE (R94): Zeroises a key and frees its index. -/
  | keyDelete (cid : Nat) (hr : HostRead)
  /-- KEY_INFO (R89): Writes a key's record from the directory. -/
  | keyInfo (cid : Nat) (hr : HostRead)
  /-- KEY_RESTRICT (R91): Narrows a key's attributes or changes its pinned flag. -/
  | keyRestrict (cid : Nat) (hr : HostRead)
  /-- KEY_PERSIST (R93): Creates a persistent copy of a key under a new handle. -/
  | keyPersist (cid : Nat) (hr : HostRead)
  /-- KEY_QUOTA_SET (R94): Sets a function's directory and persistent-slot quotas. -/
  | keyQuotaSet (cid : Nat) (hr : HostRead)
  /-- KEY_FETCH (R86): An engine presents a handle over its private wire, and the key store checks it and sends the key bits. -/
  | keyFetch (req : KeyReq)
  /-- SPILL_RECORD_WRITE (R95): The vault engine writes a buffered spill record to P63 and frees the buffer entry. -/
  | spillRecordWrite
  /-- KEY_REFILL (R96): A spill block's vault read completes, and the key is checked and unwrapped into ward slots or declared lost. -/
  | keyRefill (entry : Nat) (answer : SpillRead)
  /-- PERSISTENT_KEY_LOAD (R93): A persistent key's record read completes and the key is loaded into ward slots or declared lost. -/
  | persistentKeyLoad (entry : Nat) (readable : Bool)
  /-- SPILL_WAIT_TIMEOUT (R95): A command waiting 100 ms for P63 to become live completes with ST_RETRY. -/
  | spillWaitTimeout (cid : Nat)
  /-- PIN_XLATE (R110): Re-enciphers a PIN block under another key and format. -/
  | pinXlate (cid : Nat) (hr : HostRead)
  /-- PIN_COMPARE (R110): Compares the PINs of two enciphered blocks. -/
  | pinCompare (cid : Nat) (hr : HostRead)
  /-- PIN_DERIVE (R110): Derives a PIN from a PAN and writes it as an enciphered block. -/
  | pinDerive (cid : Nat) (hr : HostRead)
  /-- PIN_CHECK (R110): Compares a block's PIN with the PIN derived from its PAN. -/
  | pinCheck (cid : Nat) (hr : HostRead)
  /-- DUKPT_PIN_XLATE (R117): Translates a PIN block enciphered under a DUKPT working key. -/
  | dukptPinXlate (cid : Nat) (hr : HostRead)
  /-- DUKPT_MAC_GEN (R122): Generates a MAC under a DUKPT working key. -/
  | dukptMacGen (cid : Nat) (hr : HostRead)
  /-- DUKPT_MAC_VER (R122): Verifies a MAC under a DUKPT working key. -/
  | dukptMacVer (cid : Nat) (hr : HostRead)
  /-- MAC_GEN (R122): Generates a MAC under a ward-slot key. -/
  | macGen (cid : Nat) (hr : HostRead)
  /-- MAC_VER (R122): Verifies a MAC under a ward-slot key. -/
  | macVer (cid : Nat) (hr : HostRead)
  /-- EMV_AC_VERIFY (R123): Verifies an ARQC and optionally generates the ARPC. -/
  | emvAcVerify (cid : Nat) (hr : HostRead)
  /-- KEYBLOCK_XLATE (R124): Re-wraps an X9.143 key block under another protection key. -/
  | keyblockXlate (cid : Nat) (hr : HostRead)
  /-- KEY_CHECK (R125): Computes a key check value. -/
  | keyCheck (cid : Nat) (hr : HostRead)
  /-- BOLT_STEP_END (R102): A bolt sequencer step ends, and the sequencer installs a pending policy and runs the next step of the highest-priority context. -/
  | boltStepEnd (r : Region)
  /-- BOLT_QUEUE_PROMOTE (R103): A bolt command waiting 100 µs without starting moves to the next higher queue. -/
  | boltQueuePromote (cid : Nat)
  /-- XLATE_POLICY_WRITE (R114): Replaces the format-translation policy table. -/
  | xlatePolicyWrite (cid : Nat) (hr : HostRead)
  /-- DK_FLUSH (R119): A write of 1 to BOLT_CTRL.dk_flush zeroises the pipeline's DUKPT cache at the next step boundary. -/
  | dkFlush (acc : Access) (r : Region)
  /-- ENGINE_LEN_SET (R138): Commits a new slot length for a barrel role. -/
  | engineLenSet (cid : Nat) (hr : HostRead)
  /-- ROLE_LEN_APPLY (R138): Once the role's engine is idle with no workspace, the new length takes effect and EV_4136 is logged. -/
  | roleLenApply (role : Role)
  /-- PKC_RUN (R150): Runs a direct barrel job. -/
  | pkcRun (cid : Nat) (hr : HostRead)
  /-- PKC_CANCEL (R157): Cancels a PKC job of the same session. -/
  | pkcCancel (cid : Nat) (hr : HostRead)
  /-- PKC_CATALOG (R145): Writes the microcode catalogue. -/
  | pkcCatalog (cid : Nat) (hr : HostRead)
  /-- PKC_WS_OPEN (R154): Opens the session's workspace on an engine. -/
  | pkcWsOpen (cid : Nat) (hr : HostRead)
  /-- PKC_WS_LOAD (R155): Writes an item into the workspace. -/
  | pkcWsLoad (cid : Nat) (hr : HostRead)
  /-- PKC_WS_RUN (R155): Runs a program over workspace items. -/
  | pkcWsRun (cid : Nat) (hr : HostRead)
  /-- PKC_WS_READ (R155): Reads a non-secret workspace item. -/
  | pkcWsRead (cid : Nat) (hr : HostRead)
  /-- PKC_WS_RELEASE (R155): Zeroes workspace slots. -/
  | pkcWsRelease (cid : Nat) (hr : HostRead)
  /-- PKC_WS_TO_KEY (R155): Makes a key from a secret workspace item. -/
  | pkcWsToKey (cid : Nat) (hr : HostRead)
  /-- PKC_WS_CLOSE (R155): Zeroes and closes the workspace. -/
  | pkcWsClose (cid : Nat) (hr : HostRead)
  /-- BARREL_RUN_END (R151): A barrel engine ends a run, writes or discards its results and takes the next eligible job. -/
  | barrelRunEnd (e : Engine) (how : RunEnd)
  /-- BARREL_JOB_PROMOTE (R151): A barrel job that has waited 10 ms moves up one level. -/
  | barrelJobPromote (cid : Nat)
  /-- LONG_POOL_SET (R152): Enables or disables the long-job pool. -/
  | longPoolSet (cid : Nat) (hr : HostRead)
  /-- ENGINE_ABORT (R163): A write of 1 to BRL_CTRL.abort aborts the engine. -/
  | engineAbort (acc : Access) (e : Engine)
  /-- ENGINE_ABORT_DONE (R163): An abort finishes zeroing and redrawing the guards, and the engine is ready or restarts. -/
  | engineAbortDone (e : Engine)
  /-- SPARE_ROLE_TAKE (R165): A spare passes its self-test and takes the removed engine's role, and EV_7120 is logged. -/
  | spareRoleTake (spare : Engine) (role : Role) (pass : Bool)
  /-- HANDOVER_MOVE (R166): After O's current run ends, the workspaces move to the spare and O becomes a spare. -/
  | handoverMove (role : Role)
  /-- BARREL_KAT_DUE (R167): An engine's 24 h known-answer test falls due. -/
  | barrelKatDue (e : Engine)
  /-- KAT_HANDOVER_TIMEOUT (R167): 60 s pass with no idle moment, and a spare takes the role by handover. -/
  | katHandoverTimeout (e : Engine)
  /-- UCODE_INSTALL (R168): Accepts a signed microcode image and starts the roll. -/
  | ucodeInstall (cid : Nat) (hr : HostRead)
  /-- UCODE_ROLL_STEP (R169): The next engine of the roll is updated, and at the end the selector is rewritten or the roll is reversed. -/
  | ucodeRollStep (katPass : Bool)
  /-- DIG_HASH (R188): Hashes a message to a buffer or into a new key. -/
  | digHash (cid : Nat) (hr : HostRead)
  /-- DIG_MAC_GEN (R188): Computes an HMAC or KMAC value. -/
  | digMacGen (cid : Nat) (hr : HostRead)
  /-- DIG_MAC_VER (R188): Verifies an HMAC or KMAC value. -/
  | digMacVer (cid : Nat) (hr : HostRead)
  /-- DIG_KDF (R191): Derives a new key by the SP 800-108 KDF. -/
  | digKdf (cid : Nat) (hr : HostRead)
  /-- DIGEST_STEP_END (R181): A digest lane step ends and the lane runs the next step of the highest-priority context. -/
  | digestStepEnd (r : Region) (lane : Lane)
  /-- DIGEST_QUEUE_PROMOTE (R181): A digest command waiting 100 µs moves to the next higher queue. -/
  | digestQueuePromote (cid : Nat)
  /-- NOISE_WINDOW_COMPLETE (R202): A source completes a 1,024-bit window, which is released or, on a health-test failure, discarded with isolation. -/
  | noiseWindowComplete (src : Source) (window : List Byte)
  /-- SOURCE_RETEST (R203): 1 s after an isolation, the source starts its start-up test. -/
  | sourceRetest (src : Source)
  /-- SOURCE_STARTUP_TEST_END (R202): A source's start-up test ends, and the source is readmitted or isolated again. -/
  | sourceStartupTestEnd (src : Source) (samples : List Byte)
  /-- CONDITIONER_BLOCK (R204): A conditioned block is produced and goes to a waiting DRBG request or to the reservoir. -/
  | conditionerBlock
  /-- DRBG_SEED_PERIOD_END (R206): The reseed interval expires and the DRBG must reseed, or refuses generates if there is no supply. -/
  | drbgSeedPeriodEnd (r : Region)
  /-- DRBG_GENERATE (R209): A DRBG serves one generate request of at most 512 B in precedence order. -/
  | drbgGenerate (r : Region)
  /-- RANDOM_QUEUE_REFILL (R210): The DRBG refills the random queue with a 512 B generate. -/
  | randomQueueRefill (r : Region)
  /-- RANDOM_READ_TIMEOUT (R210): A software read finds the queue empty for 2 µs and completes with ST_RETRY. -/
  | randomReadTimeout (cid : Nat)
  /-- RANDOM (R212): Returns random bytes from the queue or with prediction resistance. -/
  | random (cid : Nat) (hr : HostRead)
  /-- ENT_INJECT (R213): Runs NK5-compatible pattern injection through the health tests and the conditioner. -/
  | entInject (cid : Nat) (hr : HostRead)
  /-- ENT_KAT (R214): Runs the conditioner and DRBG known-answer tests. -/
  | entKat (cid : Nat) (hr : HostRead)
  /-- ENTROPY_KAT_DUE (R214): The 24 h known-answer tests of the conditioner and the DRBGs fall due. -/
  | entropyKatDue
  /-- ENT_KAT_RUN (R221): A write of 1 to ENT_CTRL.kat_run runs the conditioner test. -/
  | entKatRun (acc : Access)
  /-- RNG_KAT_RUN (R223): A write of 1 to RNG_CTRL.kat_run runs the DRBG test. -/
  | rngKatRun (acc : Access) (r : Region)
  /-- KAT_END (R215): A shadow known-answer test ends, and a failure stops the region's random functions or the seed supply. -/
  | katEnd (target : KatTarget) (stage : Nat)
  /-- VAULT_READ (R245): Reads and verifies one vault block. -/
  | vaultRead (cid : Nat) (hr : HostRead)
  /-- VAULT_WRITE (R246): Encrypts and writes one vault block under a new counter. -/
  | vaultWrite (cid : Nat) (hr : HostRead)
  /-- VAULT_HOOK (R240): Registers a hook for vault engine requests. -/
  | vaultHook (cid : Nat) (hr : HostRead)
  /-- VAULT_SUPPLY (R243): Answers a vault request, and the engine verifies the payload and resumes the waiting work. -/
  | vaultSupply (cid : Nat) (hr : HostRead)
  /-- EPOCH_COMMIT (R250): Requests an epoch commit and completes when it ends. -/
  | epochCommit (cid : Nat) (hr : HostRead)
  /-- PART_CREATE (R227): Creates a vault partition and its key. -/
  | partCreate (cid : Nat) (hr : HostRead)
  /-- PART_DESTROY (R227): Destroys a partition and its key. -/
  | partDestroy (cid : Nat) (hr : HostRead)
  /-- VAULT_REQUEST_POST (R240): The vault engine completes a registered hook with a pending request. -/
  | vaultRequestPost
  /-- VAULT_REQUEST_TIMEOUT (R244): A request unanswered for 1 s times out, and its waiters complete with ST_RETRY. -/
  | vaultRequestTimeout (reqId : Nat)
  /-- ATTACH_REPOST (R244): 1 s after a timed-out ATTACH, the request is posted again. -/
  | attachRepost (reqId : Nat)
  /-- HOOK_STARVED (R244): A request has no hook for 100 ms, and EV_3304 is logged. -/
  | hookStarved (fn : Fn)
  /-- FORCED_WRITE_BACK (R237): Dirty unpinned lines exceed half the area and are written back until the count falls. -/
  | forcedWriteBack
  /-- EPOCH_COMMIT_START (R249): A pending commit starts after 250 ms, writes back dirty nodes and posts COMMIT requests. -/
  | epochCommitStart
  /-- COMMIT_WAIT_TIMEOUT (R249): 5 s after step 4, outstanding COMMITs are withdrawn and the commit finishes with the answers received. -/
  | commitWaitTimeout
  /-- EPOCH_CMD_COMMIT (R264): A write of 1 to VLT_EPOCH_CMD.commit requests a commit. -/
  | epochCmdCommit (acc : Access)
  /-- UNDEFINED_OPCODE (R272): An undefined opcode or out-of-range immediate raises trap cause 1. -/
  | undefinedOpcode (c : CoreId) (opcode : Byte) (imm : BitVec 24)
  /-- NOP (R273): Does nothing. -/
  | nop (c : CoreId) (imm : BitVec 8)
  /-- DROP (R273): Drops the top cell. -/
  | drop (c : CoreId) (imm : BitVec 8)
  /-- DUP (R273): Duplicates the top cell. -/
  | dup (c : CoreId) (imm : BitVec 8)
  /-- SWAP (R273): Swaps the top two cells. -/
  | swap (c : CoreId) (imm : BitVec 8)
  /-- OVER (R273): Copies the second cell to the top. -/
  | over (c : CoreId) (imm : BitVec 8)
  /-- ROT (R273): Rotates the third cell to the top. -/
  | rot (c : CoreId) (imm : BitVec 8)
  /-- NIP (R273): Drops the second cell. -/
  | nip (c : CoreId) (imm : BitVec 8)
  /-- TUCK (R273): Copies the top cell beneath the second. -/
  | tuck (c : CoreId) (imm : BitVec 8)
  /-- PICK (R273): Copies entry imm8 to the top. -/
  | pick (c : CoreId) (imm : BitVec 8)
  /-- DEPTH (R273): Pushes the data stack depth. -/
  | depth (c : CoreId) (imm : BitVec 8)
  /-- TWO_DROP (R273): Drops a double cell. -/
  | twoDrop (c : CoreId) (imm : BitVec 8)
  /-- TWO_DUP (R273): Duplicates a double cell. -/
  | twoDup (c : CoreId) (imm : BitVec 8)
  /-- TWO_SWAP (R273): Swaps two double cells. -/
  | twoSwap (c : CoreId) (imm : BitVec 8)
  /-- TWO_OVER (R273): Copies the second double cell to the top. -/
  | twoOver (c : CoreId) (imm : BitVec 8)
  /-- TO_R (R273): Moves a cell to the return stack. -/
  | toR (c : CoreId) (imm : BitVec 8)
  /-- R_FROM (R273): Moves a cell from the return stack. -/
  | rFrom (c : CoreId) (imm : BitVec 8)
  /-- R_FETCH (R273): Copies the top of the return stack. -/
  | rFetch (c : CoreId) (imm : BitVec 8)
  /-- TWO_TO_R (R273): Moves a double cell to the return stack. -/
  | twoToR (c : CoreId) (imm : BitVec 8)
  /-- TWO_R_FROM (R273): Moves a double cell from the return stack. -/
  | twoRFrom (c : CoreId) (imm : BitVec 8)
  /-- RDROP (R273): Drops the top of the return stack. -/
  | rdrop (c : CoreId) (imm : BitVec 8)
  /-- ADD (R274): Adds two cells. -/
  | add (c : CoreId) (imm : BitVec 8)
  /-- SUB (R274): Subtracts two cells. -/
  | sub (c : CoreId) (imm : BitVec 8)
  /-- MUL (R274): Low 32 bits of the product. -/
  | mul (c : CoreId) (imm : BitVec 8)
  /-- MULHU (R274): High 32 bits of the unsigned product. -/
  | mulhu (c : CoreId) (imm : BitVec 8)
  /-- MULHS (R274): High 32 bits of the signed product. -/
  | mulhs (c : CoreId) (imm : BitVec 8)
  /-- DIVU (R274): Unsigned division, trapping on zero. -/
  | divu (c : CoreId) (imm : BitVec 8)
  /-- DIVS (R274): Signed division, trapping on zero. -/
  | divs (c : CoreId) (imm : BitVec 8)
  /-- MODU (R274): Unsigned remainder, trapping on zero. -/
  | modu (c : CoreId) (imm : BitVec 8)
  /-- MODS (R274): Signed remainder, trapping on zero. -/
  | mods (c : CoreId) (imm : BitVec 8)
  /-- AND (R274): Bitwise AND. -/
  | and (c : CoreId) (imm : BitVec 8)
  /-- OR (R274): Bitwise OR. -/
  | or (c : CoreId) (imm : BitVec 8)
  /-- XOR (R274): Bitwise XOR. -/
  | xor (c : CoreId) (imm : BitVec 8)
  /-- NOT (R274): Bitwise complement. -/
  | not (c : CoreId) (imm : BitVec 8)
  /-- NEG (R274): Negation. -/
  | neg (c : CoreId) (imm : BitVec 8)
  /-- SHL (R274): Left shift. -/
  | shl (c : CoreId) (imm : BitVec 8)
  /-- SHRU (R274): Logical right shift. -/
  | shru (c : CoreId) (imm : BitVec 8)
  /-- SHRS (R274): Arithmetic right shift. -/
  | shrs (c : CoreId) (imm : BitVec 8)
  /-- ROTL (R274): Rotate left. -/
  | rotl (c : CoreId) (imm : BitVec 8)
  /-- EQ (R274): Equality flag. -/
  | eq (c : CoreId) (imm : BitVec 8)
  /-- NE (R274): Inequality flag. -/
  | ne (c : CoreId) (imm : BitVec 8)
  /-- LTU (R274): Unsigned less-than flag. -/
  | ltu (c : CoreId) (imm : BitVec 8)
  /-- LTS (R274): Signed less-than flag. -/
  | lts (c : CoreId) (imm : BitVec 8)
  /-- GTU (R274): Unsigned greater-than flag. -/
  | gtu (c : CoreId) (imm : BitVec 8)
  /-- GTS (R274): Signed greater-than flag. -/
  | gts (c : CoreId) (imm : BitVec 8)
  /-- EQZ (R274): Zero test. -/
  | eqz (c : CoreId) (imm : BitVec 8)
  /-- CLZ (R274): Counts leading zeros. -/
  | clz (c : CoreId) (imm : BitVec 8)
  /-- POPC (R274): Counts bits set. -/
  | popc (c : CoreId) (imm : BitVec 8)
  /-- BSWAP (R274): Reverses byte order. -/
  | bswap (c : CoreId) (imm : BitVec 8)
  /-- SEL (R274): Selects by flag. -/
  | sel (c : CoreId) (imm : BitVec 8)
  /-- ADDC (R274): Adds with carry out. -/
  | addc (c : CoreId) (imm : BitVec 8)
  /-- SUBB (R274): Subtracts with borrow out. -/
  | subb (c : CoreId) (imm : BitVec 8)
  /-- DADD (R275): Double-cell add. -/
  | dadd (c : CoreId) (imm : BitVec 8)
  /-- DSUB (R275): Double-cell subtract. -/
  | dsub (c : CoreId) (imm : BitVec 8)
  /-- DMUL (R275): Double-cell multiply. -/
  | dmul (c : CoreId) (imm : BitVec 8)
  /-- UMUL (R275): Unsigned 32 × 32 to 64 multiply. -/
  | umul (c : CoreId) (imm : BitVec 8)
  /-- DNEG (R275): Double-cell negate. -/
  | dneg (c : CoreId) (imm : BitVec 8)
  /-- DAND (R275): Double-cell AND. -/
  | dand (c : CoreId) (imm : BitVec 8)
  /-- DOR (R275): Double-cell OR. -/
  | dor (c : CoreId) (imm : BitVec 8)
  /-- DXOR (R275): Double-cell XOR. -/
  | dxor (c : CoreId) (imm : BitVec 8)
  /-- DSHL (R275): Double-cell left shift. -/
  | dshl (c : CoreId) (imm : BitVec 8)
  /-- DSHRU (R275): Double-cell logical right shift. -/
  | dshru (c : CoreId) (imm : BitVec 8)
  /-- DSHRS (R275): Double-cell arithmetic right shift. -/
  | dshrs (c : CoreId) (imm : BitVec 8)
  /-- DEQ (R275): Double-cell equality. -/
  | deq (c : CoreId) (imm : BitVec 8)
  /-- DLTU (R275): Double-cell unsigned less-than. -/
  | dltu (c : CoreId) (imm : BitVec 8)
  /-- DLTS (R275): Double-cell signed less-than. -/
  | dlts (c : CoreId) (imm : BitVec 8)
  /-- DEQZ (R275): Double-cell zero test. -/
  | deqz (c : CoreId) (imm : BitVec 8)
  /-- UEXT (R275): Zero-extends to a double cell. -/
  | uext (c : CoreId) (imm : BitVec 8)
  /-- SEXT (R275): Sign-extends to a double cell. -/
  | sext (c : CoreId) (imm : BitVec 8)
  /-- DLOW (R275): Keeps the low cell. -/
  | dlow (c : CoreId) (imm : BitVec 8)
  /-- DSEL (R275): Selects a double cell by flag. -/
  | dsel (c : CoreId) (imm : BitVec 8)
  /-- LIT (R276): Pushes a sign-extended imm8. -/
  | lit (c : CoreId) (imm : BitVec 8)
  /-- LITU (R276): Pushes a zero-extended imm8. -/
  | litu (c : CoreId) (imm : BitVec 8)
  /-- ADDI (R276): Adds imm8. -/
  | addi (c : CoreId) (imm : BitVec 8)
  /-- ANDI (R276): ANDs imm8. -/
  | andi (c : CoreId) (imm : BitVec 8)
  /-- SHLI (R276): Shifts left by imm8. -/
  | shli (c : CoreId) (imm : BitVec 8)
  /-- SHRUI (R276): Shifts logically right by imm8. -/
  | shrui (c : CoreId) (imm : BitVec 8)
  /-- SHRSI (R276): Shifts arithmetically right by imm8. -/
  | shrsi (c : CoreId) (imm : BitVec 8)
  /-- EQI (R276): Compares with imm8. -/
  | eqi (c : CoreId) (imm : BitVec 8)
  /-- LDB (R277): Loads a byte, zero-extended. -/
  | ldb (c : CoreId) (imm : BitVec 8) (host : List Byte)
  /-- LDBS (R277): Loads a byte, sign-extended. -/
  | ldbs (c : CoreId) (imm : BitVec 8) (host : List Byte)
  /-- LDH (R277): Loads a half, zero-extended. -/
  | ldh (c : CoreId) (imm : BitVec 8) (host : List Byte)
  /-- LDHS (R277): Loads a half, sign-extended. -/
  | ldhs (c : CoreId) (imm : BitVec 8) (host : List Byte)
  /-- LDW (R277): Loads a word. -/
  | ldw (c : CoreId) (imm : BitVec 8) (host : List Byte)
  /-- LDD (R277): Loads a double cell. -/
  | ldd (c : CoreId) (imm : BitVec 8) (host : List Byte)
  /-- STB (R277): Stores a byte. -/
  | stb (c : CoreId) (imm : BitVec 8)
  /-- STH (R277): Stores a half. -/
  | sth (c : CoreId) (imm : BitVec 8)
  /-- STW (R277): Stores a word. -/
  | stw (c : CoreId) (imm : BitVec 8)
  /-- STD (R277): Stores a double cell. -/
  | std (c : CoreId) (imm : BitVec 8)
  /-- BR (R278): Branches. -/
  | br (c : CoreId) (imm : BitVec 8)
  /-- BZ (R278): Branches if the flag is zero. -/
  | bz (c : CoreId) (imm : BitVec 8)
  /-- BNZ (R278): Branches if the flag is non-zero. -/
  | bnz (c : CoreId) (imm : BitVec 8)
  /-- CALLS (R278): Short call. -/
  | calls (c : CoreId) (imm : BitVec 8)
  /-- RET (R278): Returns from the return stack. -/
  | ret (c : CoreId) (imm : BitVec 8)
  /-- CALLX (R278): Calls an offset taken from the stack. -/
  | callx (c : CoreId) (imm : BitVec 8)
  /-- JMPX (R278): Jumps to an offset taken from the stack. -/
  | jmpx (c : CoreId) (imm : BitVec 8)
  /-- TRAP (R278): Raises a software trap, cause 7. -/
  | trap (c : CoreId) (imm : BitVec 8)
  /-- WFE (R290): Consumes a pending event or waits for one. -/
  | wfe (c : CoreId) (imm : BitVec 8)
  /-- SEV (R289): Raises the event counts of the named slots. -/
  | sev (c : CoreId) (imm : BitVec 8)
  /-- WUNTIL (R291): Waits until the timebase reaches d. -/
  | wuntil (c : CoreId) (imm : BitVec 8)
  /-- WFEU (R291): Waits for an event or a deadline. -/
  | wfeu (c : CoreId) (imm : BitVec 8)
  /-- TIME (R291): Pushes the timebase. -/
  | time (c : CoreId) (imm : BitVec 8)
  /-- YIELD (R278): Gives up the core and stays READY. -/
  | yield (c : CoreId) (imm : BitVec 8)
  /-- EXIT (R296): Ends the task once its outstanding commands complete. -/
  | exit (c : CoreId) (imm : BitVec 8)
  /-- FENCE (R283): Waits until every earlier store is visible. -/
  | fence (c : CoreId) (imm : BitVec 8)
  /-- LIT24 (R279): Pushes a sign-extended imm24. -/
  | lit24 (c : CoreId) (imm : BitVec 24)
  /-- LIT24U (R279): Pushes a zero-extended imm24. -/
  | lit24u (c : CoreId) (imm : BitVec 24)
  /-- HI8 (R279): Replaces the top byte. -/
  | hi8 (c : CoreId) (imm : BitVec 24)
  /-- ADDI24 (R279): Adds imm24. -/
  | addi24 (c : CoreId) (imm : BitVec 24)
  /-- BRL (R279): Long branch. -/
  | brl (c : CoreId) (imm : BitVec 24)
  /-- BZL (R279): Long branch if the flag is zero. -/
  | bzl (c : CoreId) (imm : BitVec 24)
  /-- BNZL (R279): Long branch if the flag is non-zero. -/
  | bnzl (c : CoreId) (imm : BitVec 24)
  /-- CALL (R279): Long call. -/
  | call (c : CoreId) (imm : BitVec 24)
  /-- LDA (R279): Absolute segment load. -/
  | lda (c : CoreId) (imm : BitVec 24) (host : List Byte)
  /-- STA (R279): Absolute segment store. -/
  | sta (c : CoreId) (imm : BitVec 24)
  /-- SEGINFO (R279): Pushes a segment's limit and rights. -/
  | seginfo (c : CoreId) (imm : BitVec 24)
  /-- GETC (R279): Pushes a task constant. -/
  | getc (c : CoreId) (imm : BitVec 24)
  /-- UNDEF_CP (R284): A coprocessor 8 to 15 instruction on a part without the mask option raises trap cause 2. -/
  | undefCp (c : CoreId) (cp : BitVec 4) (imm : BitVec 24)
  /-- KS_CMD (R285): Issues a KEY command from a task. -/
  | ksCmd (c : CoreId) (imm16 : BitVec 16) (host : List Byte)
  /-- KS_HCOPY (R286): Copies an HS slot. -/
  | ksHcopy (c : CoreId) (imm16 : BitVec 16)
  /-- KS_HCLR (R286): Zeroes an HS slot. -/
  | ksHclr (c : CoreId) (imm16 : BitVec 16)
  /-- KS_HEQ (R286): Compares two HS slots. -/
  | ksHeq (c : CoreId) (imm16 : BitVec 16)
  /-- KS_HIN (R286): Copies a handle from MS into HS. -/
  | ksHin (c : CoreId) (imm16 : BitVec 16) (host : List Byte)
  /-- KS_HOUT (R286): Copies a handle from HS to MS. -/
  | ksHout (c : CoreId) (imm16 : BitVec 16)
  /-- DG_CMD (R193): Issues a DIG command from a task. -/
  | dgCmd (c : CoreId) (imm16 : BitVec 16) (host : List Byte)
  /-- BL_CMD (R126): Issues a TXN command from a task. -/
  | blCmd (c : CoreId) (imm16 : BitVec 16) (host : List Byte)
  /-- BR_CMD (R156): Issues a PKC command from a task. -/
  | brCmd (c : CoreId) (imm16 : BitVec 16) (host : List Byte)
  /-- VL_CMD (R286): Issues a vault command from a task. -/
  | vlCmd (c : CoreId) (imm16 : BitVec 16) (host : List Byte)
  /-- RN_READ (R286): Reads random bytes into a segment. -/
  | rnRead (c : CoreId) (imm16 : BitVec 16)
  /-- RN_WORD (R286): Reads one random cell. -/
  | rnWord (c : CoreId) (imm16 : BitVec 16)
  /-- DM_START (R373): Starts a granted region hinge DMA channel on a list. -/
  | dmStart (c : CoreId) (imm16 : BitVec 16)
  /-- DM_STATUS (R286): Returns a DMA channel's status word. -/
  | dmStatus (c : CoreId) (imm16 : BitVec 16)
  /-- EV_WRITE (R286): Logs an applet event. -/
  | evWrite (c : CoreId) (imm16 : BitVec 16)
  /-- EV_SEQ (R286): Pushes the next event sequence number. -/
  | evSeq (c : CoreId) (imm16 : BitVec 16)
  /-- CP_COMMAND_COMPLETE (R285): A core-issued command completes, and its result and any new handle are written before the event latch is set. -/
  | cpCommandComplete (cid : Nat)
  /-- WAIT_DEADLINE (R291): The timebase reaches a WUNTIL or WFEU deadline and the task becomes READY. -/
  | waitDeadline (r : Region) (task : Nat)
  /-- OCD_HALT (R299): A write of 1 to OCD_CTRL.halt halts the core at the next boundary. -/
  | ocdHalt (acc : Access) (c : CoreId)
  /-- OCD_RESUME (R299): A write of 0 to OCD_CTRL.halt resumes the core. -/
  | ocdResume (acc : Access) (c : CoreId)
  /-- OCD_STEP (R299): A write of 1 to OCD_CTRL.step runs one instruction of a halted core. -/
  | ocdStep (acc : Access) (c : CoreId)
  /-- APL_LOAD (R315): Loads an applet image and places it in every region. -/
  | aplLoad (cid : Nat) (hr : HostRead)
  /-- APL_UNLOAD (R315): Unloads an applet from every region. -/
  | aplUnload (cid : Nat) (hr : HostRead)
  /-- APL_UPDATE (R316): Places a new applet instance beside the old one. -/
  | aplUpdate (cid : Nat) (hr : HostRead)
  /-- APL_BIND (R313): Binds a session to an applet. -/
  | aplBind (cid : Nat) (hr : HostRead)
  /-- APL_UNBIND (R313): Unbinds a session from its applet. -/
  | aplUnbind (cid : Nat) (hr : HostRead)
  /-- APL_CALL (R313): Creates a task that calls an applet entry. -/
  | aplCall (cid : Nat) (hr : HostRead)
  /-- APL_CANCEL (R304): Cancels the task of an APL_CALL. -/
  | aplCancel (cid : Nat) (hr : HostRead)
  /-- MAKER_CHAIN_SET (R312): Registers the appliance maker's signing chain. -/
  | makerChainSet (cid : Nat) (hr : HostRead)
  /-- TASK_DISPATCH (R307): A slot dispatches its highest-priority READY task, preempting and restoring contexts. -/
  | taskDispatch (c : CoreId)
  /-- TIME_SLICE_EXPIRE (R307): A task has run 1 ms while an equal-priority task is READY, and it moves behind that task. -/
  | timeSliceExpire (c : CoreId)
  /-- TASK_AGE_PROMOTE (R306): A READY task not dispatched for 10 ms rises one level. -/
  | taskAgePromote (r : Region) (task : Nat)
  /-- TASK_TIME_LIMIT (R304): A task's time limit expires and the task is cancelled. -/
  | taskTimeLimit (r : Region) (task : Nat)
  /-- TASK_END (R305): A task reaches DONE or CANCELLED after its outstanding commands, its APL_CALL completes and the task returns to FREE. -/
  | taskEnd (r : Region) (task : Nat)
  /-- CARD_DETECT (R325): card_det_n falls and debouncing starts. -/
  | cardDetect (sl : Slot)
  /-- CARD_DEBOUNCE_END (R325): card_det_n has been low for 50 ms and a cold activation begins. -/
  | cardDebounceEnd (sl : Slot)
  /-- CARD_ATR_TIMEOUT (R325): No ATR arrives in time, and the card is deactivated and the next class is tried. -/
  | cardAtrTimeout (sl : Slot)
  /-- ATR_RECEIVED (R326): An ATR is parsed and the speed path of R327 is chosen, or the card is refused. -/
  | atrReceived (sl : Slot) (bytes : List Byte) (charOk : Bool)
  /-- SWITCH_REPLY (R328): The Mboelle SWITCH reply arrives and the new divisor is set. -/
  | switchReply (sl : Slot) (bytes : List Byte) (charOk : Bool)
  /-- CHECK_ECHO (R328): The check echo arrives and T=1 starts at the new rate, or the switch fails. -/
  | checkEcho (sl : Slot) (bytes : List Byte) (charOk : Bool)
  /-- SWITCH_TIMEOUT (R328): A SWITCH reply or echo does not start in time, and the switch fails. -/
  | switchTimeout (sl : Slot)
  /-- CARD_REACTIVATE (R328): 10 ms after a failed switch, the card is activated again at the same class. -/
  | cardReactivate (sl : Slot)
  /-- PPS_RESPONSE (R329): A PPS response arrives and the rate is chosen. -/
  | ppsResponse (sl : Slot) (bytes : List Byte)
  /-- PPS_TIMEOUT (R329): No PPS response arrives within 9,600 ETU. -/
  | ppsTimeout (sl : Slot)
  /-- T1_BLOCK_RECEIVED (R331): A T=1 block arrives and is judged, with S-blocks, R-blocks and chaining handled. -/
  | t1BlockReceived (sl : Slot) (bytes : List Byte) (charOk : Bool)
  /-- T1_WAIT_EXPIRE (R332): CWT or BWT expires, counting as a failed attempt with retransmission or RESYNCH. -/
  | t1WaitExpire (sl : Slot)
  /-- CARD_BUSY_LIMIT (R333): The busy limit or WTX total is exceeded, or the line stays low, and the card is deactivated. -/
  | cardBusyLimit (sl : Slot) (cause : BusyCause)
  /-- CARD_CLOCK_STOP (R334): CRD_CLK_TAIL clocks after a card block, the card clock stops at the XI level. -/
  | cardClockStop (sl : Slot)
  /-- CARD_REMOVAL (R335): card_det_n rises for 5 µs and the card is deactivated. -/
  | cardRemoval (sl : Slot)
  /-- CARD_DEACTIVATION_DONE (R335): Deactivation reaches step 6 and a held enable or insertion proceeds. -/
  | cardDeactivationDone (sl : Slot)
  /-- SELECT (R337): The response to SELECT arrives and authentication proceeds. -/
  | select (sl : Slot) (data : List Byte) (sw : BitVec 16)
  /-- BIND (R338): The response to BIND gives the card key to be registered. -/
  | bind (sl : Slot) (data : List Byte) (sw : BitVec 16)
  /-- AUTH_INIT (R339): The response to AUTH_INIT is verified against the registrations. -/
  | authInit (sl : Slot) (data : List Byte) (sw : BitVec 16)
  /-- AUTH_FINISH (R338): The response to AUTH_FINISH confirms the session key, and the card counts as authenticated. -/
  | authFinish (sl : Slot) (data : List Byte) (sw : BitVec 16)
  /-- GET_COMPONENT (R341): The response to GET_COMPONENT gives a component, which is checked and XORed into the accumulator. -/
  | getComponent (sl : Slot) (data : List Byte) (sw : BitVec 16)
  /-- PUT_COMPONENT (R341): The response to PUT_COMPONENT confirms delivery of a split component. -/
  | putComponent (sl : Slot) (data : List Byte) (sw : BitVec 16)
  /-- CARD_DONE (R341): The response to CARD_DONE ends the card's turn. -/
  | cardDone (sl : Slot) (data : List Byte) (sw : BitVec 16)
  /-- CER_COMBINE (R342): Opens a ceremony that combines k components into a key. -/
  | cerCombine (cid : Nat) (hr : HostRead)
  /-- CER_SPLIT (R341): Opens a ceremony that splits a key into k components. -/
  | cerSplit (cid : Nat) (hr : HostRead)
  /-- CER_ABANDON (R344): Abandons the open ceremony. -/
  | cerAbandon (cid : Nat) (hr : HostRead)
  /-- CEREMONY_WINDOW_EXPIRE (R344): window_s elapses and the ceremony ends with ST_ABORTED. -/
  | ceremonyWindowExpire
  /-- CARD_DEACTIVATE (R351): A write of 1 to CRD_CTRL.deactivate deactivates the card. -/
  | cardDeactivate (acc : Access) (sl : Slot)
  /-- CARD_ENABLE (R351): A write of 1 to CRD_CTRL.enable serves the slot. -/
  | cardEnable (acc : Access) (sl : Slot)
  /-- CARD_DISABLE (R351): A write of 0 to CRD_CTRL.enable deactivates the card and ignores insertions. -/
  | cardDisable (acc : Access) (sl : Slot)
  /-- SPINE_BEAT_ERROR (R357): An uncorrectable link beat is resent, or the transfer fails, possibly into die safe state. -/
  | spineBeatError (st : Station) (tr : Traffic) (master : Byte) (resend : Nat)
  /-- SPINE_BULK_BURST (R356): Q-BULK or Q-BG transfers have waited 512 cycles and are granted a burst. -/
  | spineBulkBurst (st : Station)
  /-- XREGION_RETRY (R361): A refused cross-region request is retried after 64 spine cycles. -/
  | xregionRetry (fromR : Region) (toR : Region)
  /-- XBAR_AGE_PROMOTE (R360): A region crossbar request that has waited 128 cycles rises one level. -/
  | xbarAgePromote (r : Region) (port : Port) (req : Nat)
  /-- KEYWAY_CHECK (R364): A keyway unit judges an access against its rules, allowing it or denying and recording it. -/
  | keywayCheck (acc : Access) (addr : Addr) (kind : AccKind) (log2size : Nat)
  /-- KW_UPDATE_ENTER (R366): A write of 1 to KW_CTRL.update copies the rules to the shadow set and stalls accesses. -/
  | kwUpdateEnter (acc : Access) (u : KwUnit)
  /-- KW_UPDATE_COMMIT (R366): A write of 0 to KW_CTRL.update commits the shadow rules and releases stalled accesses. -/
  | kwUpdateCommit (acc : Access) (u : KwUnit)
  /-- KW_UPDATE_ABORT (R366): A write of 1 to KW_CTRL.abort discards the shadow set. -/
  | kwUpdateAbort (acc : Access) (u : KwUnit)
  /-- KW_STALL_TIMEOUT (R366): An access stalled 4 µs in UPDATE is denied with cause 2. -/
  | kwStallTimeout (u : KwUnit)
  /-- ERR_INFO_CLEAR (R385): A write of 1 to ERR_INFO0.valid clears it and re-arms error capture. -/
  | errInfoClear (acc : Access) (page : PageNo)
  /-- DMA_CH_START (R373): A write of 1 to DMA_CHn_CTL.start starts the channel's list. -/
  | dmaChStart (acc : Access) (i : DmaInst) (ch : Channel)
  /-- DMA_CH_STOP (R376): A write of 1 to DMA_CHn_CTL.stop halts the channel at the next 64 B boundary. -/
  | dmaChStop (acc : Access) (i : DmaInst) (ch : Channel)
  /-- DMA_DESCRIPTOR_END (R368): A descriptor ends, its status is written, and the next one is chosen, or the channel halts, skips or stops on a difference. -/
  | dmaDescriptorEnd (i : DmaInst) (desc : DescRead)
  /-- NVM_PAGE_WRITE (R392): A general record version is written out of place, verified and committed. -/
  | nvmPageWrite (id : BitVec 32) (page : Nat) (verified : Bool)
  /-- NVM_PAGE_READ (R393): A page is read, with reconstruction as needed, or found blank or lost. `bad` lists the
  positions whose chunk is uncorrectable; 16 + p a tag failure that reconstructing chunk p mends, 24 one that nothing mends. -/
  | nvmPageRead (id : BitVec 32) (page : Nat) (bad : List Nat)
  /-- KEEP_RECORD_WRITE (R394): A tier-0 record is written in three copies to a free keep stripe. -/
  | keepRecordWrite (id : Nat)
  /-- BANK_NO_RESPONSE (R397): A bank gives no response for 100 µs. -/
  | bankNoResponse (b : Bank)
  /-- REBUILD_STRIPE (R398): A rebuild reconstructs the next stripe, checkpointing and completing with EV_3203 at the end. -/
  | rebuildStripe (which : Fin 2) (unreadable : Bool)
  /-- SCRUB_CHUNK (R402): Scrub reads the next chunk at its pace and rewrites it if needed. -/
  | scrubChunk (corrected : Option Nat)
  /-- SCRUB_URGENT (R404): Scrub falls more than 24 h behind and its share rises to 25 %. -/
  | scrubUrgent (hoursBehind : Nat)
  /-- WEAR_MOVE (R403): A record on the least-written stripe is copied to the most-written free stripe. -/
  | wearMove
  /-- RWP_REGISTER_WRITE (R405): A write to an RWP field shows at once and is queued to commit. -/
  | rwpRegisterWrite (acc : Access) (id : Nat) (value : BitVec 32)
  /-- RWP_COMMIT (R407): A queued RWP write commits to its ring and clears its pending bit. -/
  | rwpCommit
  /-- MESH_SAMPLE (R416): A mesh net or enclosure loop is sampled. -/
  | meshSample (cls : TamperClass) (inst : Nat) (fails : Bool) (level : Nat)
  /-- MESH_CONFIRM_SAMPLE (R416): 1 ms after a failed sample, a confirming sample qualifies or clears the trip. -/
  | meshConfirmSample (cls : TamperClass) (inst : Nat) (fails : Bool) (level : Nat)
  /-- TAMPER_TRIP (R418): A sensor trip qualifies and the response of its grade runs. -/
  | tamperTrip (cls : TamperClass) (inst : Nat) (reading : BitVec 32)
  /-- TAMPER_CONDITION_CLEAR (R415): A tripped condition has been clear for its time, so the class re-arms and any tamper hold ends. -/
  | tamperConditionClear (cls : TamperClass) (inst : Nat) (durationMs : BitVec 32)
  /-- G1_REINSTATE_TIMER (R418): 1 s after a G1 condition clears, the region is reinstated or a die warm reset is requested. -/
  | g1ReinstateTimer (scope : G1Scope)
  /-- BATTERY_TAMPER_TRIP (R427): A trip on battery is latched, and a G3 trip erases the envelope key. -/
  | batteryTamperTrip (cls : TamperClass) (inst : Nat)
  /-- MAIN_POWER_LOSS (R424): Main power leaves range and the battery domain switches to VBAT. -/
  | mainPowerLoss
  /-- TEMP_CALIBRATION (R417): A sensor's 24 h calibration starts with neighbour coverage. -/
  | tempCalibration (sensor : Sensor)
  /-- TEMP_CALIBRATION_END (R417): A calibration ends, and a sensor with too large an offset is held out. -/
  | tempCalibrationEnd (sensor : Sensor) (offset : Int)
  /-- TMP_GRADE_SET (R419): Sets the tamper grades and the loop enables. -/
  | tmpGradeSet (cid : Nat) (hr : HostRead)
  /-- RTC_SET (R428): Loads the RTC. -/
  | rtcSet (cid : Nat) (hr : HostRead)
  /-- COALESCE_CLOSE (R447): An open coalesced record closes after 1 s. -/
  | coalesceClose (seq : BitVec 40)
  /-- EVENT_FLUSH (R449): The oldest buffered record has been held 1 s, or another trigger fires, and the buffer is flushed to the NVM areas. -/
  | eventFlush
  /-- EVR_FLUSH (R458): A write of 1 to EVR_CTRL.flush flushes the buffer. -/
  | evrFlush (acc : Access)
  /-- EVR_VERIFY (R458): A write of 1 to EVR_CTRL.verify verifies both log areas. -/
  | evrVerify (acc : Access)
  /-- LOG_VERIFY_DAILY (R452): The 24 h chain verification starts. -/
  | logVerifyDaily
  /-- LOG_VERIFY_END (R452): A chain verification ends. -/
  | logVerifyEnd
  /-- OP_TIME_SAVE (R446): Every 60 s the operating seconds are committed to EVR_OP_TIME_SAVED. -/
  | opTimeSave
  /-- LOG_READ (R453): Returns flushed event records. -/
  | logRead (cid : Nat) (hr : HostRead)
  /-- LOG_CATALOG (R445): Returns the event catalogue. -/
  | logCatalog (cid : Nat) (hr : HostRead)
  /-- LOG_CLEAR (R454): Clears the log up to a new clear point. -/
  | logClear (cid : Nat) (hr : HostRead)
  /-- PWR_FAIL (R466): pwr_fail_n asserts, so ports stop, the vault ring, event buffer and RWP queue flush, and the die is held in reset. -/
  | pwrFail (width : PulseWidth)
  /-- POR_ASSERT (R467): por_n is asserted and any power-fail sequence is abandoned. -/
  | porAssert
  /-- POR_RELEASE (R472): por_n is released and the start-up sequence runs. -/
  | porRelease (boot : BootReport)
  /-- BOOT_READY (R472): Start-up completes, dev_ready rises and EV_0101 is logged. -/
  | bootReady (ms : Nat)
  /-- CPM_WARM (R482): A write of 1 to CPM_CTRL.warm requests a warm reset. -/
  | cpmWarm (acc : Access)
  /-- WARM_RESET (R469): After the flush and the RWP commits, the warm reset takes effect and start-up resumes. -/
  | warmReset
  /-- REGION_GATE (R464): A write of 1 to a CPM_PWR_REQ bit drains the region and removes its power. -/
  | regionGate (acc : Access) (r : Region)
  /-- REGION_UNGATE (R464): A write of 0 to a CPM_PWR_REQ bit restores power to the region. -/
  | regionUngate (acc : Access) (r : Region)
  /-- TELEMETRY_SNAPSHOT (R477): The telemetry snapshot is refreshed every 10 ms. -/
  | telemetrySnapshot
  /-- CLOCK_GATE_IDLE (R463): A block idle for 10 µs clock-gates itself. -/
  | clockGateIdle (blk : Blk)
  /-- REGION_CYCLE (R487): Drains, resets, self-tests and reinstates a region. -/
  | regionCycle (cid : Nat) (hr : HostRead)
  /-- REGION_HOLD (R487): Drains a region and holds it out of service. -/
  | regionHold (cid : Nat) (hr : HostRead)
  /-- REGION_RESTORE (R487): Resets, self-tests and reinstates a held region. -/
  | regionRestore (cid : Nat) (hr : HostRead)
  /-- PLL_RETUNE (R487): Cycles a region with its PLL re-tuned. -/
  | pllRetune (cid : Nat) (hr : HostRead)
  /-- CORE_SUBST (R486): Makes the spare stand in for a core position. -/
  | coreSubst (cid : Nat) (hr : HostRead)
  /-- CORE_RELEASE (R486): Self-tests the stood-in core and returns its tasks. -/
  | coreRelease (cid : Nat) (hr : HostRead)
  /-- ENGINE_HANDOVER (R166): Hands a barrel role over to a spare. -/
  | engineHandover (cid : Nat) (hr : HostRead)
  /-- SENSOR_CAL (R486): Runs an immediate calibration pass of all sensors. -/
  | sensorCal (cid : Nat) (hr : HostRead)
  /-- REGION_DRAIN_END (R487): The last started work of a draining region ends, and the region is reset and self-tested. -/
  | regionDrainEnd (r : Region)
  /-- DRAIN_TIMEOUT (R487): drain_ms expires and the tasks still running are cancelled. -/
  | drainTimeout (r : Region)
  /-- REGION_REINSTATE (R487): A region passes self-test and is reinstated with EV_7102, or stays out of service. -/
  | regionReinstate (r : Region) (failed : Option Nat)
  /-- FW_SELECT (R492): Installs and switches to a Keeper image, live or by warm reset. -/
  | fwSelect (cid : Nat) (hr : HostRead)
  /-- MON_LINE_ERROR (R494): A monitor line with a framing error, a parity error or too many characters is discarded with ER 03. -/
  | monLineError
  /-- MON_IDENT (R495): The monitor IDENT command. -/
  | monIdent
  /-- MON_STATUS (R495): The monitor STATUS command. -/
  | monStatus
  /-- MON_LOG_READ (R495): The monitor LOG READ command. -/
  | monLogRead (area : Nat) (start : BitVec 40) (count : Nat)
  /-- MON_MR (R495): The monitor memory read. -/
  | monMr (addr : Addr) (n : Nat)
  /-- MON_MW (R495): The monitor memory write. -/
  | monMw (addr : Addr) (value : BitVec 32)
  /-- MON_HALT (R495): The monitor halts a core slot. -/
  | monHalt (c : CoreId)
  /-- MON_STEP (R495): The monitor steps a core slot. -/
  | monStep (c : CoreId)
  /-- MON_RESUME (R495): The monitor resumes a core slot. -/
  | monResume (c : CoreId)
  /-- MON_INJECT (R495): The monitor injects an event. -/
  | monInject (code : BitVec 16) (p1 : BitVec 32) (p2 : BitVec 32) (p3 : BitVec 32)
  /-- MON_BAUD_CMD (R495): The monitor changes its baud rate after the OK line. -/
  | monBaudCmd (rate : Nat)
  /-- FWRECOVER (R496): The boot ROM receives and installs a Keeper image over the monitor. -/
  | fwrecover (image : List Byte) (linesOk : Bool)
  /-- REGISTER_WRITE (R506): A write to a register with no behaviour of its own is applied or refused under R507. -/
  | registerWrite (acc : Access) (tgt : RegTarget) (size : AccSize) (value : BitVec 64)
  /-- IRQ_RAW_CLEAR (R501): A W1C write to IRQ_RAW clears interrupt causes. -/
  | irqRawClear (acc : Access) (page : PageNo) (value : BitVec 32)
  /-- IRQ_FORCE (R501): A write to IRQ_FORCE sets IRQ_RAW bits in DEVELOP. -/
  | irqForce (acc : Access) (page : PageNo) (value : BitVec 32)
  /-- PAGE_LOCK (R503): A write of 1 to LOCK freezes the page's RWL fields. -/
  | pageLock (acc : Access) (page : PageNo)
  /-- LOW_WORD_READ (R508): A read of a 64-bit low word latches the high word for the requester. -/
  | lowWordRead (acc : Access) (addr : Addr)
  /-- RC_REGISTER_READ (R7): A read of an RC register returns the value and clears it. -/
  | rcRegisterRead (acc : Access) (addr : Addr)
  /-- SPI_NOP (R520): A management SPI NOP frame clocks out the pending response. -/
  | spiNop (frame : List (BitVec 32)) (extra : Bool)
  /-- SPI_READ (R520): A management SPI READ of snapshot words. -/
  | spiRead (frame : List (BitVec 32)) (extra : Bool)
  /-- SPI_WRITE (R520): A management SPI WRITE to CPM_PWR_REQ or EVR_SPI_PTR. -/
  | spiWrite (frame : List (BitVec 32)) (extra : Bool)
  /-- TELEM_CFG (R520): Sets the severity filter of EVENT_READ. -/
  | telemCfg (frame : List (BitVec 32)) (extra : Bool)
  /-- EVENT_READ (R520): Reads event records from EVR_SPI_PTR. -/
  | eventRead (frame : List (BitVec 32)) (extra : Bool)
  /-- SPI_IDENT (R520): A management SPI IDENT returning eight words. -/
  | spiIdent (frame : List (BitVec 32)) (extra : Bool)
  /-- SPI_FRAME_ERROR (R522): A management SPI frame fails CRC, length or form, or arrives busy, and is not executed. -/
  | spiFrameError (err : SpiErr)
  /-- MAIN_POWER_RESTORE (R424): Main power returns to its range, and the battery domain goes back from VBAT to the always-on rail, with the class 1 grade and the mesh sampling changing with it. -/
  | mainPowerRestore
  deriving DecidableEq, Repr

end Sys2Proof
end

