-- ==== Sys2Proof/Config.lean ====
section
/-! DEFINITION. What a part or its firmware fixes and the manual leaves open, and the free values. Every
constant here is opaque: nothing can be proved about its value, so a claim holds whatever it is. -/

namespace Sys2Proof

/-- The model's source of free values: the n-th free byte (log entry 2). -/
opaque Config.freeByte : Nat → Byte

/-- The severity that the running Keeper image gives an event code (R445). -/
opaque Config.severity : Nat → BitVec 3

/-- The ordering code of IDENT, 16 bytes of ASCII (R40). -/
opaque Config.ordering : List Byte

/-- The device serial number (R40). -/
opaque Config.serial : BitVec 64

/-- The boot ROM revision (R40). -/
opaque Config.bootRomRev : BitVec 32

/-- The Zilxia public keys in the boot ROM (R39, R144): ML-DSA-87 and ECDSA P-384. -/
opaque Config.zilxiaMldsaKey : List Byte
opaque Config.zilxiaEcKey : List Byte

/-- Whether EDDSA_VER takes the cofactor into its group equation, which RFC 8032 leaves to the implementation (R158). -/
opaque Config.edCofactored : Bool

/-- The prime search of an RSA key generation, which the standard leaves to the random bytes and the method (R146, R173): modulus
bits, exponent, random bytes; the two primes, none where the search is exhausted. -/
opaque Config.rsaPrimes : Nat → Nat → List Byte → Option (Nat × Nat)

/-- The salt's length in a PSS signature, which the standard leaves to the signer up to the hash's (R148), by mode. -/
opaque Config.pssSalt : Nat → Nat

/-- The signature of an ML-DSA run whose rejection loop passes the bound that FIPS 204 allows, where the manual states none:
program, operand. -/
opaque Config.mldsaSpent : Nat → List Byte → List Byte

/-- Labels of key derivations that the manual leaves unnamed, by the rule's number. -/
opaque Config.kdfLabel : Nat → List Byte

/-- The constant a firmware, boot or physical quantity takes that the manual does not state: a number of the
rule and a selector. -/
opaque Config.implValue : Nat → Nat → Nat

end Sys2Proof
end

