-- ==== Sys2Proof/Machine/Tab.lean ====
section
/-! DEFINITION. Operations on the sorted tables and lists of the state, and the byte-string helpers:
byte order (R3, R4), slices, numbers. -/

namespace Sys2Proof.Machine

/-! ## Tables -/

/-- The value listed for `k`, none where the table has none. -/
def tget? {α : Type} (t : Tab α) (k : Nat) : Option α := t.lookup k

/-- The value listed for `k`, `d` where the table has none. -/
def tget {α : Type} (t : Tab α) (k : Nat) (d : α) : α := (tget? t k).getD d

/-- Writes `v` for `k`; the keys stay in rising order. -/
def tput {α : Type} : Tab α → Nat → α → Tab α
  | [], k, v => [(k, v)]
  | (k', v') :: t, k, v =>
    if k < k' then (k, v) :: (k', v') :: t
    else if k = k' then (k, v) :: t
    else (k', v') :: tput t k v

/-- Removes the entry for `k`. -/
def tdel {α : Type} (t : Tab α) (k : Nat) : Tab α := t.filter (fun p => p.1 != k)

/-- Rewrites the value for `k`, starting from `d` where none is listed. -/
def tmod {α : Type} (t : Tab α) (k : Nat) (d : α) (f : α → α) : Tab α := tput t k (f (tget t k d))

/-- The element at `i`, `d` beyond the end. -/
def lget {α : Type} (l : List α) (i : Nat) (d : α) : α := l.getD i d

/-- A list of `n` values with `f i` at `i`. -/
def tabulate {α : Type} (n : Nat) (f : Nat → α) : List α := (List.range n).map f

/-- Rewrites every element that meets `p`. -/
def lmod {α : Type} (l : List α) (p : α → Bool) (f : α → α) : List α := l.map (fun x => if p x then f x else x)

/-- The number of elements that meet `p`. -/
def count {α : Type} (l : List α) (p : α → Bool) : Nat := (l.filter p).length

/-- Rewrites the element at `i`. -/
def lmodAt {α : Type} (l : List α) (i : Nat) (f : α → α) : List α := l.mapIdx (fun j x => if j == i then f x else x)

/-! ## Byte strings -/

abbrev Bytes := List Byte

/-- A byte from a number. -/
def byte (n : Nat) : Byte := BitVec.ofNat 8 n

/-- `len` bytes of `n`, most significant first. -/
def natBE (n len : Nat) : Bytes := (List.range len).map (fun i => byte (n >>> (8 * (len - 1 - i))))

/-- `len` bytes of `n`, least significant first (R4). -/
def natLE (n len : Nat) : Bytes := (List.range len).map (fun i => byte (n >>> (8 * i)))

/-- The number that a byte string spells, most significant byte first. -/
def beNat (b : Bytes) : Nat := b.foldl (fun a x => a * 256 + x.toNat) 0

/-- The number that a byte string spells, least significant byte first (R4). -/
def leNat (b : Bytes) : Nat := b.foldr (fun x a => a * 256 + x.toNat) 0

/-- `n` bytes from offset `o`, zero-filled beyond the end. -/
def slice (b : Bytes) (o n : Nat) : Bytes := (List.range n).map (fun i => (b.drop o).getD i 0)

/-- The little-endian field of `n` bytes at offset `o` (R4). -/
def fieldLE (b : Bytes) (o n : Nat) : Nat := leNat (slice b o n)

/-- Cuts or zero-pads at the right to `n` bytes. -/
def fit (b : Bytes) (n : Nat) : Bytes := slice b 0 n

def zeros (n : Nat) : Bytes := List.replicate n 0

/-- Byte-wise exclusive or, of the length of the shorter. -/
def xorB (a b : Bytes) : Bytes := List.zipWith (fun x y => x ^^^ y) a b

/-- The number whose `len` bytes stand at index `i` of a table of equal entries packed into one numeral,
first entry most significant, `n` entries in all. -/
def packed (t len n i : Nat) : Nat := (t >>> (8 * len * (n - 1 - i))) % 2 ^ (8 * len)

/-- Chunks of `n` elements; the last may be shorter. `fuel` is the length. -/
def chunksAux {α : Type} (n : Nat) : Nat → List α → List (List α)
  | 0, _ => []
  | _ + 1, [] => []
  | f + 1, x :: l => (x :: l).take n :: chunksAux n f ((x :: l).drop n)

def chunks {α : Type} (n : Nat) (l : List α) : List (List α) := chunksAux n l.length l

/-- The bytes of an ASCII string. -/
def ascii (s : String) : Bytes := s.toList.map (fun c => byte c.toNat)

/-- The text that bytes spell, one character a byte. -/
def textOf (b : Bytes) : List Char := b.map (fun x => Char.ofNat x.toNat)

/-- The high nibble, then the low nibble, of each byte. -/
def nibbles (b : Bytes) : List Nat := b.flatMap (fun x => [x.toNat / 16, x.toNat % 16])

/-- Bytes from nibbles, two a byte. -/
def fromNibbles : List Nat → Bytes
  | a :: b :: l => byte (a * 16 + b) :: fromNibbles l
  | [a] => [byte (a * 16)]
  | [] => []

/-- A hexadecimal digit's character code (capital letters). -/
def hexChar (n : Nat) : Byte := byte (if n < 10 then 48 + n else 55 + n)

def hexOf (b : Bytes) : Bytes := (nibbles b).map hexChar

/-- The value of a hexadecimal character, capital or small. -/
def hexVal? (c : Byte) : Option Nat :=
  let n := c.toNat
  if 48 ≤ n ∧ n ≤ 57 then some (n - 48)
  else if 65 ≤ n ∧ n ≤ 70 then some (n - 55)
  else if 97 ≤ n ∧ n ≤ 102 then some (n - 87)
  else none

def hexNibbles? : Bytes → Option (List Nat)
  | [] => some []
  | c :: l =>
    match hexVal? c, hexNibbles? l with
    | some v, some r => some (v :: r)
    | _, _ => none

/-- The bytes that hexadecimal text spells, none where a character is no digit or the length is odd. -/
def unhex? (b : Bytes) : Option Bytes :=
  if b.length % 2 = 1 then none else (hexNibbles? b).map fromNibbles

/-- The value of a decimal digit string, none where a character is no digit. -/
def decVal? (b : Bytes) : Option Nat :=
  b.foldl (fun a c => match a with
    | none => none
    | some v => if 48 ≤ c.toNat ∧ c.toNat ≤ 57 then some (v * 10 + (c.toNat - 48)) else none) (some 0)

/-- The bits of a number, most significant first. -/
def bitsBE (n len : Nat) : List Bool := (List.range len).map (fun i => n.testBit (len - 1 - i))

def bitsNat (l : List Bool) : Nat := l.foldl (fun a b => 2 * a + (if b then 1 else 0)) 0

/-- Bit `i` of a 32-bit word as a number 0 or 1. -/
def b2n (b : Bool) : Nat := if b then 1 else 0

end Sys2Proof.Machine
end

