-- ==== Sys2Proof/Machine/Hash.lean ====
section
/-! DEFINITION. The hash functions and keyed hashes the manual cites: SHA-2 (FIPS 180-4), SHA-3 and SHAKE
(FIPS 202), cSHAKE and KMAC (SP 800-185), HMAC (FIPS 198-1). PRESUMED from the standards, log entry 3. -/

namespace Sys2Proof.Machine

/-! ## SHA-2 -/

def sha256K : Nat := 0x428a2f9871374491b5c0fbcfe9b5dba53956c25b59f111f1923f82a4ab1c5ed5d807aa9812835b01243185be550c7dc372be5d7480deb1fe9bdc06a7c19bf174e49b69c1efbe47860fc19dc6240ca1cc2de92c6f4a7484aa5cb0a9dc76f988da983e5152a831c66db00327c8bf597fc7c6e00bf3d5a7914706ca63511429296727b70a852e1b21384d2c6dfc53380d13650a7354766a0abb81c2c92e92722c85a2bfe8a1a81a664bc24b8b70c76c51a3d192e819d6990624f40e3585106aa07019a4c1161e376c082748774c34b0bcb5391c0cb34ed8aa4a5b9cca4f682e6ff3748f82ee78a5636f84c878148cc7020890befffaa4506cebbef9a3f7c67178f2
def sha512K : Nat := 0x428a2f98d728ae227137449123ef65cdb5c0fbcfec4d3b2fe9b5dba58189dbbc3956c25bf348b53859f111f1b605d019923f82a4af194f9bab1c5ed5da6d8118d807aa98a303024212835b0145706fbe243185be4ee4b28c550c7dc3d5ffb4e272be5d74f27b896f80deb1fe3b1696b19bdc06a725c71235c19bf174cf692694e49b69c19ef14ad2efbe4786384f25e30fc19dc68b8cd5b5240ca1cc77ac9c652de92c6f592b02754a7484aa6ea6e4835cb0a9dcbd41fbd476f988da831153b5983e5152ee66dfaba831c66d2db43210b00327c898fb213fbf597fc7beef0ee4c6e00bf33da88fc2d5a79147930aa72506ca6351e003826f142929670a0e6e7027b70a8546d22ffc2e1b21385c26c9264d2c6dfc5ac42aed53380d139d95b3df650a73548baf63de766a0abb3c77b2a881c2c92e47edaee692722c851482353ba2bfe8a14cf10364a81a664bbc423001c24b8b70d0f89791c76c51a30654be30d192e819d6ef5218d69906245565a910f40e35855771202a106aa07032bbd1b819a4c116b8d2d0c81e376c085141ab532748774cdf8eeb9934b0bcb5e19b48a8391c0cb3c5c95a634ed8aa4ae3418acb5b9cca4f7763e373682e6ff3d6b2b8a3748f82ee5defb2fc78a5636f43172f6084c87814a1f0ab728cc702081a6439ec90befffa23631e28a4506cebde82bde9bef9a3f7b2c67915c67178f2e372532bca273eceea26619cd186b8c721c0c207eada7dd6cde0eb1ef57d4f7fee6ed17806f067aa72176fba0a637dc5a2c898a6113f9804bef90dae1b710b35131c471b28db77f523047d8432caab7b40c724933c9ebe0a15c9bebc431d67c49c100d4c4cc5d4becb3e42b6597f299cfc657e2a5fcb6fab3ad6faec6c44198c4a475817

/-- The numbers that differ between the 32-bit and the 64-bit hashes of FIPS 180-4: word bits, rounds,
round constants, and the rotation counts of the four sigma functions (the last of the small ones shifts). -/
structure Sha2 where
  w : Nat
  rounds : Nat
  k : Nat
  bs0 : List Nat
  bs1 : List Nat
  ss0 : List Nat
  ss1 : List Nat

def sha2w32 : Sha2 := ⟨32, 64, sha256K, [2, 13, 22], [6, 11, 25], [7, 18, 3], [17, 19, 10]⟩
def sha2w64 : Sha2 := ⟨64, 80, sha512K, [28, 34, 39], [14, 18, 41], [1, 8, 7], [19, 61, 6]⟩

def rorN (w x n : Nat) : Nat := (x >>> n) ||| ((x % 2 ^ n) <<< (w - n))

def shaBig (w : Nat) (r : List Nat) (x : Nat) : Nat :=
  rorN w x (r.getD 0 0) ^^^ rorN w x (r.getD 1 0) ^^^ rorN w x (r.getD 2 0)

def shaSmall (w : Nat) (r : List Nat) (x : Nat) : Nat :=
  rorN w x (r.getD 0 0) ^^^ rorN w x (r.getD 1 0) ^^^ (x >>> r.getD 2 0)

/-- The message schedule, newest word first. -/
def shaExpand (p : Sha2) : Nat → List Nat → List Nat
  | 0, ws => ws
  | f + 1, ws =>
    shaExpand p f ((shaSmall p.w p.ss1 (ws.getD 1 0) + ws.getD 6 0 + shaSmall p.w p.ss0 (ws.getD 14 0)
      + ws.getD 15 0) % 2 ^ p.w :: ws)

def shaRound (p : Sha2) (st : List Nat) (kw : Nat) : List Nat :=
  match st with
  | [a, b, c, d, e, f, g, h] =>
    let m := 2 ^ p.w
    let ch := (e &&& f) ^^^ ((m - 1 - e) &&& g)
    let t1 := h + shaBig p.w p.bs1 e + ch + kw
    let maj := (a &&& b) ^^^ (a &&& c) ^^^ (b &&& c)
    let t2 := shaBig p.w p.bs0 a + maj
    [(t1 + t2) % m, a, b, c, (d + t1) % m, e, f, g]
  | _ => st

def shaBlock (p : Sha2) (h : List Nat) (blk : Bytes) : List Nat :=
  let w0 := (chunks (p.w / 8) blk).map beNat
  let ws := (shaExpand p (p.rounds - 16) w0.reverse).reverse
  let kws := ws.mapIdx (fun i x => x + packed p.k (p.w / 8) p.rounds i)
  List.zipWith (fun a b => (a + b) % 2 ^ p.w) h (kws.foldl (shaRound p) h)

/-- Padding to whole blocks: 80, zeros, the bit length. -/
def shaPad (blk : Nat) (m : Bytes) : Bytes :=
  let l := blk / 8
  let z := (2 * blk - (m.length + 1 + l) % blk) % blk
  m ++ [0x80] ++ zeros z ++ natBE (8 * m.length) l

def sha2 (p : Sha2) (iv : Nat) (m : Bytes) : Bytes :=
  let wb := p.w / 8
  let h0 := (List.range 8).map (packed iv wb 8)
  ((chunks (16 * wb) (shaPad (16 * wb) m)).foldl (shaBlock p) h0).flatMap (fun x => natBE x wb)

def sha256 (m : Bytes) : Bytes := sha2 sha2w32 0x6a09e667bb67ae853c6ef372a54ff53a510e527f9b05688c1f83d9ab5be0cd19 m
def sha512 (m : Bytes) : Bytes := sha2 sha2w64 0x6a09e667f3bcc908bb67ae8584caa73b3c6ef372fe94f82ba54ff53a5f1d36f1510e527fade682d19b05688c2b3e6c1f1f83d9abfb41bd6b5be0cd19137e2179 m
def sha384 (m : Bytes) : Bytes := (sha2 sha2w64 0xcbbb9d5dc1059ed8629a292a367cd5079159015a3070dd17152fecd8f70e593967332667ffc00b318eb44a8768581511db0c2e0d64f98fa747b5481dbefa4fa4 m).take 48

/-! ## SHA-1, for the EMV option B derivation of R123 -/

def sha1Expand : Nat → List Nat → List Nat
  | 0, ws => ws
  | f + 1, ws =>
    let x := ws.getD 2 0 ^^^ ws.getD 7 0 ^^^ ws.getD 13 0 ^^^ ws.getD 15 0
    sha1Expand f ((x * 2 + x / 2 ^ 31) % 2 ^ 32 :: ws)

def rol32 (x n : Nat) : Nat := (x * 2 ^ n + x / 2 ^ (32 - n)) % 2 ^ 32

def sha1Round (st : List Nat) (iw : Nat × Nat) : List Nat :=
  match st with
  | [a, b, c, d, e] =>
    let m := 2 ^ 32
    let fk :=
      if iw.1 < 20 then ((b &&& c) ^^^ ((m - 1 - b) &&& d), 0x5A827999)
      else if iw.1 < 40 then (b ^^^ c ^^^ d, 0x6ED9EBA1)
      else if iw.1 < 60 then ((b &&& c) ^^^ (b &&& d) ^^^ (c &&& d), 0x8F1BBCDC)
      else (b ^^^ c ^^^ d, 0xCA62C1D6)
    [(rol32 a 5 + fk.1 + e + fk.2 + iw.2) % m, a, rol32 b 30, c, d]
  | _ => st

def sha1Block (h : List Nat) (blk : Bytes) : List Nat :=
  let ws := (sha1Expand 64 ((chunks 4 blk).map beNat).reverse).reverse
  List.zipWith (fun a b => (a + b) % 2 ^ 32) h ((ws.mapIdx (fun i w => (i, w))).foldl sha1Round h)

def sha1 (m : Bytes) : Bytes :=
  ((chunks 64 (shaPad 64 m)).foldl sha1Block [0x67452301, 0xEFCDAB89, 0x98BADCFE, 0x10325476, 0xC3D2E1F0]).flatMap
    (fun x => natBE x 4)

/-! ## Keccak -/

def keccakRC : Nat := 0x00000000000000010000000000008082800000000000808a8000000080008000000000000000808b000000008000000180000000800080818000000000008009000000000000008a00000000000000880000000080008009000000008000000a000000008000808b800000000000008b8000000000008089800000000000800380000000000080028000000000000080000000000000800a800000008000000a8000000080008081800000000000808000000000800000018000000080008008
def rol64 (x n : Nat) : Nat := ((x <<< n) ||| (x >>> (64 - n))) % 2 ^ 64

def chi (a b c : Nat) : Nat := a ^^^ ((2 ^ 64 - 1 - b) &&& c)

/-- A round on lanes a0 to a24, lane x + 5y: theta, rho and pi (lane (x, y) goes to (y, 2x + 3y)), chi, iota. -/
def keccakRound (a : List Nat) (rc : Nat) : List Nat :=
  match a with
  | [a0, a1, a2, a3, a4, a5, a6, a7, a8, a9, a10, a11, a12,
      a13, a14, a15, a16, a17, a18, a19, a20, a21, a22, a23, a24] =>
    let c0 := a0 ^^^ a5 ^^^ a10 ^^^ a15 ^^^ a20
    let c1 := a1 ^^^ a6 ^^^ a11 ^^^ a16 ^^^ a21
    let c2 := a2 ^^^ a7 ^^^ a12 ^^^ a17 ^^^ a22
    let c3 := a3 ^^^ a8 ^^^ a13 ^^^ a18 ^^^ a23
    let c4 := a4 ^^^ a9 ^^^ a14 ^^^ a19 ^^^ a24
    let d0 := c4 ^^^ rol64 c1 1
    let d1 := c0 ^^^ rol64 c2 1
    let d2 := c1 ^^^ rol64 c3 1
    let d3 := c2 ^^^ rol64 c4 1
    let d4 := c3 ^^^ rol64 c0 1
    let b0 := rol64 (a0 ^^^ d0) 0
    let b1 := rol64 (a6 ^^^ d1) 44
    let b2 := rol64 (a12 ^^^ d2) 43
    let b3 := rol64 (a18 ^^^ d3) 21
    let b4 := rol64 (a24 ^^^ d4) 14
    let b5 := rol64 (a3 ^^^ d3) 28
    let b6 := rol64 (a9 ^^^ d4) 20
    let b7 := rol64 (a10 ^^^ d0) 3
    let b8 := rol64 (a16 ^^^ d1) 45
    let b9 := rol64 (a22 ^^^ d2) 61
    let b10 := rol64 (a1 ^^^ d1) 1
    let b11 := rol64 (a7 ^^^ d2) 6
    let b12 := rol64 (a13 ^^^ d3) 25
    let b13 := rol64 (a19 ^^^ d4) 8
    let b14 := rol64 (a20 ^^^ d0) 18
    let b15 := rol64 (a4 ^^^ d4) 27
    let b16 := rol64 (a5 ^^^ d0) 36
    let b17 := rol64 (a11 ^^^ d1) 10
    let b18 := rol64 (a17 ^^^ d2) 15
    let b19 := rol64 (a23 ^^^ d3) 56
    let b20 := rol64 (a2 ^^^ d2) 62
    let b21 := rol64 (a8 ^^^ d3) 55
    let b22 := rol64 (a14 ^^^ d4) 39
    let b23 := rol64 (a15 ^^^ d0) 41
    let b24 := rol64 (a21 ^^^ d1) 2
    [chi b0 b1 b2 ^^^ rc, chi b1 b2 b3, chi b2 b3 b4, chi b3 b4 b0, chi b4 b0 b1,
      chi b5 b6 b7, chi b6 b7 b8, chi b7 b8 b9, chi b8 b9 b5, chi b9 b5 b6,
      chi b10 b11 b12, chi b11 b12 b13, chi b12 b13 b14, chi b13 b14 b10, chi b14 b10 b11,
      chi b15 b16 b17, chi b16 b17 b18, chi b17 b18 b19, chi b18 b19 b15, chi b19 b15 b16,
      chi b20 b21 b22, chi b21 b22 b23, chi b22 b23 b24, chi b23 b24 b20, chi b24 b20 b21]
  | l => l

def keccakF (a : List Nat) : List Nat := (List.range 24).foldl (fun s i => keccakRound s (packed keccakRC 8 24 i)) a

def keccakAbsorb (a : List Nat) (blk : Bytes) : List Nat :=
  let ws := (chunks 8 blk).map leNat
  keccakF (a.mapIdx (fun i v => v ^^^ ws.getD i 0))

def keccakSqueeze (rate : Nat) : Nat → List Nat → Bytes
  | 0, _ => []
  | f + 1, a => (a.flatMap (fun x => natLE x 8)).take rate ++ keccakSqueeze rate f (keccakF a)

/-- The sponge: `rate` bytes, domain suffix byte `sfx`, `out` bytes. -/
def keccak (rate : Nat) (sfx : Byte) (out : Nat) (m : Bytes) : Bytes :=
  let z := rate - 1 - m.length % rate
  let padded := if z = 0 then m ++ [sfx ^^^ 0x80] else m ++ [sfx] ++ zeros (z - 1) ++ [0x80]
  (keccakSqueeze rate (out / rate + 1) ((chunks rate padded).foldl keccakAbsorb (List.replicate 25 0))).take out

def sha3_256 (m : Bytes) : Bytes := keccak 136 0x06 32 m
def sha3_384 (m : Bytes) : Bytes := keccak 104 0x06 48 m
def sha3_512 (m : Bytes) : Bytes := keccak 72 0x06 64 m
def shake128 (out : Nat) (m : Bytes) : Bytes := keccak 168 0x1f out m
def shake256 (out : Nat) (m : Bytes) : Bytes := keccak 136 0x1f out m

/-- The fewest bytes, at least one, that hold `n`. -/
def bytesFor (n : Nat) : Nat := if n < 256 then 1 else Nat.log2 n / 8 + 1

def leftEncode (n : Nat) : Bytes := byte (bytesFor n) :: natBE n (bytesFor n)
def rightEncode (n : Nat) : Bytes := natBE n (bytesFor n) ++ [byte (bytesFor n)]
def encodeString (s : Bytes) : Bytes := leftEncode (8 * s.length) ++ s
def bytePad (w : Nat) (b : Bytes) : Bytes :=
  let x := leftEncode w ++ b
  x ++ zeros ((w - x.length % w) % w)

/-- KMAC (SP 800-185) over a sponge of `rate` bytes: 168 for KMAC128, 136 for KMAC256. -/
def kmac (rate : Nat) (key msg : Bytes) (out : Nat) (custom : Bytes) : Bytes :=
  keccak rate 0x04 out
    (bytePad rate (encodeString (ascii "KMAC") ++ encodeString custom) ++ bytePad rate (encodeString key)
      ++ msg ++ rightEncode (8 * out))

def kmac128 (key msg : Bytes) (out : Nat) (custom : Bytes) : Bytes := kmac 168 key msg out custom
def kmac256 (key msg : Bytes) (out : Nat) (custom : Bytes) : Bytes := kmac 136 key msg out custom

/-! ## HMAC -/

/-- The hashes a HMAC or a digest is made with. -/
inductive HashAlg where
  | sha256 | sha384 | sha512 | sha3_256 | sha3_384 | sha3_512
  deriving DecidableEq, Repr

def hashOf : HashAlg → Bytes → Bytes
  | .sha256 => sha256
  | .sha384 => sha384
  | .sha512 => sha512
  | .sha3_256 => sha3_256
  | .sha3_384 => sha3_384
  | .sha3_512 => sha3_512

def hashBlock : HashAlg → Nat
  | .sha256 => 64
  | .sha384 => 128
  | .sha512 => 128
  | .sha3_256 => 136
  | .sha3_384 => 104
  | .sha3_512 => 72

def hashLen : HashAlg → Nat
  | .sha256 => 32
  | .sha384 => 48
  | .sha512 => 64
  | .sha3_256 => 32
  | .sha3_384 => 48
  | .sha3_512 => 64

def hmac (h : HashAlg) (key msg : Bytes) : Bytes :=
  let b := hashBlock h
  let k := fit (if key.length > b then hashOf h key else key) b
  hashOf h (k.map (· ^^^ 0x5c) ++ hashOf h (k.map (· ^^^ 0x36) ++ msg))

end Sys2Proof.Machine
end

