-- ==== Sys2Proof/Machine/Ec.lean ====
section
/-! DEFINITION. Arithmetic of the public-key programs that the manual names by standard (R146, R149, R158): modular
powers, RSA in CRT form, the P curves of FIPS 186-5 and X25519 of RFC 7748 (PRESUMED, log entry 3). -/

namespace Sys2Proof.Machine

/-! ## Modular arithmetic -/

/-- Square and multiply over `n` bits of the exponent, most significant first. -/
def powModAux (m b e : Nat) : Nat → Nat → Nat
  | 0, acc => acc
  | n + 1, acc =>
    let sq := acc * acc % m
    powModAux m b e n (if e.testBit n then sq * b % m else sq)

def powMod (b e m : Nat) : Nat := powModAux m (b % m) e (Nat.log2 e + 1) (1 % m)

/-- The inverse modulo a prime. -/
def invMod (a p : Nat) : Nat := powMod a (p - 2) p
def subMod (a b p : Nat) : Nat := (a % p + p - b % p) % p

/-! ## RSA (R82, R149) -/

/-- The CRT form of an RSA key of modulus length `n` bits: p, q, dp, dq, qinv, e. -/
structure RsaKey where
  p : Nat
  q : Nat
  dp : Nat
  dq : Nat
  qinv : Nat
  e : Nat

/-- The parts of an RSA CRT key. DESIGN CHOICE (log entry 82): they are held big-endian, as R149 has operands and results. -/
def rsaParse (bits : Nat) (mat : Bytes) : RsaKey :=
  let h := bits / 16
  let f := fun i => beNat (slice mat (h * i) h)
  ⟨f 0, f 1, f 2, f 3, f 4, beNat (slice mat (5 * h) 8)⟩

def rsaN (k : RsaKey) : Nat := k.p * k.q

/-- x to the private power, by the CRT. -/
def rsaPrivate (k : RsaKey) (x : Nat) : Nat :=
  let a := powMod x k.dp k.p
  let b := powMod x k.dq k.q
  b + k.q * (subMod a b k.p * k.qinv % k.p)

/-! ## The P curves -/

structure Curve where
  len : Nat
  p : Nat
  b : Nat
  n : Nat
  gx : Nat
  gy : Nat

def p256 : Curve := ⟨32,
  0xffffffff00000001000000000000000000000000ffffffffffffffffffffffff,
  0x5ac635d8aa3a93e7b3ebbd55769886bc651d06b0cc53b0f63bce3c3e27d2604b,
  0xffffffff00000000ffffffffffffffffbce6faada7179e84f3b9cac2fc632551,
  0x6b17d1f2e12c4247f8bce6e563a440f277037d812deb33a0f4a13945d898c296,
  0x4fe342e2fe1a7f9b8ee7eb4a7c0f9e162bce33576b315ececbb6406837bf51f5⟩

def p384 : Curve := ⟨48,
  0xfffffffffffffffffffffffffffffffffffffffffffffffffffffffffffffffeffffffff0000000000000000ffffffff,
  0xb3312fa7e23ee7e4988e056be3f82d19181d9c6efe8141120314088f5013875ac656398d8a2ed19d2a85c8edd3ec2aef,
  0xffffffffffffffffffffffffffffffffffffffffffffffffc7634d81f4372ddf581a0db248b0a77aecec196accc52973,
  0xaa87ca22be8b05378eb1c71ef320ad746e1d3b628ba79b9859f741e082542a385502f25dbf55296c3a545e3872760ab7,
  0x3617de4a96262c6f5d9e98bf9292dc29f8f41dbd289a147ce9da3113b5f0b8c00a60b1ce1d7e819d7a431d7c90ea0e5f⟩

def p521 : Curve := ⟨66,
  0x1ffffffffffffffffffffffffffffffffffffffffffffffffffffffffffffffffffffffffffffffffffffffffffffffffffffffffffffffffffffffffffffffffff,
  0x051953eb9618e1c9a1f929a21a0b68540eea2da725b99b315f3b8b489918ef109e156193951ec7e937b1652c0bd3bb1bf073573df883d2c34f1ef451fd46b503f00,
  0x1fffffffffffffffffffffffffffffffffffffffffffffffffffffffffffffffffa51868783bf2f966b7fcc0148f709a5d03bb5c9b8899c47aebb6fb71e91386409,
  0x0c6858e06b70404e9cd9e3ecb662395b4429c648139053fb521f828af606b4d3dbaa14b5e77efe75928fe1dc127a2ffa8de3348b3c1856a429bf97e7e31c2e5bd66,
  0x11839296a789a3bc0045c8a5fb42c7d1bd998f54449579b446817afbd17273e662c97ee72995ef42640c550b9013fad0761353c7086a272c24088be94769fd16650⟩

/-- The curve of a number: 0 P-256, 1 P-384, else P-521. -/
def curveOf (i : Nat) : Curve := if i = 0 then p256 else if i = 1 then p384 else p521

/-- An affine point, none at infinity. -/
abbrev Pt := Option (Nat × Nat)

def ecAdd (c : Curve) (a b : Pt) : Pt :=
  match a, b with
  | none, q => q
  | q, none => q
  | some (x1, y1), some (x2, y2) =>
    if x1 = x2 ∧ (y1 + y2) % c.p = 0 then none
    else
      let l := if x1 = x2 then subMod (3 * x1 * x1) 3 c.p * invMod (2 * y1) c.p % c.p
        else subMod y2 y1 c.p * invMod (subMod x2 x1 c.p) c.p % c.p
      let x := subMod (l * l) (x1 + x2) c.p
      some (x, subMod (l * subMod x1 x c.p) y1 c.p)

def ecMulAux (c : Curve) (k : Nat) (q : Pt) : Nat → Pt → Pt
  | 0, acc => acc
  | n + 1, acc =>
    let dbl := ecAdd c acc acc
    ecMulAux c k q n (if k.testBit n then ecAdd c dbl q else dbl)

def ecMul (c : Curve) (k : Nat) (q : Pt) : Pt := ecMulAux c k q (Nat.log2 k + 1) none
def ecBase (c : Curve) : Pt := some (c.gx, c.gy)

/-- SEC 1 uncompressed. -/
def ecEncode (c : Curve) : Pt → Bytes
  | some (x, y) => 0x04 :: (natBE x c.len ++ natBE y c.len)
  | none => [0]

/-- The point of an encoding that passes the checks of R158: form, coordinates below p, on the curve. -/
def ecDecode (c : Curve) (b : Bytes) : Option (Nat × Nat) :=
  let x := beNat (slice b 1 c.len)
  let y := beNat (slice b (1 + c.len) c.len)
  if b.length = 1 + 2 * c.len ∧ b.getD 0 0 = 0x04 ∧ x < c.p ∧ y < c.p
      ∧ y * y % c.p = (x * x * x + c.b + (c.p - 3) * x) % c.p then some (x, y) else none

/-- A digest as a number: its leftmost bits, as many as the order has. -/
def ecDigest (c : Curve) (h : Bytes) : Nat :=
  let bits := Nat.log2 c.n + 1
  if bits < 8 * h.length then beNat h >>> (8 * h.length - bits) else beNat h

def ecdsaRange (c : Curve) (sig : Bytes) : Bool :=
  let r := beNat (sig.take c.len)
  let s := beNat (slice sig c.len c.len)
  1 ≤ r && r < c.n && 1 ≤ s && s < c.n

/-- ECDSA verification over a digest; the signature is r then s. -/
def ecdsaVerify (c : Curve) (q : Nat × Nat) (h sig : Bytes) : Bool :=
  let r := beNat (sig.take c.len)
  let s := beNat (slice sig c.len c.len)
  let w := invMod s c.n
  let e := ecDigest c h
  ecdsaRange c sig &&
    (match ecAdd c (ecMul c (e * w % c.n) (ecBase c)) (ecMul c (r * w % c.n) (some q)) with
      | some (x, _) => x % c.n == r
      | none => false)

/-- ECDSA signing with the per-signature number `k`. -/
def ecdsaSign (c : Curve) (d k : Nat) (h : Bytes) : Bytes :=
  let r := ((ecMul c k (ecBase c)).map (·.1)).getD 0 % c.n
  let s := invMod k c.n * (ecDigest c h + r * d) % c.n
  natBE r c.len ++ natBE s c.len

/-- ECDSA P-384 with SHA-384 over a message: public key, message, signature (FIPS 186-5). -/
def ecdsa384 (pub msg sig : Bytes) : Bool :=
  match ecDecode p384 pub with
  | some q => ecdsaVerify p384 q (sha384 msg) sig
  | none => false

/-- A number from 1 to n - 1, from random bytes. -/
def ecScalar (c : Curve) (rnd : Bytes) : Nat := beNat rnd % (c.n - 1) + 1

/-- The shared secret of ECDH: the x coordinate. -/
def ecdh (c : Curve) (d : Nat) (q : Nat × Nat) : Bytes := natBE (((ecMul c d (some q)).map (·.1)).getD 0) c.len

/-! ## X25519 (RFC 7748) -/

def p25519 : Nat := 2 ^ 255 - 19

def x25519Step (x1 k : Nat) (t : Nat) (s : Nat × Nat × Nat × Nat) : Nat × Nat × Nat × Nat :=
  let p := p25519
  let (x2, z2, x3, z3) := if k.testBit t then (s.2.2.1, s.2.2.2, s.1, s.2.1) else s
  let a := x2 + z2
  let b := subMod x2 z2 p
  let aa := a * a % p
  let bb := b * b % p
  let e := subMod aa bb p
  let da := subMod x3 z3 p * a % p
  let cb := (x3 + z3) * b % p
  let u := (da + cb) * (da + cb) % p
  let v := x1 * (subMod da cb p * subMod da cb p % p) % p
  let w := aa * bb % p
  let z := e * (aa + 121665 * e) % p
  if k.testBit t then (u, v, w, z) else (w, z, u, v)

def x25519Loop (x1 k : Nat) : Nat → Nat × Nat × Nat × Nat → Nat × Nat × Nat × Nat
  | 0, s => s
  | n + 1, s => x25519Loop x1 k n (x25519Step x1 k n s)

def x25519 (scalar u : Bytes) : Bytes :=
  let k := leNat scalar % 2 ^ 254 / 8 * 8 + 2 ^ 254
  let x := leNat u % 2 ^ 255 % p25519
  let s := x25519Loop x k 255 (1, 0, x, 1)
  natLE (s.1 * invMod s.2.1 p25519 % p25519) 32

end Sys2Proof.Machine
end

