-- ==== Sys2Proof/Machine/Edwards.lean ====
section
/-! DEFINITION. Ed25519 and Ed448 (RFC 8032), with the checks of R158 (PRESUMED, log entry 3): points, their encodings,
keys, signatures and verification. -/

namespace Sys2Proof.Machine

/-- A twisted Edwards curve a x² + y² = 1 + d x² y²: field, a, d, base point, the base point's order, the bytes of a key and
the cofactor. -/
structure Edwards where
  p : Nat
  a : Nat
  d : Nat
  gx : Nat
  gy : Nat
  l : Nat
  len : Nat
  cof : Nat

def ed25519 : Edwards where
  p := p25519
  a := p25519 - 1
  d := (p25519 - 121665) * invMod 121666 p25519 % p25519
  gx := 15112221349535400772501151409588531511454012693041857206046113283949847762202
  gy := 46316835694926478169428394003475163141307993866256225615783033603165251855960
  l := 2 ^ 252 + 27742317777372353535851937790883648493
  len := 32
  cof := 8

def p448 : Nat := 2 ^ 448 - 2 ^ 224 - 1

def ed448 : Edwards where
  p := p448
  a := 1
  d := p448 - 39081
  gx := 224580040295924300187604334099896036246789641632564134246125461686950415467406032909029192869357953282578032075146446173674602635247710
  gy := 298819210078481492676017930443930673437544040154080242095928241372331506189835876003536878655418784733982303233503462500531545062832660
  l := 2 ^ 446 - 13818066809895115352007386748515426880336692474882178609894547503885
  len := 57
  cof := 4

/-- The curve of a number: 0 Ed25519, else Ed448. -/
def edwardsOf (i : Nat) : Edwards := if i = 0 then ed25519 else ed448

/-! ## Points, in projective coordinates -/

abbrev EdPt := Nat × Nat × Nat

def edZero : EdPt := (0, 1, 1)
def edBase (c : Edwards) : EdPt := (c.gx, c.gy, 1)

/-- The addition of any two points; it is complete on these curves. -/
def edAdd (c : Edwards) (s t : EdPt) : EdPt :=
  let (x1, y1, z1) := s
  let (x2, y2, z2) := t
  let u := z1 * z2 % c.p
  let v := u * u % c.p
  let xx := x1 * x2 % c.p
  let yy := y1 * y2 % c.p
  let w := c.d * xx % c.p * yy % c.p
  let f := subMod v w c.p
  let g := v + w
  (u * f % c.p * subMod ((x1 + y1) * (x2 + y2)) (xx + yy) c.p % c.p, u * g % c.p * subMod yy (c.a * xx) c.p % c.p, f * g % c.p)

/-- Double and add over `n` bits, most significant first. -/
def edMulAux (c : Edwards) (k : Nat) (q : EdPt) : Nat → EdPt → EdPt
  | 0, acc => acc
  | n + 1, acc =>
    let dbl := edAdd c acc acc
    edMulAux c k q n (if k.testBit n then edAdd c dbl q else dbl)

def edMul (c : Edwards) (k : Nat) (q : EdPt) : EdPt := edMulAux c k q (Nat.log2 k + 1) edZero

def edEq (c : Edwards) (s t : EdPt) : Bool :=
  s.1 * t.2.2 % c.p == t.1 * s.2.2 % c.p && s.2.1 * t.2.2 % c.p == t.2.1 * s.2.2 % c.p

/-! ## Encodings -/

/-- y in little-endian order, with the parity of x in the topmost bit. -/
def edEncode (c : Edwards) (q : EdPt) : Bytes :=
  let zi := invMod q.2.2 c.p
  natLE (q.2.1 * zi % c.p + q.1 * zi % c.p % 2 * 2 ^ (8 * c.len - 1)) c.len

/-- A square root modulo a prime that is 3 modulo 4 or 5 modulo 8, where there is one. -/
def sqrtMod (v p : Nat) : Option Nat :=
  let r := powMod v (if p % 4 = 3 then (p + 1) / 4 else (p + 3) / 8) p
  let t := r * powMod 2 ((p - 1) / 4) p % p
  if r * r % p = v % p then some r else if t * t % p = v % p then some t else none

/-- The point of an encoding: y below p, x of the parity given, and not a zero x of odd parity. -/
def edDecode (c : Edwards) (b : Bytes) : Option EdPt :=
  let n := leNat b
  let sign := n >>> (8 * c.len - 1)
  let y := n % 2 ^ (8 * c.len - 1)
  if b.length ≠ c.len ∨ c.p ≤ y then none
  else
    let yy := y * y % c.p
    match sqrtMod (subMod 1 yy c.p * invMod (subMod c.a (c.d * yy) c.p) c.p % c.p) c.p with
    | none => none
    | some x =>
      if x = 0 ∧ sign = 1 then none
      else some (if x % 2 = sign then x else c.p - x, y, 1)

/-- The public keys that R158 lets pass: canonical, on the curve, of the base point's order. -/
def edPublic (c : Edwards) (b : Bytes) : Option EdPt :=
  (edDecode c b).filter (fun q => edEq c (edMul c c.l q) edZero && !edEq c q edZero)

/-! ## Keys and signatures -/

/-- The curve's hash, of twice the key's length: SHA-512, or SHAKE256 behind dom4 with an empty context. -/
def edHash (c : Edwards) (m : Bytes) : Bytes :=
  if c.len = 32 then sha512 m else shake256 114 (ascii "SigEd448" ++ [0, 0] ++ m)

/-- A seed's secret scalar and prefix. -/
def edExpand (c : Edwards) (seed : Bytes) : Nat × Bytes :=
  let h := if c.len = 32 then sha512 seed else shake256 114 seed
  let top := if c.len = 32 then 254 else 447
  (leNat (h.take c.len) % 2 ^ top / c.cof * c.cof + 2 ^ top, h.drop c.len)

def edPublicKey (c : Edwards) (seed : Bytes) : Bytes := edEncode c (edMul c (edExpand c seed).1 (edBase c))

def edSign (c : Edwards) (seed m : Bytes) : Bytes :=
  let x := edExpand c seed
  let pub := edPublicKey c seed
  let r := leNat (edHash c (x.2 ++ m)) % c.l
  let rb := edEncode c (edMul c r (edBase c))
  let k := leNat (edHash c (rb ++ pub ++ m)) % c.l
  rb ++ natLE ((r + k * x.1) % c.l) c.len

/-- Verification under a key that passed: public key, its point, message, signature. RFC 8032 lets the group equation stand with
or without the cofactor; which of the two the engine takes is a free value of the part (DESIGN CHOICE, log entry 149). -/
def edVerify (c : Edwards) (pub : Bytes) (q : EdPt) (m sig : Bytes) : Bool :=
  let s := leNat (sig.drop c.len)
  match edDecode c (sig.take c.len) with
  | none => false
  | some r =>
    let k := leNat (edHash c (sig.take c.len ++ pub ++ m)) % c.l
    let lhs := edMul c s (edBase c)
    let rhs := edAdd c r (edMul c k q)
    decide (s < c.l) && edEq c (edMul c c.cof lhs) (edMul c c.cof rhs) && (Config.edCofactored || edEq c lhs rhs)

end Sys2Proof.Machine
end

