-- ==== Sys2Proof/Machine/Lattice.lean ====
section
/-! DEFINITION. ML-KEM (FIPS 203) and ML-DSA (FIPS 204), which the manual's lattice programs follow (R146; PRESUMED, log entry 3).
A polynomial is the list of its 256 coefficients, each below the modulus. Rejection sampling stops at the bounds that the two
standards allow. -/

namespace Sys2Proof.Machine

abbrev Poly := List Nat

/-! ## Arithmetic of both schemes -/

def polyAdd (q : Nat) (a b : Poly) : Poly := List.zipWith (fun x y => (x + y) % q) a b
def polySub (q : Nat) (a b : Poly) : Poly := List.zipWith (fun x y => (x + q - y) % q) a b
def polyZero : Poly := List.replicate 256 0
def polySum (q : Nat) (l : List Poly) : Poly := l.foldl (polyAdd q) polyZero

/-- The `n` lowest bits of `k`, in reverse. -/
def bitRev : Nat → Nat → Nat
  | 0, _ => 0
  | n + 1, k => bitRev n (k / 2) + k % 2 * 2 ^ n

/-- The number-theoretic transform over `n` levels below node `k` of its tree, whose factor is `z k`. -/
def nttGo (q : Nat) (z : Nat → Nat) : Nat → Nat → Poly → Poly
  | 0, _, f => f
  | n + 1, k, f =>
    let h := f.length / 2
    let zk := z k
    let t := (f.drop h).map (fun x => zk * x % q)
    nttGo q z n (2 * k) (polyAdd q (f.take h) t) ++ nttGo q z n (2 * k + 1) (polySub q (f.take h) t)

def nttBack (q : Nat) (z : Nat → Nat) : Nat → Nat → Poly → Poly
  | 0, _, f => f
  | n + 1, k, f =>
    let h := f.length / 2
    let a := nttBack q z n (2 * k) (f.take h)
    let b := nttBack q z n (2 * k + 1) (f.drop h)
    let zk := invMod (z k) q
    polyAdd q a b ++ (polySub q a b).map (fun x => zk * x % q)

/-- The inverse transform over `n` levels. -/
def nttInv (q : Nat) (z : Nat → Nat) (n : Nat) (f : Poly) : Poly :=
  let s := invMod (2 ^ n) q
  (nttBack q z n 1 f).map (fun x => s * x % q)

/-- Coefficients of `d` bits, little-endian, and back. -/
def packPoly (d : Nat) (f : Poly) : Bytes := natLE (f.foldr (fun x a => a * 2 ^ d + x) 0) (32 * d)
def unpackPoly (d : Nat) (b : Bytes) : Poly :=
  let n := leNat (b.take (32 * d))
  (List.range 256).map (fun i => (n >>> (d * i)) % 2 ^ d)

/-! ## ML-KEM -/

structure Kem where
  k : Nat
  eta1 : Nat
  du : Nat
  dv : Nat

/-- 0 ML-KEM-512, 1 ML-KEM-768, else ML-KEM-1024. -/
def kemOf (v : Nat) : Kem := if v = 0 then ⟨2, 3, 10, 4⟩ else if v = 1 then ⟨3, 2, 10, 4⟩ else ⟨4, 2, 11, 5⟩

def kemQ : Nat := 3329
def kemZeta (k : Nat) : Nat := powMod 17 (bitRev 7 k) kemQ
def kemNtt : Poly → Poly := nttGo kemQ kemZeta 7 1
def kemInv : Poly → Poly := nttInv kemQ kemZeta 7

/-- Multiplication of transformed polynomials: pairs of coefficients modulo X² - γ. -/
def kemMulGo : Nat → Poly → Poly → Poly
  | i, a0 :: a1 :: a, b0 :: b1 :: b =>
    let g := powMod 17 (2 * bitRev 7 i + 1) kemQ
    (a0 * b0 + a1 * b1 % kemQ * g) % kemQ :: (a0 * b1 + a1 * b0) % kemQ :: kemMulGo (i + 1) a b
  | _, _, _ => []

def kemMul (a b : Poly) : Poly := kemMulGo 0 a b
def kemDot (a b : List Poly) : Poly := polySum kemQ (List.zipWith kemMul a b)

/-- Coefficients below q from a stream, three bytes to two candidates. -/
def kemReject : Bytes → Poly
  | a :: b :: c :: l =>
    ([a.toNat + b.toNat % 16 * 256, b.toNat / 16 + c.toNat * 16].filter (· < kemQ)) ++ kemReject l
  | _ => []

/-- The matrix entry of row `i` and column `j`. -/
def kemEntry (rho : Bytes) (i j : Nat) : Poly := (kemReject (shake128 840 (rho ++ [byte j, byte i]))).take 256
def kemMatrix (c : Kem) (rho : Bytes) : List (List Poly) :=
  (List.range c.k).map (fun i => (List.range c.k).map (fun j => kemEntry rho i j))
def transposed (m : List (List Poly)) : List (List Poly) :=
  (List.range m.length).map (fun i => m.map (fun row => row.getD i []))

/-- The centred binomial distribution: number `n` of the stream under a seed. -/
def kemNoise (eta : Nat) (seed : Bytes) (n : Nat) : Poly :=
  let x := leNat (shake256 (64 * eta) (seed ++ [byte n]))
  (List.range 256).map (fun i =>
    let ones := fun (o : Nat) => (List.range eta).foldl (fun a j => a + (x >>> (2 * eta * i + o + j)) % 2) 0
    (ones 0 + kemQ - ones eta) % kemQ)

def kemSqueeze (d x : Nat) : Nat := (x * 2 ^ (d + 1) + kemQ) / (2 * kemQ) % 2 ^ d
def kemExpand (d y : Nat) : Nat := (y * kemQ * 2 + 2 ^ d) / 2 ^ (d + 1)

/-- The key pair of a seed d: encryption key and secret vector, transformed. -/
def kemPair (c : Kem) (d : Bytes) : Bytes × List Poly :=
  let g := sha3_512 (d ++ [byte c.k])
  let rho := g.take 32
  let sigma := g.drop 32
  let s := (List.range c.k).map (fun i => kemNtt (kemNoise c.eta1 sigma i))
  let e := (List.range c.k).map (fun i => kemNtt (kemNoise c.eta1 sigma (c.k + i)))
  let t := List.zipWith (fun row x => polyAdd kemQ (kemDot row s) x) (kemMatrix c rho) e
  (t.flatMap (packPoly 12) ++ rho, s)

def kemPke (c : Kem) (ek m r : Bytes) : Bytes :=
  let t := (List.range c.k).map (fun i => unpackPoly 12 (ek.drop (384 * i)))
  let y := (List.range c.k).map (fun i => kemNtt (kemNoise c.eta1 r i))
  let e1 := (List.range c.k).map (fun i => kemNoise 2 r (c.k + i))
  let e2 := kemNoise 2 r (2 * c.k)
  let u := List.zipWith (fun row x => polyAdd kemQ (kemInv (kemDot row y)) x) (transposed (kemMatrix c (ek.drop (384 * c.k)))) e1
  let v := polyAdd kemQ (polyAdd kemQ (kemInv (kemDot t y)) e2) ((unpackPoly 1 m).map (kemExpand 1))
  u.flatMap (fun f => packPoly c.du (f.map (kemSqueeze c.du))) ++ packPoly c.dv (v.map (kemSqueeze c.dv))

def kemOpen (c : Kem) (s : List Poly) (ct : Bytes) : Bytes :=
  let u := (List.range c.k).map (fun i => kemNtt ((unpackPoly c.du (ct.drop (32 * c.du * i))).map (kemExpand c.du)))
  let v := (unpackPoly c.dv (ct.drop (32 * c.du * c.k))).map (kemExpand c.dv)
  packPoly 1 ((polySub kemQ v (kemInv (kemDot s u))).map (kemSqueeze 1))

/-- The encapsulation key of the seed d‖z (R82). -/
def kemPublic (v : Nat) (seed : Bytes) : Bytes := (kemPair (kemOf v) (seed.take 32)).1

/-- ML-KEM.Encaps with the random 32 bytes `m`: ciphertext and secret. -/
def kemEncaps (v : Nat) (ek m : Bytes) : Bytes × Bytes :=
  let g := sha3_512 (m ++ sha3_256 ek)
  (kemPke (kemOf v) ek m (g.drop 32), g.take 32)

/-- ML-KEM.Decaps under the seed d‖z, with implicit rejection. -/
def kemDecaps (v : Nat) (seed ct : Bytes) : Bytes :=
  let c := kemOf v
  let k := kemPair c (seed.take 32)
  let m := kemOpen c k.2 ct
  let g := sha3_512 (m ++ sha3_256 k.1)
  if kemPke c k.1 m (g.drop 32) = ct then g.take 32 else shake256 32 (seed.drop 32 ++ ct)

/-! ## ML-DSA -/

structure Dsa where
  k : Nat
  l : Nat
  eta : Nat
  tau : Nat
  gamma1 : Nat
  gamma2 : Nat
  omega : Nat
  lambda : Nat

def dsaQ : Nat := 8380417

/-- 0 ML-DSA-44, 1 ML-DSA-65, else ML-DSA-87. -/
def dsaOf (v : Nat) : Dsa :=
  if v = 0 then ⟨4, 4, 2, 39, 2 ^ 17, (dsaQ - 1) / 88, 80, 128⟩
  else if v = 1 then ⟨6, 5, 4, 49, 2 ^ 19, (dsaQ - 1) / 32, 55, 192⟩
  else ⟨8, 7, 2, 60, 2 ^ 19, (dsaQ - 1) / 32, 75, 256⟩

def dsaZeta (k : Nat) : Nat := powMod 1753 (bitRev 8 k) dsaQ
def dsaNtt : Poly → Poly := nttGo dsaQ dsaZeta 8 1
def dsaInv : Poly → Poly := nttInv dsaQ dsaZeta 8
def dsaMul (a b : Poly) : Poly := List.zipWith (fun x y => x * y % dsaQ) a b
def dsaDot (a b : List Poly) : Poly := polySum dsaQ (List.zipWith dsaMul a b)

/-- The coefficient nearest zero that is `x` modulo q. -/
def dsaCentre (x : Nat) : Int := if dsaQ / 2 < x then (x : Int) - dsaQ else x
def dsaOfInt (x : Int) : Nat := (x % (dsaQ : Int)).toNat
/-- Every coefficient's magnitude is below `b`. -/
def dsaBelow (b : Nat) (f : Poly) : Bool := f.all (fun x => decide ((dsaCentre x).natAbs < b))

def dsaReject : Bytes → Poly
  | a :: b :: c :: l => let x := a.toNat + b.toNat * 256 + c.toNat % 128 * 65536; (if x < dsaQ then [x] else []) ++ dsaReject l
  | _ => []

def dsaMatrix (c : Dsa) (rho : Bytes) : List (List Poly) :=
  (List.range c.k).map (fun r => (List.range c.l).map (fun s => (dsaReject (shake128 1008 (rho ++ [byte s, byte r]))).take 256))

/-- A short polynomial, from half bytes of a stream. -/
def dsaShort (eta : Nat) (seed : Bytes) (n : Nat) : Poly :=
  ((shake256 544 (seed ++ natLE n 2)).flatMap (fun b => [b.toNat % 16, b.toNat / 16]) |>.filter (· < if eta = 2 then 15 else 9)
    |>.map (fun z => (dsaQ + eta - (if eta = 2 then z % 5 else z)) % dsaQ)).take 256

def dsaMask (c : Dsa) (seed : Bytes) (n : Nat) : Poly :=
  let d := Nat.log2 c.gamma1 + 1
  (unpackPoly d (shake256 (32 * d) (seed ++ natLE n 2))).map (fun z => (dsaQ + c.gamma1 - z) % dsaQ)

/-- Places the signs of the challenge from position `i` on; the bytes are the stream's behind the signs. -/
def dsaBallGo (signs base : Nat) : Nat → Nat → Bytes → Poly → Poly
  | 0, _, _, c => c
  | _ + 1, _, [], c => c
  | f + 1, i, b :: l, c =>
    if 256 ≤ i then c
    else if i < b.toNat then dsaBallGo signs base f i l c
    else
      let v := if signs.testBit (i - base) then dsaQ - 1 else 1
      dsaBallGo signs base f (i + 1) l ((c.set i (c.getD b.toNat 0)).set b.toNat v)

/-- The challenge of a commitment hash. -/
def dsaBall (c : Dsa) (h : Bytes) : Poly :=
  let s := shake256 272 h
  dsaBallGo (leNat (s.take 8)) (256 - c.tau) 264 (256 - c.tau) (s.drop 8) polyZero

/-- r1 and r0 with r = r1 2^13 + r0. -/
def dsaRound (r : Nat) : Nat × Int :=
  let r0 : Int := if r % 8192 ≤ 4096 then (r % 8192 : Nat) else (r % 8192 : Nat) - 8192
  (((r : Int) - r0).toNat / 8192, r0)

/-- The high and low parts of a coefficient. -/
def dsaDecompose (g2 r : Nat) : Nat × Int :=
  let m := r % (2 * g2)
  let r0 : Int := if m ≤ g2 then m else (m : Int) - 2 * g2
  if (r : Int) - r0 = dsaQ - 1 then (0, r0 - 1) else (((r : Int) - r0).toNat / (2 * g2), r0)

def dsaHigh (g2 r : Nat) : Nat := (dsaDecompose g2 r).1
def dsaHighBits (g2 : Nat) : Nat := Nat.log2 ((dsaQ - 1) / (2 * g2) - 1) + 1

/-- The high part that a hint corrects. -/
def dsaUseHint (g2 : Nat) (h r : Nat) : Nat :=
  let m := (dsaQ - 1) / (2 * g2)
  let x := dsaDecompose g2 r
  if h = 0 then x.1 else if 0 < x.2 then (x.1 + 1) % m else (x.1 + m - 1) % m

/-- The hints, packed: the positions, then for each polynomial the count so far. -/
def dsaHintPack (c : Dsa) (h : List Poly) : Bytes :=
  let at_ := h.map (fun f => (List.range 256).filter (fun i => f.getD i 0 != 0))
  fit (at_.flatten.map byte) c.omega ++ (List.range c.k).map (fun i => byte ((at_.take (i + 1)).flatten.length))

def ascending : List Nat → Bool
  | a :: b :: l => decide (a < b) && ascending (b :: l)
  | _ => true

/-- The hints of their packed form, none where it is malformed (R158). -/
def dsaHintOpen (c : Dsa) (b : Bytes) : Option (List Poly) :=
  let pos := (b.take c.omega).map (·.toNat)
  let ends := 0 :: (b.drop c.omega).map (·.toNat)
  let run := fun (i : Nat) => (pos.take (ends.getD (i + 1) 0)).drop (ends.getD i 0)
  if (List.range c.k).all (fun i => decide (ends.getD i 0 ≤ ends.getD (i + 1) 0) && decide (ends.getD (i + 1) 0 ≤ c.omega) && ascending (run i))
      && (pos.drop (ends.getD c.k 0)).all (· == 0) then
    some ((List.range c.k).map (fun i => (List.range 256).map (fun j => if (run i).contains j then 1 else 0)))
  else none

/-- What a seed ξ makes: ρ, K, the secret vectors, and t (R82). -/
structure DsaKey where
  rho : Bytes
  key : Bytes
  s1 : List Poly
  s2 : List Poly
  t : List Poly

def dsaKey (c : Dsa) (xi : Bytes) : DsaKey :=
  let h := shake256 128 (xi ++ [byte c.k, byte c.l])
  let rho := h.take 32
  let rp := slice h 32 64
  let s1 := (List.range c.l).map (dsaShort c.eta rp)
  let s2 := (List.range c.k).map (fun r => dsaShort c.eta rp (c.l + r))
  let s1h := s1.map dsaNtt
  ⟨rho, h.drop 96, s1, s2, List.zipWith (fun row e => polyAdd dsaQ (dsaInv (dsaDot row s1h)) e) (dsaMatrix c rho) s2⟩

def dsaPublicOf (k : DsaKey) : Bytes := k.rho ++ k.t.flatMap (fun f => packPoly 10 (f.map (fun x => (dsaRound x).1)))
def dsaPublic (v : Nat) (xi : Bytes) : Bytes := dsaPublicOf (dsaKey (dsaOf v) xi)

def dsaCommit (c : Dsa) (mu : Bytes) (w1 : List Poly) : Bytes := shake256 (c.lambda / 4) (mu ++ w1.flatMap (packPoly (dsaHighBits c.gamma2)))

/-- One pass of the signing loop: the signature, none where it is rejected. -/
def dsaTry (c : Dsa) (k : DsaKey) (a : List (List Poly)) (mu seed : Bytes) (kappa : Nat) : Option Bytes :=
  let y := (List.range c.l).map (fun r => dsaMask c seed (kappa + r))
  let yh := y.map dsaNtt
  let w := a.map (fun row => dsaInv (dsaDot row yh))
  let h := dsaCommit c mu (w.map (·.map (dsaHigh c.gamma2)))
  let ch := dsaNtt (dsaBall c h)
  let times := fun (f : Poly) => dsaInv (dsaMul ch (dsaNtt f))
  let z := List.zipWith (fun f s => polyAdd dsaQ f (times s)) y k.s1
  let v := List.zipWith (fun f s => polySub dsaQ f (times s)) w k.s2
  let beta := c.tau * c.eta
  if !(z.all (dsaBelow (c.gamma1 - beta)) && v.all (fun f => f.all (fun x => decide ((dsaDecompose c.gamma2 x).2.natAbs < c.gamma2 - beta)))) then none
  else
    let t0 := k.t.map (fun f => times (f.map (fun x => dsaOfInt (dsaRound x).2)))
    let hint := List.zipWith (fun f g => List.zipWith (fun x e => if dsaHigh c.gamma2 ((x + e) % dsaQ) = dsaHigh c.gamma2 x then 0 else 1) f g) v t0
    if !t0.all (dsaBelow c.gamma2) || decide (c.omega < (hint.map List.sum).sum) then none
    else some (h ++ z.flatMap (fun f => packPoly (Nat.log2 c.gamma1 + 1) (f.map (fun x => dsaOfInt (c.gamma1 - dsaCentre x)))) ++ dsaHintPack c hint)

def dsaLoop (c : Dsa) (k : DsaKey) (a : List (List Poly)) (mu seed : Bytes) : Nat → Nat → Option Bytes
  | 0, _ => none
  | f + 1, kappa => match dsaTry c k a mu seed kappa with
    | some s => some s
    | none => dsaLoop c k a mu seed f (kappa + c.l)

/-- Signs the message representative μ with 32 random bytes; none after the 814 passes that FIPS 204 lets an implementation
stop at. -/
def dsaSign (v : Nat) (xi mu rnd : Bytes) : Option Bytes :=
  let c := dsaOf v
  let k := dsaKey c xi
  dsaLoop c k (dsaMatrix c k.rho) mu (shake256 64 (k.key ++ rnd ++ mu)) 814 0

/-- Verifies a signature of μ: hint decoding, the bound on z, the commitment. -/
def dsaVerify (v : Nat) (pk mu sig : Bytes) : Bool :=
  let c := dsaOf v
  let hl := c.lambda / 4
  let d := Nat.log2 c.gamma1 + 1
  match dsaHintOpen c (sig.drop (hl + 32 * d * c.l)) with
  | none => false
  | some hint =>
    let z := (List.range c.l).map (fun i => (unpackPoly d (sig.drop (hl + 32 * d * i))).map (fun x => dsaOfInt (c.gamma1 - x)))
    let zh := z.map dsaNtt
    let ch := dsaNtt (dsaBall c (sig.take hl))
    let t := (List.range c.k).map (fun i => dsaNtt ((unpackPoly 10 (pk.drop (32 + 320 * i))).map (fun x => x * 8192 % dsaQ)))
    let w := List.zipWith (fun row f => dsaInv (polySub dsaQ (dsaDot row zh) (dsaMul ch f))) (dsaMatrix c (pk.take 32)) t
    let w1 := List.zipWith (fun h f => List.zipWith (dsaUseHint c.gamma2) h f) hint w
    z.all (dsaBelow (c.gamma1 - c.tau * c.eta)) && dsaCommit c mu w1 == sig.take hl

/-- The message representative under an empty context: public key, message. -/
def dsaMu (pk m : Bytes) : Bytes := shake256 64 (shake256 64 pk ++ [0, 0] ++ m)

/-- ML-DSA-87 verification of a message with an empty context (R39, R144, R312): public key, message, signature. -/
def verifyMldsa (pk m sig : Bytes) : Bool :=
  decide (pk.length = 2592) && decide (sig.length = 4627) && dsaVerify 2 pk (dsaMu pk m) sig

end Sys2Proof.Machine
end

