-- ==== Sys2Proof/Machine/Asym.lean ====
section
/-! DEFINITION. The paddings of the RSA CRT modes (R148; RFC 8017), RSA key material, and the public key of held private material
(R82, R149). PRESUMED, log entry 3. -/

namespace Sys2Proof.Machine

/-! ## RSA -/

def mgf1 (h : HashAlg) (seed : Bytes) (n : Nat) : Bytes :=
  ((List.range ((n + hashLen h - 1) / hashLen h)).flatMap (fun i => hashOf h (seed ++ natBE i 4))).take n

/-- EMSA-PSS for a modulus of `k` bytes, whose topmost bit it leaves 0. -/
def pssEncode (h : HashAlg) (k : Nat) (digest salt : Bytes) : Bytes :=
  let x := hashOf h (zeros 8 ++ digest ++ salt)
  let db := zeros (k - salt.length - hashLen h - 2) ++ [0x01] ++ salt
  let masked := xorB db (mgf1 h x db.length)
  masked.take 1 |>.map (· &&& 0x7F) |>.append (masked.drop 1) |>.append x |>.append [0xBC]

/-- EME-OAEP with SHA-256 and an empty label: the message, none where the decoding fails. -/
def oaepDecode (em : Bytes) : Option Bytes :=
  let seed := xorB (slice em 1 32) (mgf1 .sha256 (em.drop 33) 32)
  let db := xorB (em.drop 33) (mgf1 .sha256 seed (em.length - 33))
  let m := (db.drop 32).dropWhile (· == 0)
  if em.getD 0 0 = 0 ∧ db.take 32 = sha256 [] ∧ m.getD 0 0 = 1 then some (m.drop 1) else none

/-- EMSA-PKCS1-v1_5 of a DER-encoded digest. -/
def pkcs1Encode (k : Nat) (t : Bytes) : Bytes := [0x00, 0x01] ++ List.replicate (k - t.length - 3) 0xFF ++ [0x00] ++ t

/-- The hash of a PSS mode. -/
def pssHash (mode : Nat) : HashAlg := if mode = 1 then .sha256 else if mode = 2 then .sha384 else .sha512

/-- What an RSA CRT mode answers: the result integer, or that its operand has not the mode's form, or a decoding failure. -/
inductive RsaOut where
  | ok (y : Nat)
  | badForm
  | badDecode
  deriving DecidableEq, Repr

/-- An RSA CRT program's mode over the operand integer `x`, for a modulus of `n` bytes (R148). DESIGN CHOICE (log entry 149): the
integer's low-order bytes are the digest that a PSS mode signs, all its significant bytes the encoded digest that mode 5 signs,
and an OAEP message is the result integer's low-order bytes; a PSS salt has the length that the part fixes. -/
def rsaMode (mode n : Nat) (k : RsaKey) (x : Nat) (rnd : Bytes) : RsaOut :=
  if mode = 0 then .ok (rsaPrivate k x)
  else if mode = 4 then
    match oaepDecode (natBE (rsaPrivate k x) n) with
    | some m => .ok (beNat m)
    | none => .badDecode
  else if mode = 5 then
    let t := natBE x (if x = 0 then 0 else Nat.log2 x / 8 + 1)
    if n < t.length + 11 then .badForm else .ok (rsaPrivate k (beNat (pkcs1Encode n t)))
  else
    let h := pssHash mode
    let salt := fit rnd (min (Config.pssSalt mode) (hashLen h))
    if 2 ^ (8 * hashLen h) ≤ x then .badForm
    else .ok (rsaPrivate k (beNat (pssEncode h n (natBE x (hashLen h)) salt)))

/-- Bézout's coefficient of `a`: extended Euclid over `n` divisions. -/
def bezout : Nat → Int → Int → Int → Int → Int
  | 0, _, _, s, _ => s
  | n + 1, a, b, s, t => if b = 0 then s else bezout n b (a % b) t (s - a / b * t)

/-- The inverse modulo any number to which `a` is coprime. -/
def invAny (a m : Nat) : Nat := (bezout (2 * Nat.log2 m + 4) a m 1 0 % (m : Int)).toNat

/-- The CRT form of two primes and an exponent for a modulus of `bits` (R82). -/
def rsaMaterial (bits e : Nat) (pq : Nat × Nat) : Bytes :=
  let h := bits / 16
  [pq.1, pq.2, invAny e (pq.1 - 1), invAny e (pq.2 - 1), invAny pq.2 pq.1].flatMap (fun x => natBE x h) ++ natBE e 8

/-! ## Public keys -/

/-- The public key of private material by algorithm code, as its generation gives it (R82, R89, R146, R149): the modulus
for RSA; the point; A; u; the lattice schemes' encodings. -/
def publicKey (alg : Nat) (mat : Bytes) : Bytes :=
  if alg < 0x30 then
    let bits := if alg = 0x20 then 2048 else if alg = 0x21 then 3072 else if alg = 0x22 then 4096 else 8192
    natBE (rsaN (rsaParse bits mat)) (bits / 8)
  else if alg ≤ 0x32 then
    let c := curveOf (alg - 0x30)
    ecEncode c (ecMul c (beNat mat) (ecBase c))
  else if alg ≤ 0x35 then edPublicKey (edwardsOf (alg - 0x34)) mat
  else if alg = 0x36 then x25519 mat (natLE 9 32)
  else if alg ≤ 0x52 then kemPublic (alg - 0x50) mat
  else dsaPublic (alg - 0x54) mat

end Sys2Proof.Machine
end

