-- ==== Sys2Proof/Machine/State.lean ====
section
/-! DEFINITION. The state of the Norni NK8 as plain data. Every field carries its reset value as the
default of its structure; `State.reset` is the die with por_n asserted, main power on, before the start-up
of R472. Tables (`Tab`) list only entries that differ from their default. -/

namespace Sys2Proof.Machine

/-! ## Die, regions and blocks -/

/-- One digest fragment, command or key owner is named by world and tenant (R18, R19). -/
structure Owner where
  world : World
  tenant : Nat
  deriving DecidableEq, Repr, Inhabited

/-- An entry of a bolt pipeline's DUKPT cache (R118). -/
structure DkEntry where
  owner : Owner
  entry : Nat
  gen : Nat
  kind : Nat
  ikid : List Byte
  prefix_ : Nat
  key : List Byte
  deriving DecidableEq, Repr

/-- What a derivation in progress will enter into the cache, and its steps left (R118, R130). -/
structure DkPending where
  cid : Nat
  steps : Nat
  entries : List DkEntry
  deriving DecidableEq, Repr

/-- An event that a command logs when its outcome is given. -/
structure LateEv where
  code : Nat
  src : Nat
  p0 : Nat
  p1 : Nat
  p2 : Nat
  deriving DecidableEq, Repr

/-- A bolt pipeline (R102, R118, R134 to R136). `policy` is the installed table, none for the default; `stepLvl` is the
context whose step is in progress. -/
structure BoltS where
  out : Bool := false
  stepLvl : Option Nat := none
  dk : List DkEntry := []
  dkPend : List DkPending := []
  dkFlush : Bool := false
  policy : Option (List Byte) := none
  policyVer : Word32 := 0
  policyPending : Bool := false
  /-- The installed table is the default one after a loss (R115, R136). -/
  policyLost : Bool := false
  cmds : Word64 := 0
  hits : Word64 := 0
  misses : Word64 := 0
  verifyFails : Word64 := 0
  policyDenies : Word64 := 0
  deriving DecidableEq, Repr

/-- A digest engine (R198, R199). -/
structure DigS where
  lane0Out : Bool := false
  lane1Out : Bool := false
  stopping : Bool := false
  /-- The contexts whose steps are in progress in lanes 0 and 1. -/
  step0 : Option Nat := none
  step1 : Option Nat := none
  cmds : Word64 := 0
  bytes : Word64 := 0
  keysMade : Word64 := 0
  verifyFails : Word64 := 0
  deriving DecidableEq, Repr

/-- A region's DRBG and its random queue (R206 to R210, R223, R224). -/
structure DrbgS where
  instantiated : Bool := false
  katPassed : Bool := false
  key : List Byte := []
  v : List Byte := []
  reqsLeft : Nat := 0
  lastReseed : Nat := 0
  periodEnded : Bool := false
  stopped : Bool := false
  stopping : Bool := false
  katRunning : Bool := false
  katByCtrl : Bool := false
  queue : List Byte := []
  /-- Generates are refused until the next reseed: the seed period ended with the supply stopped (R216, R224). -/
  noSeed : Bool := false
  /-- The state registers of the shadow instance (R214). -/
  shadow : List Byte := []
  /-- The first of the two seed blocks of an instantiation that waits for its second (R204, R206). -/
  seedHalf : List Byte := []
  generates : Word64 := 0
  reseeds : Word64 := 0
  swBytes : Word64 := 0
  swRetries : Word64 := 0
  deriving DecidableEq, Repr

/-- The states of a task (R302). -/
inductive TaskState where
  | free | ready | running | waiting | done | cancelled
  deriving DecidableEq, Repr

/-- What a WAITING task waits for (R290, R291). -/
inductive WaitKind where
  | none | event | until_ | eventUntil
  deriving DecidableEq, Repr

/-- A segment descriptor (R281). `ms` marks the message window, whose target is host memory. -/
structure Seg where
  base : Nat := 0
  limit : Nat := 0
  rights : Byte := 0
  world : World := .K
  tenant : Nat := 0
  reservedZero : Bool := true
  ms : Bool := false
  deriving DecidableEq, Repr, Inhabited

/-- How a task is ending (R294, R296, R304). -/
inductive Ending where
  | exit | trap | cancel | limit
  deriving DecidableEq, Repr

/-- A trap record of EV_4150 (R293, R295). -/
structure TrapRec where
  cause : Nat
  kind : Nat
  seg : Nat
  p2 : Word32
  pc : Word32
  master : Nat
  deriving DecidableEq, Repr

/-- A task descriptor with its context record (R302, R308). `ds` and `rs` are the entries held in the
core, top first; `dsp` and `rsp` are the spill pointers of R268. -/
structure Task where
  state : TaskState := .free
  priority : Nat := 0
  age : Nat := 0
  stamp : Nat := 0
  home : Nat := 0
  latch : Bool := false
  started : Bool := false
  cancel : Bool := false
  dmaGrant : Nat := 0
  appletId : Nat := 0
  inst : Nat := 0
  entry : Nat := 0
  session : Word32 := 0
  seq : Word32 := 0
  owner : Owner := {world := .K, tenant := 0}
  seen : Word32 := 0
  limit : Nat := 0
  wake : Nat := 0
  wait : WaitKind := .none
  pc : Word32 := 0
  ds : List Word32 := []
  rs : List Word32 := []
  dsp : Nat := 0
  rsp : Nat := 0
  segs : List Seg := []
  call : Nat := 0
  /-- A cancellation that waits for the instruction in progress (R304). -/
  stop : Option Ending := none
  ending : Option Ending := none
  trap : Option TrapRec := none
  /-- The host buffers that the message window shows: address and length of each piece (R313). -/
  inSeg : List (Word64 × Nat) := []
  inLen : Nat := 0
  outSeg : List (Word64 × Nat) := []
  outCap : Nat := 0
  issued : Nat := 0
  deriving DecidableEq, Repr

/-- An applet instance placed in a region (R301, R315, R316). -/
structure Inst where
  inst : Nat
  appletId : Nat
  version : Word32
  csBase : Nat
  csLen : Nat
  g1Base : Nat
  g1Len : Nat
  xsBase : Nat
  xsLen : Nat
  deriving DecidableEq, Repr

/-- A tumbler scheduler (R302, R321, R322). -/
structure TmbS where
  tdSel : Nat := 0
  tasks : Tab Task := []
  insts : List Inst := []
  draining : Bool := false
  stopping : Bool := false
  standIn : Option Nat := none
  clock : Nat := 0
  dispatches : Word64 := 0
  preempts : Word64 := 0
  cancels : Word64 := 0
  migrations : Word64 := 0
  deriving DecidableEq, Repr

/-- A core slot (R288, R298 to R300). -/
structure CoreS where
  task : Option Nat := none
  sev : Word32 := 0
  out : Bool := false
  stopping : Bool := false
  halt : Bool := false
  halted : Bool := false
  step : Bool := false
  p1 : Word32 := 0
  p2 : Word32 := 0
  p3 : Word32 := 0
  insns : Word64 := 0
  cycles : BitVec 48 := 0
  traps : Word64 := 0
  spills : Word64 := 0
  waits : Word64 := 0
  deriving DecidableEq, Repr

/-- What a service action or a drain is doing in a region (R486, R487). -/
inductive RegionPhase where
  | up | draining | resetting | held | gated | out | halted
  deriving DecidableEq, Repr

/-- A region (R10, R464, R487). `cause` is the region cause of R528, `startMs` the timebase at the start. -/
structure RegionS where
  phase : RegionPhase := .out
  cause : Nat := 7
  startTb : Nat := 0
  rehomed : Nat := 0
  bolt : BoltS := {}
  dig : DigS := {}
  drbg : DrbgS := {}
  tmb : TmbS := {}
  cores : Tab CoreS := []
  xbar : List (Port × Nat × Nat) := []
  deriving DecidableEq, Repr

/-- The die: containment and safe state (R10 to R13, R528, R529). -/
structure DieS where
  safe : Bool := false
  regions : Tab RegionS := []
  /-- Blocks in a block reset, with the reason of EV_4110. -/
  resetting : List (Blk × Nat) := []
  /-- Blocks out of service that no other field records. -/
  out : List Blk := []
  /-- Spare rows used, by tile number within a block (R10). -/
  spareRows : List (Blk × Nat × Nat) := []
  gatedBlocks : List Blk := []
  deriving DecidableEq, Repr

/-! ## Worlds, lifecycle, custodians (02) -/

/-- The lifecycle states (R29). -/
inductive LcState where
  | manufacture | provisioned | develop | operational | quarantine | retired
  deriving DecidableEq, Repr, Inhabited

/-- A lifecycle transition in progress (R32): `intent` once step 4 has written the record. -/
structure Transition where
  from_ : LcState
  to_ : LcState
  cid : Nat
  mask : BitVec 16
  intent : Bool
  deriving DecidableEq, Repr

/-- A live quorum: the mask of R24 and the seconds of lifetime it was formed with (R25). -/
structure Quorum where
  mask : BitVec 16
  formedTb : Nat
  life : Nat
  deriving DecidableEq, Repr

/-- CUS_ENROL or CUS_REGISTER in progress (R27, R38): cards that bound, with the key they gave, and
whether each has authenticated. -/
structure Enrol where
  cid : Nat
  enrol : Bool
  m : Nat
  n : Nat
  base : Nat
  cards : List (Nat × List Byte × Bool)
  deriving DecidableEq, Repr

/-- Lifecycle and custodian state (R24 to R38). -/
structure LcS where
  state : LcState := .manufacture
  intent : Option (LcState × LcState × BitVec 40) := none
  /-- The event sequence number that tier-0 record 0x00 keeps (R32, R446). -/
  keptSeq : Nat := 0
  transition : Option Transition := none
  quorum : Option Quorum := none
  counted : List Nat := []
  cards : Tab (List Byte) := []
  m : Nat := 0
  setVersion : Nat := 0
  enrol : Option Enrol := none
  deriving DecidableEq, Repr

/-! ## Host interface (03) -/

/-- The outcome of a command (R60), with the bytes for its output buffer. -/
structure Res where
  status : BitVec 16
  detail : BitVec 16
  outLen : Nat
  result : Word32
  out : List Byte
  deriving DecidableEq, Repr

/-- Where a command stands on its way (R68, R69, R72). -/
inductive Stage where
  | held
  | waiting
  | running
  | done (r : Res)
  deriving DecidableEq, Repr

/-- Where a command waits or runs (R102, R151, R181). The list order of `HifS.cmds` is the order of each queue. -/
inductive Loc where
  | none
  | boltQ (r : Region) (lvl : Nat)
  | boltCtx (r : Region) (lvl : Nat) (steps : Nat)
  | digQ (r : Region) (l : Lane) (lvl : Nat)
  | digCtx (r : Region) (l : Lane) (lvl : Nat) (steps : Nat)
  | shortQ (lvl : Nat)
  | longQ (lvl : Nat)
  | wsQ (e : Engine) (lvl : Nat)
  | engine (e : Engine)
  deriving DecidableEq, Repr

/-- The task that issued a command through a coprocessor (R285). `res` is segment and offset. -/
structure TaskRef where
  region : Region
  task : Nat
  cp : Nat
  resSeg : Nat
  resOff : Nat
  hs : Option Nat
  /-- The master ID of the core that issued it. -/
  number : Nat
  /-- Its place among the task's issues. -/
  issue : Nat
  deriving DecidableEq, Repr

/-- Where a command came from. -/
inductive Origin where
  | host
  | task (t : TaskRef)
  deriving DecidableEq, Repr

/-- A key with its directory entry (R77 to R97). -/
structure Key where
  entry : Nat
  owner : Owner
  index : Nat
  gen : Nat
  hint : Nat
  alg : Nat
  lenBytes : Nat
  life : Nat
  usage : BitVec 16
  export_ : Nat
  pinned : Bool
  depth : Nat
  derived : Bool
  ancCeremony : Bool
  ancImported : Bool
  ancGenerated : Bool
  dest : BitVec 16
  /-- The material while resident. -/
  mat : List Byte
  /-- The material in the persistent record (R93). -/
  stored : List Byte
  kcv : List Byte
  created : Word32
  session : Word32
  resident : Bool
  spilled : Bool
  inBuffer : Bool
  lost : Bool
  persistSlot : Option Nat
  deriving DecidableEq, Repr

/-- A command the NK8 has fetched or a task has issued (R56, R20). -/
structure Cmd where
  cid : Nat
  origin : Origin := .host
  fn : Nat := 0
  qp : Nat := 0
  code : Nat := 0
  flags : BitVec 16 := 0
  session : Word32 := 0
  seq : Word32 := 0
  tag : Word32 := 0
  ha : Word64 := 0
  hb : Word64 := 0
  inPtr : Word64 := 0
  inLen : Nat := 0
  outCap : Nat := 0
  outPtr : Word64 := 0
  params : List Byte := []
  owner : Owner := {world := .C, tenant := 0}
  prio : Nat := 0
  qmask : BitVec 16 := 0
  /-- The quorum under which it was accepted has ended since (R26). -/
  qPast : Bool := false
  crc : BitVec 16 := 0
  stage : Stage := .waiting
  /-- Accepted under R68; a refusal under R6, R63 or as gap or stale is not. -/
  accepted : Bool := true
  /-- Input and output-buffer bytes of a command that a task issued (R285). -/
  taskIn : List Byte := []
  taskOut : List Byte := []
  taskFrags : List Frag := []
  /-- Where the output goes: address and room of each piece (R58). -/
  outSeg : List (Word64 × Nat) := []
  /-- The outcome of a started command that its engine has formed and not yet given (R102, R181). -/
  ready : Option Res := none
  /-- The keys whose bits a started digest command holds: handle_a's, and those of the fragments absorbed (R87, R186). -/
  taken : List Key := []
  /-- Events that a started bolt command logs with its outcome (R105, R129). -/
  late : List LateEv := []
  loc : Loc := .none
  /-- A replay of an accepted command, judged when the original ends (R70). -/
  dupOf : Option Nat := none
  /-- Ended by the ST_RETRY of a lower command before it started (R69): posted in its turn, and without a sequel. -/
  swept : Bool := false
  /-- Marks a completion posted as a duplicate (R70). -/
  duplicate : Bool := false
  /-- A duplicate judged at its original's completion: posted directly after it (R70). -/
  follows : Bool := false
  /-- The completion is not to be posted (R74). -/
  silent : Bool := false
  /-- What the command waits for, by the number its engine gives it (a key entry, a request, a task). -/
  waitOn : List Nat := []
  /-- Values a running command carries between its steps. -/
  scratch : List Nat := []
  deriving DecidableEq, Repr

/-- One entry of a replay cache (R70). -/
structure Replay where
  seq : Word32
  code : Nat
  status : BitVec 16
  detail : BitVec 16
  outLen : Nat
  crc : BitVec 16
  deriving DecidableEq, Repr

/-- A session (R63 to R70), or a function's control session. -/
structure Sess where
  isOpen : Bool := false
  gen : Nat := 0
  fn : Nat := 0
  home : Region := 0
  a : Word32 := 0
  cache : List Replay := []
  closing : Option Nat := none
  applet : Option (Nat × Nat) := none
  hook : Bool := false
  otherVlt : Bool := false
  deriving DecidableEq, Repr

/-- A function page (R46 to R49) with the function's MSI-X state (R62). -/
structure FnS where
  enable : Bool := false
  enableHeld : Bool := false
  stopping : Bool := false
  cfgError : Bool := false
  aqCfg : Word32 := 0
  sqBase : Word64 := 0
  cqBase : Word64 := 0
  sessQuota : Nat := 1024
  msixEnable : Bool := false
  funcMask : Bool := false
  /-- Mask bits of vectors; a vector not listed is masked (log entry 44). -/
  vecMasked : Tab Bool := []
  vecPending : List Nat := []
  /-- What configuration requests set (R41): D3hot, the sizes, and ECRC generation and checking. -/
  d3hot : Bool := false
  maxPayload : Nat := 128
  maxReadRequest : Nat := 512
  ecrcGen : Bool := false
  ecrcCheck : Bool := false
  /-- The uncorrectable errors that AER holds (R41, R507). -/
  aer : Word32 := 0
  /-- The words of the MSI-X table that hold addresses and data (R44), by word number. -/
  msixTab : Tab Word32 := []
  accepted : Word64 := 0
  completed : Word64 := 0
  deriving DecidableEq, Repr

/-- A queue pair (R50 to R55, R62). -/
structure Qp where
  live : Bool := false
  stopping : Bool := false
  err : Bool := false
  sqDepth : Nat := 0
  cqDepth : Nat := 0
  sqBase : Word64 := 0
  cqBase : Word64 := 0
  vector : Nat := 0
  prio : Nat := 0
  coalCount : Nat := 0
  coalTime : Nat := 0
  sqHead : Nat := 0
  sqTail : Nat := 0
  cqHead : Nat := 0
  cqPost : Nat := 0
  phase : Bool := true
  coalN : Nat := 0
  boost : Nat := 0
  /-- The next entry's session is at its limit of 256 commands (R67). -/
  sessFull : Bool := false
  /-- The QUEUE_DELETE that waits for the pair's commands (R52). -/
  delCid : Option Nat := none
  deriving DecidableEq, Repr

/-- What the NK8 sends out of the package (R61, R62, R43, R494, R520, R323). -/
inductive Tx where
  | output (ptr : Word64) (bytes : List Byte)
  | completion (fn : Nat) (qp : Nat) (index : Nat) (entry : List Byte)
  | msix (fn : Nat) (vector : Nat)
  | configRetry (fn : Nat)
  | configDone (fn : Nat)
  | configData (fn : Nat) (v : Word64)
  | readData (v : Word32)
  | completerAbort
  | aer (fn : Nat)
  | monitorOk (words : List Word32)
  | monitorEr (code : Nat)
  | spi (code : Nat) (words : List Word32)
  | card (slot : Nat) (bytes : List Byte)
  | hostStore (ptr : Word64) (bytes : List Byte)
  deriving DecidableEq, Repr

/-- The host interface (R41 to R76). -/
structure HifS where
  numVfs : Nat := 0
  vfEnable : Bool := false
  fns : Tab FnS := []
  qps : Tab Qp := []
  /-- The entry of `qps` after the one last served, by priority level (R55). -/
  rr : Tab Nat := []
  nextCid : Nat := 1
  cmds : List Cmd := []
  sess : Tab Sess := []
  ctl : Tab Sess := []
  nextFresh : Nat := 0
  freed : List Nat := []
  bound : List Nat := []
  linkUp : Bool := true
  duplicates : Word64 := 0
  tx : List Tx := []
  deriving DecidableEq, Repr

/-! ## Key store (04) -/

/-- Where a key's bits are (R89, R97). -/
inductive KeyState where
  | resident | spilled | lost
  deriving DecidableEq, Repr

/-- The key store (R77 to R100). `keys` is in least-recently-used order, oldest first. -/
structure KsS where
  keys : List Key := []
  nextFresh : List (Owner × Nat) := []
  freed : List (Owner × Nat) := []
  gens : List (Owner × Nat × Nat) := []
  entryFresh : Nat := 0
  entryFreed : List Nat := []
  slotFresh : Nat := 0
  slotFreed : List Nat := []
  dirQuota : Tab Nat := []
  persQuota : Tab Nat := []
  volKey : List Byte := []
  spillKey : List Byte := []
  /-- Spill records not yet written to P63: directory entry and the 4 KiB payload, oldest first (R95). -/
  spillBuf : List (Nat × List Byte) := []
  spillReady : Bool := false
  /-- Fetches over private wires that wait for their key's bits (R86 step 3). -/
  asks : List KeyReq := []
  ready : Bool := false
  /-- The volatile handle key is still to be drawn: no DRBG served at start-up (R79, R208). -/
  keyDue : Bool := false
  rot : Nat := 0
  fetches : Word64 := 0
  spills : Word64 := 0
  refills : Word64 := 0
  drops : Word64 := 0
  wraps : Word64 := 0
  unwraps : Word64 := 0
  combines : Word64 := 0
  deriving DecidableEq, Repr

/-- An XLATE_POLICY_WRITE that waits for its table's installation, with the policy it found (R26, R114). -/
structure PolPending where
  cid : Nat
  ver : Word32
  oldRec : Option (List Byte)
  oldVer : Word32
  oldLost : Bool
  deriving DecidableEq, Repr

/-- The committed translation policy (R112 to R115), and the writes that wait, oldest first. -/
structure PolicyS where
  rec_ : Option (List Byte) := none
  ver : Word32 := 0
  defaultAfterLoss : Bool := false
  pend : List PolPending := []
  deriving DecidableEq, Repr

/-! ## Barrel engines (06) -/

/-- A workspace item (R141, R142). -/
structure WsItem where
  count : Nat
  secret : Bool
  exportCap : Nat
  anc : BitVec 3
  bits : Nat
  data : List Byte
  deriving DecidableEq, Repr

/-- A session's workspace (R154, R162). -/
structure Workspace where
  session : Word32
  engine : Engine
  len : Nat
  slots : Nat
  void : Bool
  items : Tab WsItem
  /-- The engine's slots that the local slots 0, 1, … stand in (R154). -/
  place : List Nat := []
  deriving DecidableEq, Repr

/-- A barrel engine (R160 to R167, R175, R179). -/
structure EngS where
  out : Bool := false
  stopping : Bool := false
  aborting : Bool := false
  running : Option Nat := none
  image : Bool := false
  katDue : Bool := false
  /-- The length code that its operand memory is laid out in (R140). -/
  len : Nat := 3
  /-- The guard words, 8 bytes a slot from slot 0 (R142). -/
  guards : List Byte := []
  /-- The items of the running job in the direct area, from slot W on (R140). -/
  direct : List WsItem := []
  /-- A role assignment held until a shutdown ends (R164). -/
  heldRole : Option Nat := none
  /-- Mismatches and guard violations, and the mismatches alone (R160, R159). -/
  faultTimes : List Nat := []
  mismatchTimes : List Nat := []
  jobs : Word64 := 0
  busy : BitVec 48 := 0
  mismatches : Word64 := 0
  deriving DecidableEq, Repr

/-- A role (R137, R138, R177) and a handover of it in progress (R166). -/
structure RoleS where
  engine : Option Engine := none
  len : Nat := 3
  lenNext : Nat := 3
  /-- The spare that takes over, and the service command that asked for it, 0 for none. -/
  handover : Option (Engine × Nat) := none
  /-- The engine last removed from the role, 0x1F for none, and the image it ran. -/
  removed : Nat := 31
  image : Bool := false
  deriving DecidableEq, Repr

/-- A microcode or Keeper image record (R144, R168, R490). -/
structure ImageRec where
  version : Word32
  svn : Word32
  resetRequired : Bool
  /-- The catalogue of a microcode image, 64 bytes an entry (R145), and its program code; empty for a Keeper image. -/
  cat : List Byte
  code : List Byte := []
  deriving DecidableEq, Repr

/-- The barrel array (R137 to R179). -/
structure BrlS where
  /-- Engine Bnn holds role En, n from 0 to 15 (R137). -/
  roles : Tab RoleS := (List.finRange 16).map (fun n => (n.val, { engine := some (Fin.castLE (by decide) n) }))
  engs : Tab EngS := []
  ws : List Workspace := []
  longPool : Bool := true
  poolEmptied : Bool := false
  ucodeA : Option ImageRec := none
  ucodeB : Option ImageRec := none
  selectB : Bool := false
  rollPhase : Nat := 0
  rollRole : Nat := 0
  rollCid : Option Nat := none
  /-- An engine that takes no job: it is to be updated in place, or with `rollRetest` has failed and is to be tested again. -/
  rollHold : Option Nat := none
  rollRetest : Bool := false
  /-- The role that the held engine left vacant and takes again (R169 step 2). -/
  rollFor : Option Nat := none
  /-- What UCODE_INSTALL answers when the reversal ends (R170). -/
  rollRes : Option Res := none
  jobs : Word64 := 0
  faults : Word64 := 0
  aborts : Word64 := 0
  kats : Word64 := 0
  deriving DecidableEq, Repr

/-! ## Entropy (08) -/

/-- A noise source (R200 to R203, R213, R220). -/
structure SrcS where
  isolated : Bool := false
  heldOut : Bool := false
  injecting : Bool := false
  startup : Bool := true
  failTimes : List Nat := []
  rcFails : Nat := 0
  apFails : Nat := 0
  windows : List Byte := []
  lastBit : Bool := false
  runLen : Nat := 0
  deriving DecidableEq, Repr

/-- The conditioner and seed supply (R204, R205, R220 to R222). -/
structure EntS where
  srcs : Tab SrcS := []
  reservoir : List (List Byte) := []
  stopped : Bool := false
  katFailed : Bool := false
  katFailedTwice : Bool := false
  katRunning : Bool := false
  katByCtrl : Bool := false
  kats : List KatTarget := []
  katCid : Option Nat := none
  katFails : Nat := 0
  /-- The state registers of the conditioner's shadow instance (R214). -/
  shadow : List Byte := []
  injectCid : Option Nat := none
  reseedQ : List Region := []
  rr : Nat := 0
  blocks : Word64 := 0
  deriving DecidableEq, Repr

/-! ## Vault (09) -/

/-- A counter-tree node (R231): 64 minors and the major. -/
structure Node where
  minors : List Nat := []
  major : Nat := 0
  deriving DecidableEq, Repr, Inhabited

/-- A cached node, keyed by level and index in `VltS.cache`. -/
structure Line where
  level : Nat
  index : Nat
  node : Node
  dirty : Bool
  used : Nat
  deriving DecidableEq, Repr

/-- A vault partition (R226, R235, R253, R266). -/
structure Part where
  owner : Nat := 0
  state : Nat := 0
  gen : Nat := 0
  committed : Nat := 0
  label : Nat := 0
  suspect : List Nat := []
  key : List Byte := []
  salt : Word64 := 0
  /-- Step 2 of R253 has not been made: the partition is online for reads only. -/
  pendingGen : Bool := false
  /-- The write generation is exhausted (R235). -/
  exhausted : Bool := false
  /-- The directory entry of the partition key. -/
  keyEntry : Nat := 0
  deriving DecidableEq, Repr

/-- A request to the host (R240 to R244). -/
structure VReq where
  id : Nat
  kind : Nat
  fn : Nat
  part : Nat
  epoch : Nat
  index : Nat
  mask : Word64
  nodes : List (Nat × Nat)
  payload : List Byte
  posted : Bool
  waiters : List Nat
  /-- A timed-out ATTACH before its repost (R244). -/
  held : Bool
  /-- The supply taken for a REKEY_GROUP in steps 1 to 3 of a commit, with its payload: the group is rekeyed at step 3 (R260). -/
  supply : Option (Nat × List Byte) := none
  deriving DecidableEq, Repr

/-- A commit in progress (R249). `step` counts the steps done; `left` are the COMMITs outstanding. -/
structure CommitS where
  epoch : Nat
  step : Nat
  joined : List Nat
  byReg : Bool
  answered : Word64
  l6 : Tab Node
  deriving DecidableEq, Repr

/-- A ring slot (R251). `l6` stands with each node's MAC, `rootMac` is the root's (R232). -/
structure RingSlot where
  epoch : Nat := 0
  root : Node := {}
  rootMac : List Byte := []
  committed : Tab Nat := []
  l6 : Tab Node := []
  l6Macs : Tab (List Byte) := []
  gens : Tab Nat := []
  slotMac : List Byte := []
  deriving DecidableEq, Repr

/-- The vault engine (R225 to R266). -/
structure VltS where
  parts : Tab Part := []
  cache : List Line := []
  root : Node := {}
  commL6 : Tab Node := []
  /-- The slots of the root ring written since the general area was last erased, by slot number (R251). -/
  ring : Tab RingSlot := []
  /-- The base epoch of keep record 0x30: the epoch that last filled slot 0 (R251). -/
  ringBase : Nat := 0
  openEpoch : Nat := 0
  lastEpoch : Nat := 0
  ringSlot : Nat := 0
  commit : Option CommitS := none
  pending : List Nat := []
  pendingReg : Bool := false
  reqs : List VReq := []
  nextReq : Nat := 1
  clock : Nat := 0
  rollback : Bool := false
  starvedLogged : List Nat := []
  /-- A forced write-back goes on down to 96,744 dirty lines (R237). -/
  forcing : Bool := false
  /-- The keys whose refill has dropped the clean lines of its suspect path (R255). -/
  refetched : List Nat := []
  stopping : Bool := false
  ready : Bool := false
  reads : Word64 := 0
  writes : Word64 := 0
  rekeys : Word64 := 0
  nodeFetches : Word64 := 0
  nodeStores : Word64 := 0
  integrity : Word64 := 0
  commits : Word64 := 0
  hits : Word64 := 0
  misses : Word64 := 0
  evictions : Word64 := 0
  deriving DecidableEq, Repr

/-! ## Applets (11) -/

/-- A recorded applet image (R311, R315). -/
structure Applet where
  id : Nat
  version : Word32
  svn : Word32
  csLen : Nat
  g1Len : Nat
  xsLen : Nat
  dsLen : Nat
  ssLen : Nat
  hsSlots : Nat
  g0Len : Nat
  dmaGrant : Nat
  flags : Byte
  limitMs : Nat
  entries : List Nat
  code : List Byte
  inst : Nat
  /-- The image's general record, instance 0 to 32 (R390). -/
  rec_ : Nat
  /-- Replaced by an update that still drains (R316). -/
  old : Bool
  deriving DecidableEq, Repr

/-- Applets and the maker chain (R312 to R316). -/
structure AplS where
  applets : List Applet := []
  nextInst : Nat := 1
  minSvns : Tab Word32 := []
  chain : Option (List Byte) := none
  deriving DecidableEq, Repr

/-! ## Card slots and ceremonies (12) -/

/-- CRD_STATUS.state (R352). -/
inductive CardState where
  | empty | debounce | activating | atr | speed | auth | ready | turn | done | refused | stopping | disabled | bind
  deriving DecidableEq, Repr

/-- Which message of the speed path or the custodian protocol the card is to answer (R328, R329, R337). -/
inductive CardAwait where
  | none | switchReply | checkEcho | pps | ifs | select | bindResp | authInit | authFinish | getComponent | putComponent | cardDone | resynch
  deriving DecidableEq, Repr

/-- The parameters an ATR gives (R326). -/
structure AtrInfo where
  ta1 : Option Byte := none
  specific : Bool := false
  extraGuard : Nat := 0
  ifsc : Nat := 32
  bwi : Nat := 4
  cwi : Nat := 13
  crc : Bool := false
  xi : Nat := 0
  ui : Nat := 0
  mbCap : Option Nat := none
  deriving DecidableEq, Repr

/-- What a slot does once a deactivation has reached step 6 (R324, R326, R328, R335). -/
inductive CardThen where
  | settle | refused | again | againLater
  deriving DecidableEq, Repr

/-- A card slot (R323 to R352). `out` is what the present command APDU still has to send. -/
structure SlotS where
  state : CardState := .empty
  await : CardAwait := .none
  detLow : Bool := false
  vccEnN : Bool := true
  vccSel : Nat := 0
  rst : Bool := false
  clkOn : Bool := false
  clkStopped : Bool := false
  /-- The level at which card_clk stands while it does not run (R334). -/
  clkHigh : Bool := false
  /-- card_io is driven low; it is released to reception otherwise (R325, R335). -/
  ioLow : Bool := true
  enable : Bool := true
  deactivating : Bool := false
  held : Bool := false
  andThen : CardThen := .settle
  actTb : Nat := 0
  cfg : Word32 := 0x00141433
  clkTail : Nat := 1860
  vccSettle : Nat := 500
  wtxMax : Nat := 10
  cls : Nat := 0
  atr : List Byte := []
  info : AtrInfo := {}
  badAtrs : Nat := 0
  mbFailed : Bool := false
  noPps : Bool := false
  path : Nat := 0
  div : Nat := 0
  etuM1 : Nat := 0
  ifsc : Nat := 0
  busyCode : Nat := 0
  sent : List Byte := []
  nsOut : Bool := false
  nsIn : Bool := false
  retrans : Nat := 0
  resynchs : Nat := 0
  wtxTotal : Nat := 0
  wtxNext : Nat := 0
  chainIn : List Byte := []
  out : List Byte := []
  regIndex : Option Nat := none
  authed : Bool := false
  ephPriv : List Byte := []
  cardKey : List Byte := []
  transcript : List Byte := []
  sigC : List Byte := []
  ksm : List Byte := []
  ctrOut : Nat := 0
  ctrIn : Nat := 0
  activations : Word64 := 0
  blocks : Word64 := 0
  retransN : Word64 := 0
  resynchN : Word64 := 0
  fallbacks : Word64 := 0
  deriving DecidableEq, Repr

/-- A ceremony (R340 to R344): kind 1 combine, 2 split. -/
structure Ceremony where
  cid : Nat
  kind : Nat
  alg : Nat
  keyIndex : Nat
  k : Nat
  taken : Nat
  refused : Nat
  mask : BitVec 16
  keyId : List Byte
  kcv : List Byte
  lenBytes : Nat
  acc : List Byte
  comps : List (List Byte)
  turns : List Nat
  deriving DecidableEq, Repr

structure CrdS where
  slots : Tab SlotS := []
  cer : Option Ceremony := none
  deriving DecidableEq, Repr

/-! ## Fabric (13) -/

/-- A keyway rule (R363). -/
structure KwRule where
  valid : Bool := false
  priority : Nat := 0
  base : Nat := 0
  limit : Nat := 0
  rights : BitVec 12 := 0
  midValue : Byte := 0
  midMask : Byte := 0
  tenantAny : Bool := false
  tenant : Nat := 0
  deriving DecidableEq, Repr, Inhabited

/-- An access stalled in UPDATE (R366). `core` is the segment and offset of a task's own access, `by_` the core whose
instruction waits for the access; the command of one with `again` goes on where it is given again. -/
structure Stalled where
  acc : Access
  addr : Addr
  kind : AccKind
  size : Nat
  core : Option (Nat × Nat)
  again : Bool
  by_ : Option CoreId
  deriving DecidableEq, Repr

/-- A keyway unit (R362 to R367, R382 to R385). -/
structure KwS where
  rules : Tab KwRule := []
  shadow : Tab KwRule := []
  updating : Bool := false
  stalled : List Stalled := []
  /-- What the unit has found of accesses that stalled, until their commands go on. -/
  verdicts : List (Stalled × Bool) := []
  denialsNow : Nat := 0
  viol : Word32 := 0
  stallDenials : Word32 := 0
  checks : Word64 := 0
  denials : Word64 := 0
  deriving DecidableEq, Repr

/-- The state of a DMA channel (R381). -/
inductive ChState where
  | idle | running | done | halted | diff | stopping
  deriving DecidableEq, Repr

/-- A hinge DMA channel (R368 to R381). -/
structure ChS where
  list : Nat := 0
  irqEn : Bool := false
  priority : Nat := 0
  skipBad : Bool := false
  retry : Nat := 3
  stop : Bool := false
  startHeld : Bool := false
  state : ChState := .idle
  kind : Nat := 0
  skipped : Nat := 0
  retries : Nat := 0
  done : Nat := 0
  cur : Nat := 0
  curSeg : Bool := false
  offset : Nat := 0
  ownerTask : Option Nat := none
  owner : Owner := {world := .K, tenant := 0}
  useRetry : Nat := 3
  useSkip : Bool := false
  usePrio : Nat := 0
  /-- The descriptor in progress as far as it is fetched, its bytes moved, the holding register, and the status word that waits
  to be written: result, kind and offset (R369, R371). -/
  desc : List Byte := []
  moved : Nat := 0
  held : List Byte := []
  back : Option (Nat × Nat × Nat) := none
  deriving DecidableEq, Repr

/-- A hinge DMA (R368, R379). `active` is the channel that holds the datapath, `last` the one that last ran. -/
structure DmaS where
  chans : Tab ChS := []
  active : Option Nat := none
  last : Nat := 7
  bytes : Word64 := 0
  descs : Word64 := 0
  retries : Word64 := 0
  deriving DecidableEq, Repr

/-- The spine (R353 to R361, R386). -/
structure SpnS where
  maxWait : Nat := 0
  xferCtrl : Word64 := 0
  xferRt : Word64 := 0
  xferBulk : Word64 := 0
  xferBg : Word64 := 0
  xrefusals : Word64 := 0
  linkRetries : Word64 := 0
  corrected : Word64 := 0
  failures : List (Nat × Nat) := []
  deriving DecidableEq, Repr

/-! ## Persistent store (14) -/

/-- An NVM bank (R397, R412, R512). -/
structure BankS where
  out : Bool := false
  cause : Nat := 0
  uncorrTimes : List Nat := []
  spareRows : Nat := 0
  chunks : Word64 := 0
  deriving DecidableEq, Repr

/-- A rebuild (R398). -/
structure Rebuild where
  position : Nat
  target : Nat
  done : Nat
  checkpoint : Nat
  startTb : Nat
  deriving DecidableEq, Repr

/-- A general record (R390 to R393). -/
structure GenRec where
  version : Nat := 0
  pages : Nat := 1
  stripes : List Nat := []
  lost : Bool := false
  writing : List Nat := []
  deriving DecidableEq, Repr

/-- A tier-0 record in the keep area: its version, and the keep stripe that holds its three copies (R394). -/
structure KeepRec where
  version : Nat := 0
  stripe : Nat := 0
  deriving DecidableEq, Repr

/-- A persistent register (R405 to R408): the value it shows, and the one its ring holds. -/
structure RwpS where
  value : Word32 := 0
  committed : Word32 := 0
  count : Nat := 0
  lost : Bool := false
  deriving DecidableEq, Repr

/-- The persistent store (R388 to R413). -/
structure NvmS where
  banks : Tab BankS := []
  positions : List (Option Nat) :=
    [some 0, some 1, some 2, some 3, some 4, some 5, some 6, some 7, some 8, some 9]
  rebuilds : List Rebuild := []
  lostStripes : List Nat := []
  recs : Tab GenRec := []
  stripeWrites : Tab Nat := []
  keep : Tab KeepRec := []
  rwp : Tab RwpS := []
  rwpQueue : List (Nat × Word32) := []
  rwpWaiting : List (Nat × Word32) := []
  secret : List Byte := []
  scrubPos : Nat := 0
  scrubStart : Nat := 0
  scrubLag : Nat := 0
  scrubUrgent : Bool := false
  scrubRewritten : Nat := 0
  scrubUncorr : Nat := 0
  bgBusy : Bool := false
  fgWaiting : Bool := false
  flushing : Bool := false
  ready : Bool := false
  reported : Nat := 2
  fgWrites : Word64 := 0
  bgChunks : Word64 := 0
  corrected : Word64 := 0
  rewrites : Word64 := 0
  uncorrectable : Word64 := 0
  commits : Word64 := 0
  deriving DecidableEq, Repr

/-! ## Tamper (15) -/

/-- The battery domain (R424 to R428, R440, R441). -/
structure BatS where
  envelope : List Byte := []
  keyErased : Bool := false
  hint : Nat := 0
  mask : BitVec 16 := 0
  grade : Nat := 0
  g3Done : Bool := false
  onBattery : Bool := false
  firstTime : Nat := 0
  rtc : BitVec 48 := 0
  /-- Ticks of 10 ns since the RTC's last second. -/
  rtcSub : Nat := 0
  onVbat : Bool := false
  vbatMv : Nat := 3000
  grades : Word32 := 0x3FFF6951
  loops : Nat := 0
  deriving DecidableEq, Repr

/-- Tamper history, tier-0 record 0x32 (R430). -/
structure HistS where
  envCheck : Word32 := 0
  g1 : Nat := 0
  g2 : Nat := 0
  g3 : Nat := 0
  lastTime : Nat := 0
  lastClass : Nat := 0
  lastGrade : Nat := 0
  deriving DecidableEq, Repr

/-- The tamper sequencer (R414 to R422, R437 to R439). -/
structure TmpS where
  trips : List (Nat × Nat) := []
  suspects : List (Nat × Nat) := []
  /-- The trips that stand and were answered with G1 (R418). -/
  g1Trips : List (Nat × Nat) := []
  hold : Bool := false
  dieSafe : Bool := false
  calibrating : Option Nat := none
  calPending : List Nat := []
  calCid : Option Nat := none
  heldOut : List Nat := []
  last : Word32 := 0
  temps : Tab (BitVec 12) := []
  hist : HistS := {}
  tripCount : Word64 := 0
  responses : Word64 := 0
  deriving DecidableEq, Repr

/-! ## Event recorder (16) -/

/-- An event record (R442), with its occurrence count while open (R447). -/
structure EvRec where
  code : Nat
  source : Nat
  severity : BitVec 3
  retain : Bool
  coalesced : Bool
  afterLoss : Bool
  seq : Nat
  cycles : Nat
  opTime : Word32
  p1 : Word32
  p2 : Word32
  p3 : Word32
  chain : Word32
  count : Nat
  isOpen : Bool
  /-- The place that a copy takes in the retain area (R450). -/
  place : Nat := 0
  deriving DecidableEq, Repr

/-- The event recorder (R442 to R459). Sequence numbers are below 2^40. -/
structure EvrS where
  nextSeq : Nat := 0
  buf : List EvRec := []
  gen : List EvRec := []
  ret : List EvRec := []
  /-- Copies written to the retain area since it was erased. -/
  retCount : Nat := 0
  clearGen : Option Nat := none
  clearRet : Option Nat := none
  flushedSeq : Nat := 0
  lastChain : Word32 := 0
  lastRetChain : Word32 := 0
  opTime : Word32 := 0
  spiPtr : Word64 := 0
  supNon : Nat := 0
  supRet : Nat := 0
  flushDue : Bool := false
  flushCtl : Bool := false
  verifying : Bool := false
  verifyCtl : Bool := false
  /-- The verification of a start-up: the newest 65,536 records of the general ring (R452). -/
  verifyNew : Bool := false
  chainBroken : Bool := false
  ready : Bool := false
  records : Word64 := 0
  coalescedN : Word64 := 0
  suppressed : Word64 := 0
  flushes : Word64 := 0
  deriving DecidableEq, Repr

/-! ## Clocks, power, reset (17) -/

/-- The power phases of the logic die (R465 to R472); `closing` from the request of a warm reset until it takes effect
(R469). -/
inductive Power where
  | mainOff | porLow | booting | ready | noImage | heldAfterFlush | closing
  deriving DecidableEq, Repr

/-- The clock and power manager (R462 to R484). -/
structure CpmS where
  power : Power := .porLow
  timebase : Nat := 0
  pfFlushing : Bool := false
  pwrReq : BitVec 4 := 0
  imageB : Bool := false
  causeKind : Nat := 1
  cause : Nat := 0
  flushClean : Bool := false
  bootMs : Nat := 0
  telemSeq : Word32 := 0
  warmPending : Option (Nat × Nat) := none
  devReady : Bool := false
  everPowered : Bool := false
  /-- The telemetry snapshot (R477): address and value of each register it holds. -/
  snapshot : Tab Word32 := []
  /-- The measured frequencies of the clock domains in kHz (R481). -/
  freqs : Tab Nat := []
  deriving DecidableEq, Repr

/-! ## Service (18), pages (19), management SPI (20) -/

/-- A service action running (R486, R487). -/
structure SvcAction where
  action : Nat
  region : Nat
  operand : Nat
  drainMs : Nat
  cid : Nat
  deriving DecidableEq, Repr

/-- The Keeper image in record A of a new part: its version, svn and flag are the part's own (log entry 490). -/
def factoryImage : ImageRec :=
  ⟨BitVec.ofNat 32 (Config.implValue 490 0), BitVec.ofNat 32 (Config.implValue 490 1), Config.implValue 490 2 % 2 == 1, [], []⟩

/-- A Keeper image switch running (R492). -/
structure FwSwitch where
  cid : Nat
  toB : Bool
  live : Bool
  region : Nat
  reversing : Bool
  /-- It ends with ST_RETRY, the quorum having ended by a tamper response (R26). -/
  retry : Bool := false
  deriving DecidableEq, Repr

structure SvcS where
  actions : List SvcAction := []
  fwA : Option ImageRec := some factoryImage
  fwB : Option ImageRec := none
  fwSelB : Bool := false
  fwMinsv : Word32 := 0
  fw : Option FwSwitch := none
  count : Word64 := 0
  baud : Nat := 115200
  bootRom : Bool := false
  recovered : Bool := false
  deriving DecidableEq, Repr

/-- The common registers of a page that hold state (R501, R503). -/
structure PageS where
  irqRaw : Word32 := 0
  irqMask : Option Word32 := none
  lock : Bool := false
  err0 : Word32 := 0
  err1 : Word32 := 0
  errAddr : Nat := 0
  deriving DecidableEq, Repr

/-- Register pages (R501 to R508, R512). `latches` holds, for a requester's number, the address of a high word and
the value captured for it; `lows` holds low words written and not yet committed. -/
structure PagesS where
  pages : Tab PageS := []
  latches : List (Nat × Nat × Word32) := []
  lows : List (Nat × Nat × Word32) := []
  phyLink : Word32 := 0
  phyRetrains : Word64 := 0
  phyErrors : Word64 := 0
  pllRelocks : Word64 := 0
  tstTap : Word32 := 0
  deriving DecidableEq, Repr

structure SpiS where
  mode3 : Bool := false
  inFrame : Bool := false
  frames : Word64 := 0
  errs : Word64 := 0
  pend : Option (Nat × List Word32) := none
  filter : BitVec 3 := 0
  deriving DecidableEq, Repr

/-! ## The whole machine -/

/-- Everything of the NK8 but its addressed RAM: each part the manual describes. -/
structure Dev where
  die : DieS := {}
  lc : LcS := {}
  hif : HifS := {}
  ks : KsS := {}
  pol : PolicyS := {}
  brl : BrlS := {}
  ent : EntS := {}
  vlt : VltS := {}
  apl : AplS := {}
  crd : CrdS := {}
  kw : List (KwUnit × KwS) := []
  dma : Tab DmaS := []
  spn : SpnS := {}
  nvm : NvmS := {}
  bat : BatS := {}
  tmp : TmpS := {}
  evr : EvrS := {}
  cpm : CpmS := {}
  svc : SvcS := {}
  pg : PagesS := {}
  spi : SpiS := {}
  /-- The model's own counter of free values taken from `Config` (no register of the NK8). -/
  free : Nat := 0
  deriving DecidableEq, Repr, Inhabited

/-- The state of the block: the device, its addressed RAM, and the queue of commands waiting. -/
structure State extends Dev where
  /-- The bytes of the cluster SRAMs and core local memories, by internal address (R358). -/
  mem : List Host.Cell := []
  /-- The commands waiting, first in, first out. -/
  pending : List Instr := []
  deriving DecidableEq, Repr, Inhabited

/-- The die right after por_n is asserted with main power on: everything at its reset value (R468, R472, R474). -/
def State.reset : State := {}

/-- Why the machine stops with a fault. Nothing of the manual stops the NK8: every error is a status, an event
or a trap of a task, which are next states. -/
inductive Fault where
  /-- Raised by the commands that take an internal address as an operand (KEYWAY_CHECK, REGISTER_WRITE,
  LOW_WORD_READ, RC_REGISTER_READ) when it does not fit the 40 bits of the map of R511.
  Safe: no port of the NK8 can form such an address. -/
  | addressBeyondMap
  deriving DecidableEq, Repr

/-- Why a command has no meaning. -/
inductive Refusal where
  /-- Raised by a dispatch arm that has no meaning yet. Safe. -/
  | notModelled (mnemonic : String)
  deriving DecidableEq, Repr

end Sys2Proof.Machine
end

