-- ==== Sys2Proof/Machine/Mem.lean ====
section
/-! DEFINITION. The addressed RAM: cluster SRAMs and core local memories by internal address. A byte that no
entry lists reads as zero, since every SRAM is zero-filled by the reset that covers it (R474). -/

namespace Sys2Proof.Machine

/-- What an address that is not listed reads as (R474). -/
def memDefault : Byte := 0

def memGet : List Host.Cell → Nat → Byte
  | [], _ => memDefault
  | (a', v) :: t, a => if a' = a then v else memGet t a

/-- Writes one byte and keeps the canonical form. -/
def memSet : List Host.Cell → Nat → Byte → List Host.Cell
  | [], a, v => if v = memDefault then [] else [(a, v)]
  | (a', v') :: t, a, v =>
    if a < a' then (if v = memDefault then (a', v') :: t else (a, v) :: (a', v') :: t)
    else if a = a' then (if v = memDefault then t else (a, v) :: t)
    else (a', v') :: memSet t a v

/-- Addresses strictly rising, and no entry equal to the default. -/
abbrev Memory.wf (m : List Host.Cell) : Prop := m.Pairwise (fun x y => x.1 < y.1) ∧ ∀ c ∈ m, c.2 ≠ memDefault

/-- `n` bytes from address `a` on. -/
def memGetN (m : List Host.Cell) (a n : Nat) : Bytes := (List.range n).map (fun i => memGet m (a + i))

/-- Writes consecutive bytes, lowest address first. -/
def memSetN : List Host.Cell → Nat → Bytes → List Host.Cell
  | m, _, [] => m
  | m, a, b :: bs => memSetN (memSet m a b) (a + 1) bs

/-- Zero-fills `n` bytes from address `a` on (R474). -/
def memZero (m : List Host.Cell) (a n : Nat) : List Host.Cell := m.filter (fun c => c.1 < a || a + n ≤ c.1)

/-- Copies the memory of a device-level function: nothing of it changes. -/
def onDev (f : Dev → Dev) (s : State) : State := { s with toDev := f s.toDev }

def onMem (f : List Host.Cell → List Host.Cell) (s : State) : State := { s with mem := f s.mem }

end Sys2Proof.Machine
end

