-- ==== Sys2Proof/Machine/Cipher.lean ====
section
/-! DEFINITION. The block ciphers the manual cites: AES (FIPS 197) and TDES (SP 800-67). The manual names
the standards and does not restate them; the text follows them (PRESUMED, log entry 3). -/

namespace Sys2Proof.Machine

/-! ## AES -/

def aesSbox : Nat := 0x637c777bf26b6fc53001672bfed7ab76ca82c97dfa5947f0add4a2af9ca472c0b7fd9326363ff7cc34a5e5f171d8311504c723c31896059a071280e2eb27b27509832c1a1b6e5aa0523bd6b329e32f8453d100ed20fcb15b6acbbe394a4c58cfd0efaafb434d338545f9027f503c9fa851a3408f929d38f5bcb6da2110fff3d2cd0c13ec5f974417c4a77e3d645d197360814fdc222a908846eeb814de5e0bdbe0323a0a4906245cc2d3ac629195e479e7c8376d8dd54ea96c56f4ea657aae08ba78252e1ca6b4c6e8dd741f4bbd8b8a703eb5664803f60e613557b986c11d9ee1f8981169d98e949b1e87e9ce5528df8ca1890dbfe6426841992d0fb054bb16
def aesInvSbox : Nat := 0x52096ad53036a538bf40a39e81f3d7fb7ce339829b2fff87348e4344c4dee9cb547b9432a6c2233dee4c950b42fac34e082ea16628d924b2765ba2496d8bd12572f8f66486689816d4a45ccc5d65b6926c704850fdedb9da5e154657a78d9d8490d8ab008cbcd30af7e45805b8b34506d02c1e8fca3f0f02c1afbd0301138a6b3a9111414f67dcea97f2cfcef0b4e67396ac7422e7ad3585e2f937e81c75df6e47f11a711d29c5896fb7620eaa18be1bfc563e4bc6d279209adbc0fe78cd5af41fdda8338807c731b11210592780ec5f60517fa919b54a0d2de57a9f93c99cefa0e03b4dae2af5b0c8ebbb3c83539961172b047eba77d626e169146355210c7d

def aesSub (b : Byte) : Byte := byte (packed aesSbox 1 256 b.toNat)
def aesSubInv (b : Byte) : Byte := byte (packed aesInvSbox 1 256 b.toNat)

/-- Multiplication by x in GF(2^8). -/
def xtime (b : Byte) : Byte := (b <<< 1) ^^^ (if b.msb then 0x1b else 0)

def aesMul (k : Nat) (b : Byte) : Byte :=
  let b2 := xtime b
  let b4 := xtime b2
  let b8 := xtime b4
  (if k.testBit 0 then b else 0) ^^^ (if k.testBit 1 then b2 else 0)
    ^^^ (if k.testBit 2 then b4 else 0) ^^^ (if k.testBit 3 then b8 else 0)

/-- The key schedule, words newest first: `i` is the number of the next word, `rcon` the next constant. -/
def aesExpand (nk : Nat) : Nat → Nat → Byte → List Bytes → List Bytes
  | 0, _, _, ws => ws
  | f + 1, i, rcon, ws =>
    let prev := ws.headD []
    let t :=
      if i % nk = 0 then
        xorB ((prev.drop 1 ++ prev.take 1).map aesSub) [rcon, 0, 0, 0]
      else if nk > 6 ∧ i % nk = 4 then prev.map aesSub
      else prev
    aesExpand nk f (i + 1) (if i % nk = 0 then xtime rcon else rcon) (xorB (ws.getD (nk - 1) []) t :: ws)

/-- The round keys of 16 bytes, first round first. -/
def aesRoundKeys (key : Bytes) : List Bytes :=
  let nk := key.length / 4
  let ws := aesExpand nk (4 * (nk + 7) - nk) nk 1 (chunks 4 key).reverse
  chunks 16 ws.reverse.flatten

def aesShift (b : Bytes) : Bytes := tabulate 16 (fun i => b.getD ((i + 4 * (i % 4)) % 16) 0)
def aesShiftInv (b : Bytes) : Bytes := tabulate 16 (fun i => b.getD ((i + 12 * (i % 4)) % 16) 0)

/-- A column product with the circulant of `m` (MixColumns and its inverse). -/
def aesMix (m : List Nat) (b : Bytes) : Bytes :=
  (chunks 4 b).flatMap (fun c => tabulate 4 (fun r =>
    (List.range 4).foldl (fun a j => a ^^^ aesMul (m.getD ((j + 4 - r) % 4) 0) (c.getD j 0)) 0))

def aesRounds : List Bytes → Bytes → Bytes
  | [], b => b
  | [k], b => xorB (aesShift (b.map aesSub)) k
  | k :: ks, b => aesRounds ks (xorB (aesMix [2, 3, 1, 1] (aesShift (b.map aesSub))) k)

/-- AES encryption of one block of 16 bytes. -/
def aesEnc (key block : Bytes) : Bytes :=
  match aesRoundKeys key with
  | [] => block
  | k :: ks => aesRounds ks (xorB block k)

def aesRoundsInv : List Bytes → Bytes → Bytes
  | [], b => b
  | [k], b => xorB ((aesShiftInv b).map aesSubInv) k
  | k :: ks, b => aesRoundsInv ks (aesMix [14, 11, 13, 9] (xorB ((aesShiftInv b).map aesSubInv) k))

/-- AES decryption of one block of 16 bytes. -/
def aesDec (key block : Bytes) : Bytes :=
  match (aesRoundKeys key).reverse with
  | [] => block
  | k :: ks => aesRoundsInv ks (xorB block k)

/-! ## DES and TDES -/

/-- A bit permutation: output bit `j` (from 1, most significant first) is input bit `t[j]`; each table is a
numeral of one byte an entry. `inLen` and `outLen` count bits. -/
def desPerm (t inLen outLen x : Nat) : Nat :=
  (List.range outLen).foldl (fun a j => 2 * a + b2n (x.testBit (inLen - packed t 1 outLen j))) 0

def desIP : Nat := 0x3a322a221a120a023c342c241c140c043e362e261e160e06403830282018100839312921191109013b332b231b130b033d352d251d150d053f372f271f170f07
def desFP : Nat := 0x280830103818402027072f0f37173f1f26062e0e36163e1e25052d0d35153d1d24042c0c34143c1c23032b0b33133b1b22022a0a32123a1a2101290931113919
def desE : Nat := 0x20010203040504050607080908090a0b0c0d0c0d0e0f101110111213141514151617181918191a1b1c1d1c1d1e1f2001
def desP : Nat := 0x100714151d0c1c11010f171a05121f0a0208180e201b0309130d1e06160b0419
def desPC1 : Nat := 0x39312921191109013a322a221a120a023b332b231b130b033c342c243f372f271f170f073e362e261e160e063d352d251d150d051c140c04
def desPC2 : Nat := 0x0e110b180105031c0f06150a17130c041a0810071b140d0229341f252f371e28332d21302c31273822352e2a32241d20
/-- The eight S-boxes, 64 nibbles each as bytes, row by row. -/
def desS : Nat := 0x0e040d01020f0b08030a060c05090007000f07040e020d010a060c0b0905030804010e080d06020b0f0c0907030a05000f0c080204090107050b030e0a00060d0f01080e060b03040907020d0c00050a030d04070f02080e0c00010a06090b05000e070b0a040d0105080c060903020f0d080a01030f04020b06070c00050e090a00090e06030f05010d0c070b0402080d0700090304060a0208050e0c0b0f010d060409080f03000b01020c050a0e07010a0d0006090807040f0e030b05020c070d0e030006090a010208050b0c040f0d080b05060f00030407020c010a0e090a0609000c0b070d0f01030e05020804030f00060a010d080904050b0c07020e020c0401070a0b060805030f0d000e090e0b020c04070d0105000f0a030908060402010b0a0d07080f090c050603000e0b080c07010e020d060f00090a0405030c010a0f09020608000d03040e07050b0a0f0402070c090506010d0e000b0308090e0f0502080c030700040a010d0b060403020c09050f0a0b0e01070600080d040b020e0f00080d030c0907050a06010d000b070409010a0e03050c020f080601040b0d0c03070e0a0f060800050902060b0d0801040a070905000f0e02030c0d020804060f0b010a09030e05000c07010f0d080a0307040c05060b000e0902070b0401090c0e0200060a0d0f03050802010e07040a080d0f0c09000305060b

def desSub (x : Nat) : Nat :=
  (List.range 8).foldl (fun a i =>
    let v := (x >>> (42 - 6 * i)) % 64
    let row := 2 * (v / 32) + v % 2
    let col := (v / 2) % 16
    16 * a + packed desS 1 512 (64 * i + 16 * row + col)) 0

def desF (r k : Nat) : Nat := desPerm desP 32 32 (desSub (desPerm desE 32 48 r ^^^ k))

def rol28 (x n : Nat) : Nat := (x * 2 ^ n + x / 2 ^ (28 - n)) % 2 ^ 28

/-- The sixteen round keys, first round first. -/
def desKeys : List Nat → Nat → Nat → List Nat
  | [], _, _ => []
  | n :: ns, c, d =>
    let c := rol28 c n
    let d := rol28 d n
    desPerm desPC2 56 48 (c * 2 ^ 28 + d) :: desKeys ns c d

def desSchedule (key : Nat) : List Nat :=
  let k := desPerm desPC1 64 56 key
  desKeys [1, 1, 2, 2, 2, 2, 2, 2, 1, 2, 2, 2, 2, 2, 2, 1] (k / 2 ^ 28) (k % 2 ^ 28)

def desCore (ks : List Nat) (x : Nat) : Nat :=
  let y := desPerm desIP 64 64 x
  let lr := ks.foldl (fun p k => (p.2, p.1 ^^^ desF p.2 k)) (y / 2 ^ 32, y % 2 ^ 32)
  desPerm desFP 64 64 (lr.2 * 2 ^ 32 + lr.1)

def desEnc (key block : Bytes) : Bytes := natBE (desCore (desSchedule (beNat key)) (beNat block)) 8
def desDec (key block : Bytes) : Bytes := natBE (desCore (desSchedule (beNat key)).reverse (beNat block)) 8

/-- The three single keys of a TDES key of 16 or 24 bytes (R78). -/
def tdesParts (key : Bytes) : Bytes × Bytes × Bytes :=
  (slice key 0 8, slice key 8 8, if key.length ≥ 24 then slice key 16 8 else slice key 0 8)

def tdesEnc (key block : Bytes) : Bytes :=
  let p := tdesParts key
  desEnc p.2.2 (desDec p.2.1 (desEnc p.1 block))

def tdesDec (key block : Bytes) : Bytes :=
  let p := tdesParts key
  desDec p.1 (desEnc p.2.1 (desDec p.2.2 block))

/-! ## Either cipher -/

/-- Which block cipher a key is for. -/
inductive BlockAlg where
  | aes | tdes
  deriving DecidableEq, Repr

def blkSize : BlockAlg → Nat
  | .aes => 16
  | .tdes => 8

def blkEnc : BlockAlg → Bytes → Bytes → Bytes
  | .aes => aesEnc
  | .tdes => tdesEnc

def blkDec : BlockAlg → Bytes → Bytes → Bytes
  | .aes => aesDec
  | .tdes => tdesDec

end Sys2Proof.Machine
end

