-- ==== Sys2Proof/Machine/Modes.lean ====
section
/-! DEFINITION. Modes of the block ciphers that the manual cites: CBC, CMAC (SP 800-38B), ISO/IEC 9797-1 MAC
algorithms 1 and 3, KW and KWP (SP 800-38F), GCM (SP 800-38D), the CRCs, and the SP 800-90A CTR_DRBG.
PRESUMED from the standards, log entry 3. -/

namespace Sys2Proof.Machine

def cbcEncAux (alg : BlockAlg) (key : Bytes) : Bytes → List Bytes → Bytes
  | _, [] => []
  | iv, p :: ps =>
    let c := blkEnc alg key (xorB p iv)
    c ++ cbcEncAux alg key c ps

def cbcEnc (alg : BlockAlg) (key iv data : Bytes) : Bytes := cbcEncAux alg key iv (chunks (blkSize alg) data)

def cbcDecAux (alg : BlockAlg) (key : Bytes) : Bytes → List Bytes → Bytes
  | _, [] => []
  | iv, c :: cs => xorB (blkDec alg key c) iv ++ cbcDecAux alg key c cs

def cbcDec (alg : BlockAlg) (key iv data : Bytes) : Bytes := cbcDecAux alg key iv (chunks (blkSize alg) data)

/-- Doubling in the field of the block size. -/
def cmacDbl (alg : BlockAlg) (b : Bytes) : Bytes :=
  let n := b.length
  let v := 2 * beNat b
  natBE (if v < 2 ^ (8 * n) then v else (v % 2 ^ (8 * n)) ^^^ (match alg with | .aes => 0x87 | .tdes => 0x1b)) n

/-- CMAC, the whole block. -/
def cmac (alg : BlockAlg) (key msg : Bytes) : Bytes :=
  let n := blkSize alg
  let k1 := cmacDbl alg (blkEnc alg key (zeros n))
  let full := msg.length ≠ 0 ∧ msg.length % n = 0
  let head := msg.take ((msg.length - (if full then n else msg.length % n)))
  let tail := msg.drop head.length
  let last := if full then xorB tail k1 else xorB (fit (tail ++ [0x80]) n) (cmacDbl alg k1)
  let c := cbcEnc alg key (zeros n) (head ++ last)
  c.drop (c.length - n)

/-- ISO/IEC 9797-1 padding to blocks of `n`: method 1 (zeros, none for a whole non-empty message), method 2 (80 and zeros). -/
def pad9797 (method n : Nat) (m : Bytes) : Bytes :=
  if method = 1 then
    if m.length = 0 then zeros n else m ++ zeros ((n - m.length % n) % n)
  else
    let x := m ++ [0x80]
    x ++ zeros ((n - x.length % n) % n)

/-- ISO/IEC 9797-1 MAC algorithm 1: the last block of CBC encryption with a zero start value. -/
def mac9797a1 (alg : BlockAlg) (method : Nat) (key m : Bytes) : Bytes :=
  let n := blkSize alg
  let c := cbcEnc alg key (zeros n) (pad9797 method n m)
  c.drop (c.length - n)

/-- ISO/IEC 9797-1 MAC algorithm 3 with DES: single DES under the first 8 bytes, the final transformation under the second. -/
def mac9797a3 (method : Nat) (key m : Bytes) : Bytes :=
  let k1 := slice key 0 8
  let k2 := slice key 8 8
  let h := (chunks 8 (pad9797 method 8 m)).foldl (fun c p => desEnc k1 (xorB p c)) (zeros 8)
  desEnc k1 (desDec k2 h)

/-! ## SP 800-38F -/

/-- The wrapping function W: semiblocks `rs`, register `a`. -/
def kwW (kek : Bytes) (a : Bytes) (rs : List Bytes) : Bytes :=
  let n := rs.length
  let r := (List.range (6 * n)).foldl (fun (p : Bytes × List Bytes) i =>
    let b := aesEnc kek (p.1 ++ p.2.headD (zeros 8))
    (xorB (b.take 8) (natBE (i + 1) 8), p.2.drop 1 ++ [b.drop 8])) (a, rs)
  r.1 ++ r.2.flatten

/-- The inverse of W: the register and the plain semiblocks. -/
def kwWInv (kek c : Bytes) : Bytes × Bytes :=
  let rs := chunks 8 (c.drop 8)
  let n := rs.length
  let r := (List.range (6 * n)).foldl (fun (p : Bytes × List Bytes) i =>
    let b := aesDec kek (xorB p.1 (natBE (6 * n - i) 8) ++ p.2.getLastD (zeros 8))
    (b.take 8, b.drop 8 :: p.2.dropLast)) (c.take 8, rs)
  (r.1, r.2.flatten)

/-- KW of a plaintext of two semiblocks or more. -/
def kwWrap (kek p : Bytes) : Bytes := kwW kek (List.replicate 8 0xa6) (chunks 8 p)

def kwUnwrap (kek c : Bytes) : Option Bytes :=
  if c.length % 8 ≠ 0 ∨ c.length < 24 then none
  else
    let r := kwWInv kek c
    if r.1 = List.replicate 8 0xa6 then some r.2 else none

/-- KWP of a plaintext of one byte or more. -/
def kwpWrap (kek p : Bytes) : Bytes :=
  let a : Bytes := [0xa6, 0x59, 0x59, 0xa6] ++ natBE p.length 4
  let q := p ++ zeros ((8 - p.length % 8) % 8)
  if q.length ≤ 8 then aesEnc kek (a ++ q) else kwW kek a (chunks 8 q)

def kwpUnwrap (kek c : Bytes) : Option Bytes :=
  if c.length % 8 ≠ 0 ∨ c.length < 16 then none
  else
    let r := if c.length = 16 then (let b := aesDec kek c; (b.take 8, b.drop 8)) else kwWInv kek c
    let len := beNat (r.1.drop 4)
    if r.1.take 4 = [0xa6, 0x59, 0x59, 0xa6] ∧ len ≤ r.2.length ∧ r.2.length < len + 8
        ∧ (r.2.drop len).all (· = 0) then some (r.2.take len)
    else none

/-! ## GCM -/

/-- The product in the GCM field; bit 127 of the numeral is the first bit. -/
def ghashMul (x y : Nat) : Nat :=
  ((List.range 128).foldl (fun (p : Nat × Nat) i =>
    (if x.testBit (127 - i) then p.1 ^^^ p.2 else p.1,
     if p.2 % 2 = 1 then (p.2 / 2) ^^^ (0xe1 <<< 120) else p.2 / 2)) (0, y)).1

def padTo16 (b : Bytes) : Bytes := b ++ zeros ((16 - b.length % 16) % 16)

def ghash (h : Nat) (b : Bytes) : Nat := (chunks 16 b).foldl (fun y blk => ghashMul (y ^^^ beNat blk) h) 0

/-- The keystream application from counter block `n` on. -/
def gctr (key iv : Bytes) (start : Nat) (data : Bytes) : Bytes :=
  ((chunks 16 data).mapIdx (fun i blk => xorB blk (aesEnc key (iv ++ natBE (start + i) 4)))).flatten

def gcmTag (key iv aad ct : Bytes) : Bytes :=
  let h := beNat (aesEnc key (zeros 16))
  let s := ghash h (padTo16 aad ++ padTo16 ct ++ natBE (8 * aad.length) 8 ++ natBE (8 * ct.length) 8)
  xorB (natBE s 16) (aesEnc key (iv ++ natBE 1 4))

/-- AES-GCM with a 12-byte IV: ciphertext and tag. -/
def gcmEnc (key iv aad pt : Bytes) : Bytes × Bytes :=
  let ct := gctr key iv 2 pt
  (ct, gcmTag key iv aad ct)

def gcmDec (key iv aad ct tag : Bytes) : Option Bytes :=
  if gcmTag key iv aad ct = tag then some (gctr key iv 2 ct) else none

/-! ## CRCs -/

/-- CRC-32C (Castagnoli), reflected, as SP and storage standards use it. -/
def crc32c (b : Bytes) : Nat :=
  (b.foldl (fun c x => (List.range 8).foldl (fun c _ => if c % 2 = 1 then (c / 2) ^^^ 0x82F63B78 else c / 2)
    (c ^^^ x.toNat)) (2 ^ 32 - 1)) ^^^ (2 ^ 32 - 1)

/-- CRC-8, polynomial 0x07, initial value 0 (R521, R406). -/
def crc8 (b : Bytes) : Byte :=
  b.foldl (fun c x => (List.range 8).foldl (fun c _ => if c.msb then (c <<< 1) ^^^ 0x07 else c <<< 1) (c ^^^ x)) 0

/-! ## CTR_DRBG with AES-256 (SP 800-90A, R206) -/

def vInc (v : Bytes) : Bytes := natBE ((beNat v + 1) % 2 ^ 128) 16

/-- `n` blocks of output from the counter `v`. -/
def ctrBlocks (key : Bytes) : Nat → Bytes → Bytes × Bytes
  | 0, v => ([], v)
  | n + 1, v =>
    let v1 := vInc v
    let r := ctrBlocks key n v1
    (aesEnc key v1 ++ r.1, r.2)

/-- The update function: the new key and counter. -/
def drbgUpdate (data key v : Bytes) : Bytes × Bytes :=
  let t := xorB (ctrBlocks key 3 v).1 data
  (t.take 32, t.drop 32)

def drbgKeyBlocks (key : Bytes) : Nat → Bytes → Bytes
  | 0, _ => []
  | n + 1, x =>
    let y := aesEnc key x
    y ++ drbgKeyBlocks key n y

/-- The derivation function of the block cipher, 48 bytes of output. -/
def drbgDf (input : Bytes) : Bytes :=
  let s := padTo16 (natBE input.length 4 ++ natBE 48 4 ++ input ++ [0x80])
  let k : Bytes := tabulate 32 byte
  let bcc := fun (i : Nat) => (chunks 16 (natBE i 4 ++ zeros 12 ++ s)).foldl (fun c p => aesEnc k (xorB c p)) (zeros 16)
  drbgKeyBlocks (bcc 0 ++ bcc 1) 3 (bcc 2)

def drbgInstantiate (seed : Bytes) : Bytes × Bytes := drbgUpdate (drbgDf seed) (zeros 32) (zeros 16)

def drbgReseed (seed key v : Bytes) : Bytes × Bytes := drbgUpdate (drbgDf seed) key v

/-- Output of `n` bytes, with additional input, then the new key and counter. -/
def drbgGenerate (n : Nat) (add key v : Bytes) : Bytes × Bytes × Bytes :=
  let a := fit add 48
  let kv := if add = [] then (key, v) else drbgUpdate a key v
  let o := ctrBlocks kv.1 ((n + 15) / 16) kv.2
  let u := drbgUpdate a kv.1 o.2
  (o.1.take n, u.1, u.2)

/-! ## The KDF of SP 800-108 in counter mode (R191) -/

/-- One PRF of the KDF: HMAC with a hash, or CMAC. -/
inductive Prf where
  | hmac (h : HashAlg)
  | cmac (alg : BlockAlg)
  deriving DecidableEq, Repr

def prfOf : Prf → Bytes → Bytes → Bytes
  | .hmac h => hmac h
  | .cmac a => cmac a

def prfLen : Prf → Nat
  | .hmac h => hashLen h
  | .cmac a => blkSize a

/-- [i]₃₂ ‖ Label ‖ 0x00 ‖ Context ‖ [L]₃₂ for i = 1, 2, …; the first `n` bytes. -/
def kdfCtr (p : Prf) (ki label context : Bytes) (n : Nat) : Bytes :=
  ((List.range ((n + prfLen p - 1) / prfLen p)).flatMap (fun i =>
    prfOf p ki (natBE (i + 1) 4 ++ label ++ [0] ++ context ++ natBE (8 * n) 4))).take n

end Sys2Proof.Machine
end

