-- ==== Sys2Proof/Machine/Ops.lean ====
section
/-! DEFINITION. Operations every family shares: updates of the parts of the device, names and numbers of blocks,
free values, the status codes and outcomes of commands, redundancy and persistent registers, the quorum. -/

namespace Sys2Proof.Machine

/-! ## Updates of one part -/

def onDie (f : DieS → DieS) (d : Dev) : Dev := { d with die := f d.die }
def onLc (f : LcS → LcS) (d : Dev) : Dev := { d with lc := f d.lc }
def onHif (f : HifS → HifS) (d : Dev) : Dev := { d with hif := f d.hif }
def onKs (f : KsS → KsS) (d : Dev) : Dev := { d with ks := f d.ks }
def onPol (f : PolicyS → PolicyS) (d : Dev) : Dev := { d with pol := f d.pol }
def onBrl (f : BrlS → BrlS) (d : Dev) : Dev := { d with brl := f d.brl }
def onEnt (f : EntS → EntS) (d : Dev) : Dev := { d with ent := f d.ent }
def onVlt (f : VltS → VltS) (d : Dev) : Dev := { d with vlt := f d.vlt }
def onApl (f : AplS → AplS) (d : Dev) : Dev := { d with apl := f d.apl }
def onCrd (f : CrdS → CrdS) (d : Dev) : Dev := { d with crd := f d.crd }
def onSpn (f : SpnS → SpnS) (d : Dev) : Dev := { d with spn := f d.spn }
def onNvm (f : NvmS → NvmS) (d : Dev) : Dev := { d with nvm := f d.nvm }
def onBat (f : BatS → BatS) (d : Dev) : Dev := { d with bat := f d.bat }
def onTmp (f : TmpS → TmpS) (d : Dev) : Dev := { d with tmp := f d.tmp }
def onEvr (f : EvrS → EvrS) (d : Dev) : Dev := { d with evr := f d.evr }
def onCpm (f : CpmS → CpmS) (d : Dev) : Dev := { d with cpm := f d.cpm }
def onSvc (f : SvcS → SvcS) (d : Dev) : Dev := { d with svc := f d.svc }
def onPg (f : PagesS → PagesS) (d : Dev) : Dev := { d with pg := f d.pg }
def onSpi (f : SpiS → SpiS) (d : Dev) : Dev := { d with spi := f d.spi }

/-- Applies `f` where `c` holds. -/
def doIf (c : Bool) (f : Dev → Dev) (d : Dev) : Dev := if c then f d else d

/-- Applies `f x` for every `x` of a list, first to last. -/
def forAll {α : Type} (l : List α) (f : α → Dev → Dev) (d : Dev) : Dev := l.foldl (fun d x => f x d) d

/-! ## Regions, members, numbers -/

def regionOf (d : Dev) (r : Nat) : RegionS := tget d.die.regions r {}
def onRegion (r : Nat) (f : RegionS → RegionS) (d : Dev) : Dev :=
  onDie (fun x => { x with regions := tmod x.regions r {} f }) d
def onBolt (r : Nat) (f : BoltS → BoltS) : Dev → Dev := onRegion r (fun x => { x with bolt := f x.bolt })
def onDig (r : Nat) (f : DigS → DigS) : Dev → Dev := onRegion r (fun x => { x with dig := f x.dig })
def onDrbg (r : Nat) (f : DrbgS → DrbgS) : Dev → Dev := onRegion r (fun x => { x with drbg := f x.drbg })
def onTmb (r : Nat) (f : TmbS → TmbS) : Dev → Dev := onRegion r (fun x => { x with tmb := f x.tmb })
def coreOf (d : Dev) (c : CoreId) : CoreS := tget (regionOf d c.region).cores c.pos {}
def onCore (c : CoreId) (f : CoreS → CoreS) : Dev → Dev :=
  onRegion c.region (fun x => { x with cores := tmod x.cores c.pos {} f })
def taskOf (d : Dev) (r t : Nat) : Task := tget (regionOf d r).tmb.tasks t {}
def onTask (r t : Nat) (f : Task → Task) : Dev → Dev := onTmb r (fun x => { x with tasks := tmod x.tasks t {} f })

/-- A region in service: it admits sessions and tasks (R64, R73). -/
def regionUp (d : Dev) (r : Nat) : Bool := (regionOf d r).phase == .up
/-- A region whose engines work: in service, or draining (R487). -/
def regionRuns (d : Dev) (r : Nat) : Bool := regionUp d r || (regionOf d r).phase == .draining
/-- A block is in a block reset (R10). -/
def blkResetting (d : Dev) (b : Blk) : Bool := d.die.resetting.any (fun x => x.1 == b)
def regionsUp (d : Dev) : List Nat := (List.range 4).filter (regionUp d)
def regionMask (d : Dev) : Nat := (regionsUp d).foldl (fun a r => a + 2 ^ r) 0

def engOf (d : Dev) (e : Nat) : EngS := tget d.brl.engs e {}
def onEng (e : Nat) (f : EngS → EngS) : Dev → Dev := onBrl (fun x => { x with engs := tmod x.engs e {} f })
def roleOf (d : Dev) (r : Nat) : RoleS := tget d.brl.roles r {}
def onRole (r : Nat) (f : RoleS → RoleS) : Dev → Dev := onBrl (fun x => { x with roles := tmod x.roles r {} f })

def bankOf (d : Dev) (b : Nat) : BankS := tget d.nvm.banks b {}
def onBank (b : Nat) (f : BankS → BankS) : Dev → Dev := onNvm (fun x => { x with banks := tmod x.banks b {} f })

def fnOf (d : Dev) (f : Nat) : FnS := tget d.hif.fns f {}
def onFn (n : Nat) (f : FnS → FnS) : Dev → Dev := onHif (fun x => { x with fns := tmod x.fns n {} f })
/-- Queue pair `q` of function `f` is entry 64 f + q of the table. -/
def qpOf (d : Dev) (f q : Nat) : Qp := tget d.hif.qps (64 * f + q) {}
def onQp (n q : Nat) (f : Qp → Qp) : Dev → Dev := onHif (fun x => { x with qps := tmod x.qps (64 * n + q) {} f })

/-- An uncorrectable error of a function enters its AER status: bit 12 a poisoned TLP or failed read, bit 15 a Completer
Abort or a write dropped. PRESUMED (log entry 41): the bits of the PCIe base specification. -/
def aerSet (f bit : Nat) : Dev → Dev := onFn f (fun x => { x with aer := x.aer ||| BitVec.ofNat 32 (2 ^ bit) })

def slotOf (d : Dev) (s : Nat) : SlotS := tget d.crd.slots s {}
def onSlot (s : Nat) (f : SlotS → SlotS) : Dev → Dev := onCrd (fun x => { x with slots := tmod x.slots s {} f })

def partOf (d : Dev) (p : Nat) : Part := tget d.vlt.parts p {}
def onPart (p : Nat) (f : Part → Part) : Dev → Dev := onVlt (fun x => { x with parts := tmod x.parts p {} f })

/-- The master ID of a core slot (R15). -/
def coreMaster (c : CoreId) : Nat := 7 * c.region + c.pos

/-- The core slot of a master ID below 0x1C. -/
def masterCore? (n : Nat) : Option CoreId :=
  if h : n < 28 then some ⟨⟨n / 7, by omega⟩, ⟨n % 7, by omega⟩⟩ else none

/-- The source byte of a block (R443). -/
def blkSource : Blk → Nat
  | .core c => coreMaster c
  | .bolt r => 0x28 + r
  | .digestLane r _ => 0x2C + r
  | .dma i => 0x20 + i
  | .barrel e => 0x30 + e
  | .conditioner => 0x82
  | .vault => 0x48
  | .drbg r => 0x74 + r
  | .tumbler r => 0x70 + r
  | .keyStore => 0x80
  | .nvm => 0x81
  | .nvmBank _ => 0x81
  | .hostInterface => 0x50
  | .spine => 0x83
  | .alwaysOn => 0x8A

/-- The block parameter of R528: source in bits 7:0, unit in bits 15:8. -/
def blkParam (b : Blk) : Nat :=
  blkSource b + 256 * (match b with | .digestLane _ l => l.val | _ => 0)

/-- The region a block stands in, none for a central block. -/
def blkRegion : Blk → Option Nat
  | .core c => some c.region
  | .bolt r => some r
  | .digestLane r _ => some r
  | .dma i => if i.val < 4 then some i.val else none
  | .drbg r => some r
  | .tumbler r => some r
  | _ => none

/-- The cluster of its region that a block stands in (R14, R15). -/
def blkCluster : Blk → Nat
  | .core c => c.pos / 2
  | _ => 3

/-- World codes (R18). -/
def worldCode : World → Nat
  | .K => 0
  | .C => 1
  | .T => 2
  | .D => 3

def worldOfCode (n : Nat) : World := if n % 4 = 0 then .K else if n % 4 = 1 then .C else if n % 4 = 2 then .T else .D

/-- The authority tag (R18). -/
def tagOf (a : Access) : Nat := worldCode a.world * 2 ^ 14 + (a.tenant % 64) * 2 ^ 8 + a.master.toNat

/-- The owner of what a function submits (R20). -/
def fnOwner (f : Nat) : Owner := if f = 0 then ⟨.C, 0⟩ else ⟨.T, f⟩

/-- The function an owner's traffic belongs to. -/
def ownerFn (o : Owner) : Nat := if o.world == .T then o.tenant else 0

/-- The owner byte of key material and events: world in bits 7:6, tenant in bits 5:0. -/
def ownerByte (o : Owner) : Nat := worldCode o.world * 64 + o.tenant % 64

/-- The lifecycle code (R29). -/
def lcCode : LcState → Nat
  | .manufacture => 1
  | .provisioned => 2
  | .develop => 3
  | .operational => 4
  | .quarantine => 5
  | .retired => 6

/-! ## Time (R446, R477): the timebase counts 10 ns -/

def ticksPerUs : Nat := 100
def ticksPerMs : Nat := 100000
def ticksPerS : Nat := 100000000
def nowTb (d : Dev) : Nat := d.cpm.timebase
/-- Milliseconds since the timebase read `t`. -/
def msSince (d : Dev) (t : Nat) : Nat := (nowTb d - t) / ticksPerMs

/-! ## Free values -/

/-- `n` fresh free bytes and the device with the counter advanced. -/
def takeFree (n : Nat) (d : Dev) : Bytes × Dev :=
  ((List.range n).map (fun i => Config.freeByte (d.free + i)), { d with free := d.free + n })

/-! ## Status codes (R75, R131, R172, R297, R319) -/

def stOk : BitVec 16 := 0x0000
def stOkDup : BitVec 16 := 0x0001
def stState : BitVec 16 := 0x0101
def stWorld : BitVec 16 := 0x0102
def stParam : BitVec 16 := 0x0103
def stKeyAttr : BitVec 16 := 0x0104
def stRetry : BitVec 16 := 0x0105
def stSeqStale : BitVec 16 := 0x0106
def stQuota : BitVec 16 := 0x0107
def stPolicy : BitVec 16 := 0x0108
def stEntropy : BitVec 16 := 0x0109
def stSeqGap : BitVec 16 := 0x010A
def stIntegrity : BitVec 16 := 0x0201
def stUnwritten : BitVec 16 := 0x0202
def stLost : BitVec 16 := 0x0203
def stBlank : BitVec 16 := 0x0204
def stDegraded : BitVec 16 := 0x0205
def stFault : BitVec 16 := 0x0301
def stPoint : BitVec 16 := 0x0302
def stAborted : BitVec 16 := 0x0303
def stVerify : BitVec 16 := 0x0304
def stPinBlock : BitVec 16 := 0x0305
def stWsLost : BitVec 16 := 0x0306
def stTrap : BitVec 16 := 0x0307
def stTaskEnded : BitVec 16 := 0x0308
def stAplReply : BitVec 16 := 0x0309
def stEndurance : BitVec 16 := 0x0401

/-- ST_OK with no output. -/
def resOk : Res := ⟨stOk, 0, 0, 0, []⟩
/-- ST_OK with output bytes. -/
def resOut (b : Bytes) : Res := ⟨stOk, 0, b.length, 0, b⟩
/-- ST_OK with a result value. -/
def resVal (n : Nat) : Res := ⟨stOk, 0, 0, BitVec.ofNat 32 n, []⟩
/-- A status with its detail, no output and no effect. -/
def resErr (st : BitVec 16) (detail : Nat) : Res := ⟨st, BitVec.ofNat 16 detail, 0, 0, []⟩
def resRetry : Res := resErr stRetry 0

/-! ## Commands in flight -/

def cmdOf? (d : Dev) (cid : Nat) : Option Cmd := d.hif.cmds.find? (fun c => c.cid == cid)
def onCmd (cid : Nat) (f : Cmd → Cmd) : Dev → Dev :=
  onHif (fun h => { h with cmds := lmod h.cmds (fun c => c.cid == cid) f })

/-- A bolt or digest command that ends counts among those its pipeline or engine has completed (R134, R198). -/
def countEnd (c : Cmd) (d : Dev) : Dev :=
  match c.loc with
  | .boltQ r _ => if c.code / 256 = 3 then onBolt r (fun b => { b with cmds := b.cmds + 1 }) d else d
  | .boltCtx r _ _ => if c.code / 256 = 3 then onBolt r (fun b => { b with cmds := b.cmds + 1 }) d else d
  | .digQ r _ _ => if c.code / 256 = 5 then onDig r (fun g => { g with cmds := g.cmds + 1 }) d else d
  | .digCtx r _ _ _ => if c.code / 256 = 5 then onDig r (fun g => { g with cmds := g.cmds + 1 }) d else d
  | _ => d

/-- A command's outcome is decided; it waits to post in sequence order (R72). An outcome decided before stays. -/
def finish (cid : Nat) (r : Res) (d : Dev) : Dev :=
  match cmdOf? d cid with
  | none => d
  | some c => match c.stage with
    | .done _ => d
    | _ => onCmd cid (fun c => { c with stage := .done r, loc := .none, waitOn := [], taken := [] }) d |> countEnd c

/-- Every command that meets `p` ends with `r`. -/
def endAll (p : Cmd → Bool) (r : Res) (d : Dev) : Dev := forAll (d.hif.cmds.filter p) (fun c => finish c.cid r) d

def isDone (c : Cmd) : Bool := match c.stage with | .done _ => true | _ => false
def isRunning (c : Cmd) : Bool := c.stage == .running
def isWaiting (c : Cmd) : Bool := c.stage == .waiting
/-- Accepted and not yet completed (R67, R70). -/
def isAccepted (c : Cmd) : Bool := match c.stage with | .held => false | _ => true
def isHost (c : Cmd) : Bool := c.origin == .host

/-- Marks a command started (R69). -/
def begin (cid : Nat) : Dev → Dev := onCmd cid (fun c => { c with stage := .running })

/-! ## Redundancy of the persistent store (R397 to R401) -/

/-- The rebuild progress of a position: every stripe below it is present. A held position is wholly present. -/
def posDone (n : NvmS) (p : Nat) : Nat :=
  if (n.positions.getD p none).isSome then 65536
  else ((n.rebuilds.find? (fun r => r.position == p)).map (·.done)).getD 0

/-- The highest stripe that is not lost. -/
def topStripe (n : NvmS) : Nat :=
  (List.range (n.lostStripes.length + 1)).foldl (fun s _ => if n.lostStripes.contains s then s - 1 else s) 65535

/-- Positions missing in stripe `s` (R397). -/
def missingAt (n : NvmS) (s : Nat) : List Nat := (List.range 10).filter (fun p => posDone n p ≤ s)

/-- The parities available (R397). -/
def parities (n : NvmS) : Nat := 2 - (missingAt n (topStripe n)).length

/-- Positions not held by a bank. -/
def missingMask (n : NvmS) : Nat := (missingAt n 65535).foldl (fun a p => a + 2 ^ p) 0

def isRebuildTarget (n : NvmS) (b : Nat) : Bool := n.rebuilds.any (fun r => r.target == b)

/-- Banks in service that hold no position and are no rebuild target (R398). -/
def freeSpares (n : NvmS) : List Nat :=
  (List.range 12).filter (fun b => !(tget n.banks b {}).out && !(n.positions.contains (some b)) && !(isRebuildTarget n b))

/-- Only keep-area writes are admitted (R401). -/
def keepOnly (d : Dev) : Bool := parities d.nvm == 0

/-! ## Persistent registers (R405 to R408, R513) -/

def rwpQuorumLife : Nat := 0
def rwpUcodeMinsv : Nat := 1
def rwpGrades : Nat := 2
def rwpLoopCfg : Nat := 3
def rwpRetainLost : Nat := 4
def rwpPowerCycles : Nat := 5
def rwpOpTime : Nat := 6
def rwpResetCount : Nat := 7
def rwpFlushMark : Nat := 8

/-- The reset values of R36 and R439; the others' are zero. -/
def rwpReset (id : Nat) : Word32 := if id = 0 then 300 else if id = 2 then 0x3FFF6951 else 0

def rwpNew (id : Nat) : RwpS := { value := rwpReset id, committed := rwpReset id }
def rwpOf (d : Dev) (id : Nat) : RwpS := tget d.nvm.rwp id (rwpNew id)
def rwpVal (d : Dev) (id : Nat) : Word32 := if (rwpOf d id).lost then rwpReset id else (rwpOf d id).value

/-- Why a write of a persistent register is refused: its command's status, none where it is admitted (R406, R408). -/
def rwpRefused (d : Dev) (id : Nat) : Option (BitVec 16) :=
  let r := rwpOf d id
  if r.lost then some stLost else if r.count ≥ 16000000 then some stEndurance else none

/-- A write of a persistent register reaches the queue: the register shows its value at once (R405, R406). -/
def rwpEnter (id : Nat) (v : Word32) (d : Dev) : Dev :=
  if (rwpRefused d id).isSome ∨ rwpVal d id = v then d
  else onNvm (fun n => { n with
    rwp := tmod n.rwp id (rwpNew id) (fun r => { r with value := v })
    rwpQueue := n.rwpQueue ++ [(id, v)] }) d

/-- A write of a persistent register: with the queue full, or behind one that waits for it, it waits in its turn (R405). -/
def rwpWrite (id : Nat) (v : Word32) (d : Dev) : Dev :=
  if (rwpRefused d id).isSome then d
  else if d.nvm.rwpQueue.length < 64 ∧ d.nvm.rwpWaiting = [] then rwpEnter id v d
  else if rwpVal d id = v ∧ d.nvm.rwpWaiting.all (fun w => w.1 != id) = true then d
  else onNvm (fun n => { n with rwpWaiting := n.rwpWaiting ++ [(id, v)] }) d

/-- Writes that wait enter the queue in order for as long as it has room. -/
def rwpAdmit : List (Nat × Word32) → Dev → Dev
  | [], d => onNvm (fun n => { n with rwpWaiting := [] }) d
  | (id, v) :: w, d =>
    if 64 ≤ d.nvm.rwpQueue.length then onNvm (fun n => { n with rwpWaiting := (id, v) :: w }) d else rwpAdmit w (rwpEnter id v d)

/-- A foreground transfer waits for a background one in progress to reach its chunk boundary (R9, R404). -/
def fgArrive : Dev → Dev := onNvm (fun n => { n with fgWaiting := n.fgWaiting || n.bgBusy })

/-- The free keep stripes: 767 stays with the device secret (R389, R394, R396). -/
def keepFree (d : Dev) : List Nat := (List.range 767).filter (fun x => d.nvm.keep.all (fun p => p.2.stripe != x || p.1 == 0x3F))

/-- A keep record write: all three copies go to a free keep stripe, with the version of tier-0 record `id` raised (R394). -/
def keepWrite (id : Nat) (d : Dev) : Dev :=
  let st := if id = 0x3F then 767 else (keepFree d).headD 0
  fgArrive d |> onNvm (fun n => { n with keep := tput n.keep id ⟨(tget n.keep id {}).version + 1, st⟩ })

/-! ## Quorum (R24 to R26) -/

def quorumMask (d : Dev) : BitVec 16 := (d.lc.quorum.map (·.mask)).getD 0
def quorumLive (d : Dev) : Bool := d.lc.quorum.isSome

/-- Seconds of lifetime left (R35). -/
def quorumLeft (d : Dev) : Nat :=
  match d.lc.quorum with
  | none => 0
  | some q => q.life - (nowTb d - q.formedTb) / ticksPerS

/-! ## The key derivation unit (R191, R396) -/

/-- A key of 32 bytes derived from `secret` with a label and an empty context. -/
def deriveKey (secret label : Bytes) : Bytes := kdfCtr (.hmac .sha256) secret label [] 32

/-- The envelope key and the device secret together (R392, R396). -/
def envAndSecret (d : Dev) : Bytes := d.bat.envelope ++ d.nvm.secret

end Sys2Proof.Machine
end

