-- ==== Sys2Proof/Machine/Catalog.lean ====
section
/-! DEFINITION. The event recorder: the catalogue (R445), records and their bytes (R442), numbering, coalescing
and suppression (R446 to R448), the flush with its areas and chains (R449 to R451). -/

namespace Sys2Proof.Machine

/-! ## The catalogue (R445) -/

/-- Every code the NK8 can log, in ascending order: the codes the chapters define. -/
def evCodes : List Nat :=
  [0x0101, 0x0102, 0x0103, 0x0110, 0x0111, 0x0112, 0x0120, 0x0121, 0x0122, 0x0130] ++
  [0x0F01, 0x0F02, 0x0F03, 0x0F05] ++
  [0x1101, 0x1102, 0x1103, 0x1104, 0x1105, 0x1110, 0x1210, 0x1211, 0x1212, 0x1213, 0x1214, 0x1220] ++
  [0x1230, 0x1231, 0x1240, 0x1241, 0x1250, 0x1F01] ++
  [0x2101, 0x2102, 0x2201, 0x2310, 0x2312, 0x2320, 0x2401, 0x2402] ++
  [0x3201, 0x3202, 0x3203, 0x3205, 0x3206, 0x3210, 0x3211, 0x3212, 0x3220, 0x3221, 0x3222, 0x3230, 0x3231] ++
  [0x3301, 0x3302, 0x3303, 0x3304, 0x3305, 0x3306, 0x3307, 0x3308, 0x3309] ++
  [0x3320, 0x3321, 0x3322, 0x3325, 0x3401, 0x3402] ++
  [0x4020, 0x4030, 0x4107, 0x4108, 0x4110, 0x4120, 0x4130, 0x4131, 0x4132, 0x4133, 0x4134, 0x4135, 0x4136, 0x4137] ++
  [0x4150, 0x4151, 0x4153, 0x4204, 0x4205, 0x4206, 0x4210, 0x4211, 0x4220, 0x4221, 0x4240, 0x4242, 0x4301, 0x4302] ++
  [0x5101, 0x5103, 0x5104, 0x5110, 0x5111, 0x5112, 0x5120, 0x5121, 0x5301] ++
  [0x6101, 0x6102, 0x6103, 0x6104, 0x6105, 0x6110, 0x6111, 0x6120, 0x6121, 0x6122, 0x6123] ++
  [0x7101, 0x7102, 0x7103, 0x7104, 0x7110, 0x7111, 0x7120, 0x7130, 0x7131, 0x7133, 0x7140, 0x7150] ++
  [0x8101, 0x8102, 0x8104, 0x8105]

/-- The codes that the chapters name as retain records (R528, R32, R38, R253, R411, R436, R456, R480, R497). -/
def evRetained : List Nat :=
  [0x0103, 0x0110, 0x0112, 0x0122, 0x0F01, 0x1102, 0x1103, 0x1104, 0x1110, 0x1220, 0x1241, 0x1F01] ++
  [0x3201, 0x3205, 0x3211, 0x3231, 0x3306, 0x7103, 0x7140, 0x8101]

/-- The parameter of a code that holds a function number, 0 for none. -/
def evFnParam (code : Nat) : Nat :=
  if [0x2101, 0x2310, 0x2312, 0x3303, 0x3304, 0x3309, 0x4135, 0x4205, 0x4206, 0x4210, 0x4211].contains code then 1
  else if [0x5101, 0x5103, 0x5110, 0x5111, 0x5112, 0x5120].contains code then 1
  else if code = 0x5104 then 2
  else if code = 0x3302 ∨ code = 0x7104 then 3
  else 0

def evRetain (code : Nat) : Bool := evRetained.contains code
def evSeverity (code : Nat) : BitVec 3 := if evCodes.contains code then Config.severity code else 0

/-- The catalogue of LOG_CATALOG, 8 bytes an entry (R445). -/
def catalogBytes : Bytes :=
  evCodes.flatMap (fun c =>
    natLE c 2 ++ [byte ((evSeverity c).toNat + (if evRetain c then 8 else 0)), byte (evFnParam c)] ++ zeros 4)

/-! ## Record bytes (R442) -/

def evFlags (r : EvRec) : Nat :=
  r.severity.toNat * 32 + b2n r.retain * 16 + b2n r.coalesced * 8 + b2n r.afterLoss * 4

/-- Bytes 0 to 27. -/
def evHead (r : EvRec) : Bytes :=
  natLE r.code 2 ++ [byte r.source, byte (evFlags r)] ++ natLE r.seq 5 ++ natLE r.cycles 3
    ++ natLE r.opTime.toNat 4 ++ natLE r.p1.toNat 4 ++ natLE r.p2.toNat 4 ++ natLE r.p3.toNat 4

def evBytes (r : EvRec) : Bytes := evHead r ++ natLE r.chain.toNat 4

def evParam (r : EvRec) (k : Nat) : Word32 := if k = 1 then r.p1 else if k = 2 then r.p2 else r.p3

/-- The function that a record belongs to, none where its code names no function parameter (R445, R453). -/
def evFunction (r : EvRec) : Option Nat :=
  if evFnParam r.code = 0 then none else some (evParam r (evFnParam r.code)).toNat

/-! ## Logging -/

/-- What asks for a flush at once (R449). -/
def evTriggers (r : EvRec) (held : Nat) : Bool := 4 ≤ r.severity.toNat || r.retain || 128 ≤ held

/-- An occurrence joins an open record of the same code, source and function (R447). -/
def evJoins (code source : Nat) (w : Nat → Word32) (r : EvRec) : Bool :=
  r.isOpen && r.code == code && r.source == source &&
    (evFnParam code == 0 || evParam r (evFnParam code) == w (evFnParam code))

/-- Logs an event with its retain bit and severity: it joins an open record, is suppressed, or takes the next number. -/
def logAs (ret : Bool) (sev : BitVec 3) (code source p1 p2 p3 : Nat) (d : Dev) : Dev :=
  let w := fun k => BitVec.ofNat 32 (if k = 1 then p1 else if k = 2 then p2 else p3)
  let e := d.evr
  if !ret && e.buf.any (evJoins code source w) then
    { d with evr := { e with
      buf := lmod e.buf (evJoins code source w) (fun r => { r with count := r.count + 1 })
      coalescedN := e.coalescedN + 1 } }
  else if e.buf.length ≥ (if ret then 256 else 224) then
    { d with evr := { e with
      supNon := if ret then e.supNon else e.supNon + 1
      supRet := if ret then e.supRet + 1 else e.supRet
      suppressed := e.suppressed + 1 } }
  else
    let r : EvRec := {
      code, source, severity := sev, retain := ret, coalesced := false, afterLoss := false
      seq := e.nextSeq % 2 ^ 40, cycles := (rwpVal d rwpPowerCycles).toNat % 2 ^ 24, opTime := e.opTime
      p1 := w 1, p2 := w 2, p3 := w 3, chain := 0, count := 1, isOpen := !ret }
    { d with evr := { e with
      buf := e.buf ++ [r], nextSeq := e.nextSeq + 1, records := e.records + 1
      flushDue := e.flushDue || evTriggers r (e.buf.length + 1) } }

def logSev (sev : BitVec 3) (code : Nat) : Nat → Nat → Nat → Nat → Dev → Dev := logAs (evRetain code) sev code

/-- Logs an event under its catalogue entry. -/
def logEv (code source p1 p2 p3 : Nat) (d : Dev) : Dev := logSev (evSeverity code) code source p1 p2 p3 d

/-- EV_5104: a command in the wrong state (R71, R76). -/
def log5104 (code fn kind : Nat) : Dev → Dev := logEv 0x5104 0x50 code fn kind

/-! ## Closing and flushing -/

/-- Closes an open record (R447 step 3). -/
def evClose (r : EvRec) : EvRec :=
  if r.isOpen then
    { r with isOpen := false, coalesced := 2 ≤ r.count
             p3 := if 2 ≤ r.count then BitVec.ofNat 32 r.count else r.p3 }
  else r

/-- The log key (R451). -/
def logKey (d : Dev) : Bytes := deriveKey d.nvm.secret (ascii "ZXEV")

/-- The chain value of a record after its predecessor's (R451). -/
def evChain (key : Bytes) (r : EvRec) (prev : Word32) : Word32 :=
  BitVec.ofNat 32 (leNat (kmac128 key (evHead r ++ natLE prev.toNat 4) 4 (ascii "ZXEV")))

def genCap : Nat := 1048576
def retCap : Nat := 65536

def seqMod : Nat := 2 ^ 40

/-- `a` is below `b` in serial-number arithmetic modulo 2^40 (R479). -/
def evSeqBelow (a b : Nat) : Bool := let n := (b % seqMod + seqMod - a % seqMod) % seqMod; 0 < n && n < 2 ^ 39

/-- The records of an area that are still readable: none below the clear point (R450, R454). -/
def readable (clear : Option Nat) (l : List EvRec) : List EvRec :=
  match clear with
  | none => l
  | some c => l.filter (fun r => !evSeqBelow r.seq c)

end Sys2Proof.Machine
end

