-- ==== Sys2Proof/Machine/Run.lean ====
section
/-! DEFINITION. The shape of a hasp command's body: a sequence of checks and effects on the device that ends in an
outcome, in a wait, or in running on. What a body logged before it stopped stays logged; its effects come after
its checks. -/

namespace Sys2Proof.Machine

/-- Why a body does not answer at once: its outcome is decided; it waits and starts again later; it runs on. -/
inductive Stop where
  | res (r : Res)
  | wait (on : List Nat)
  | running
  deriving DecidableEq, Repr

abbrev Run := ExceptT Stop (StateM Dev)

/-- Ends with a status and a detail. -/
def fail {α : Type} (st : BitVec 16) (detail : Nat) : Run α := throw (.res (resErr st detail))

/-- Ends with a status and a detail after logging. -/
def failLog {α : Type} (st : BitVec 16) (detail : Nat) (log : Dev → Dev) : Run α := do
  modify log
  throw (.res (resErr st detail))

/-- Goes on only where `c` holds; otherwise the status and detail. -/
def need (c : Bool) (st : BitVec 16) (detail : Nat) : Run Unit := if c then pure () else fail st detail

/-- Goes on only where `c` holds; otherwise logs and ends. -/
def needLog (c : Bool) (st : BitVec 16) (detail : Nat) (log : Dev → Dev) : Run Unit :=
  if c then pure () else failLog st detail log

/-- An effect on the device. -/
def eff (f : Dev → Dev) : Run Unit := modify f

/-- Free bytes (log entry 2). -/
def freeB (n : Nat) : Run Bytes := do
  let d ← get
  let r := takeFree n d
  set r.2
  pure r.1

/-- A random draw or another step that answers a value. -/
def step' {α : Type} (f : Dev → α × Dev) : Run α := do
  let d ← get
  let r := f d
  set r.2
  pure r.1

/-- Runs a body from a device state. -/
def runBody {α : Type} (b : Run α) (d : Dev) : Except Stop α × Dev := b d

/-! ## Fields of a command -/

def par (c : Cmd) (o n : Nat) : Nat := fieldLE c.params (o - 64) n
def parB (c : Cmd) (o n : Nat) : Bytes := slice c.params (o - 64) n
/-- The parameter bytes from entry offset `o` to before `e` are zero (R6). -/
def zeroPar (c : Cmd) (o e : Nat) : Bool := (parB c o (e - o)).all (· = 0)
def fence (c : Cmd) : Bool := c.flags.getLsbD 2

/-- The two handles as numbers. -/
def hA (c : Cmd) : Nat := c.ha.toNat
def hB (c : Cmd) : Nat := c.hb.toNat

/-- The function a command was submitted on; a task's command belongs to the function of its session's owner. -/
def cmdFn (c : Cmd) : Nat := if isHost c then c.fn else ownerFn c.owner

end Sys2Proof.Machine
end

