-- ==== Sys2Proof/Machine/Cmd.lean ====
section
/-! DEFINITION. How a hasp command starts and ends: its place in its session's order (R72), its scatter lists
(R58), host read errors (R59), and what its body's outcome makes of it. -/

namespace Sys2Proof.Machine

abbrev Ans := Host.Outcome State Fault Refusal

/-- A next state whose device alone changes. -/
def nextD (f : Dev → Dev) (s : State) : Ans := .next (onDev f s)

/-- Sequence number `a` is below `b`, compared as in RFC 1982 (R68). -/
def seqBelow (a b : Word32) : Bool := let d := (b - a).toNat; 0 < d && d < 2 ^ 31

def classOf (code : Nat) : Nat := code / 256

/-- Barriers (R72). -/
def isBarrier (c : Cmd) : Bool :=
  fence c || [0x00, 0x01, 0x02, 0x08].contains (classOf c.code) || (classOf c.code == 0x07 && c.code != 0x0701)

def sameSession (x c : Cmd) : Bool := isHost x && isHost c && x.fn == c.fn && x.session == c.session

/-- The command has taken effect: a hook when it is registered, an EPOCH_COMMIT when its commit starts, a supply when its payload
is taken (R238), an APL_CALL when its task is READY (R313), any other at its end. -/
def inEffect (x : Cmd) : Bool :=
  match x.stage with
  | .done r => r.status != stRetry
  | .running => x.code == 0x0703 || x.code == 0x0704 || x.code == 0x0812 || (x.code == 0x0705 && x.scratch.getD 0 0 == 1)
  | _ => false

/-- The commands of `c`'s session accepted below it and not yet in effect. -/
def openBelow (d : Dev) (c : Cmd) : List Cmd :=
  d.hif.cmds.filter (fun x => sameSession x c && x.accepted && isAccepted x && x.dupOf.isNone && !x.silent && !inEffect x
    && seqBelow x.seq c.seq)

/-- The order of R72 lets the command start now: no barrier below is still to take effect, none at all where it is a
barrier itself, and none below has ended with an ST_RETRY still to be posted (R69). -/
def mayStart (d : Dev) (c : Cmd) : Bool :=
  isWaiting c && c.dupOf.isNone &&
    (if isHost c then
      (if isBarrier c then (openBelow d c).isEmpty else (openBelow d c).all (fun x => !isBarrier x && !isDone x))
     else true)

/-! ## Scatter lists (R58) -/

def sgLast (e : SgElem) : Bool := e.flags.getLsbD 0
def sgChain (e : SgElem) : Bool := e.flags.getLsbD 1

def sgElemOk (e : SgElem) : Bool :=
  e.flags &&& 0xFC == 0 && e.reserved == 0 && !(sgLast e && sgChain e) &&
    (if sgChain e then e.len == 0 && e.iova.toNat % 16 == 0 else decide (1 ≤ e.len) && decide (e.len ≤ 1048576))

/-- A list that keeps the rules: its one last element stands at the end, and its lengths add up. -/
def sgOk (base : Word64) (l : List SgElem) (sumOk : Nat → Bool) : Bool :=
  base.toNat % 16 == 0 && decide (l.length ≤ 4096) && l.all sgElemOk && (l.getLast?.map sgLast).getD false
    && l.dropLast.all (fun e => !sgLast e) && sumOk ((l.map (·.len)).sum)

def sgSegs (l : List SgElem) : List (Word64 × Nat) := (l.filter (fun e => !sgChain e)).map (fun e => (e.iova, e.len))

/-- What a command reads: the host's answers, or for a task's command what its issue read (R285). -/
def readOf (c : Cmd) (hr : HostRead) : HostRead :=
  if isHost c then hr else ⟨[], [], c.taskIn, c.taskOut, c.taskFrags, none⟩

/-- The input bytes, as many as in_len says. -/
def inData (c : Cmd) (hr : HostRead) : Bytes := fit (readOf c hr).data c.inLen

/-- EV_5103: a host read of a function ended in an error or gave poisoned data (R59). -/
def log5103 (f : Nat) (a : Word64) (d : Dev) : Dev :=
  aerSet f 12 d |> logEv 0x5103 0x50 f (a.toNat / 2 ^ 32) (a.toNat % 2 ^ 32)

/-- The command reads host memory before it takes effect: unstreamed input, a scatter list, or what a digest command's
descriptors name (R58, R59, R187). -/
def readsHost (c : Cmd) (streamed : Bool) : Bool :=
  (!streamed && c.inLen != 0) || c.flags.getLsbD 0 || c.flags.getLsbD 1 || classOf c.code == 5

/-- The checks of R59 and R58 that come before a command's own effect: what cannot be read is not judged. -/
def listChecks (c : Cmd) (hr : HostRead) (streamed : Bool) : Run Unit := do
  if isHost c then
    match hr.err with
    | some a => if readsHost c streamed then failLog stParam 1 (log5103 c.fn a) else pure ()
    | none => pure ()
    if c.flags.getLsbD 0 then need (sgOk c.inPtr hr.inSg (fun n => n == c.inLen)) stParam 0
    if c.flags.getLsbD 1 then need (sgOk c.outPtr hr.outSg (fun n => decide (c.outCap ≤ n))) stParam 0

/-- What a body's end makes of its command. -/
def settle (cid : Nat) (r : Except Stop Res × Dev) : Dev :=
  match r.1 with
  | .ok res => finish cid res r.2
  | .error (.res res) => finish cid res r.2
  | .error (.wait on) => onCmd cid (fun c => { c with waitOn := on }) r.2
  | .error .running => onCmd cid (fun c => { c with stage := .running, waitOn := [] }) r.2

/-- Runs the command `cid` if it is the command `code`, waits, and may start under R72; otherwise nothing happens. -/
def runCmd (code : Nat) (cid : Nat) (hr : HostRead) (streamed : Bool) (body : Cmd → HostRead → Run Res) (d : Dev) : Dev :=
  match cmdOf? d cid with
  | none => d
  | some c =>
    if c.code == code && mayStart d c then
      let d := onCmd cid (fun c => { c with
        outSeg := if c.flags.getLsbD 1 then sgSegs hr.outSg else [(c.outPtr, c.outCap)] }) d
      settle cid (runBody (do listChecks c hr streamed; body c (readOf c hr)) d)
    else d

/-- The meaning of a row that runs one hasp command. -/
def hasp (code cid : Nat) (hr : HostRead) (body : Cmd → HostRead → Run Res) (s : State) : Ans :=
  nextD (runCmd code cid hr false body) s

/-- Continues a command that is running: what a later event finishes. -/
def finishRunning (cid : Nat) (r : Res) (d : Dev) : Dev :=
  match cmdOf? d cid with
  | some c => if isRunning c then finish cid r d else d
  | none => d

/-- The service action of a command ends with `res` (R486, R498). -/
def svcDone (cid : Nat) (res : Res) (d : Dev) : Dev :=
  onSvc (fun s => { s with
    actions := s.actions.filter (fun x => x.cid != cid)
    count := if res.status == stOk then s.count + 1 else s.count }) d
    |> onTmp (fun t => { t with calCid := if t.calCid == some cid then none else t.calCid })
    |> finishRunning cid res

end Sys2Proof.Machine
end

