-- ==== Sys2Proof/Machine/Entropy.lean ====
section
/-! DEFINITION. Noise sources and their health tests, the conditioner, the seed supply, the DRBGs with their
draws and queues, and the entropy commands and events (08, R200 to R224). -/

namespace Sys2Proof.Machine

/-! ## Health tests (R201) -/

/-- The bits of a byte string in the order sampled: bit 0 of byte 0 first (R204). -/
def sampleBits (b : Bytes) : List Bool := b.flatMap (fun x => (List.range 8).map x.getLsbD)

/-- The repetition count test: the last bit, the length of its run, and how many runs reached 68. -/
def rctStep (st : Option Bool × Nat × Nat) (b : Bool) : Option Bool × Nat × Nat :=
  let run := if st.1 == some b then st.2.1 + 1 else 1
  (some b, run, if run = 68 then st.2.2 + 1 else st.2.2)

def rctRun (start : Option Bool × Nat) (bits : List Bool) : Option Bool × Nat × Nat :=
  bits.foldl rctStep (start.1, start.2, 0)

/-- The adaptive proportion test fails over one window of 1,024 bits. -/
def aptFails (bits : List Bool) : Bool :=
  match bits with
  | [] => false
  | b :: _ => 781 ≤ count bits (· == b)

/-! ## Sources -/

def srcOf (d : Dev) (n : Nat) : SrcS := tget d.ent.srcs n {}
def onSrc (n : Nat) (f : SrcS → SrcS) : Dev → Dev := onEnt (fun e => { e with srcs := tmod e.srcs n {} f })

/-- A source is out of supply (R205). -/
def srcOut (d : Dev) (n : Nat) : Bool := let s := srcOf d n; s.isolated || s.heldOut || s.injecting
def srcsOut (d : Dev) : Nat := count (List.range 8) (srcOut d)
/-- The mask of sources in supply (EV_1213). -/
def supplyMask (d : Dev) : Nat := (List.range 8).foldl (fun a n => if srcOut d n then a else a + 2 ^ n) 0

/-- Requests that need fresh seed end when the supply stops (R216). -/
def failPredictive (d : Dev) : Dev :=
  forAll (d.hif.cmds.filter (fun c => c.code == 0x0601 && isRunning c && c.scratch.getD 2 0 == 1)) (fun c d =>
    onCmd c.cid (fun c => { c with taskOut := [] }) d |> finish c.cid (resErr stEntropy 0)) d

/-- What a running software read still needs: region, length, prediction resistance. -/
def readRegion (c : Cmd) : Nat := c.scratch.getD 0 0
def readLen (c : Cmd) : Nat := c.scratch.getD 1 0
def readPr (c : Cmd) : Bool := c.scratch.getD 2 0 == 1

/-- A software read of RANDOM or of coprocessor 5 that still needs bytes of region `r`. -/
def isRead (r : Nat) (pr : Bool) (c : Cmd) : Bool :=
  (c.code == 0x0601 || c.code == 0xFF05) && isRunning c && readRegion c == r && readPr c == pr

/-- The DRBG serves requests: instantiated, tested, not stopped, and its seed period not ended (R207, R215, R216). -/
def drbgServes (d : Dev) (r : Nat) : Bool :=
  let g := (regionOf d r).drbg
  g.instantiated && g.katPassed && !g.stopped && !g.stopping && !g.periodEnded

/-- The DRBG refuses generates: its functions are stopped, or it is out of seed while the supply is stopped (R215, R216). -/
def drbgRefuses (d : Dev) (r : Nat) : Bool := (regionOf d r).drbg.stopped || (regionOf d r).drbg.noSeed

/-- A read that finds the queue empty while the DRBG refuses generates ends at once (R210, R216). -/
def endStarved (r : Nat) (d : Dev) : Dev :=
  if drbgRefuses d r then
    forAll ((d.hif.cmds.filter (isRead r false)).map (·.cid)) (fun cid d =>
      onCmd cid (fun c => { c with taskOut := [] }) d |> finish cid (resErr stEntropy 0)) d
  else d

/-- A DRBG whose seed period has ended with the supply stopped is out of seed, which is logged once (R216). -/
def outOfSeed (r : Nat) (d : Dev) : Dev :=
  let g := (regionOf d r).drbg
  if g.instantiated && g.periodEnded && !g.noSeed then
    onDrbg r (fun g => { g with noSeed := true }) d |> logEv 0x4242 (0x74 + r) r 0 0 |> endStarved r
  else d

/-- Stops the seed supply (R205). Cause 1 sources, 2 conditioner test. -/
def supplyStop (cause : Nat) (d : Dev) : Dev :=
  if d.ent.stopped then d
  else onEnt (fun e => { e with stopped := true, reservoir := [] }) d
    |> logEv 0x1213 0x82 (supplyMask d) cause 0 |> failPredictive |> forAll (List.range 4) outOfSeed

/-- The regions whose DRBG must reseed before it serves, queued in region order (R205). -/
def queueEnded (d : Dev) : Dev :=
  onEnt (fun e => { e with reseedQ := e.reseedQ ++ (List.range 4).filterMap (fun r =>
    if h : r < 4 then
      let g := (regionOf d r).drbg
      if g.instantiated && g.periodEnded && !(e.reseedQ.contains ⟨r, h⟩) then some ⟨r, h⟩ else none
    else none) }) d

/-- Restarts the seed supply when fewer than three sources are out and no conditioner test stands failed (R205, R215). -/
def supplyResume (d : Dev) : Dev :=
  if d.ent.stopped && !d.ent.katFailed && decide (srcsOut d < 3) then
    onEnt (fun e => { e with stopped := false }) d |> logEv 0x1214 0x82 (supplyMask d) 0 0 |> queueEnded
  else d

def supplyCheck (d : Dev) : Dev := if 3 ≤ srcsOut d then supplyStop 1 d else d

/-- Failures of a source within 3,600 s, counting the present one (R203). -/
def recentFails (d : Dev) (n : Nat) : List Nat :=
  nowTb d :: (srcOf d n).failTimes.filter (fun t => nowTb d - t < 3600 * ticksPerS)

/-- SOURCE_ISOLATE (R203): test 1 repetition count, 2 adaptive proportion, 3 start-up. -/
def srcIsolate (n test : Nat) (d : Dev) : Dev :=
  let f := recentFails d n
  if 4 ≤ f.length then
    onSrc n (fun s => { s with isolated := false, heldOut := true, injecting := false, failTimes := f, windows := [] }) d
      |> logEv 0x1212 0x82 n f.length 0 |> supplyCheck
  else
    onSrc n (fun s => { s with isolated := true, injecting := false, failTimes := f, windows := [] }) d
      |> logEv 0x1210 0x82 n test f.length |> supplyCheck

def satInc (n : Nat) : Nat := min (n + 1) 65535

/-- A window of 1,024 bits (R201, R202). -/
def noiseWindow (n : Nat) (window : Bytes) (d : Dev) : Dev :=
  let s := srcOf d n
  if s.startup || s.isolated || s.heldOut || s.injecting then d
  else
    let bits := sampleBits (fit window 128)
    let r := rctRun (if s.runLen = 0 then none else some s.lastBit, s.runLen) bits
    let apt := aptFails bits
    let d := onSrc n (fun s => { s with
      lastBit := r.1.getD false, runLen := r.2.1
      rcFails := if r.2.2 = 0 then s.rcFails else satInc s.rcFails
      apFails := if apt then satInc s.apFails else s.apFails }) d
    if r.2.2 ≠ 0 then srcIsolate n 1 d
    else if apt then srcIsolate n 2 d
    else onSrc n (fun s => { s with windows := s.windows ++ fit window 128 }) d

def execNoiseWindowComplete (src : Source) (window : List Byte) (s : State) : Ans := nextD (noiseWindow src window) s

/-- After 1 s an isolated source runs the start-up test (R203 step 3). -/
def execSourceRetest (src : Source) (s : State) : Ans :=
  nextD (fun d => if (srcOf d src).isolated then onSrc src (fun s => { s with startup := true }) d else d) s

/-- Ends ENT_INJECT once no masked source is still out (R213 step 4). -/
def injectCheck (d : Dev) : Dev :=
  match d.ent.injectCid with
  | none => d
  | some cid =>
    if (List.range 8).any (fun n => (srcOf d n).injecting) then d
    else
      let d1 := onEnt (fun e => { e with injectCid := none }) d
      match cmdOf? d cid with
      | none => d1
      | some c =>
        let res := c.scratch.getD 0 0
        d1 |> finishRunning cid { resOut c.taskOut with result := BitVec.ofNat 32 res }
           |> logEv 0x0130 0x82 (par c 64 1) c.inLen res

/-- The start-up test ends (R202, R203): both tests over 4,096 samples. A source that is held out and was under
injection stays held out (R213). -/
def startupEnd (n : Nat) (samples : Bytes) (d : Dev) : Dev :=
  let s := srcOf d n
  if !s.startup then d
  else if s.heldOut then onSrc n (fun s => { s with startup := false, injecting := false }) d |> injectCheck
  else
    let b := fit samples 512
    let rct := (rctRun (none, 0) (sampleBits b)).2.2
    let apt := (chunks 128 b).any (fun w => aptFails (sampleBits w))
    let d := onSrc n (fun s => { s with
      startup := false, runLen := 0, windows := []
      rcFails := if rct = 0 then s.rcFails else satInc s.rcFails
      apFails := if apt then satInc s.apFails else s.apFails }) d
    if rct ≠ 0 || apt then srcIsolate n 3 d |> injectCheck
    else if s.isolated then
      onSrc n (fun s => { s with isolated := false, injecting := false }) d |> logEv 0x1211 0x82 n 0 0 |> injectCheck |> supplyResume
    else onSrc n (fun s => { s with injecting := false }) d |> injectCheck |> supplyResume

def execSourceStartupTestEnd (src : Source) (samples : List Byte) (s : State) : Ans := nextD (startupEnd src samples) s

/-! ## DRBGs (R206 to R210) -/

/-- The next seed block of the reservoir. -/
def takeBlock (d : Dev) : Option (Bytes × Dev) :=
  match d.ent.reservoir with
  | [] => none
  | b :: rest => some (b, onEnt (fun e => { e with reservoir := rest }) d)

def persString (d : Dev) (r : Nat) : Bytes :=
  natLE Config.serial.toNat 8 ++ [byte r] ++ natLE (rwpVal d rwpPowerCycles).toNat 3 ++ natLE (rwpVal d rwpResetCount).toNat 4

/-- Instantiates the DRBG of region `r` from two seed blocks (R206). -/
def drbgInst (r : Nat) (b1 b2 : Bytes) (d : Dev) : Dev :=
  let kv := drbgInstantiate (b1 ++ b2.take 16 ++ persString d r)
  onDrbg r (fun g => { g with instantiated := true, key := kv.1, v := kv.2, reqsLeft := 2 ^ 20
                              lastReseed := nowTb d, periodEnded := false, noSeed := false, seedHalf := [] }) d

/-- DRBG_RESEED with a block (R206); a request for one that the region had waiting is served with it. -/
def drbgReseedWith (r : Nat) (b : Bytes) (d : Dev) : Dev :=
  onDrbg r (fun g =>
    let kv := drbgReseed b g.key g.v
    { g with key := kv.1, v := kv.2, reqsLeft := 2 ^ 20, lastReseed := nowTb d, periodEnded := false
             noSeed := false, reseeds := g.reseeds + 1 }) d
    |> onEnt (fun e => { e with reseedQ := e.reseedQ.filter (fun q => q.val != r) })

/-- The seed period ends: the DRBG reseeds from the reservoir, waits for a block, or refuses while the supply
is stopped, which is logged once (R206, R216). -/
def seedPeriodEnd (r : Region) (d : Dev) : Dev :=
  if !(regionOf d r).drbg.instantiated then d
  else
    match takeBlock d with
    | some (b, d1) => drbgReseedWith r b d1
    | none =>
      let d1 := onDrbg r (fun g => { g with periodEnded := true }) d
      if d.ent.stopped then outOfSeed r d1
      else onEnt (fun e => if e.reseedQ.contains r then e else { e with reseedQ := e.reseedQ ++ [r] }) d1

def execDrbgSeedPeriodEnd (r : Region) (s : State) : Ans := nextD (seedPeriodEnd r) s

/-- One generate of at most 512 B by a DRBG that serves (R206, R209). -/
def drbgGen (r : Region) (n : Nat) (d : Dev) : Bytes × Dev :=
  let g := (regionOf d r).drbg
  let o := drbgGenerate n [] g.key g.v
  let d1 := onDrbg r (fun g => { g with key := o.2.1, v := o.2.2, reqsLeft := g.reqsLeft - 1, generates := g.generates + 1 }) d
  (o.1, if g.reqsLeft ≤ 1 then seedPeriodEnd r d1 else d1)

/-- A private-wire draw of `n` bytes from one region, in generates of at most 512 B (R208, R209); none where the
DRBG does not serve to the end. `fuel` bounds the generates. -/
def regionDraw (r : Region) : Nat → Nat → Dev → Option Bytes × Dev
  | 0, n, d => (if n = 0 then some [] else none, d)
  | f + 1, n, d =>
    if n = 0 then (some [], d)
    else if !drbgServes d r then (none, d)
    else
      let g := drbgGen r (min n 512) d
      let rest := regionDraw r f (n - min n 512) g.2
      (rest.1.map (fun b => g.1 ++ b), rest.2)

def draw (r : Region) (n : Nat) (d : Dev) : Option Bytes × Dev := regionDraw r (n / 512 + 2) n d

/-- The draw of the key store and the vault engine: the regions in rotation, skipping those that do not serve (R208). -/
def ksDraw (n : Nat) (d : Dev) : Option Bytes × Dev :=
  let order : List Region := (List.finRange 4).map (fun i => i + Fin.ofNat 4 d.ks.rot)
  match order.find? (fun (r : Region) => drbgServes d r) with
  | none => (none, d)
  | some r =>
    let o := draw r n d
    (o.1, onKs (fun k => { k with rot := (r.val + 1) % 4 }) o.2)

/-- A command waits for a seed block that a DRBG it draws from has asked for. -/
def waitSeed : Nat := 1000005

/-- The DRBG of a region in service only waits to be instantiated, reseeded or tested, and a stopped supply does not keep it from
it (R207, R208, R216). -/
def drbgAwaits (d : Dev) (r : Nat) : Bool :=
  let g := (regionOf d r).drbg
  regionRuns d r && !drbgServes d r && !drbgRefuses d r && !g.stopping && (!d.ent.stopped || g.instantiated && !g.periodEnded)

/-- A draw that a command needs from one of some regions: it waits where one of them only awaits seed, and ends with
ST_ENTROPY where none can serve (R208, R216). -/
def needDrawOf (rs : List Nat) (f : Dev → Option Bytes × Dev) : Run Bytes := do
  match ← step' f with
  | some b => pure b
  | none => if rs.any (drbgAwaits (← get)) then throw (.wait [waitSeed]) else fail stEntropy 0

def needDraw (f : Dev → Option Bytes × Dev) : Run Bytes := needDrawOf (List.range 4) f

/-! ## Random queues and RANDOM -/

/-- Gives a read bytes and finishes it when it has all. -/
def readGive (r : Nat) (cid : Nat) (b : Bytes) (d : Dev) : Dev :=
  match cmdOf? d cid with
  | none => d
  | some c =>
    let got := c.taskOut ++ b
    if got.length < readLen c then onCmd cid (fun c => { c with taskOut := got }) d
    else finish cid (resOut got) d |> onDrbg r (fun g => { g with swBytes := g.swBytes + BitVec.ofNat 64 got.length })

/-- The queue serves its waiting reads in order of arrival. -/
def serveReads (r : Region) (d : Dev) : Dev :=
  forAll ((d.hif.cmds.filter (isRead r false)).map (·.cid)) (fun cid d =>
    match cmdOf? d cid with
    | none => d
    | some c =>
      let n := min (readLen c - c.taskOut.length) (regionOf d r).drbg.queue.length
      let b := (regionOf d r).drbg.queue.take n
      onDrbg r (fun g => { g with queue := g.queue.drop n }) d |> readGive r cid b) d

/-- A request of a higher level than a refill waits: a read with prediction resistance, or a test (R209). -/
def higherWaits (d : Dev) (r : Nat) : Bool := d.hif.cmds.any (isRead r true) || (regionOf d r).drbg.katRunning

/-- RANDOM_QUEUE_REFILL (R210). -/
def queueRefill (r : Region) (d : Dev) : Dev :=
  if drbgServes d r && decide ((regionOf d r).drbg.queue.length ≤ 3584) && !higherWaits d r then
    let g := drbgGen r 512 d
    onDrbg r (fun x => { x with queue := x.queue ++ g.1 }) g.2 |> serveReads r
  else d

def execRandomQueueRefill (r : Region) (s : State) : Ans := nextD (queueRefill r) s

/-- A software read with prediction resistance takes its turn behind those that wait at its DRBG (R209). -/
def readTurn (d : Dev) (r : Nat) : Nat :=
  1 + ((d.hif.cmds.filter (isRead r true)).map (fun c => c.scratch.getD 3 0)).foldl max 0
/-- The read with prediction resistance whose turn it is: the one that has waited longest since its last generate. -/
def readNext (d : Dev) (r : Nat) : Option Cmd :=
  (d.hif.cmds.filter (isRead r true)).foldl (fun a c => match a with
    | some b => if c.scratch.getD 3 0 < b.scratch.getD 3 0 then some c else some b
    | none => some c) none

/-- The DRBG can serve a read whose own reseed comes first: instantiated, tested and not stopped. -/
def drbgReseeds (d : Dev) (r : Nat) : Bool :=
  let g := (regionOf d r).drbg
  g.instantiated && g.katPassed && !g.stopped && !g.stopping

/-- DRBG_GENERATE (R209): a read with prediction resistance first, each of its generates after a reseed and each in a turn of
its own; then the queue. A reseed that finds no seed ends the read with ST_ENTROPY, and what it had is gone (R212). -/
def drbgServe (r : Region) (d : Dev) : Dev :=
  match readNext d r with
  | some c =>
    if !drbgReseeds d r then d
    else
      match takeBlock d with
      | none => onCmd c.cid (fun c => { c with taskOut := [] }) d |> finish c.cid (resErr stEntropy 0)
      | some (b, d1) =>
        let g := drbgGen r (min 512 (readLen c - c.taskOut.length)) (drbgReseedWith r b d1)
        let turn := readTurn d r
        readGive r c.cid g.1 (onCmd c.cid (fun c => { c with scratch := [readRegion c, readLen c, 1, turn] }) g.2)
  | none => queueRefill r d

def execDrbgGenerate (r : Region) (s : State) : Ans := nextD (drbgServe r) s

/-- RANDOM_READ_TIMEOUT (R210): the bytes taken are never delivered. -/
def readTimeout (cid : Nat) (d : Dev) : Dev :=
  match cmdOf? d cid with
  | none => d
  | some c =>
    if isRead (readRegion c) false c then
      onDrbg (readRegion c) (fun g => { g with swRetries := g.swRetries + 1 }) d
        |> onCmd cid (fun c => { c with taskOut := [] }) |> finish cid resRetry
    else d

def execRandomReadTimeout (cid : Nat) (s : State) : Ans := nextD (readTimeout cid) s

/-- The queue that a RANDOM on the control session reads: the fullest, the lowest region taking a tie (R212). -/
def fullestQueue (d : Dev) : Region :=
  (List.finRange 4).foldl (fun (a r : Region) =>
    if (regionOf d a).drbg.queue.length < (regionOf d r).drbg.queue.length then r else a) 0

def sessHome (d : Dev) (session : Nat) : Region := (tget d.hif.sess (session % 65536) {}).home

/-- Starts a software read of `n` bytes from region `r`'s queue. -/
def queueRead (cid : Nat) (r : Region) (n : Nat) : Run Res := do
  let g := (regionOf (← get) r).drbg
  if g.stopped then fail stEntropy 0
  eff (onCmd cid (fun c => { c with stage := .running, scratch := [r, n, 0], taskOut := [] }))
  eff (serveReads r)
  eff (endStarved r)
  -- the read has ended, or runs on
  let d ← get
  match cmdOf? d cid with
  | some c => match c.stage with
    | .done res => pure res
    | _ => throw .running
  | none => throw .running

/-- RANDOM (R211, R212). -/
def bodyRandom (c : Cmd) (_ : HostRead) : Run Res := do
  need (hA c == 0 && hB c == 0) stParam 0x0603
  need (c.inPtr == 0 && c.inLen == 0) stParam 0x0603
  let n := par c 64 4
  need (1 ≤ n && n ≤ 65536) stParam 0x0601
  need (n ≤ c.outCap) stParam 0x0602
  need (par c 68 1 ≤ 1 && zeroPar c 69 128) stParam 0
  let d ← get
  let r := if c.session == 0 then fullestQueue d else sessHome d c.session.toNat
  if par c 68 1 == 0 then queueRead c.cid r n
  else
    need (!d.ent.stopped && !(regionOf d r).drbg.stopped) stEntropy 0
    eff (onCmd c.cid (fun c => { c with scratch := [r, n, 1, readTurn d r], taskOut := [] }))
    throw .running

def execRandom (cid : Nat) (hr : HostRead) (s : State) : Ans := hasp 0x0601 cid hr bodyRandom s

/-! ## Conditioner (R204) -/

/-- One unit of 64 bits from the next source in service that holds one, in turn. -/
def takeUnit (d : Dev) : Option (Bytes × Dev) :=
  let order := (List.range 8).map (fun i => (d.ent.rr + i) % 8)
  match order.find? (fun n => !srcOut d n && decide (8 ≤ (srcOf d n).windows.length)) with
  | none => none
  | some n =>
    some ((srcOf d n).windows.take 8,
      onSrc n (fun s => { s with windows := s.windows.drop 8 }) d |> onEnt (fun e => { e with rr := (n + 1) % 8 }))

def takeUnits : Nat → Dev → Option (Bytes × Dev)
  | 0, d => some ([], d)
  | k + 1, d =>
    match takeUnit d with
    | none => none
    | some (b, d1) => (takeUnits k d1).map (fun p => (b ++ p.1, p.2))

/-- A test starts, unless one of the same part already runs; its fixed vectors, constants of the boot ROM that the manual
does not give, enter the shadow state (R214). -/
def katStart (t : KatTarget) (d : Dev) : Dev :=
  let d1 := onEnt (fun e => if e.kats.contains t then e else { e with kats := e.kats ++ [t] }) d
  match t with
  | .conditioner => onEnt (fun e => { e with katRunning := true, shadow := (List.range 32).map (fun i => BitVec.ofNat 8 (Config.implValue 214 i)) }) d1
  | .drbg r => onDrbg r (fun g => { g with katRunning := true, shadow := (List.range 48).map (fun i => BitVec.ofNat 8 (Config.implValue 214 (32 + i))) }) d1

/-- A DRBG instantiated while its region is in service is tested before it serves (R207). -/
def drbgFresh (r : Region) (b1 b2 : Bytes) (d : Dev) : Dev :=
  drbgInst r b1 b2 d |> doIf (!(regionOf d r).drbg.katPassed) (katStart (.drbg r))

/-- A conditioned block goes to the first waiting request, or to the reservoir (R204). A DRBG that is not yet
instantiated takes two. -/
def giveBlock (b : Bytes) (d : Dev) : Dev :=
  match d.ent.reseedQ with
  | r :: rest =>
    if (regionOf d r).drbg.instantiated then
      drbgReseedWith r b (onEnt (fun e => { e with reseedQ := rest }) d)
    else if (regionOf d r).drbg.seedHalf.isEmpty then onDrbg r (fun g => { g with seedHalf := b }) d
    else drbgFresh r (regionOf d r).drbg.seedHalf b (onEnt (fun e => { e with reseedQ := rest }) d)
  | [] => onEnt (fun e => { e with reservoir := if e.reservoir.length < 32 then e.reservoir ++ [b] else e.reservoir }) d

/-- CONDITIONER_BLOCK: SHA3-256 over 1,024 raw bits. -/
def conditionerBlock (d : Dev) : Dev :=
  if d.ent.stopped || blkResetting d .conditioner then d
  else
    match takeUnits 16 d with
    | none => d
    | some (raw, d1) => onEnt (fun e => { e with blocks := e.blocks + 1 }) d1 |> giveBlock (sha3_256 raw)



/-! ## ENT_INJECT (R213) -/

def maskSources (m : Nat) : List Nat := (List.range 8).filter (fun n => m.testBit n)

def bodyEntInject (c : Cmd) (hr : HostRead) : Run Res := do
  need (hA c == 0 && hB c == 0) stParam 0x0603
  let mask := par c 64 1
  need (zeroPar c 65 128) stParam 0
  need (mask != 0) stParam 0x0603
  need (c.inLen % 128 == 0 && 128 ≤ c.inLen && c.inLen ≤ 65536) stParam 0x0604
  need (c.inLen / 4 ≤ c.outCap) stParam 0x0602
  needLog (← get).ent.injectCid.isNone stState 0 (log5104 c.code c.fn 1)
  let pattern := inData c hr
  let rc := (rctRun (none, 0) (sampleBits pattern)).2.2
  let ap := count (chunks 128 pattern) (fun w => aptFails (sampleBits w))
  eff (forAll (maskSources mask) (fun n => onSrc n (fun s => { s with injecting := true, startup := true })))
  eff supplyCheck
  eff (onEnt (fun e => { e with injectCid := some c.cid }))
  eff (onCmd c.cid (fun c => { c with
    scratch := [ap * 65536 + rc], taskOut := (chunks 128 pattern).flatMap sha3_256 }))
  throw .running

def execEntInject (cid : Nat) (hr : HostRead) (s : State) : Ans := hasp 0x0610 cid hr bodyEntInject s

/-! ## Known-answer tests (R214, R215) -/

def allKats : List KatTarget := .conditioner :: (List.finRange 4).map .drbg

def katBit : KatTarget → Nat
  | .conditioner => 1
  | .drbg r => 2 ^ (r.val + 1)

/-- The parts that can be tested: the conditioner, and the DRBGs of regions in service. -/
def katParts (d : Dev) : List KatTarget :=
  allKats.filter (fun t => match t with | .conditioner => true | .drbg r => regionRuns d r)

/-- ENT_KAT (R214). DESIGN CHOICE (log entry 214): a second one waits until the first has ended, and a DRBG whose region
is not in service does not pass. -/
def bodyEntKat (c : Cmd) (_ : HostRead) : Run Res := do
  need (hA c == 0 && hB c == 0) stParam 0x0603
  need (c.inPtr == 0 && c.inLen == 0) stParam 0x0603
  need (zeroPar c 64 128) stParam 0
  let d ← get
  if d.ent.katCid.isSome then throw (.wait [])
  eff (forAll (katParts d) katStart)
  eff (onEnt (fun e => { e with
    katCid := some c.cid
    katFails := ((allKats.filter (fun t => !(katParts d).contains t)).map katBit).sum }))
  throw .running

def execEntKat (cid : Nat) (hr : HostRead) (s : State) : Ans := hasp 0x0620 cid hr bodyEntKat s

def execEntropyKatDue (s : State) : Ans := nextD (fun d => forAll (katParts d) katStart d) s

/-- The end of a test for ENT_KAT: it completes when none of its five is left. -/
def katCollect (t : KatTarget) (failed : Bool) (d : Dev) : Dev :=
  match d.ent.katCid with
  | none => d
  | some cid =>
    let fails := if failed then d.ent.katFails ||| katBit t else d.ent.katFails
    if d.ent.kats.isEmpty then
      onEnt (fun e => { e with katCid := none, katFails := 0 }) d
        |> finishRunning cid (if fails = 0 then resOk else { resErr stFault 0 with result := BitVec.ofNat 32 fails })
    else onEnt (fun e => { e with katFails := fails }) d

end Sys2Proof.Machine
end

