-- ==== Sys2Proof/Machine/Store.lean ====
section
/-! DEFINITION. The persistent store (14): general records and their pages, the keep area, banks with rebuilds and
scrub, the commit of persistent registers, and the rows of the store. -/

namespace Sys2Proof.Machine

/-! ## General records (R390 to R393, R403) -/

/-- Stripes 896 on hold the fixed records (8,192 + 8,192 + 512 pages); the out-of-place pages stand above them. -/
def outBase : Nat := 17792
def stripeCount : Nat := 65536

def recOf (d : Dev) (id : Nat) : GenRec := tget d.nvm.recs id {}
def onRec (id : Nat) (f : GenRec → GenRec) : Dev → Dev := onNvm (fun n => { n with recs := tmod n.recs id {} f })
def recClass (id : Nat) : Nat := id / 2 ^ 24
def isFixedClass (c : Nat) : Bool := 5 ≤ c && c ≤ 7
/-- Classes whose pages are not encrypted (R392). -/
def isPlainClass (c : Nat) : Bool := c == 3 || c == 4 || c == 6 || c == 7

def stripesUsed (n : NvmS) : List Nat := n.recs.flatMap (fun p => p.2.stripes ++ p.2.writing)
def stripeWear (n : NvmS) (s : Nat) : Nat := tget n.stripeWrites s 0
def stripeRetired (n : NvmS) (s : Nat) : Bool := 1000000 ≤ stripeWear n s

/-- The stripes that have been written once: only these have a count. -/
def stripeFree (n : NvmS) (s : Nat) : Bool :=
  !(stripesUsed n).contains s && !stripeRetired n s && !n.lostStripes.contains s

/-- Candidates for allocation: every stripe with a count, and enough stripes never written to hold one. -/
def stripeCandidates (n : NvmS) : List Nat :=
  ((List.range (n.stripeWrites.length + n.lostStripes.length + 1)).map (· + outBase) ++ n.stripeWrites.map (·.1)).filter
    (fun s => outBase ≤ s && s < stripeCount && stripeFree n s)

/-- The free stripe with the lowest count, the lowest number taking a tie (R403). -/
def stripeLowest (n : NvmS) : Option Nat :=
  (stripeCandidates n).foldl (fun a s => match a with
    | none => some s
    | some b => if stripeWear n s < stripeWear n b then some s else a) none

/-- The free stripe with the highest count. -/
def stripeHighest (n : NvmS) : Option Nat :=
  (stripeCandidates n).foldl (fun a s => match a with
    | none => some s
    | some b => if stripeWear n b < stripeWear n s then some s else a) none

/-- A stripe is programmed: its count rises, with the warning and the retirement of R403. -/
def stripeWrite (s : Nat) (d : Dev) : Dev :=
  let n := stripeWear d.nvm s + 1
  onNvm (fun v => { v with stripeWrites := tput v.stripeWrites s n }) d
    |> doIf (n == 900000) (logEv 0x3230 0x81 s 0 0)
    |> doIf (n == 1000000) (logEv 0x3231 0x81 s 0 0)

/-- Free general pages (NVM_FREE_PAGES). -/
def pagesFree (d : Dev) : Nat :=
  let retired := (d.nvm.stripeWrites.filter (fun p => 1000000 ≤ p.2)).map (·.1)
  stripeCount - outBase - ((stripesUsed d.nvm ++ d.nvm.lostStripes ++ retired).filter (outBase ≤ ·)).eraseDups.length

/-- Pages that applet images may take: the free pages less those reserved for one version of the records of the
other out-of-place classes (R390). -/
def pagesForApplets (d : Dev) : Nat :=
  let used := ((d.nvm.recs.filter (fun p => recClass p.1 != 2)).map (fun p => p.2.stripes.length)).sum
  pagesFree d - (4096 + 2 * 2048 + 2 * 64 + 1 + 5 - used)

/-- Logs a change of the parities available (R401). -/
def parityReport (d : Dev) : Dev :=
  let p := parities d.nvm
  let sp := (freeSpares d.nvm).length
  if p = d.nvm.reported then d
  else
    onNvm (fun n => { n with reported := p }) d
      |> (if p = 2 then logEv 0x3212 0x81 sp 0 0
          else logEv (if p = 1 then 0x3210 else 0x3211) 0x81 (missingMask d.nvm) sp 0)

/-- The stripe of a record's page: fixed records keep their own (R389). -/
def stripeOf (d : Dev) (id page : Nat) : Nat :=
  let c := recClass id
  let i := id % 2 ^ 24
  if c = 5 then 896 + 2 * i + page
  else if c = 6 then 9088 + i
  else if c = 7 then 17280 + i
  else (recOf d id).stripes.getD page 0

/-- The page of the general ring that a record stands in. DESIGN CHOICE (log entry 450): record n takes place n modulo
1,048,576. -/
def genPage (r : EvRec) : Nat := 0x06000000 + r.seq % genCap / 128

/-- The page of the retain area that a copy stands in. -/
def retPage (r : EvRec) : Nat := 0x07000000 + r.place / 128

/-- A page of a fixed record has been written: a ring slot by its version, a page of the log where its area reaches it
(R390, R450). -/
def fixedWritten (d : Dev) (id : Nat) : Bool :=
  let c := recClass id
  if c = 5 then (recOf d id).version != 0
  else if c = 6 then d.evr.gen.any (fun r => genPage r == id)
  else d.evr.ret.any (fun r => retPage r == id)

/-- The fixed record whose page a stripe is, with the page's index (R389, R390). -/
def fixedAt (s : Nat) : List (Nat × Nat) :=
  if s < 896 || outBase ≤ s then []
  else if s < 9088 then [(0x05000000 + (s - 896) / 2, (s - 896) % 2)]
  else if s < 17280 then [(0x06000000 + (s - 9088), 0)]
  else [(0x07000000 + (s - 17280), 0)]

/-- The records with a page in a stripe, with the page's index. -/
def recsAt (d : Dev) (s : Nat) : List (Nat × Nat) :=
  d.nvm.recs.flatMap (fun p => if p.2.stripes.contains s then [(p.1, p.2.stripes.idxOf s)] else [])
    ++ (fixedAt s).filter (fun p => fixedWritten d p.1)

/-- The bank that serves a stripe's position: its holder, or the rebuild target below the progress point. -/
def bankAt (n : NvmS) (p s : Nat) : Option Nat :=
  match n.positions.getD p none with
  | some b => some b
  | none => (n.rebuilds.find? (fun r => r.position == p && decide (s < r.done))).map (·.target)

/-- Lost stripes are free for reuse once their record is deleted or rewritten (R400). -/
def stripesReuse (l : List Nat) (d : Dev) : Dev :=
  if d.nvm.lostStripes.any l.contains then
    onNvm (fun n => { n with lostStripes := n.lostStripes.filter (fun s => !l.contains s) }) d |> parityReport
  else d

/-- One page of a record's new version: it goes to a stripe, and with the last page the version takes effect and the
old version's pages are free (R392). A fixed record is written in place, retired stripe or not (log entry 403). -/
def pageWrite (id page : Nat) (d : Dev) : Dev :=
  let r := recOf d id
  let d := onNvm (fun n => { n with fgWrites := n.fgWrites + 1 }) (fgArrive d)
  if isFixedClass (recClass id) then
    let s := stripeOf d id page
    onRec id (fun r => { r with version := r.version + 1, lost := false }) d |> stripesReuse [s] |> stripeWrite s
  else if page ≠ r.writing.length then d
  else
    match stripeLowest d.nvm with
    | none => d
    | some s =>
      let w := r.writing ++ [s]
      let d := stripeWrite s d
      if r.pages ≤ w.length then
        onRec id (fun r => { r with version := r.version + 1, stripes := w, writing := [], lost := false }) d
          |> stripesReuse r.stripes
      else onRec id (fun r => { r with writing := w }) d

/-- Writes a record of `pages` pages and commits it. -/
def recWrite (id pages : Nat) (d : Dev) : Dev :=
  onRec id (fun r => { r with pages := pages, writing := [] }) d |> forAll (List.range pages) (pageWrite id)

/-- Deletes a record: its pages are free, lost ones too (R400). -/
def recErase (id : Nat) (d : Dev) : Dev :=
  onNvm (fun n => { n with recs := tdel n.recs id }) d |> stripesReuse (recOf d id).stripes

/-- Deletes the records that `p` names. -/
def recsErase (p : Nat → Bool) (d : Dev) : Dev := forAll ((d.nvm.recs.map (·.1)).filter p) recErase d

def recLost (d : Dev) (id : Nat) : Bool := (recOf d id).lost

/-- The records of settings (R390): 0 policy, 1 long-job pool, 2 role lengths, 3 maker chain, 4 tenant settings. -/
def settingRec (i : Nat) : Nat := 0x08000000 + i
def ucodeRec (i : Nat) : Nat := 0x04000000 + i
def fwRec (i : Nat) : Nat := 0x03000000 + i
def appletRec (i : Nat) : Nat := 0x02000000 + i
def ringRec (i : Nat) : Nat := 0x05000000 + i
def pagesOf (bytes : Nat) : Nat := (bytes + 4095) / 4096

/-! ## The flush of the event recorder (R448 to R451) -/

/-- One closed record goes to the general ring, and a retain record to the retain area too (R449, R450). -/
def flushOne (key : Bytes) (d : Dev) (r : EvRec) : Dev :=
  let e := d.evr
  let r' := { r with chain := evChain key r e.lastChain }
  let d1 := onEvr (fun e => { e with
    gen := e.gen.filter (fun x => x.seq % genCap != r.seq % genCap) ++ [r'], lastChain := r'.chain, flushedSeq := r.seq }) d
  if r.retain then
    let place := e.retCount % retCap
    let old := e.ret.find? (fun x => x.place == place)
    let gone := old.filter (fun o => !(e.clearRet.map (evSeqBelow o.seq)).getD false)
    let copy := { r with afterLoss := gone.isSome, place := place }
    let copy := { copy with chain := evChain key copy e.lastRetChain }
    let d2 := onEvr (fun e => { e with
      ret := e.ret.filter (fun x => x.place != place) ++ [copy], lastRetChain := copy.chain, retCount := e.retCount + 1 }) d1
    match gone with
    | some o =>
      d2 |> rwpWrite rwpRetainLost (rwpVal d2 rwpRetainLost + 1)
         |> logEv 0x0F02 0x87 ((rwpVal d2 rwpRetainLost).toNat + 1) (o.seq % 2 ^ 32) 1
    | none => d2
  else d1

/-- The pages of both areas that a flush of `recs` writes; the retain area held `n` copies before, counted from its start. -/
def flushPages (recs : List EvRec) (n : Nat) : List Nat :=
  ((recs.map genPage) ++ (List.range (count recs (·.retain))).map (fun k => 0x07000000 + (n + k) % retCap / 128)).eraseDups

/-- Writes every record held, first closing the open ones; withheld while the store is keep-only (R448, R449). -/
def evrFlush (d : Dev) : Dev :=
  if keepOnly d then onEvr (fun e => { e with flushDue := true }) d
  else
    let recs := d.evr.buf.map evClose
    let d1 := onEvr (fun e => { e with buf := [], flushes := e.flushes + 1, flushDue := false, flushCtl := false }) d
    let d2 := forAll (flushPages recs d.evr.retCount) (fun id => pageWrite id 0) (recs.foldl (flushOne (logKey d)) d1)
    if d.evr.supNon + d.evr.supRet = 0 then d2
    else
      onEvr (fun e => { e with supNon := 0, supRet := 0 }) d2 |> logEv 0x0F05 0x87 d.evr.supNon d.evr.supRet 0

/-! ## Banks, rebuilds and parities (R397 to R401) -/

/-- Starts a rebuild of every missing position that has none, onto the lowest-numbered free spares (R398, R399). -/
def rebuildStart (d : Dev) : Dev :=
  forAll (List.range 10) (fun p d =>
    if (d.nvm.positions.getD p none).isSome || d.nvm.rebuilds.any (fun r => r.position == p) then d
    else
      match freeSpares d.nvm with
      | [] => d
      | b :: _ =>
        onNvm (fun n => { n with rebuilds := n.rebuilds ++ [⟨p, b, 0, 0, nowTb d⟩] }) d
          |> keepWrite 0x21 |> logEv 0x3202 0x81 p b 0) d

/-- BANK_OUT_OF_SERVICE (R397): cause 1 no response, 2 uncorrectable chunks, 3 spare rows, 4 self-test. -/
def bankLeave (b cause : Nat) (d : Dev) : Dev :=
  if (bankOf d b).out then d
  else
    let pos := (List.range 10).find? (fun p => d.nvm.positions.getD p none == some b)
    let target := (d.nvm.rebuilds.find? (fun r => r.target == b)).map (·.position)
    let shown := match pos with | some p => p | none => target.getD 0xFF
    onBank b (fun k => { k with out := true, cause := cause }) d
      |> onNvm (fun n => { n with
          positions := n.positions.map (fun x => if x == some b then none else x)
          rebuilds := n.rebuilds.filter (fun r => r.target != b) })
      |> logEv 0x3201 0x81 b shown cause
      |> keepWrite 0x20 |> keepWrite 0x21 |> rebuildStart |> parityReport

/-- Uncorrectable chunks of a bank within 24 h; the sixteenth takes it out of service (R397 cause 2). DESIGN CHOICE (log entry
397): the hours are counted in operating time, which no reset sets back. -/
def chunkUncorrectable (b : Nat) (d : Dev) : Dev :=
  let now := d.evr.opTime.toNat
  let times := now :: (bankOf d b).uncorrTimes.filter (fun t => now - t < 24 * 3600)
  onBank b (fun k => { k with uncorrTimes := times }) d
    |> onNvm (fun n => { n with uncorrectable := n.uncorrectable + 1 })
    |> doIf (decide (16 ≤ times.length)) (bankLeave b 2)

/-- STRIPE_LOST (R400): EV_3205 for each record in it, which is lost; `after` says what that means to its user. -/
def stripeLose (s : Nat) (recs : List (Nat × Nat)) (after : Nat → Dev → Dev) (d : Dev) : Dev :=
  onNvm (fun n => { n with lostStripes := if n.lostStripes.contains s then n.lostStripes else n.lostStripes ++ [s] }) d
    |> forAll recs (fun r d => onRec r.1 (fun x => { x with lost := true }) d |> logEv 0x3205 0x81 r.1 r.2 s |> after r.1)
    |> parityReport

/-! ## Rows of the store -/

/-- A row of a bank is relocated to a spare row with EV_4020 (R10, R392); with the last spare row the bank leaves service. -/
def nvmRelocate (b row : Nat) (d : Dev) : Dev :=
  onBank b (fun k => { k with spareRows := k.spareRows + 1 }) d |> logEv 0x4020 0x81 (0x81 + 256 * b) row 0
    |> doIf (decide (Config.implValue 397 b ≤ (bankOf d b).spareRows)) (bankLeave b 3)

/-- NVM_PAGE_WRITE: the next page of a record's new version is programmed and verified (R392); refused while only
keep writes are admitted (R401). A page whose chunk does not verify, not after three more programs either, is relocated; the row does not say on which bank: DESIGN
CHOICE (log entry 392), the bank at position 0. -/
def nvmPageWrite (id page : Nat) (verified : Bool) (d : Dev) : Dev :=
  if keepOnly d then d
  else if (recOf d id).pages ≤ page then d
  else
    let d1 := pageWrite id page d
    let s := match (recOf d1 id).writing.getLast? with
      | some s => s
      | none => stripeOf d1 id page
    if verified then d1
    else
      match bankAt d1.nvm 0 s with
      | some b => nvmRelocate b s d1
      | none => d1

def execNvmPageWrite (id : BitVec 32) (page : Nat) (verified : Bool) (s : State) : Host.Outcome State Fault Refusal :=
  .next (onDev (nvmPageWrite id.toNat page verified) s)

/-- The tier-0 records and registrations (R395). -/
def isKeepId (id : Nat) : Bool :=
  [0x00, 0x01, 0x20, 0x21, 0x30, 0x31, 0x32].contains id || (0x10 ≤ id && id ≤ 0x1F)

/-- KEEP_RECORD_WRITE: a tier-0 record goes to a free keep stripe with its version raised (R394). -/
def execKeepRecordWrite (id : Nat) (s : State) : Host.Outcome State Fault Refusal :=
  .next (onDev (fun d => if isKeepId id then keepWrite id d else d) s)

/-- BANK_NO_RESPONSE (R397 cause 1). -/
def execBankNoResponse (b : Bank) (s : State) : Host.Outcome State Fault Refusal := .next (onDev (bankLeave b 1) s)

/-- REBUILD_STRIPE: the next stripe of a rebuild is reconstructed onto its target, or is lost (R398 to R400). -/
def rebuildStripe (which : Nat) (unreadable : Bool) (after : Nat → Dev → Dev) (d : Dev) : Dev :=
  match d.nvm.rebuilds[which]? with
  | none => d
  | some r =>
    let s := r.done
    let d := doIf unreadable (stripeLose s (recsAt d s) after) d
    let done := s + 1
    let cp := if done % 4096 = 0 then done else r.checkpoint
    let r' := { r with done := done, checkpoint := cp }
    let d := onNvm (fun n => { n with
      bgChunks := n.bgChunks + 1, bgBusy := true
      rebuilds := n.rebuilds.map (fun x => if x.position == r.position then r' else x) }) d
    let d := doIf (done % 4096 == 0) (keepWrite 0x21) d
    if stripeCount ≤ done then
      onNvm (fun n => { n with
        rebuilds := n.rebuilds.filter (fun x => x.position != r.position)
        positions := lmodAt n.positions r.position (fun _ => some r.target) }) d
        |> keepWrite 0x21 |> logEv 0x3203 0x81 r.position r.target (msSince d r.startTb) |> rebuildStart |> parityReport
    else parityReport d

/-- Hours by which scrub is behind at a position of the pass (R402), whose start is kept in seconds of operating time (log
entry 397). -/
def scrubBehind (d : Dev) (pos : Nat) : Nat :=
  (d.evr.opTime.toNat - (d.nvm.scrubStart + 7 * 24 * 3600 * (pos + 1) / 786432)) / 3600

/-- SCRUB_CHUNK: the next chunk of the pass is read: `corrected` bits, none when uncorrectable (R402). Chunk i of a
pass is chunk i mod 65,536 of bank i / 65,536. -/
def scrubChunk (corrected : Option Nat) (after : Nat → Dev → Dev) (d : Dev) : Dev :=
  let i := d.nvm.scrubPos
  let b := i / 65536
  let s := i % 65536
  let rewrite := onNvm (fun n => { n with rewrites := n.rewrites + 1, scrubRewritten := n.scrubRewritten + 1 })
  let d1 :=
    if (bankOf d b).out then d
    else
      let d := onNvm (fun n => { n with bgChunks := n.bgChunks + 1, bgBusy := true }) d |> onBank b (fun k => { k with chunks := k.chunks + 1 })
      match corrected with
      | some n =>
        onNvm (fun v => { v with corrected := if n = 0 then v.corrected else v.corrected + 1 }) d |> doIf (decide (4 ≤ n)) rewrite
      | none =>
        let held := (List.range 10).any (fun p => bankAt d.nvm p s == some b)
        let d := onNvm (fun n => { n with scrubUncorr := n.scrubUncorr + 1 }) d
        let d := if held && decide (2 ≤ (missingAt d.nvm s).length) then stripeLose s (recsAt d s) after d else rewrite d
        chunkUncorrectable b d
  let next := i + 1
  if 786432 ≤ next then
    logEv 0x3222 0x81 ((d.evr.opTime.toNat - d.nvm.scrubStart) / 3600) d1.nvm.scrubRewritten d1.nvm.scrubUncorr d1
      |> onNvm (fun n => { n with
          scrubPos := 0, scrubStart := d.evr.opTime.toNat, scrubRewritten := 0, scrubUncorr := 0, scrubLag := 0, scrubUrgent := false })
      |> doIf d.nvm.scrubUrgent (logEv 0x3221 0x81 0 0 0)
  else
    let lag := scrubBehind d1 next
    let caught := d.nvm.scrubUrgent && lag == 0
    onNvm (fun n => { n with scrubPos := next, scrubLag := lag, scrubUrgent := n.scrubUrgent && !caught }) d1
      |> doIf caught (logEv 0x3221 0x81 0 0 0)

/-- SCRUB_URGENT: scrub is more than 24 h behind and takes 25 % (R404). -/
def scrubUrgent (hours : Nat) (d : Dev) : Dev :=
  if 24 < hours ∧ d.nvm.scrubUrgent = false then
    onNvm (fun n => { n with scrubUrgent := true, scrubLag := hours }) d |> logEv 0x3220 0x81 hours 0 0
  else onNvm (fun n => { n with scrubLag := hours }) d

def execScrubUrgent (hoursBehind : Nat) (s : State) : Host.Outcome State Fault Refusal := .next (onDev (scrubUrgent hoursBehind) s)

/-- WEAR_MOVE: the record page on the least-written stripe in use moves to the most-written free stripe (R403). A lost record
cannot be copied, and while only keep writes are admitted nothing moves (R400, R401). -/
def wearMove (d : Dev) : Dev :=
  let used := (d.nvm.recs.filter (fun p => !isFixedClass (recClass p.1) && !p.2.lost)).flatMap (fun p => p.2.stripes)
  let most := d.nvm.stripeWrites.foldl (fun a p => max a p.2) 0
  let least := used.foldl (fun (a : Option Nat) s => match a with
    | none => some s
    | some b => if stripeWear d.nvm s < stripeWear d.nvm b then some s else a) none
  match least, stripeHighest d.nvm with
  | some s, some t =>
    if stripeWear d.nvm s + 50000 ≤ most ∧ keepOnly d = false then
      stripeWrite t d |> onNvm (fun n => { n with
        bgChunks := n.bgChunks + 10, bgBusy := true
        recs := n.recs.map (fun p => (p.1, { p.2 with stripes := p.2.stripes.map (fun x => if x = s then t else x) })) })
    else d
  | _, _ => d

def execWearMove (s : State) : Host.Outcome State Fault Refusal := .next (onDev wearMove s)

/-- BG_CHUNK_END: background work reaches a chunk boundary and yields to foreground work that waits (R9, R404). -/
def execBgChunkEnd (s : State) : Host.Outcome State Fault Refusal :=
  .next (onDev (onNvm (fun n => { n with bgBusy := n.bgBusy && !n.fgWaiting, fgWaiting := false })) s)

/-! ## The commit of persistent registers (R405 to R407) -/

/-- The oldest queued write commits, and writes that waited enter the queue. -/
def rwpCommit (d : Dev) : Dev :=
  match d.nvm.rwpQueue with
  | [] => d
  | (id, val) :: rest =>
    let n := (rwpOf d id).count + 1
    let d1 := onNvm (fun v => { v with
      rwp := tmod v.rwp id (rwpNew id) (fun r => { r with count := n, committed := val })
      rwpQueue := rest, commits := v.commits + 1 }) (fgArrive d)
      |> doIf (n == 14400000) (logEv 0x3401 0x81 id n 0)
      |> doIf (n == 16000000) (logEv 0x3402 0x81 id n 0)
    rwpAdmit d1.nvm.rwpWaiting d1

def execRwpCommit (s : State) : Host.Outcome State Fault Refusal := .next (onDev rwpCommit s)

/-- Commits every queued write (R409, R469). -/
def rwpCommitAll (d : Dev) : Dev :=
  (List.range (d.nvm.rwpQueue.length + d.nvm.rwpWaiting.length)).foldl (fun d _ => rwpCommit d) d

end Sys2Proof.Machine
end

