-- ==== Sys2Proof/Machine/KeyStore.lean ====
section
/-! DEFINITION. The key store (04): algorithms and usages (R82, R83), handles (R78 to R80), the checks of every
use (R86), ward slots with spill and drop (R77, R95), creation and deletion (R92 to R94), the key record (R89). -/

namespace Sys2Proof.Machine

/-! ## Algorithms (R82) and usages (R83) -/

def isAes (a : Nat) : Bool := a == 1 || a == 2 || a == 3
def isTdes (a : Nat) : Bool := a == 8 || a == 9
def isSym (a : Nat) : Bool := isAes a || isTdes a
def isHmac (a : Nat) : Bool := a == 0x10
def isKmac (a : Nat) : Bool := a == 0x11
def isRsa (a : Nat) : Bool := 0x20 ≤ a && a ≤ 0x23
def isEcP (a : Nat) : Bool := 0x30 ≤ a && a ≤ 0x32
def isEd (a : Nat) : Bool := a == 0x34 || a == 0x35
def isX25519 (a : Nat) : Bool := a == 0x36
def isKem (a : Nat) : Bool := 0x50 ≤ a && a ≤ 0x52
def isDsa (a : Nat) : Bool := 0x54 ≤ a && a ≤ 0x56
def isAsym (a : Nat) : Bool := isRsa a || isEcP a || isEd a || isX25519 a || isKem a || isDsa a
def isSecret (a : Nat) : Bool := isHmac a || isKmac a
def algKnown (a : Nat) : Bool := isSym a || isSecret a || isAsym a

/-- The material's length, none where the caller gives it (the secrets). -/
def algLen (a : Nat) : Option Nat :=
  [(1, 16), (2, 24), (3, 32), (8, 16), (9, 24), (0x20, 648), (0x21, 968), (0x22, 1288), (0x23, 2568),
   (0x30, 32), (0x31, 48), (0x32, 66), (0x34, 32), (0x35, 57), (0x36, 32), (0x50, 64), (0x51, 64), (0x52, 64),
   (0x54, 32), (0x55, 32), (0x56, 32)].lookup a

def algLenOk (a n : Nat) : Bool :=
  if isHmac a then 16 ≤ n && n ≤ 128 else if isKmac a then 16 ≤ n && n ≤ 64 else algLen a == some n

/-- Strength in bits. -/
def algStrength (a len : Nat) : Nat :=
  if isSecret a then min (8 * len) 256
  else (([(1, 128), (2, 192), (3, 256), (8, 80), (9, 112), (0x20, 112), (0x21, 128), (0x22, 152), (0x23, 200),
    (0x30, 128), (0x31, 192), (0x32, 256), (0x34, 128), (0x35, 224), (0x36, 128), (0x50, 128), (0x51, 192), (0x52, 256),
    (0x54, 128), (0x55, 192), (0x56, 256)] : List (Nat × Nat)).lookup a).getD 0

/-- The usage bits an algorithm may carry. -/
def usageAllowed (a bit : Nat) : Bool :=
  if bit ≤ 4 then isSym a
  else if bit = 5 ∨ bit = 6 then isSym a || isSecret a
  else if bit = 7 ∨ bit = 8 then isSym a
  else if bit = 9 then isSym a || isSecret a
  else if bit = 10 then isRsa a || isEcP a || isEd a || isDsa a
  else if bit = 11 then isRsa a || isEcP a || isX25519 a || isKem a
  else if bit = 12 ∨ bit = 13 then isSym a
  else if bit = 14 then a == 3
  else false

/-- A usage mask suits its algorithm and its owner (R83). -/
def usageOk (a : Nat) (w : World) (usage : BitVec 16) : Bool :=
  (List.range 16).all (fun b => !usage.getLsbD b || (usageAllowed a b && (b != 14 || w == .K)))

def uPinEnc : Nat := 2
def uPinDec : Nat := 3
def uPinVerify : Nat := 4
def uMacGen : Nat := 5
def uMacVer : Nat := 6
def uKekWrap : Nat := 7
def uKekUnwrap : Nat := 8
def uDerive : Nat := 9
def uSign : Nat := 10
def uDecryptPk : Nat := 11
def uEmvMk : Nat := 12
def uCeremony : Nat := 13
def uVault : Nat := 14

/-- The destination bit of an engine kind (R84). -/
def destBit : EngineKind → Nat
  | .bolt => 0
  | .digest => 1
  | .barrel => 2
  | .vault => 3
  | .wrap => 4

/-- Ward slots of a key (R77). -/
def spanOf (len : Nat) : Nat := (len + 63) / 64
def keySpan (k : Key) : Nat := spanOf k.lenBytes

/-! ## Handles (R78, R79) -/

def hIndex (h : Nat) : Nat := h % 65536
def hGen (h : Nat) : Nat := (h / 2 ^ 16) % 256
def hHint (h : Nat) : Nat := (h / 2 ^ 24) % 256
def hTag (h : Nat) : Nat := h / 2 ^ 32
/-- A hint of 4 to 0xFE is treated as 0xFF. -/
def normHint (n : Nat) : Nat := if n ≤ 3 then n else 255

/-- The persistent handle key (R79, R396). -/
def persHandleKey (d : Dev) : Bytes := deriveKey d.nvm.secret (Config.kdfLabel 79)

/-- The tag of a handle: the first 32 bits of KMAC128 over five bytes (R79). DESIGN CHOICE (log entry 79): KMAC128 is
given an output length of 32 bits, which the manual does not state. -/
def handleTag (d : Dev) (o : Owner) (index gen life : Nat) : Nat :=
  leNat (kmac128 (if life = 2 then persHandleKey d else d.ks.volKey)
    ([byte (ownerByte o)] ++ natLE index 2 ++ [byte gen, byte life]) 4 [])

def handleOf (d : Dev) (k : Key) : Nat :=
  handleTag d k.owner k.index k.gen k.life * 2 ^ 32 + k.hint * 2 ^ 24 + k.gen * 2 ^ 16 + k.index

/-! ## The directory -/

def keyAt (d : Dev) (entry : Nat) : Option Key := d.ks.keys.find? (fun k => k.entry == entry)
def onKey (entry : Nat) (f : Key → Key) : Dev → Dev := onKs (fun s => { s with keys := lmod s.keys (fun k => k.entry == entry) f })

/-- Step 1 of R86: the key that a handle names for an owner and a session. -/
def keyLookup (d : Dev) (o : Owner) (session : Word32) (h : Nat) : Option Key :=
  d.ks.keys.find? (fun k => k.owner == o && k.index == hIndex h && k.gen == hGen h
    && handleTag d o k.index k.gen k.life == hTag h && (k.life != 0 || k.session == session))

/-- Moves a key to the most recently used end (R95). -/
def keyTouch (entry : Nat) : Dev → Dev :=
  onKs (fun s => { s with keys := s.keys.filter (fun k => k.entry != entry) ++ s.keys.filter (fun k => k.entry == entry) })

/-- The attribute word (R81). -/
def attrWord (k : Key) : Nat :=
  worldCode k.owner.world * 2 ^ 62 + (k.owner.tenant % 64) * 2 ^ 56 + k.alg * 2 ^ 48 + k.lenBytes * 2 ^ 35 + k.life * 2 ^ 32
    + k.usage.toNat * 2 ^ 16 + k.export_ * 2 ^ 14 + b2n k.pinned * 2 ^ 13 + k.depth * 2 ^ 9 + b2n k.derived * 2 ^ 8
    + b2n k.ancCeremony * 2 ^ 7 + b2n k.ancImported * 2 ^ 6 + b2n k.ancGenerated * 2 ^ 5

/-- The state code of the key record (R89). -/
def keyStateCode (k : Key) : Nat :=
  if k.lost then 4 else if k.life = 2 then (if k.resident then 3 else 2) else if k.spilled then 1 else 0

/-- The key record (R89). -/
def keyRecord (d : Dev) (k : Key) : Bytes :=
  natLE (handleOf d k) 8 ++ natLE (attrWord k) 8 ++ natLE k.dest.toNat 2 ++ [byte (keySpan k), byte (keyStateCode k)]
    ++ fit k.kcv 3 ++ [0] ++ natLE k.created.toNat 4 ++ zeros 4

/-- The key check value (R89). -/
def keyKcv (alg : Nat) (mat : Bytes) : Bytes :=
  if isAes alg then (cmac .aes mat []).take 3
  else if isTdes alg then (tdesEnc mat (zeros 8)).take 3
  else if isAsym alg then (sha256 (publicKey alg mat)).take 3
  else zeros 3

/-! ## Quotas and counts (R94, R99) -/

/-- An owner's number among the quotas: its function, 64 for world K. -/
def ownerNo (o : Owner) : Nat := if o.world == .K then 64 else ownerFn o

def dirQuota (d : Dev) (o : Owner) : Nat := if o.world == .K then 4096 else tget d.ks.dirQuota (ownerNo o) 4032
def persQuota (d : Dev) (o : Owner) : Nat :=
  if o.world == .K then 256 else tget d.ks.persQuota (ownerNo o) (if ownerNo o = 0 then 1824 else 32)

def dirUsed (d : Dev) : Nat := d.ks.keys.length
def persUsed (d : Dev) : Nat := count d.ks.keys (fun k => k.life == 2)
def slotsUsed (d : Dev) : Nat :=
  ((d.ks.keys.filter (·.resident)).map keySpan).sum + (if d.ks.spillKey.isEmpty then 0 else 1)
def slotsFree (d : Dev) : Nat := 65536 - slotsUsed d
/-- The ward slots that pinned keys occupy (R99, R101). -/
def wardsPinned (d : Dev) : Nat := ((d.ks.keys.filter (fun k => k.pinned && k.resident)).map keySpan).sum
/-- What the limit of R94 counts. DEDUCED (log entry 94): every pinned key, resident or not, so that no later load can
pin more than the limit. -/
def slotsPinned (d : Dev) : Nat := ((d.ks.keys.filter (·.pinned)).map keySpan).sum

/-- A further directory entry is within its owner's quota and the capacity (R94). -/
def dirRoom (d : Dev) (o : Owner) : Bool :=
  decide (count d.ks.keys (fun k => k.owner == o) < dirQuota d o) &&
    (o.world == .K || decide (count d.ks.keys (fun k => k.owner.world != .K) < 258048))
def persRoom (d : Dev) (o : Owner) : Bool :=
  decide (count d.ks.keys (fun k => k.owner == o && k.life == 2) < persQuota d o) && decide (persUsed d < 4096)

/-! ## Making room (R95) -/

/-- What a waiting command waits for, beside a directory entry: P63 live, a spill buffer entry, the end of a key's spill
write or refill (R98). -/
def waitP63 : Nat := 1000000
def waitBuffer : Nat := 1000001
def waitKeyEnd : Nat := 1000004

/-- Commands waiting on `n` stop waiting (their rows run again). -/
def wake (n : Nat) : Dev → Dev :=
  onHif (fun h => { h with cmds := h.cmds.map (fun c => { c with waitOn := c.waitOn.filter (· != n) }) })

/-- A fetch that waits names the key. -/
def asksFor (k : Key) (q : KeyReq) : Bool :=
  k.owner == ⟨q.world, q.tenant⟩ && hIndex q.handle.toNat == k.index && hGen q.handle.toNat == k.gen

/-- A waiting command or fetch names the key: an engine's fetch of it is queued (R87, R98). -/
def fetchQueued (d : Dev) (k : Key) : Bool :=
  d.ks.asks.any (asksFor k) || d.hif.cmds.any (fun c => !c.waitOn.isEmpty && c.owner == k.owner &&
    [hA c, hB c].any (fun h => h != 0 && hIndex h == k.index && hGen h == k.gen))

/-- The spill record (R96). -/
def spillRecord (k : Key) (wrapped : Bytes) : Bytes :=
  fit (natLE k.entry 4 ++ [byte (ownerByte k.owner), byte k.gen] ++ natLE k.index 2 ++ natLE (attrWord k) 8
    ++ natLE k.dest.toNat 2 ++ [byte (keySpan k)] ++ fit k.kcv 3 ++ zeros 10 ++ wrapped) 4096

/-- Frees the ward slots of one key: a persistent key's copy is dropped, any other is spilled (R95). -/
def freeKey (k : Key) (d : Dev) : Dev :=
  if k.life = 2 then
    onKey k.entry (fun k => { k with resident := false, mat := [] }) d |> onKs (fun s => { s with drops := s.drops + 1 })
  else
    onKey k.entry (fun k => { k with resident := false, spilled := true, inBuffer := true, mat := [] }) d
      |> onKs (fun s => { s with
          spills := s.spills + 1
          spillBuf := s.spillBuf ++ [(k.entry, spillRecord k (kwpWrap s.spillKey k.mat))] })

/-- Keys that may be freed, least recently used first: unpinned and resident, with no fetch queued; only persistent
copies while P63 is not live. -/
def candidates (d : Dev) : List Key :=
  d.ks.keys.filter (fun k => k.resident && !k.pinned && (d.ks.spillReady || k.life == 2) && !fetchQueued d k)

/-- Frees keys in turn until `n` slots are free or the spill buffer is full. -/
def freeLoop (n : Nat) : List Key → Dev → Dev
  | [], d => d
  | k :: ks, d =>
    if n ≤ slotsFree d then d
    else if k.life ≠ 2 ∧ 16 ≤ d.ks.spillBuf.length then d
    else freeLoop n ks (freeKey k d)

/-- Makes `n` ward slots free for owner `o` (KEY_SPILL, R95). -/
def makeRoom (o : Owner) (n : Nat) : Run Unit := do
  let d ← get
  if n ≤ slotsFree d then pure ()
  else if slotsFree d + ((candidates d).map keySpan).sum < n then
    if d.ks.spillReady then failLog stQuota 0x0012 (logEv 0x3322 0x80 (ownerByte o) n (wardsPinned d))
    else throw (.wait [waitP63])
  else
    eff (freeLoop n (candidates d))
    if n ≤ slotsFree (← get) then pure () else throw (.wait [waitBuffer])

/-! ## Checks on every use (R86) -/

/-- What an engine presents. -/
structure Use where
  kind : EngineKind
  owner : Owner
  session : Word32
  fn : Nat
  usage : Option Nat
  algOk : Nat → Nat → Bool

/-- EV_2310 (R101). -/
def log2310 (fn h detail : Nat) : Dev → Dev := logEv 0x2310 0x80 fn (hIndex h) detail

/-- A persistent record's read that a load needs is out of reach after a G3 erasure (R392). -/
def keyAttrFail {α : Type} (u : Use) (h detail : Nat) : Run α :=
  failLog stKeyAttr detail (log2310 u.fn h detail)

/-- Brings a key's bits into ward slots: from the spill buffer at once; from P63 or its record only by a later
event, for which the command waits (R86 step 3, R93, R95). -/
def needResident (k : Key) : Run Key := do
  if k.resident then pure k
  else if k.inBuffer then
    makeRoom k.owner (keySpan k)
    let d ← get
    let rec_ := ((d.ks.spillBuf.find? (fun p => p.1 == k.entry)).map (·.2)).getD (zeros 4096)
    let w := (k.lenBytes + 7) / 8 * 8 + 8
    let mat := (kwpUnwrap d.ks.spillKey (slice rec_ 32 w)).getD []
    eff (onKey k.entry (fun k => { k with resident := true, spilled := false, inBuffer := false, mat := mat }))
    eff (onKs (fun s => { s with spillBuf := s.spillBuf.filter (fun p => p.1 != k.entry), refills := s.refills + 1 }))
    eff (wake waitBuffer)
    pure { k with resident := true, spilled := false, inBuffer := false, mat := mat }
  else throw (.wait [k.entry])

/-- The fetch of a key with every check of R86, in its order. `loads` is false for the use that sends no bits (R118). -/
def fetchWith (loads : Bool) (u : Use) (h : Nat) : Run Key := do
  match keyLookup (← get) u.owner u.session h with
  | none => keyAttrFail u h 1
  | some k =>
    if k.lost then fail stLost 0
    let k ← (if loads then needResident k else pure k)
    if !(k.dest.getLsbD (destBit u.kind)) then keyAttrFail u h 2
    match u.usage with
    | some b => if !(k.usage.getLsbD b) then keyAttrFail u h 3
    | none => pure ()
    if !(u.algOk k.alg k.lenBytes) then keyAttrFail u h 4
    eff (keyTouch k.entry)
    if loads then eff (onKs (fun s => { s with fetches := s.fetches + 1 }))
    pure k

def fetch (u : Use) (h : Nat) : Run Key := fetchWith true u h

/-- The use of a command's key by an engine kind. -/
def useOf (c : Cmd) (kind : EngineKind) (usage : Option Nat) (algOk : Nat → Bool) : Use :=
  ⟨kind, c.owner, c.session, cmdFn c, usage, fun a _ => algOk a⟩

/-- KEY_FETCH: an engine presents a handle over its private wire (R86). Where the key's bits have to come first, the fetch
waits for them. -/
def keyFetch (req : KeyReq) (d : Dev) : Dev :=
  let suits := fun a n => (req.suits.map (fun l => l.contains (a, n))).getD true
  let r := runBody (fetch ⟨req.kind, ⟨req.world, req.tenant⟩, req.session, req.fn, req.use, suits⟩ req.handle.toNat) d
  match r.1 with
  | .error (.wait _) => onKs (fun s => { s with asks := if s.asks.contains req then s.asks else s.asks ++ [req] }) r.2
  | _ => onKs (fun s => { s with asks := s.asks.filter (· != req) }) r.2

/-- The fetches that wait are judged again. -/
def asksRun (d : Dev) : Dev := forAll d.ks.asks keyFetch d

def execKeyFetch (req : KeyReq) (s : State) : Ans := nextD (keyFetch req) s

/-! ## Creation (R80, R92, R93, R94) -/

/-- What a creating command gives a key. -/
structure NewKey where
  owner : Owner
  hint : Nat
  alg : Nat
  life : Nat
  usage : BitVec 16
  export_ : Nat
  pinned : Bool
  depth : Nat := 0
  derived : Bool := false
  ancCeremony : Bool := false
  ancImported : Bool := false
  ancGenerated : Bool := false
  dest : BitVec 16
  session : Word32
  mat : Bytes

/-- A volatile handle is made under the volatile handle key, and that is drawn once a DRBG serves (R79, R208). -/
def needHandleKey (life : Nat) : Run Unit := do
  let d ← get
  if life != 2 && d.ks.keyDue then
    if (List.range 4).any (drbgAwaits d) then throw (.wait [waitSeed]) else fail stEntropy 0

/-- The checks before a key is made: quotas and capacity, the pinned limit, the store's admission, ward slots. -/
def needKeyRoom (o : Owner) (life len : Nat) (pinned : Bool) : Run Unit := do
  let d ← get
  need (dirRoom d o) stQuota 0x0010
  if life == 2 then
    need (!keepOnly d) stDegraded 0
    need (persRoom d o) stQuota 0x0010
  need (!pinned || decide (slotsPinned d + spanOf len ≤ 49152)) stQuota 0x0011
  needHandleKey life
  makeRoom o (spanOf len)

/-- The index a new key takes: one not used since reset, lowest first, else the least recently freed (R80). -/
def freshIndex (d : Dev) (o : Owner) : Nat :=
  let start := (d.ks.nextFresh.lookup o).getD 0
  let used := fun i => d.ks.keys.any (fun k => k.owner == o && k.index == i) || d.ks.freed.contains (o, i)
  (List.range (count d.ks.keys (fun k => k.owner == o) + count d.ks.freed (fun p => p.1 == o) + 1)).foldl
    (fun i _ => if used i then i + 1 else i) start

def newIndex (d : Dev) (o : Owner) : Nat × Bool :=
  let i := freshIndex d o
  if i < 65536 then (i, true) else (((d.ks.freed.find? (fun p => p.1 == o)).map (·.2)).getD 0, false)

def prevGen (d : Dev) (o : Owner) (i : Nat) : Nat :=
  ((d.ks.gens.find? (fun p => p.1 == o && p.2.1 == i)).map (·.2.2)).getD 0
def nextGen (g : Nat) : Nat := if g ≥ 255 then 1 else g + 1

/-- A free number: the least recently freed, else the next never used. -/
def takeNumber (freed : List Nat) (fresh : Nat) : Nat × List Nat × Nat :=
  match freed with
  | n :: rest => (n, rest, fresh)
  | [] => (fresh, [], fresh + 1)

/-- The record ID of a persistent key (R390). -/
def keyRecId (k : Key) : Nat := 0x01000000 + k.persistSlot.getD 0

/-- Makes the key: its index, generation, directory entry and persistent slot; a persistent one has its record committed
and logs EV_3325. -/
def makeKey (n : NewKey) (d : Dev) : Key × Dev :=
  let ix := newIndex d n.owner
  let gen := nextGen (prevGen d n.owner ix.1)
  let e := takeNumber d.ks.entryFreed d.ks.entryFresh
  let sl := takeNumber d.ks.slotFreed d.ks.slotFresh
  let pers := n.life == 2
  let k : Key := {
    entry := e.1, owner := n.owner, index := ix.1, gen, hint := normHint n.hint, alg := n.alg
    lenBytes := n.mat.length, life := n.life, usage := n.usage, export_ := n.export_, pinned := n.pinned
    depth := n.depth, derived := n.derived, ancCeremony := n.ancCeremony, ancImported := n.ancImported
    ancGenerated := n.ancGenerated, dest := n.dest, mat := n.mat, stored := if pers then n.mat else []
    kcv := keyKcv n.alg n.mat, created := d.evr.opTime, session := n.session, resident := true, spilled := false
    inBuffer := false, lost := false, persistSlot := if pers then some sl.1 else none }
  let d1 := onKs (fun s => { s with
    keys := s.keys ++ [k]
    nextFresh := if ix.2 then (n.owner, ix.1 + 1) :: s.nextFresh.filter (fun p => p.1 != n.owner) else s.nextFresh
    freed := if ix.2 then s.freed else s.freed.erase (n.owner, ix.1)
    gens := (n.owner, ix.1, gen) :: s.gens.filter (fun p => !(p.1 == n.owner && p.2.1 == ix.1))
    entryFreed := e.2.1, entryFresh := e.2.2
    slotFreed := if pers then sl.2.1 else s.slotFreed, slotFresh := if pers then sl.2.2 else s.slotFresh }) d
  (k, doIf pers (fun d => recWrite (keyRecId k) 1 d |> logEv 0x3325 0x80 (ownerByte n.owner) ix.1 1) d1)

/-! ## Deletion (R94, R119) -/

/-- A bolt pipeline's cache without the entries of a base key (R119). -/
def dkDrop (o : Owner) (entry : Nat) (b : BoltS) : BoltS :=
  { b with dk := b.dk.filter (fun e => !(e.owner == o && e.entry == entry)) }

/-- Deletes a key: its slots are zeroised, its index, entry and record freed, and its cached derivations zeroised. -/
def deleteKey (k : Key) (d : Dev) : Dev :=
  let d1 := onKs (fun s => { s with
    keys := s.keys.filter (fun x => x.entry != k.entry)
    freed := s.freed ++ [(k.owner, k.index)]
    entryFreed := s.entryFreed ++ [k.entry]
    slotFreed := match k.persistSlot with | some n => s.slotFreed ++ [n] | none => s.slotFreed
    spillBuf := s.spillBuf.filter (fun p => p.1 != k.entry) }) d
  let d2 := forAll (List.range 4) (fun r => onBolt r (dkDrop k.owner k.entry)) d1
  doIf (k.life == 2) (fun d => recErase (keyRecId k) d |> logEv 0x3325 0x80 (ownerByte k.owner) k.index 2) d2

def deleteKeys (p : Key → Bool) (d : Dev) : Dev := forAll (d.ks.keys.filter p) deleteKey d

/-- Gives up the keys of a closed session (R94). -/
def deleteSessionKeys (session : Word32) : Dev → Dev := deleteKeys (fun k => k.life == 0 && k.session == session)

/-- Ward slots zeroised and the directory emptied of every key that is not persistent (R94, R421). A persistent key keeps
its index and generation; an index of no persistent key counts as freed, in order of number. DESIGN CHOICE (log entry 80):
it starts again at generation 1. -/
def zeroiseKeys (d : Dev) : Dev :=
  onKs (fun s => { s with
    keys := (s.keys.filter (fun k => k.life == 2)).map (fun k => { k with resident := false, mat := [] })
    spillBuf := [], spillKey := [], volKey := [], spillReady := false, asks := [], nextFresh := [], freed := []
    gens := ((s.keys.filter (fun k => k.life == 2)).map (fun k => (k.owner, k.index, k.gen)))
    entryFreed := (s.keys.filter (fun k => k.life != 2)).map (·.entry) ++ s.entryFreed }) d


/-- Commands waiting on `n` end with `r`. -/
def endWaiting (n : Nat) (r : Res) : Dev → Dev := endAll (fun c => c.waitOn.contains n) r

/-- A refill ends with ST_RETRY: its commands do, and the fetches that wait for it (R97). -/
def refillRetry (k : Key) (r : Res) (d : Dev) : Dev :=
  endWaiting k.entry r d |> onKs (fun s => { s with asks := s.asks.filter (fun q => !asksFor k q) })

/-- Commands waiting on `n` wait on `on` instead. -/
def waitMove (n : Nat) (on : List Nat) : Dev → Dev :=
  onHif (fun h => { h with cmds := h.cmds.map (fun c =>
    if c.waitOn.contains n then { c with waitOn := c.waitOn.filter (· != n) ++ on } else c) })

/-- SPILL_WAIT_TIMEOUT: 100 ms without P63 (R95). -/
def spillWaitTimeout (cid : Nat) (d : Dev) : Dev :=
  match cmdOf? d cid with
  | some c => if c.waitOn.contains waitP63 then finish cid (resErr stRetry 0x0013) d else d
  | none => d



/-- A partition whose key is lost is lost (R259). -/
def partsLose (entry : Nat) : Dev → Dev :=
  onVlt (fun v => { v with parts := v.parts.map (fun p =>
    if p.1 != 63 && p.2.owner != 0 && p.2.keyEntry == entry then (p.1, { p.2 with state := 4 }) else p) })

/-- A key is lost: its waiting commands end with ST_LOST (R97, R93). -/
def loseKey (entry : Nat) (ev : Dev → Dev) (d : Dev) : Dev :=
  onKey entry (fun k => { k with lost := true, spilled := false, resident := false, mat := [] }) d
    |> endWaiting entry (resErr stLost 0) |> asksRun |> partsLose entry |> ev

/-- The material of a spill record that passes the checks of R96, none where one fails. -/
def spillMaterial (d : Dev) (k : Key) (b : Bytes) : Option Bytes :=
  if fieldLE b 0 4 == k.entry && fieldLE b 4 1 == ownerByte k.owner && fieldLE b 5 1 == k.gen && fieldLE b 6 2 == k.index then
    (kwpUnwrap d.ks.spillKey (slice b 32 ((k.lenBytes + 7) / 8 * 8 + 8))).bind
      (fun m => if m.length = k.lenBytes then some m else none)
  else none

/-- Puts refilled or loaded bits into ward slots, freeing others first. Where the slots are not there yet, the commands
that wait for the key wait for them, and the bits are asked for again after that. -/
def installBits (k : Key) (mat : Bytes) (d : Dev) : Dev :=
  let r := runBody (makeRoom k.owner (keySpan k)) d
  match r.1 with
  | .ok _ =>
    onKey k.entry (fun k => { k with resident := true, spilled := false, inBuffer := false, mat := mat }) r.2
      |> onKs (fun s => { s with refills := if k.life = 2 then s.refills else s.refills + 1 }) |> wake k.entry |> asksRun
  | .error (.res res) => endWaiting k.entry res r.2
  | .error (.wait on) => waitMove k.entry on r.2
  | .error .running => r.2

/-- A spilled key's refill ends in failure: lost with EV_3320 and the vault's status (R97). -/
def refillLose (k : Key) (st : BitVec 16) : Dev → Dev :=
  loseKey k.entry (logEv 0x3320 0x80 (ownerByte k.owner) k.index st.toNat)

/-- KEY_REFILL: a spill block's vault read ends (R96, R97). -/
def keyRefill (entry : Nat) (a : SpillRead) (d : Dev) : Dev :=
  match keyAt d entry with
  | none => d
  | some k =>
    if !k.spilled then d
    else
      let lost := fun (st : BitVec 16) => refillLose k st d
      match a with
      | .fromBuffer =>
        match d.ks.spillBuf.find? (fun p => p.1 == entry) with
        | none => d
        | some p =>
          match spillMaterial d k p.2 with
          | some m =>
            let d := installBits k m d
            if ((keyAt d entry).map (·.resident)).getD false then
              onKs (fun s => { s with spillBuf := s.spillBuf.filter (fun p => p.1 != entry) }) d |> wake waitBuffer
            else d
          | none => lost stIntegrity
      | .payload b =>
        match spillMaterial d k b with
        | some m => installBits k m d
        | none => lost stOk
      | .integrity => lost stIntegrity
      | .unwritten => lost stUnwritten
      | .retry => refillRetry k resRetry d

def execKeyRefill (entry : Nat) (answer : SpillRead) (s : State) : Ans := nextD (keyRefill entry answer) s

/-- PERSISTENT_KEY_LOAD: a persistent key's record read ends (R93). -/
def persistentKeyLoad (entry : Nat) (readable : Bool) (d : Dev) : Dev :=
  match keyAt d entry with
  | none => d
  | some k =>
    if k.life ≠ 2 ∨ k.resident = true ∨ k.lost = true then d
    else if readable && !d.bat.keyErased && !recLost d (keyRecId k) then installBits k k.stored d
    else loseKey entry (logEv 0x3321 0x80 (ownerByte k.owner) k.index (keyRecId k)) d

def execPersistentKeyLoad (entry : Nat) (readable : Bool) (s : State) : Ans := nextD (persistentKeyLoad entry readable) s

/-! ## Persistent changes of attributes (R91) -/

/-- Whether `new` is a subset of `old`. -/
def subMask (new old : BitVec 16) : Bool := new &&& ~~~old == 0

end Sys2Proof.Machine
end

