-- ==== Sys2Proof/Machine/KeyBlock.lean ====
section
/-! DEFINITION. ANSI X9.143 key blocks, versions B and D: parsing, unwrapping, wrapping, and the map between
headers and attributes (R90, R124). The format is the standard's (PRESUMED, log entry 3). -/

namespace Sys2Proof.Machine

/-- A parsed header: the fixed fields and the optional blocks as they stand. -/
structure KbHeader where
  version : Byte
  usage : Bytes
  alg : Byte
  mode : Byte
  keyVer : Bytes
  exp_ : Byte
  nOpt : Bytes
  rsv : Bytes
  opts : Bytes
  deriving DecidableEq, Repr

def chr (c : Char) : Byte := byte c.toNat

/-- The length of `n` optional blocks from the start of `b`, none where one is malformed. -/
def optLen : Nat → Bytes → Option Nat
  | 0, _ => some 0
  | n + 1, b =>
    match (unhex? (slice b 2 2)).map beNat with
    | none => none
    | some 0 =>
      match (unhex? (slice b 4 2)).map beNat with
      | none => none
      | some k =>
        match (unhex? (slice b 6 k)).map beNat with
        | none => none
        | some l => if l < 6 + k ∨ b.length < l then none else (optLen n (b.drop l)).map (· + l)
    | some l => if l < 4 ∨ b.length < l then none else (optLen n (b.drop l)).map (· + l)

/-- Parses the header of a whole block, none where it is malformed. -/
def kbParse (b : Bytes) : Option KbHeader :=
  if b.length < 16 then none
  else
    match decVal? (slice b 1 4), decVal? (slice b 12 2) with
    | some len, some n =>
      if len ≠ b.length then none
      else
        (optLen n (b.drop 16)).map (fun o => {
          version := b.getD 0 0, usage := slice b 5 2, alg := b.getD 7 0, mode := b.getD 8 0
          keyVer := slice b 9 2, exp_ := b.getD 11 0, nOpt := slice b 12 2, rsv := slice b 14 2, opts := slice b 16 o })
    | _, _ => none

/-- Four decimal digits. -/
def dec4 (n : Nat) : Bytes := [n / 1000, n / 100, n / 10, n].map (fun x => byte (48 + x % 10))

def kbHeaderBytes (h : KbHeader) (total : Nat) : Bytes :=
  [h.version] ++ dec4 total ++ h.usage ++ [h.alg, h.mode] ++ h.keyVer ++ [h.exp_] ++ h.nOpt ++ h.rsv ++ h.opts

def kbAlg (ver : Byte) : BlockAlg := if ver == chr 'D' then .aes else .tdes
def kbMacLen (ver : Byte) : Nat := blkSize (kbAlg ver)

/-- The derived encryption (usage 0) or MAC (usage 1) key of a key-block protection key. -/
def kbDerive (ver : Byte) (kbpk : Bytes) (usage : Nat) : Bytes :=
  let n := kbpk.length
  let ind := if ver == chr 'D' then (if n = 16 then 2 else if n = 24 then 3 else 4) else (if n = 16 then 0 else 1)
  let blocks := (n + kbMacLen ver - 1) / kbMacLen ver
  ((List.range blocks).flatMap (fun i =>
    cmac (kbAlg ver) kbpk ([byte (i + 1)] ++ natBE usage 2 ++ [0] ++ natBE ind 2 ++ natBE (8 * n) 2))).take n

/-- Authenticates and unwraps: the key, none where authentication fails. -/
def kbUnwrap (kbpk : Bytes) (h : KbHeader) (b : Bytes) : Option Bytes :=
  let hdr := 16 + h.opts.length
  let m := kbMacLen h.version
  if b.length < hdr + 4 * m then none
  else
    match unhex? (b.drop hdr) with
    | none => none
    | some raw =>
      let enc := raw.take (raw.length - m)
      let mac := raw.drop (raw.length - m)
      if enc.length % m ≠ 0 then none
      else
        let pt := cbcDec (kbAlg h.version) (kbDerive h.version kbpk 0) mac enc
        let bits := beNat (pt.take 2)
        if cmac (kbAlg h.version) (kbDerive h.version kbpk 1) (b.take hdr ++ pt) = mac ∧ bits % 8 = 0
            ∧ bits / 8 + 2 ≤ pt.length then some (slice pt 2 (bits / 8)) else none

/-- The length of the block that wraps a key of `n` bytes. -/
def kbLen (h : KbHeader) (n : Nat) : Nat :=
  let m := kbMacLen h.version
  16 + h.opts.length + 2 * ((n + 2 + m - 1) / m * m) + 2 * m

def kbPadLen (ver : Byte) (n : Nat) : Nat := let m := kbMacLen ver; (n + 2 + m - 1) / m * m - (n + 2)

/-- Wraps a key, with `pad` as the random padding. -/
def kbWrap (kbpk : Bytes) (h : KbHeader) (key pad : Bytes) : Bytes :=
  let hb := kbHeaderBytes h (kbLen h key.length)
  let pt := natBE (8 * key.length) 2 ++ key ++ fit pad (kbPadLen h.version key.length)
  let mac := cmac (kbAlg h.version) (kbDerive h.version kbpk 1) (hb ++ pt)
  hb ++ hexOf (cbcEnc (kbAlg h.version) (kbDerive h.version kbpk 0) mac pt) ++ hexOf mac

/-! ## Header and attributes (R90) -/

/-- The algorithm code that an algorithm byte and a length map to. -/
def kbAlgCode (a : Byte) (len : Nat) : Option Nat :=
  if a == chr 'A' then ([(16, 1), (24, 2), (32, 3)] : List (Nat × Nat)).lookup len
  else if a == chr 'T' then ([(16, 8), (24, 9)] : List (Nat × Nat)).lookup len
  else if a == chr 'H' then (if 16 ≤ len ∧ len ≤ 128 then some 0x10 else none)
  else if a == chr 'R' then ([(648, 0x20), (968, 0x21), (1288, 0x22), (2568, 0x23)] : List (Nat × Nat)).lookup len
  else if a == chr 'E' then ([(32, 0x30), (48, 0x31), (66, 0x32)] : List (Nat × Nat)).lookup len
  else none

def bitMask (l : List Nat) : BitVec 16 := BitVec.ofNat 16 (l.foldl (fun a b => a + 2 ^ b) 0)

/-- A mode letter chooses both, the first or the second of a pair of usages. -/
def kbPair (m : Byte) (both : List Char) (c1 c2 : Char) (u1 u2 : Nat) : Option (BitVec 16) :=
  if both.any (fun c => m == chr c) then some (bitMask [u1, u2])
  else if m == chr c1 then some (bitMask [u1])
  else if m == chr c2 then some (bitMask [u2])
  else none

/-- The usage bits of a key usage and mode of use, none for a pair outside the table. -/
def kbUsage (u : Bytes) (m : Byte) : Option (BitVec 16) :=
  let l := u.getD 0 0
  -- what is no digit fits no row
  let n := if 48 ≤ (u.getD 1 0).toNat then (u.getD 1 0).toNat - 48 else 255
  let xn := m == chr 'X' || m == chr 'N'
  if l == chr 'B' && decide (n ≤ 1) then (if xn then some (bitMask [uDerive]) else none)
  else if l == chr 'D' && n == 0 then kbPair m ['B', 'N'] 'E' 'D' 0 1
  else if l == chr 'E' && n == 0 then (if xn then some (bitMask [uEmvMk]) else none)
  else if l == chr 'K' && decide (n ≤ 1) then kbPair m ['B', 'N'] 'E' 'D' uKekWrap uKekUnwrap
  else if l == chr 'M' && decide (n ≤ 8) then kbPair m ['C', 'N'] 'G' 'V' uMacGen uMacVer
  else if l == chr 'P' && n == 0 then kbPair m ['B', 'N'] 'E' 'D' uPinEnc uPinDec
  else if l == chr 'V' && decide (n ≤ 4) then
    (if m == chr 'C' || m == chr 'V' || m == chr 'N' then some (bitMask [uPinVerify]) else none)
  else if l == chr 'S' && decide (n ≤ 2) then (if m == chr 'S' || m == chr 'N' then some (bitMask [uSign]) else none)
  else none

/-- The export code of an exportability byte. -/
def kbExport (e : Byte) : Option Nat :=
  if e == chr 'N' then some 0 else if e == chr 'E' then some 1 else if e == chr 'S' then some 2 else none

/-- The key usage and mode of use that an exported key's usage mask takes: the row of R90's table whose bits are
exactly the mask (log entry 12), none where no row gives it. -/
def kbUsageOf (alg : Nat) (u : BitVec 16) : Option (Bytes × Byte) :=
  let mac := if isAes alg then ascii "M6" else if isTdes alg then ascii "M3" else ascii "M7"
  let rows : List (BitVec 16 × Bytes × Char) := [
    (bitMask [uDerive], ascii "B0", 'X'), (bitMask [0, 1], ascii "D0", 'B'), (bitMask [0], ascii "D0", 'E'),
    (bitMask [1], ascii "D0", 'D'), (bitMask [uEmvMk], ascii "E0", 'X'),
    (bitMask [uKekWrap, uKekUnwrap], ascii "K1", 'B'), (bitMask [uKekWrap], ascii "K1", 'E'),
    (bitMask [uKekUnwrap], ascii "K1", 'D'), (bitMask [uMacGen, uMacVer], mac, 'C'), (bitMask [uMacGen], mac, 'G'),
    (bitMask [uMacVer], mac, 'V'), (bitMask [uPinEnc, uPinDec], ascii "P0", 'B'), (bitMask [uPinEnc], ascii "P0", 'E'),
    (bitMask [uPinDec], ascii "P0", 'D'), (bitMask [uPinVerify], ascii "V0", 'V'), (bitMask [uSign], ascii "S0", 'S')]
  (rows.find? (fun r => r.1 == u)).map (fun r => (r.2.1, chr r.2.2))

def kbAlgByte (alg : Nat) : Option Byte :=
  if isAes alg then some (chr 'A') else if isTdes alg then some (chr 'T') else if isHmac alg then some (chr 'H')
  else if isRsa alg then some (chr 'R') else if isEcP alg then some (chr 'E') else none

end Sys2Proof.Machine
end

