-- ==== Sys2Proof/Machine/Bolt.lean ====
section
/-! DEFINITION. The bolt pipelines (05): the sequencer with its queues and contexts, PIN blocks, the translation
policy, DUKPT with its cache, MACs, EMV cryptograms, key blocks and check values. The payment standards are cited
by the manual and followed from outside it (PRESUMED, log entry 3). -/

namespace Sys2Proof.Machine

/-! ## The sequencer (R102, R103) -/

def boltUp (d : Dev) (r : Region) : Bool := regionRuns d r && !(regionOf d r).bolt.out && !blkResetting d (.bolt r)
/-- The pipeline shuts down or restarts: its region drains or is reset, or a block reset runs (R136). -/
def boltStopping (d : Dev) (r : Region) : Bool :=
  [RegionPhase.draining, .resetting].contains (regionOf d r).phase || blkResetting d (.bolt r)

/-- It takes new host commands. -/
def boltOpen (d : Dev) (r : Region) : Bool := regionUp d r && boltUp d r

/-- The commands waiting in one queue, head first. -/
def boltQueue (d : Dev) (r : Region) (lvl : Nat) : List Cmd :=
  d.hif.cmds.filter (fun c => c.loc == .boltQ r lvl && isWaiting c)

def boltWaiting (d : Dev) (r : Region) : Nat :=
  count d.hif.cmds (fun c => isWaiting c && (match c.loc with | .boltQ r' _ => r' == r | _ => false))

/-- The command of a context, with its steps left. -/
def boltContext (d : Dev) (r : Region) (lvl : Nat) : Option (Cmd × Nat) :=
  d.hif.cmds.findSome? (fun c => match c.loc with
    | .boltCtx r' l n => if r' == r && l == lvl then some (c, n) else none
    | _ => none)

/-- The in-service pipeline with the fewest waiting commands, the lowest region taking any tie. -/
def boltFewest (d : Dev) (lvl : Nat) : Option Loc :=
  ((List.finRange 4).filter (fun (r : Region) => boltOpen d r)).foldl (fun (a : Option Region) r =>
    match a with
    | none => some r
    | some b => if boltWaiting d r < boltWaiting d b then some r else a) none |>.map (fun r => .boltQ r lvl)

/-- Where a TXN command waits: its home pipeline, or the in-service one with the fewest waiting (R72). -/
def boltRoute (d : Dev) (home : Region) (lvl : Nat) : Option Loc :=
  if boltOpen d home && decide (boltWaiting d home ≤ 8) then some (.boltQ home lvl) else boltFewest d lvl

/-- A context's command has a step to run; one that waits for a key or for seed has none. -/
def boltReady (d : Dev) (r : Region) (l : Nat) : Bool := ((boltContext d r l).map (fun p => p.1.ready.isSome)).getD false

/-- An empty context whose queue has a head that may start: the sequencer starts it before it runs a lower step (R103). -/
def boltStarts (d : Dev) (r : Region) (l : Nat) : Bool :=
  (boltContext d r l).isNone && ((boltQueue d r l).head?.map (mayStart d)).getD false

/-- The context whose step begins at a boundary: the highest that holds a command, unless a higher one is about to (R102,
R103). -/
def boltTop (d : Dev) (r : Region) : Option Nat :=
  ([3, 2, 1, 0].find? (fun l => boltReady d r l || boltStarts d r l)).filter (boltReady d r)

/-- The context whose step is in progress; where none is, the next begins (R102). -/
def boltRunning (d : Dev) (r : Region) : Option Nat :=
  match (regionOf d r).bolt.stepLvl with
  | some l => if boltReady d r l then some l else boltTop d r
  | none => boltTop d r

/-- A command's body in the context of its level: its outcome and its number of sequencer steps, or what it waits for. -/
def boltBody (cid : Nat) (r : Region) (lvl : Nat) (hr : HostRead) (c : Cmd)
    (body : Cmd → HostRead → Region → Run (Nat × Res)) (d : Dev) : Dev :=
  let d := onCmd cid (fun c => { c with
    outSeg := if c.flags.getLsbD 1 then sgSegs hr.outSg else [(c.outPtr, c.outCap)] }) d
  let x := runBody (do listChecks c hr false; body c (readOf c hr) r) d
  let started := fun (n : Nat) (res : Res) =>
    let d := onCmd cid (fun c => { c with
      stage := .running, waitOn := [], ready := some res, loc := .boltCtx r lvl (max n 1) }) x.2
    onBolt r (fun b => { b with stepLvl := boltRunning d r }) d
  match x.1 with
  | .ok p => started p.1 p.2
  | .error (.res res) => started 1 res
  | .error (.wait on) => onCmd cid (fun c => { c with stage := .running, waitOn := on, loc := .boltCtx r lvl 0 }) x.2
  | .error .running => x.2

/-- Starts the bolt command `cid` when it heads its queue and the context of its level is empty, or goes on with one that
waits in its context. The outcome is given when the last step ends (BOLT_STEP_END). -/
def runBolt (code cid : Nat) (hr : HostRead) (body : Cmd → HostRead → Region → Run (Nat × Res)) (d : Dev) : Dev :=
  match cmdOf? d cid with
  | none => d
  | some c =>
    match c.loc with
    | .boltQ r lvl =>
      if c.code == code && mayStart d c && boltUp d r && (boltContext d r lvl).isNone
          && (((boltQueue d r lvl).head?).map (·.cid)) == some cid then boltBody cid r lvl hr c body d
      else d
    | .boltCtx r lvl _ => if c.code == code && c.ready.isNone && boltUp d r then boltBody cid r lvl hr c body d else d
    | _ => d

def bolt (code cid : Nat) (hr : HostRead) (body : Cmd → HostRead → Region → Run (Nat × Res)) (s : State) : Ans :=
  nextD (runBolt code cid hr body) s

/-- BOLT_QUEUE_PROMOTE: a command that has waited 100 µs moves to the tail of the next higher queue (R103). -/
def boltPromote (cid : Nat) (d : Dev) : Dev :=
  match cmdOf? d cid with
  | some c =>
    match c.loc with
    | .boltQ r lvl =>
      if isWaiting c && decide (lvl < 3) then
        let moved := { c with loc := .boltQ r (lvl + 1) }
        onHif (fun h => { h with cmds := h.cmds.filter (fun x => x.cid != cid) ++ [moved] }) d
      else d
    | _ => d
  | none => d

def execBoltQueuePromote (cid : Nat) (s : State) : Ans := nextD (boltPromote cid) s

/-! ## The translation policy (R112 to R115) -/

/-- The key class of an algorithm. -/
def keyClass (alg : Nat) : Nat := if alg = 8 then 0 else if alg = 9 then 1 else if alg = 1 then 2 else 3
def fmtRank (f : Nat) : Nat := if f = 1 then 0 else if f = 0 then 1 else if f = 2 then 2 else 3
/-- A format agrees with a key class. -/
def fmtAgrees (f k : Nat) : Bool := if f = 3 then 2 ≤ k else k ≤ 1

def polIndex (sf df sk dk : Nat) : Nat := sf * 64 + df * 16 + sk * 4 + dk
def polValid (i : Nat) : Bool := fmtAgrees (i / 64 % 4) (i / 4 % 4) && fmtAgrees (i / 16 % 4) (i % 4)
def polWeakens (i : Nat) : Bool := decide (fmtRank (i / 16 % 4) < fmtRank (i / 64 % 4)) || decide (i % 4 < i / 4 % 4)

/-- The default table (R113). -/
def polDefault : Bytes := tabulate 256 (fun i => if polValid i && !polWeakens i then 1 else 0)

/-- The table a pipeline has installed. -/
def polTable (b : BoltS) : Bytes := b.policy.getD polDefault

/-- A pipeline installs the committed table (BOLT_POLICY_INSTALL, R114). -/
def polInstallOne (d : Dev) (b : BoltS) : BoltS := { b with
  policy := d.pol.rec_, policyVer := d.pol.ver, policyPending := false, policyLost := d.pol.defaultAfterLoss }

/-- XLATE_POLICY_WRITE completes once every in-service pipeline has installed the table, each that waits with its own
version. -/
def polCheck (d : Dev) : Dev :=
  if (List.finRange 4).any (fun (r : Region) => boltUp d r && (regionOf d r).bolt.policyPending) then d
  else forAll d.pol.pend (fun w d => finishRunning w.cid resOk d |> logEv 0x4204 0x28 w.ver.toNat 1 0)
    (onPol (fun p => { p with pend := [] }) d)

/-- Installs the present record in every pipeline: at once where no command is in a context or the pipeline is out
of service, else at its next step boundary. -/
def polInstall (d : Dev) : Dev :=
  forAll (List.finRange 4) (fun (r : Region) d =>
    if boltUp d r && (List.range 4).any (fun l => (boltContext d r l).isSome) then
      onBolt r (fun b => { b with policyPending := true }) d
    else onBolt r (polInstallOne d) d) d

/-- The default table returns after the record is lost (reason 2) or erased (reason 3) (R115). -/
def polReset (reason : Nat) (d : Dev) : Dev :=
  onPol (fun p => { p with rec_ := none, ver := 0, defaultAfterLoss := reason == 2 }) d
    |> polInstall |> logEv 0x4204 0x28 0 reason 0

/-- The waiting writes from the first that meets `p` on end with ST_RETRY and no effect: the policy that it found returns
(R13, R26). -/
def polRevert (p : Nat → Bool) (d : Dev) : Dev :=
  let back := d.pol.pend.dropWhile (fun w => !p w.cid)
  match back.head? with
  | none => d
  | some w =>
    forAll back (fun w => finishRunning w.cid resRetry)
      (onPol (fun x => { x with
        rec_ := w.oldRec, ver := w.oldVer, defaultAfterLoss := w.oldLost, pend := x.pend.takeWhile (fun w => !p w.cid) }) d) |> polInstall

/-- XLATE_POLICY_WRITE (R114). -/
def bodyPolicyWrite (c : Cmd) (hr : HostRead) : Run Res := do
  need (zeroPar c 64 128) stParam 0
  need (c.inLen == 256) stParam 0x0306
  let t := inData c hr
  need ((List.range 256).all (fun i => let e := t.getD i 0; e.toNat < 4 && (polValid i || e == 0))) stParam 0x0306
  need (!keepOnly (← get)) stDegraded 0
  eff (recWrite (settingRec 0) 1)
  eff (onPol (fun p => {
    rec_ := some t, ver := p.ver + 1, defaultAfterLoss := false
    pend := p.pend ++ [⟨c.cid, p.ver + 1, p.rec_, p.ver, p.defaultAfterLoss⟩] }))
  eff polInstall
  eff (onCmd c.cid (fun c => { c with stage := .running }))
  eff polCheck
  match (← get) |> (cmdOf? · c.cid) with
  | some x => match x.stage with
    | .done res => pure res
    | _ => throw .running
  | none => throw .running

def execXlatePolicyWrite (cid : Nat) (hr : HostRead) (s : State) : Ans := hasp 0x0140 cid hr bodyPolicyWrite s

/-! ## BOLT_STEP_END (R102) -/

/-- An event of a command that its outcome logs: one that a reset cuts short has no effect (R129). -/
def logLate (c : Cmd) (code src a b k : Nat) : Dev → Dev :=
  onCmd c.cid (fun c => { c with late := c.late ++ [⟨code, src, a, b, k⟩] })

/-- The outcome of a command whose last step has ended, with its events and the counts of R134; `scratch` holds 1 for a hit and 2
for a miss of the derivation cache. -/
def boltGive (r : Region) (c : Cmd) (res : Res) (d : Dev) : Dev :=
  finish c.cid res d |> forAll c.late (fun e => logEv e.code e.src e.p0 e.p1 e.p2)
    |> onBolt r (fun b => { b with
      hits := if c.scratch == [1] then b.hits + 1 else b.hits
      misses := if c.scratch == [2] then b.misses + 1 else b.misses
      verifyFails := if res.status == stVerify then b.verifyFails + 1 else b.verifyFails
      policyDenies := if res.status == stPolicy then b.policyDenies + 1 else b.policyDenies })

/-- The two entries are of one intermediate key. -/
def dkSame (e x : DkEntry) : Bool :=
  x.owner == e.owner && x.entry == e.entry && x.gen == e.gen && x.kind == e.kind && x.ikid == e.ikid && x.prefix_ == e.prefix_

/-- Inserts an entry as the most recently used, unless it is present, where it only becomes that; the cache holds 4,096,
least recently used out first. -/
def dkInsert (e : DkEntry) (b : BoltS) : BoltS :=
  let rest := b.dk.filter (fun x => !dkSame e x)
  { b with dk := (if rest.length ≥ 4096 then rest.drop 1 else rest) ++ [e] }

/-- An entry that a command uses becomes the most recently used. -/
def dkTouch (e : DkEntry) (b : BoltS) : BoltS :=
  if b.dk.any (dkSame e) then { b with dk := b.dk.filter (fun x => !dkSame e x) ++ [e] } else b

/-- A step of a command's derivation ends; with the last one its entries go into the cache (R118). -/
def dkStep (cid : Nat) (b : BoltS) : BoltS :=
  match b.dkPend.find? (fun p => p.cid == cid) with
  | none => b
  | some p =>
    let rest := b.dkPend.filter (fun x => x.cid != cid)
    if p.steps ≤ 1 then p.entries.foldl (fun b e => dkInsert e b) { b with dkPend := rest }
    else { b with dkPend := rest ++ [{ p with steps := p.steps - 1 }] }

/-- The step in progress ends, of the context it belongs to; at the boundary a flush and a pending table take effect, and
the highest context that holds a command goes on. -/
def boltStepEnd (r : Region) (d : Dev) : Dev :=
  let top := (boltRunning d r).bind (fun l => (boltContext d r l).map (fun p => (l, p.1, p.2)))
  let d1 := match top with
    | none => d
    | some (l, c, n) =>
      (if n ≤ 1 then boltGive r c (c.ready.getD resRetry) d
       else onCmd c.cid (fun c => { c with loc := .boltCtx r l (n - 1) }) d) |> onBolt r (dkStep c.cid)
  let d2 := if (regionOf d1 r).bolt.dkFlush then onBolt r (fun b => { b with dk := [], dkFlush := false }) d1 else d1
  let d3 := if (regionOf d2 r).bolt.policyPending then onBolt r (polInstallOne d2) d2 else d2
  polCheck (onBolt r (fun b => { b with stepLvl := boltTop d3 r }) d3)

def execBoltStepEnd (r : Region) (s : State) : Ans := nextD (boltStepEnd r) s

/-! ## PIN blocks (R107, R108) -/

/-- The digits of packed BCD of which `n` count; none where a digit is above 9 or a pad nibble is not 0xF. -/
def bcdDigits (b : Bytes) (n : Nat) : Option (List Nat) :=
  let ns := nibbles b
  if (ns.take n).all (· ≤ 9) && (ns.drop n).all (· == 15) then some (ns.take n) else none

/-- The PAN of a command, none where R108 finds it missing or malformed. -/
def panOf (len : Nat) (b : Bytes) : Option (List Nat) :=
  if 12 ≤ len ∧ len ≤ 19 then bcdDigits b len else none

/-- The PAN block of formats 0 and 3: the 12 rightmost digits without the check digit, zeros to their left where a PAN of
12 digits has fewer. -/
def panBlock (pan : List Nat) : Bytes :=
  let digits := List.replicate 12 0 ++ pan.dropLast
  fromNibbles ([0, 0, 0, 0] ++ digits.drop (digits.length - 12))

/-- The PAN field of format 4: the length less 12, the digits, zeros. -/
def panField (pan : List Nat) : Bytes :=
  fit (fromNibbles ((pan.length - 12) :: pan ++ List.replicate (31 - pan.length) 0)) 16

def usesPan (f : Nat) : Bool := f == 0 || f == 2 || f == 3
def fmtBlock (f : Nat) : Nat := if f = 3 then 16 else 8
def fmtAlgOk (f a : Nat) : Bool := if f = 3 then isAes a else isTdes a

/-- Random bytes that a block of format `f` takes (R107). -/
def fillNeed (f : Nat) : Nat := if f = 0 then 0 else if f = 2 then 16 else 8

/-- A clear PIN block of formats 0 to 2, before the PAN is combined. -/
def pinNibbles (f : Nat) (pin : List Nat) (rnd : Bytes) : List Nat :=
  let ctrl := if f = 0 then 0 else if f = 1 then 1 else 3
  let fill := tabulate 16 (fun i =>
    if f = 0 then 15 else if f = 1 then (nibbles rnd).getD i 0 else 10 + (rnd.getD i 0).toNat % 6)
  (ctrl :: pin.length :: pin ++ fill).take 16

/-- Builds and enciphers a PIN block. -/
def pinEncipher (f : Nat) (key : Bytes) (pan pin : List Nat) (rnd : Bytes) : Bytes :=
  if f = 3 then
    let field := fromNibbles ((4 :: pin.length :: pin ++ List.replicate 14 10).take 16) ++ fit rnd 8
    aesEnc key (xorB (aesEnc key field) (panField pan))
  else
    let b := fromNibbles (pinNibbles f pin rnd)
    tdesEnc key (if f = 1 then b else xorB b (panBlock pan))

/-- Deciphers a PIN block and checks its format; none where the check fails (R107). -/
def pinDecipher (f : Nat) (key : Bytes) (pan : List Nat) (blk : Bytes) : Option (List Nat) :=
  let clear :=
    if f = 3 then aesDec key (xorB (aesDec key blk) (panField pan))
    else
      let b := tdesDec key (blk.take 8)
      if f = 1 then b else xorB b (panBlock pan)
  let ns := nibbles (clear.take 8)
  let ctrl := if f = 0 then 0 else if f = 1 then 1 else if f = 2 then 3 else 4
  let len := ns.getD 1 0
  let pin := (ns.drop 2).take len
  let fill := (ns.drop 2).drop len
  let fillOk := fun n => if f = 0 then n == 15 else if f = 1 then true else if f = 2 then decide (10 ≤ n) else n == 10
  if ns.getD 0 0 == ctrl && decide (4 ≤ len) && decide (len ≤ 12) && pin.all (· ≤ 9) && fill.all fillOk then some pin else none

/-- The function parameter of bolt events (R133). -/
def boltFn (c : Cmd) : Nat :=
  match c.origin with
  | .host => c.fn
  | .task t => 0x80 + t.number

/-- EV_4210 and ST_PIN_BLOCK (R107). -/
def logPin (c : Cmd) (r : Region) (h : Nat) : Dev → Dev := logLate c 0x4210 (0x28 + r) (boltFn c) (hIndex h) c.code
def pinFail {α : Type} (c : Cmd) (r : Region) (h : Nat) : Run α := failLog stPinBlock 0 (logPin c r h)

def needPin (c : Cmd) (r : Region) (h : Nat) (p : Option (List Nat)) : Run (List Nat) :=
  match p with
  | some p => pure p
  | none => pinFail c r h

/-- The PAN a command needs, or the check that none is given (R108). `o` is the offset of pan, `lo` of pan_len. -/
def needPan (c : Cmd) (wanted : Bool) (lo o : Nat) : Run (List Nat) := do
  if wanted then
    match panOf (par c lo 1) (parB c o 10) with
    | some p => pure p
    | none => fail stParam 0x0301
  else
    need (par c lo 1 == 0 && zeroPar c o (o + 10)) stParam 0
    pure []

def needFmt (f : Nat) : Run Unit := need (f ≤ 3) stParam 0x0306

/-- Fill from the region's DRBG over the pipeline's private wire (R107, R215). -/
def pinFill (r : Region) (f : Nat) : Run Bytes :=
  if fillNeed f = 0 then pure [] else needDrawOf [r] (draw r (fillNeed f))

def boltUse (c : Cmd) (u : Option Nat) (algOk : Nat → Bool) : Use := useOf c .bolt u algOk

/-- The policy check of step 3 of R105. -/
def polCheckCmd (c : Cmd) (r : Region) (idx : Nat) : Run Bool := do
  let e := (polTable (regionOf (← get) r).bolt).getD idx 0
  if e.getLsbD 0 then pure (e.getLsbD 1)
  else failLog stPolicy 0 (logLate c 0x4205 (0x28 + r) (boltFn c) idx c.code)

/-- The PIN offset of PIN_DERIVE and PIN_CHECK (R109). -/
def needOffset (c : Cmd) : Run (List Nat) := do
  let n := par c 67 1
  need (4 ≤ n && n ≤ 12) stParam 0x0307
  let ns := nibbles (parB c 96 6)
  need ((ns.take n).all (· ≤ 9) && (ns.drop n).all (· == 15)) stParam 0x0307
  need (zeroPar c 102 112) stParam 0
  pure (ns.take n)

/-- The source block's reserved half is zero for an 8-byte format (R109). -/
def needBlock (c : Cmd) (f o : Nat) : Run Bytes := do
  need (f == 3 || zeroPar c (o + 8) (o + 16)) stParam 0
  pure (parB c o 16)

/-- The Norni PIN derivation method (R111). -/
def pinDerive (key : Bytes) (pan offset : List Nat) : List Nat :=
  let blk := fit (fromNibbles (pan ++ List.replicate (32 - pan.length) 15)) 16
  let ns := nibbles (cmac .aes key blk)
  let ds := ns.filter (· < 10) ++ (ns.filter (10 ≤ ·)).map (· - 10)
  List.zipWith (fun a b => (a + b) % 10) (ds.take offset.length) offset

/-- PIN_XLATE (R110). -/
def bodyPinXlate (c : Cmd) (_ : HostRead) (r : Region) : Run (Nat × Res) := do
  let sf := par c 64 1
  let df := par c 65 1
  needFmt sf
  needFmt df
  need (zeroPar c 67 68 && zeroPar c 78 80 && zeroPar c 96 128) stParam 0
  let pan ← needPan c (usesPan sf || usesPan df) 66 68
  let blk ← needBlock c sf 80
  need (fmtBlock df ≤ c.outCap) stParam 0x030A
  let ka ← fetch (boltUse c (some uPinDec) (fmtAlgOk sf)) (hA c)
  let kb ← fetch (boltUse c (some uPinEnc) (fmtAlgOk df)) (hB c)
  let idx := polIndex sf df (keyClass ka.alg) (keyClass kb.alg)
  let lg ← polCheckCmd c r idx
  let pin ← needPin c r (hA c) (pinDecipher sf ka.mat pan blk)
  let rnd ← pinFill r df
  if lg then eff (logLate c 0x4206 (0x28 + r) (boltFn c) idx (hIndex (hB c)))
  pure (1, resOut (pinEncipher df kb.mat pan pin rnd))

def execPinXlate (cid : Nat) (hr : HostRead) (s : State) : Ans := bolt 0x0301 cid hr bodyPinXlate s

/-- PIN_COMPARE (R110). -/
def bodyPinCompare (c : Cmd) (_ : HostRead) (r : Region) : Run (Nat × Res) := do
  let sf := par c 64 1
  let df := par c 65 1
  needFmt sf
  needFmt df
  need (zeroPar c 67 68 && zeroPar c 78 80 && zeroPar c 112 128) stParam 0
  let pan ← needPan c (usesPan sf || usesPan df) 66 68
  let blk ← needBlock c sf 80
  let ref ← needBlock c df 96
  let ka ← fetch (boltUse c (some uPinDec) (fmtAlgOk sf)) (hA c)
  let kb ← fetch (boltUse c (some uPinVerify) (fmtAlgOk df)) (hB c)
  let p1 ← needPin c r (hA c) (pinDecipher sf ka.mat pan blk)
  let p2 ← needPin c r (hB c) (pinDecipher df kb.mat pan ref)
  pure (1, if p1 = p2 then resOk else resErr stVerify 0)

def execPinCompare (cid : Nat) (hr : HostRead) (s : State) : Ans := bolt 0x0302 cid hr bodyPinCompare s

/-- PIN_DERIVE (R110, R111). -/
def bodyPinDerive (c : Cmd) (_ : HostRead) (r : Region) : Run (Nat × Res) := do
  let df := par c 65 1
  needFmt df
  need (zeroPar c 64 65 && zeroPar c 78 96 && zeroPar c 112 128) stParam 0
  let pan ← needPan c true 66 68
  let off ← needOffset c
  need (fmtBlock df ≤ c.outCap) stParam 0x030A
  let ka ← fetch (boltUse c (some uPinVerify) isAes) (hA c)
  let kb ← fetch (boltUse c (some uPinEnc) (fmtAlgOk df)) (hB c)
  let rnd ← pinFill r df
  pure (2, resOut (pinEncipher df kb.mat pan (pinDerive ka.mat pan off) rnd))

def execPinDerive (cid : Nat) (hr : HostRead) (s : State) : Ans := bolt 0x0303 cid hr bodyPinDerive s

/-- PIN_CHECK (R110, R111). -/
def bodyPinCheck (c : Cmd) (_ : HostRead) (r : Region) : Run (Nat × Res) := do
  let sf := par c 64 1
  needFmt sf
  need (zeroPar c 65 66 && zeroPar c 78 80 && zeroPar c 112 128) stParam 0
  let pan ← needPan c true 66 68
  let off ← needOffset c
  let blk ← needBlock c sf 80
  let ka ← fetch (boltUse c (some uPinDec) (fmtAlgOk sf)) (hA c)
  let kb ← fetch (boltUse c (some uPinVerify) isAes) (hB c)
  -- the second step deciphers and checks the block
  match pinDecipher sf ka.mat pan blk with
  | none =>
    eff (logPin c r (hA c))
    pure (2, resErr stPinBlock 0)
  | some pin => pure (2, if pin = pinDerive kb.mat pan off then resOk else resErr stVerify 0)

def execPinCheck (cid : Nat) (hr : HostRead) (s : State) : Ans := bolt 0x0304 cid hr bodyPinCheck s

/-! ## DUKPT (R116 to R118) -/

def popcount (n : Nat) : Nat := count (List.range 32) (fun i => n.testBit i)

/-- Key length in bytes by the working key code of R117. -/
def wkLen (wk : Nat) : Nat := if wk = 1 then 16 else if wk = 2 then 24 else if wk = 3 then 32 else if wk = 4 then 16 else 24
/-- The algorithm indicator of X9.24-3. -/
def wkInd (wk : Nat) : Nat := if wk = 1 then 2 else if wk = 2 then 3 else if wk = 3 then 4 else if wk = 4 then 0 else 1
/-- The algorithm code of R82 of a working key. -/
def wkAlg (kind wk : Nat) : Nat :=
  if kind = 1 then 8 else if wk = 1 then 1 else if wk = 2 then 2 else if wk = 3 then 3 else if wk = 4 then 8 else 9

/-- One AES DUKPT derivation of `len` bytes (X9.24-3). -/
def dkAes (key : Bytes) (usage ind len : Nat) (tail : Bytes) : Bytes :=
  ((List.range ((len + 15) / 16)).flatMap (fun i =>
    aesEnc key ([1, byte (i + 1)] ++ natBE usage 2 ++ natBE ind 2 ++ natBE (8 * len) 2 ++ tail))).take len

def dkMask : Bytes := [0xC0, 0xC0, 0xC0, 0xC0, 0, 0, 0, 0, 0xC0, 0xC0, 0xC0, 0xC0, 0, 0, 0, 0]

/-- One TDES DUKPT non-reversible derivation (X9.24-1). -/
def dkTdes (key reg : Bytes) : Bytes :=
  let half := fun (k : Bytes) => xorB (desEnc (k.take 8) (xorB reg (k.drop 8))) (k.drop 8)
  half (xorB key dkMask) ++ half key

/-- The initial key. `ikid` is the AES initial key ID, or the TDES KSN of 10 bytes with its counter cleared. -/
def dkInitial (kind : Nat) (bdk ikid : Bytes) : Bytes :=
  if kind = 0 then dkAes bdk 0x8001 (wkInd (if bdk.length = 16 then 1 else if bdk.length = 24 then 2 else 3)) bdk.length ikid
  else tdesEnc bdk (ikid.take 8) ++ tdesEnc (xorB bdk dkMask) (ikid.take 8)

/-- Derives along the set bits of `bits` (highest first) from a key whose counter so far is `acc`. -/
def dkWalk (kind : Nat) (ikid : Bytes) : List Nat → Nat → Bytes → Bytes
  | [], _, k => k
  | b :: bs, acc, k =>
    let acc := acc + 2 ^ b
    let k' :=
      if kind = 0 then
        dkAes k 0x8000 (wkInd (if k.length = 16 then 1 else if k.length = 24 then 2 else 3)) k.length (ikid.drop 4 ++ natBE acc 4)
      else dkTdes k (natBE (beNat (ikid.drop 2) + acc) 8)
    dkWalk kind ikid bs acc k'

def setBits (lo hi n : Nat) : List Nat := ((List.range 32).reverse).filter (fun b => lo ≤ b && b < hi && n.testBit b)

/-- The purposes of a working key: PIN encryption, MAC of a request, MAC of a response. -/
inductive DkPurpose where
  | pin | macReq | macResp
  deriving DecidableEq, Repr

def dkWorking (kind wk : Nat) (p : DkPurpose) (ikid : Bytes) (ctr : Nat) (k : Bytes) : Bytes :=
  if kind = 0 then
    dkAes k (match p with | .pin => 0x1000 | .macReq => 0x2000 | .macResp => 0x2001) (wkInd wk) (wkLen wk)
      (ikid.drop 4 ++ natBE ctr 4)
  else
    let v : Bytes := match p with
      | .pin => [0, 0, 0, 0, 0, 0, 0, 0xFF]
      | .macReq => [0, 0, 0, 0, 0, 0, 0xFF, 0]
      | .macResp => [0, 0, 0, 0, 0xFF, 0, 0, 0]
    xorB k (v ++ v)

/-- A derivation cache entry for a base key, a chain and a counter's high part. -/
def dkFind (b : BoltS) (k : Key) (kind : Nat) (ikid : Bytes) (pfx : Nat) : Option DkEntry :=
  b.dk.find? (fun e => e.owner == k.owner && e.entry == k.entry && e.gen == k.gen && e.kind == kind && e.ikid == ikid
    && e.prefix_ == pfx)


/-- The DUKPT parameters of a command: kind, working key code, initial key identifier, counter (R117). -/
def needDukpt (c : Cmd) : Run (Nat × Nat × Bytes × Nat) := do
  let kind := par c 125 1
  let wk := par c 124 1
  need (kind ≤ 1) stParam 0x0306
  let ksn := parB c 112 12
  if kind = 0 then
    let ctr := beNat (ksn.drop 8)
    need (ctr != 0 && decide (popcount ctr ≤ 16)) stParam 0x0302
    need (1 ≤ wk && wk ≤ 5) stParam 0x0303
    pure (kind, wk, ksn.take 8, ctr)
  else
    need (zeroPar c 122 124) stParam 0
    let n := beNat (ksn.take 10)
    let ctr := n % 2 ^ 21
    need (ctr != 0 && decide (popcount ctr ≤ 10)) stParam 0x0302
    need (wk == 0) stParam 0x0303
    pure (kind, wk, natBE (n - ctr) 10, ctr)

/-- A working key: with its derivation steps, and what becomes of the counts and the cache when its command has passed
its checks and runs (R105, R118): the entry it used, and those it derived. -/
structure DkWork where
  key : Bytes
  steps : Nat
  hit : Bool
  used : Option DkEntry
  entries : List DkEntry

/-- The command runs: its outcome will count a hit or a miss, and the entries derived await the end of the derivation. -/
def dkRun (r : Region) (cid : Nat) (w : DkWork) (d : Dev) : Dev :=
  onCmd cid (fun c => { c with scratch := [if w.hit then 1 else 2] }) d
    |> onBolt r (fun b =>
      let b := match w.used with | some e => dkTouch e b | none => b
      { b with dkPend := b.dkPend.filter (fun x => x.cid != cid) ++ [⟨cid, w.steps, w.entries⟩] })

/-- Derives the working key, through the cache (R118). -/
def dukptKey (c : Cmd) (r : Region) (kind wk : Nat) (ikid : Bytes) (ctr : Nat) (p : DkPurpose) : Run DkWork := do
  let d ← get
  let pfx := ctr - ctr % 256
  let use_ := boltUse c (some uDerive) (if kind = 0 then isAes else (· == 8))
  let bolt := (regionOf d r).bolt
  let hit := (keyLookup d c.owner c.session (hA c)).bind (fun k => dkFind bolt k kind ikid pfx)
  let k ← fetchWith hit.isNone use_ (hA c)
  need (kind == 1 || decide (wkLen wk ≤ k.lenBytes)) stParam 0x0303
  match hit with
  | some e =>
    let top := dkWalk kind ikid (setBits 0 8 ctr) pfx e.key
    pure ⟨dkWorking kind wk p ikid ctr top, 1, true, some e, []⟩
  | none =>
    let ini := dkFind bolt k kind ikid 0
    let ik := (ini.map (·.key)).getD (dkInitial kind k.mat ikid)
    let pk := dkWalk kind ikid (setBits 8 32 ctr) 0 ik
    let ent := fun (px : Nat) (key : Bytes) => (⟨k.owner, k.entry, k.gen, kind, ikid, px, key⟩ : DkEntry)
    let n := popcount ctr + (if ini.isSome then 1 else 2)
    pure ⟨dkWorking kind wk p ikid ctr (dkWalk kind ikid (setBits 0 8 ctr) pfx pk), (n + 8) / 9, false, ini,
      (if ini.isSome then [] else [ent 0 ik]) ++ (if pfx = 0 then [] else [ent pfx pk])⟩

/-- DUKPT_PIN_XLATE (R110, R116 to R118). -/
def bodyDukptPinXlate (c : Cmd) (_ : HostRead) (r : Region) : Run (Nat × Res) := do
  let sf := par c 64 1
  let df := par c 65 1
  needFmt sf
  needFmt df
  need (zeroPar c 67 68 && zeroPar c 78 80 && zeroPar c 96 112 && zeroPar c 126 128) stParam 0
  let pan ← needPan c (usesPan sf || usesPan df) 66 68
  let blk ← needBlock c sf 80
  need (fmtBlock df ≤ c.outCap) stParam 0x030A
  let (kind, wk, ikid, ctr) ← needDukpt c
  let w ← dukptKey c r kind wk ikid ctr .pin
  if !(fmtAlgOk sf (wkAlg kind wk)) then fail stKeyAttr 4
  let kb ← fetch (boltUse c (some uPinEnc) (fmtAlgOk df)) (hB c)
  let idx := polIndex sf df (keyClass (wkAlg kind wk)) (keyClass kb.alg)
  let lg ← polCheckCmd c r idx
  match pinDecipher sf w.key pan blk with
  | none =>
    eff (logPin c r (hA c))
    pure (w.steps + 1, resErr stPinBlock 0)
  | some pin =>
    let rnd ← pinFill r df
    if lg then eff (logLate c 0x4206 (0x28 + r) (boltFn c) idx (hIndex (hB c)))
    eff (dkRun r c.cid w)
    pure (w.steps + 1, resOut (pinEncipher df kb.mat pan pin rnd))

def execDukptPinXlate (cid : Nat) (hr : HostRead) (s : State) : Ans := bolt 0x0310 cid hr bodyDukptPinXlate s

/-! ## MACs (R120 to R122) -/

/-- The algorithms a MAC code admits. -/
def macAlgOk (m a : Nat) : Bool := if m ≤ 1 then isSym a else if m ≤ 3 then a == 8 else isAes a

def macCompute (m alg : Nat) (key msg : Bytes) : Bytes :=
  let b : BlockAlg := if isAes alg then .aes else .tdes
  if m = 0 then mac9797a1 b 1 key msg
  else if m = 1 then mac9797a1 b 2 key msg
  else if m = 2 then mac9797a3 1 key msg
  else if m = 3 then mac9797a3 2 key msg
  else cmac .aes key msg

def macSteps (n : Nat) : Nat := max 1 ((n + 127) / 128)

/-- The longest MAC of a code: the cipher block of the longest-blocked key it admits (R120, R121). -/
def macMax (m : Nat) : Nat := if m = 2 ∨ m = 3 then 8 else 16

/-- The form of a MAC command: codes, lengths, zero fields. -/
def macForm (c : Cmd) (verify dukpt : Bool) : Run Unit := do
  need (par c 64 1 ≤ 4) stParam 0x0306
  need (if dukpt then par c 66 1 ≤ 1 else par c 66 1 == 0) stParam (if dukpt then 0x0306 else 0)
  need (zeroPar c 67 68 && zeroPar c 84 112 && zeroPar c 126 128 && (dukpt || zeroPar c 112 126)) stParam 0
  need (verify || zeroPar c 68 84) stParam 0
  need (hB c == 0) stParam 0x0306
  need (c.inLen ≤ 65536) stParam 0x0304
  need (4 ≤ par c 65 1 && par c 65 1 ≤ macMax (par c 64 1)) stParam 0x0305
  need (!verify || zeroPar c (68 + par c 65 1) 84) stParam 0

/-- The end of a MAC command: the length against the cipher, then output or comparison. -/
def macEnd (c : Cmd) (verify : Bool) (alg : Nat) (key msg : Bytes) : Run Res := do
  let n := par c 65 1
  need (n ≤ (if isAes alg then 16 else 8)) stParam 0x0305
  let mac := (macCompute (par c 64 1) alg key msg).take n
  if verify then pure (if mac = parB c 68 n then resOk else resErr stVerify 0)
  else
    need (n ≤ c.outCap) stParam 0x030A
    pure (resOut mac)

def bodyMac (verify : Bool) (c : Cmd) (hr : HostRead) (_ : Region) : Run (Nat × Res) := do
  macForm c verify false
  need (verify || decide (par c 65 1 ≤ c.outCap)) stParam 0x030A
  let k ← fetch (boltUse c (some (if verify then uMacVer else uMacGen)) (macAlgOk (par c 64 1))) (hA c)
  let r ← macEnd c verify k.alg k.mat (inData c hr)
  pure (macSteps c.inLen, r)

def execMacGen (cid : Nat) (hr : HostRead) (s : State) : Ans := bolt 0x0320 cid hr (bodyMac false) s
def execMacVer (cid : Nat) (hr : HostRead) (s : State) : Ans := bolt 0x0321 cid hr (bodyMac true) s

def bodyDukptMac (verify : Bool) (c : Cmd) (hr : HostRead) (r : Region) : Run (Nat × Res) := do
  macForm c verify true
  let (kind, wk, ikid, ctr) ← needDukpt c
  need (par c 65 1 ≤ (if isAes (wkAlg kind wk) then 16 else 8)) stParam 0x0305
  need (verify || decide (par c 65 1 ≤ c.outCap)) stParam 0x030A
  let w ← dukptKey c r kind wk ikid ctr (if par c 66 1 = 0 then .macReq else .macResp)
  if !(macAlgOk (par c 64 1) (wkAlg kind wk)) then fail stKeyAttr 4
  let res ← macEnd c verify (wkAlg kind wk) w.key (inData c hr)
  if res.status == stOk then eff (dkRun r c.cid w)
  pure (w.steps + macSteps c.inLen, res)

def execDukptMacGen (cid : Nat) (hr : HostRead) (s : State) : Ans := bolt 0x0311 cid hr (bodyDukptMac false) s
def execDukptMacVer (cid : Nat) (hr : HostRead) (s : State) : Ans := bolt 0x0312 cid hr (bodyDukptMac true) s

/-! ## EMV cryptograms (R123) -/

/-- Sixteen decimal digits of a hash: its decimal nibbles, then the others less 10. -/
def emvDecimalise (h : Bytes) : List Nat :=
  let ns := nibbles h
  (ns.filter (· < 10) ++ (ns.filter (10 ≤ ·)).map (· - 10)).take 16

/-- The ICC master key: option A or B for TDES, the AES derivation (EMV). -/
def emvMaster (alg : Nat) (imk : Bytes) (pan psn : List Nat) : Bytes :=
  let x := pan ++ psn
  if isAes alg then
    let y := fromNibbles (List.replicate (32 - x.length) 0 ++ x)
    (aesEnc imk y ++ aesEnc imk (y.map (fun b => ~~~b))).take imk.length
  else
    let digits := if pan.length ≤ 16 then (List.replicate 16 0 ++ x).drop x.length
      else emvDecimalise (sha1 (fromNibbles (if x.length % 2 = 1 then 0 :: x else x)))
    let y := fromNibbles digits
    tdesEnc imk y ++ tdesEnc imk (y.map (fun b => ~~~b))

/-- The common session-key derivation. -/
def emvSession (alg : Nat) (mk atc : Bytes) : Bytes :=
  if isAes alg then
    if mk.length = 16 then aesEnc mk (fit atc 16)
    else (aesEnc mk (fit (atc ++ [0xF0]) 16) ++ aesEnc mk (fit (atc ++ [0x0F]) 16)).take mk.length
  else tdesEnc mk (fit (atc ++ [0xF0]) 8) ++ tdesEnc mk (fit (atc ++ [0x0F]) 8)

def emvMac (alg : Nat) (sk data : Bytes) : Bytes := if isAes alg then (cmac .aes sk data).take 8 else mac9797a3 2 sk data

def emvArpc (alg method : Nat) (sk arqc arc csu pad : Bytes) : Bytes :=
  if method = 1 then
    let y := xorB arqc (fit arc 8)
    if isAes alg then (aesEnc sk (fit y 16)).take 8 else tdesEnc sk y
  else (emvMac alg sk (arqc ++ csu ++ pad)).take 4

def bodyEmv (c : Cmd) (hr : HostRead) (_ : Region) : Run (Nat × Res) := do
  let gen := (par c 64 1).testBit 0
  let method := par c 64 1 / 2 % 4
  need (par c 64 1 < 8 && zeroPar c 77 78 && zeroPar c 95 96 && zeroPar c 104 128) stParam 0
  need (!gen || method == 1 || method == 2) stParam 0x0306
  need (hB c == 0) stParam 0x0306
  need (1 ≤ c.inLen && c.inLen ≤ 256) stParam 0x0304
  match panOf (par c 65 1) (parB c 66 10) with
  | none => fail stParam 0x0301
  | some pan =>
    let psn := nibbles (parB c 76 1)
    need (psn.all (· ≤ 9)) stParam 0x0301
    let pl := par c 94 1
    need (pl ≤ 8) stParam 0x0306
    need (zeroPar c (96 + pl) 104) stParam 0
    need (!gen || decide ((if method = 1 then 8 else 4) ≤ c.outCap)) stParam 0x030A
    let k ← fetch (boltUse c (some uEmvMk) (fun a => isAes a || a == 8)) (hA c)
    let sk := emvSession k.alg (emvMaster k.alg k.mat pan psn) (parB c 78 2)
    let arqc := parB c 80 8
    let steps := 1 + macSteps c.inLen
    if emvMac k.alg sk (inData c hr) ≠ arqc then pure (steps, resErr stVerify 0)
    else if gen then pure (steps, resOut (emvArpc k.alg method sk arqc (parB c 88 2) (parB c 90 4) (parB c 96 pl)))
    else pure (steps, resOk)

def execEmvAcVerify (cid : Nat) (hr : HostRead) (s : State) : Ans := bolt 0x0330 cid hr bodyEmv s

/-! ## Key blocks and check values (R124, R125) -/

/-- Steps 1 to 3 of R124: the header, the key and its algorithm code. -/
def kbOpen (c : Cmd) (r : Region) (h : Option KbHeader) (kbpk : Key) (b : Bytes) : Run (KbHeader × Bytes × Nat) := do
  match h with
  | none => fail stParam 0x0308
  | some h =>
    need (if h.version == chr 'D' then isAes kbpk.alg else h.version == chr 'B' && isTdes kbpk.alg) stParam 0x0308
    match kbUnwrap kbpk.mat h b with
    | none => failLog stParam 0x0309 (logLate c 0x4211 (0x28 + r) (boltFn c) (hIndex (hA c)) h.version.toNat)
    | some key =>
      match kbAlgCode h.alg key.length with
      | none => fail stParam 0x0308
      | some a => pure (h, key, a)

def bodyKeyblockXlate (c : Cmd) (hr : HostRead) (r : Region) : Run (Nat × Res) := do
  need (zeroPar c 64 128) stParam 0
  need (16 ≤ c.inLen && c.inLen ≤ 1024) stParam 0x0304
  let b := inData c hr
  let ka ← fetch (boltUse c (some uKekUnwrap) isSym) (hA c)
  let kb ← fetch (boltUse c (some uKekWrap) isSym) (hB c)
  let (h, key, a) ← kbOpen c r (kbParse b) ka b
  if h.exp_ == chr 'N' then failLog stKeyAttr 5 (log2310 (boltFn c) (hA c) 5)
  if algStrength kb.alg kb.lenBytes < algStrength a key.length then failLog stKeyAttr 7 (log2310 (boltFn c) (hB c) 7)
  let h2 := { h with version := if isAes kb.alg then chr 'D' else chr 'B' }
  need (kbLen h2 key.length ≤ c.outCap) stParam 0x030A
  let pad ← needDrawOf [r] (draw r (kbPadLen h2.version key.length))
  pure (if c.inLen ≤ 256 then 2 else 3, resOut (kbWrap kb.mat h2 key pad))

def execKeyblockXlate (cid : Nat) (hr : HostRead) (s : State) : Ans := bolt 0x0340 cid hr bodyKeyblockXlate s

/-- The check value of a symmetric key by method (R125). -/
def kcvBytes (method alg : Nat) (key : Bytes) : Bytes :=
  if isAes alg then (if method = 0 then cmac .aes key [] else aesEnc key (zeros 16)) else tdesEnc key (zeros 8)

def bodyKeyCheck (c : Cmd) (hr : HostRead) (r : Region) : Run (Nat × Res) := do
  let mode := par c 64 1
  let n := par c 65 1
  let method := par c 66 1
  need (mode ≤ 1 && 2 ≤ n && n ≤ 8 && method ≤ 1) stParam 0x0306
  need (zeroPar c 67 128) stParam 0
  need (hB c == 0) stParam 0x0306
  need (mode == 0 || (decide (16 ≤ c.inLen) && decide (c.inLen ≤ 1024))) stParam 0x0304
  need (n ≤ c.outCap) stParam 0x030A
  if mode = 0 then
    let k ← fetch (boltUse c none isSym) (hA c)
    pure (1, resOut ((kcvBytes method k.alg k.mat).take n))
  else
    let k ← fetch (boltUse c (some uKekUnwrap) isSym) (hA c)
    let b := inData c hr
    let (_, key, a) ← kbOpen c r (kbParse b) k b
    if !(isSym a) then fail stKeyAttr 4
    pure (1, resOut ((kcvBytes method a key).take n))

def execKeyCheck (cid : Nat) (hr : HostRead) (s : State) : Ans := bolt 0x0341 cid hr bodyKeyCheck s

end Sys2Proof.Machine
end

