-- ==== Sys2Proof/Machine/Digest.lean ====
section
/-! DEFINITION. The digest engines (07): lanes and their contexts, fragment lists, hashes, MACs and the KDF,
results to a buffer or to a new key (R180 to R199). -/

namespace Sys2Proof.Machine

/-! ## Lanes (R181, R192) -/

def laneUp (d : Dev) (r : Region) (l : Lane) : Bool :=
  regionRuns d r && !(if l = 0 then (regionOf d r).dig.lane0Out else (regionOf d r).dig.lane1Out) && !blkResetting d (.digestLane r l)
def digUp (d : Dev) (r : Region) : Bool := laneUp d r 0 || laneUp d r 1
/-- The engine takes new host commands. -/
def digOpen (d : Dev) (r : Region) : Bool := regionUp d r && digUp d r

def digQueue (d : Dev) (r : Region) (l : Lane) (lvl : Nat) : List Cmd :=
  d.hif.cmds.filter (fun c => c.loc == .digQ r l lvl && isWaiting c)

/-- Commands waiting at an engine, in both lanes. -/
def digWaiting (d : Dev) (r : Region) : Nat :=
  count d.hif.cmds (fun c => isWaiting c && (match c.loc with | .digQ r' _ _ => r' == r | _ => false))

/-- Commands a lane holds, waiting or in a context. -/
def laneLoad (d : Dev) (r : Region) (l : Lane) : Nat :=
  count d.hif.cmds (fun c => match c.loc with
    | .digQ r' l' _ => r' == r && l' == l
    | .digCtx r' l' _ _ => r' == r && l' == l
    | _ => false)

def digContext (d : Dev) (r : Region) (l : Lane) (lvl : Nat) : Option (Cmd × Nat) :=
  d.hif.cmds.findSome? (fun c => match c.loc with
    | .digCtx r' l' v n => if r' == r && l' == l && v == lvl then some (c, n) else none
    | _ => none)

/-- The lane with fewer commands, lane 0 taking a tie, among those in service. -/
def pickLane (d : Dev) (r : Region) : Lane :=
  if !laneUp d r 0 then 1 else if !laneUp d r 1 then 0 else if laneLoad d r 1 < laneLoad d r 0 then 1 else 0

/-- Where a DIG command waits (R192). -/
def digRoute (d : Dev) (home : Region) (lvl : Nat) : Option Loc :=
  if digOpen d home && decide (digWaiting d home ≤ 8) then some (.digQ home (pickLane d home) lvl)
  else
    ((List.finRange 4).filter (fun (r : Region) => digOpen d r)).foldl (fun (a : Option Region) r =>
      match a with
      | none => some r
      | some b => if digWaiting d r < digWaiting d b then some r else a) none |>.map (fun r => .digQ r (pickLane d r) lvl)

/-- A context's command has a step to run; one that waits for a key has none (R195). -/
def digReady (d : Dev) (r : Region) (l : Lane) (lvl : Nat) : Bool :=
  ((digContext d r l lvl).map (fun p => decide (1 ≤ p.2) && p.1.waitOn.all (· == waitSeed))).getD false

/-- The highest context of a lane whose command has a step to run. -/
def digTop (d : Dev) (r : Region) (l : Lane) : Option Nat := [3, 2, 1, 0].find? (digReady d r l)

def setStep (l : Lane) (v : Option Nat) (g : DigS) : DigS := if l = 0 then { g with step0 := v } else { g with step1 := v }

/-- The context whose step is in progress; where none is, the next begins. -/
def digRunning (d : Dev) (r : Region) (l : Lane) : Option Nat :=
  match (if l = 0 then (regionOf d r).dig.step0 else (regionOf d r).dig.step1) with
  | some v => if digReady d r l v then some v else digTop d r l
  | none => digTop d r l

/-- DIGEST_QUEUE_PROMOTE (R181, R103). -/
def digestPromote (cid : Nat) (d : Dev) : Dev :=
  match cmdOf? d cid with
  | some c =>
    match c.loc with
    | .digQ r l lvl =>
      if isWaiting c && decide (lvl < 3) then
        let moved := { c with loc := .digQ r l (lvl + 1) }
        onHif (fun h => { h with cmds := h.cmds.filter (fun x => x.cid != cid) ++ [moved] }) d
      else d
    | _ => d
  | none => d

def execDigestQueuePromote (cid : Nat) (s : State) : Ans := nextD (digestPromote cid) s

/-! ## Fragment lists (R184, R185) -/

def fragLen (f : Frag) : Nat := fieldLE f.bytes 8 4
def fragFlags (f : Frag) : Nat := fieldLE f.bytes 12 4
def fragNext (f : Frag) : Nat := fieldLE f.bytes 16 8
def fragSource (f : Frag) : Nat := fieldLE f.bytes 0 8
def fragKind (f : Frag) : Nat := fragFlags f / 8 % 4
def fragOrder (f : Frag) : Nat := fragFlags f / 64 % 4
def fragKeyMat (f : Frag) : Bool := (fragFlags f).testBit 5
def fragLast (f : Frag) : Bool := (fragFlags f).testBit 1
def fragFirst (f : Frag) : Bool := (fragFlags f).testBit 0
def fragGroup (f : Frag) : Nat := if fragOrder f = 1 then 4 else if fragOrder f = 2 then 8 else 1

/-- An address of the segment-relative form has no reserved bit set (R184). -/
def segForm (a : Nat) : Bool := a / 2 ^ 59 == 0 && a / 2 ^ 40 % 2 ^ 16 == 0

/-- The next field of a descriptor that is not the last names a descriptor: aligned, and for a core command's list in the
segment-relative form. -/
def fragNextOk (host : Bool) (f : Frag) : Bool :=
  fragNext f != 0 && fragNext f % 32 == 0 && (host || segForm (fragNext f))

/-- The rules of one descriptor that give detail 0x0502. `i` is its place, `n` the count; `host` tells whose list it is. -/
def fragOk (host : Bool) (n i : Nat) (f : Frag) : Bool :=
  decide (fragFlags f < 256) && !(fragFlags f).testBit 2 && (slice f.bytes 24 8).all (· = 0)
    && decide (fragOrder f < 3) && decide (fragKind f < 3) && fragKind f != (if host then 1 else 0)
    && fragKeyMat f == (fragKind f == 2) && fragFirst f == (i == 0) && fragLast f == (i + 1 == n)
    && (if fragLast f then fragNext f == 0 else fragNextOk host f)
    && (fragOrder f == 0 || (fragKind f != 2 && fragLen f % fragGroup f == 0))
    && (fragKind f != 1 || segForm (fragSource f))

/-- The length of one fragment (R184). -/
def fragLenOk (f : Frag) : Bool := decide (1 ≤ fragLen f) && decide (fragLen f ≤ 16777216)

/-- What a core command's descriptor or fragment holds where a keyway unit denied its read. -/
def fragDenied : Word64 := BitVec.ofNat 64 (2 ^ 63)

/-- A descriptor or a fragment could not be read: a host read error (R59), a segment check of a core command (R186), or a
keyway's denial, which leaves free bytes in the output buffer (R367). -/
def fragFail {α : Type} (c : Cmd) (at_ : Word64) : Run α :=
  match c.origin with
  | .task t =>
    if at_ = fragDenied then do
      let b ← step' (takeFree c.outCap)
      throw (.res { resErr stWorld 0 with out := b })
    else failLog stParam 0x0509 (logEv 0x4221 (0x2C + t.region) t.number (at_.toNat / 2 ^ 40) (at_.toNat % 2 ^ 32))
  | .host => failLog stParam 1 (log5103 c.fn at_)

/-- Bytes reversed within groups of `g`. -/
def regroup (g : Nat) (b : Bytes) : Bytes := if g ≤ 1 then b else (chunks g b).flatMap List.reverse

def digUse (c : Cmd) (u : Option Nat) (algOk : Nat → Bool) : Use := useOf c .digest u algOk

/-- Progress of a started command: the bytes absorbed, its steps in all, those done, the cycles before the first message block,
and the fragments reached. `taskFrags` holds the fragments still to be reached, `taskIn` the bytes of those reached, `taken` the
keys. -/
def digAt (c : Cmd) (i : Nat) : Nat := c.scratch.getD i 0
def digTotal (c : Cmd) : Nat := par c 72 8

/-- The command forms a new key. -/
def digMakesKey (c : Cmd) : Bool := c.code == 0x0504 || (c.code == 0x0501 && par c 65 1 == 1)

/-- One fragment as the engine comes to it: its descriptor, its length, then its bytes or its key (R185 to R187). A descriptor
that could not be read has no bytes. -/
def takeOne (c : Cmd) (f : Frag) (n : Nat) : Run (Bytes × List Key) := do
  let i := digAt c 4
  need (i ≠ 65535) stParam 0x0503
  match f.bytes.isEmpty, f.err with
  | true, some a => fragFail c a
  | _, _ => pure ()
  need (fragOk (isHost c) n i f) stParam 0x0502
  need (fragLenOk f && decide (c.taskIn.length + fragLen f ≤ digTotal c)) stParam 0x0503
  need (digMakesKey c || fragKind f != 2) stParam 0x0505
  if fragKind f = 2 then
    let k ← fetch (digUse c (some uDerive) (fun _ => true)) (fragSource f)
    need (fragLen f == k.lenBytes) stParam 0x0503
    pure (k.mat, [k])
  else
    match f.err with
    | some a => fragFail c a
    | none => pure (regroup (fragGroup f) (fit f.data (fragLen f)), [])

/-- The engine reaches the next fragment of the command `cid`. -/
def reachOne (cid : Nat) (d : Dev) : Dev :=
  match cmdOf? d cid with
  | none => d
  | some c =>
    match c.taskFrags with
    | [] => d
    | f :: fs =>
      let x := runBody (takeOne c f (digAt c 4 + 1 + fs.length)) d
      onCmd cid (fun c => match x.1 with
        | .ok p => { c with
            taskFrags := fs, taskIn := c.taskIn ++ p.1, taken := c.taken ++ p.2
            scratch := [digAt c 0, digAt c 1, digAt c 2, digAt c 3, digAt c 4 + 1] }
        | .error (.res res) => { c with ready := some res }
        | .error (.wait on) => { c with waitOn := on }
        | .error .running => c) x.2

/-- Fragments are reached until `want` bytes are held, or the list ends, fails or waits. -/
def reach (cid want : Nat) : Nat → Dev → Dev
  | 0, d => d
  | f + 1, d =>
    match cmdOf? d cid with
    | none => d
    | some c =>
      if want ≤ c.taskIn.length ∨ c.ready.isSome ∨ !c.waitOn.isEmpty ∨ c.taskFrags.isEmpty then d else reach cid want f (reachOne cid d)

/-! ## Algorithms (R180) -/

def digHash? (a : Nat) : Option HashAlg :=
  ([(1, .sha256), (2, .sha384), (3, .sha512), (0x11, .sha3_256), (0x12, .sha3_384), (0x13, .sha3_512),
    (0x21, .sha256), (0x22, .sha384), (0x23, .sha512), (0x24, .sha3_256)] : List (Nat × HashAlg)).lookup a
def isShake (a : Nat) : Bool := a == 0x14 || a == 0x15
def isKmacAlg (a : Nat) : Bool := a == 0x31 || a == 0x32
def isHashAlg (a : Nat) : Bool := [1, 2, 3, 0x11, 0x12, 0x13, 0x14, 0x15].contains a
def isMacAlg (a : Nat) : Bool := [0x21, 0x22, 0x23, 0x24, 0x31, 0x32].contains a
/-- The full output of a fixed-length algorithm. -/
def digLen (a : Nat) : Nat := ((digHash? a).map hashLen).getD 0
/-- The algorithms a MAC algorithm's key may have (R182). -/
def digKeyOk (a k : Nat) : Bool := if isKmacAlg a then isKmac k else isHmac k

def digHashOut (a n : Nat) (m : Bytes) : Bytes :=
  if a = 0x14 then shake128 n m else if a = 0x15 then shake256 n m
  else match digHash? a with
    | some h => (hashOf h m).take n
    | none => []

/-- A MAC of `n` bytes; `s` is KMAC's customisation string. -/
def digMacOut (a : Nat) (key s m : Bytes) (n : Nat) : Bytes :=
  if a = 0x31 then kmac128 key m n s else if a = 0x32 then kmac256 key m n s
  else match digHash? a with
    | some h => (hmac h key m).take n
    | none => []

/-! ## The steps of a command (R180, R181)

A lane takes 64 cycles for a block of SHA-256, 85 for one of SHA-384 or SHA-512 and 24 for a permutation of SHA-3
(01_architecture.md, *Digest lanes*). DESIGN CHOICE (log entry 181): a command takes the fewest steps that keep both limits of
R181, and each step absorbs as much as they admit. -/

/-- The cycles of one hash over `n` bytes with its padding. -/
def hashCycles (h : HashAlg) (n : Nat) : Nat :=
  match h with
  | .sha256 => 64 * ((n + 8) / 64 + 1)
  | .sha384 => 85 * ((n + 16) / 128 + 1)
  | .sha512 => 85 * ((n + 16) / 128 + 1)
  | .sha3_256 => 24 * (n / 136 + 1)
  | .sha3_384 => 24 * (n / 104 + 1)
  | .sha3_512 => 24 * (n / 72 + 1)

/-- The cycles of an HMAC under a key of `k` bytes. -/
def hmacCycles (h : HashAlg) (k n : Nat) : Nat :=
  (if k ≤ hashBlock h then 0 else hashCycles h k) + hashCycles h (hashBlock h + n) + hashCycles h (hashBlock h + hashLen h)

/-- The cycles of an extendable output of `out` bytes after `n` bytes at the rate of `a`. -/
def xofCycles (a n out : Nat) : Nat :=
  let rate := if a = 0x14 ∨ a = 0x31 then 168 else 136
  24 * (n / rate + max 1 ((out + rate - 1) / rate))

def ceilDiv (n k : Nat) : Nat := (n + k - 1) / k

/-- KMAC's input, with the customisation string and the key each padded to the rate. -/
def kmacCycles (a s k n out : Nat) : Nat :=
  let rate := if a = 0x31 then 168 else 136
  xofCycles a (rate * ceilDiv (s + 12) rate + rate * ceilDiv (k + 6) rate + n + 4) out

def digCycles (a k s n out : Nat) : Nat :=
  if isShake a then xofCycles a n out
  else if isKmacAlg a then kmacCycles a s k (n - s) out
  else match digHash? a with
    | some h => if isHashAlg a then hashCycles h n else hmacCycles h k n
    | none => 0

/-- The steps of a command: `rounds` passes over `n` message bytes of so many cycles each. -/
def digSteps (rounds n cycles : Nat) : Nat := max (ceilDiv (rounds * n) 2048) (ceilDiv (rounds * cycles) 2048)

/-- The steps of a KDF that forms `out` bytes (R191). -/
def kdfSteps (a k s n out : Nat) : Nat :=
  match digHash? a with
  | some h => digSteps (ceilDiv out (hashLen h)) n (hmacCycles h k (n + 9))
  | none => digSteps 1 n (digCycles a k s n out)

/-- The message bytes of a block with its cycles. -/
def blockOf (a : Nat) : Nat × Nat :=
  if a = 0x14 ∨ a = 0x31 then (168, 24) else if a = 0x15 ∨ a = 0x32 then (136, 24)
  else match digHash? a with
    | some .sha256 => (64, 64)
    | some .sha384 | some .sha512 => (128, 85)
    | some h => (hashBlock h, 24)
    | none => (1, 1)

/-- The cycles before the first block of the message: of the key's blocks, and KMAC's string. -/
def preCycles (a k s : Nat) : Nat :=
  if isKmacAlg a then 24 * (ceilDiv (s + 12) (blockOf a).1 + ceilDiv (k + 6) (blockOf a).1)
  else if isMacAlg a then
    match digHash? a with
    | some h => (if k ≤ hashBlock h then 0 else hashCycles h k) + (blockOf a).2
    | none => 0
  else 0

/-- The message bytes absorbed when `j` steps have ended: at most 2 KiB and 2,048 cycles each (R181). -/
def absorbedBy (c : Cmd) (j : Nat) : Nat :=
  let b := blockOf (par c 64 1)
  min (digTotal c) (min (2048 * j) ((2048 * j - digAt c 3) / b.2 * b.1))

/-! ## New keys (R190, R92) -/

/-- Odd parity in every byte. -/
def oddParity (b : Bytes) : Bytes :=
  b.map (fun x => if popcount (x.toNat / 2) % 2 = 0 then (x ||| 1) else (x &&& 0xFE))

def outAlgOk (a : Nat) : Bool := [1, 2, 3, 8, 9, 0x10, 0x11].contains a

/-- The length of the new key: that of out_alg, or key_len for the secrets. -/
def newKeyLen (c : Cmd) : Option Nat :=
  let a := par c 80 1
  let kl := par c 88 2
  if !outAlgOk a then none
  else if isSecret a then (if algLenOk a kl then some kl else none)
  else if kl = 0 then algLen a else none

/-- Makes a derived key from its material and inputs, and answers its record (R92, R190). -/
def deriveTo (c : Cmd) (inputs : List Key) (mat : Bytes) : Run Res := do
  let a := par c 80 1
  let m := if isTdes a then oddParity mat else mat
  needKeyRoom c.owner (par c 81 1) m.length false
  let d ← get
  let kd := makeKey {
    owner := c.owner, hint := par c 83 1, alg := a, life := par c 81 1, usage := BitVec.ofNat 16 (par c 84 2)
    export_ := inputs.foldl (fun x k => min x k.export_) (par c 82 1), pinned := false
    depth := min 15 (inputs.foldl (fun x k => max x k.depth) 0 + 1), derived := true
    ancCeremony := inputs.any (·.ancCeremony), ancImported := inputs.any (·.ancImported)
    ancGenerated := inputs.any (·.ancGenerated), dest := BitVec.ofNat 16 (par c 86 2), session := c.session, mat := m } d
  set kd.2
  pure (resOut (keyRecord kd.2 kd.1))

/-- The checks of the to_key parameters (R183, R190). -/
def needToKey (c : Cmd) : Run Nat := do
  need (par c 81 1 ≤ 1) stParam 0x0003
  match newKeyLen c with
  | none => fail stParam 0x0507
  | some n =>
    need (par c 82 1 ≤ 2 && usageOk (par c 80 1) c.owner.world (BitVec.ofNat 16 (par c 84 2))) stParam 0x0002
    need (par c 86 2 < 32) stParam 0
    need (32 ≤ c.outCap) stParam 0x0506
    pure n

/-- The form every DIG command shares (R182, R183). -/
def digForm (c : Cmd) : Run Unit := do
  need (hB c == 0) stParam 0x0508
  need (zeroPar c 90 128) stParam 0
  let n := par c 72 8
  need (c.inLen == 0 && !c.flags.getLsbD 0 && decide (n ≤ 2 ^ 40) && decide (par c 66 2 ≤ n)
    && (n == 0) == (c.inPtr == 0)) stParam 0x0503

/-- What a command's checks leave to do: its steps, the cycles before the first message block, and the key of handle_a. -/
structure DigPlan where
  steps : Nat
  pre : Nat
  key : List Key

/-- The fragments of a command with a message. -/
def digFrags (c : Cmd) (hr : HostRead) : List Frag := if digTotal c = 0 then [] else hr.frags

/-- The first descriptor's address (R184, R185). -/
def needListAt (c : Cmd) : Run Unit :=
  need (digTotal c == 0 || c.inPtr.toNat % 32 == 0 && (isHost c || segForm c.inPtr.toNat)) stParam 0x0502

/-- DIG_HASH before its message (R182, R188 to R190). -/
def bodyDigHash (c : Cmd) : Run DigPlan := do
  let a := par c 64 1
  need (isHashAlg a) stParam 0x0501
  digForm c
  need (hA c == 0) stParam 0x0508
  need (par c 65 1 ≤ 1 && par c 66 2 == 0) stParam 0
  let ob := par c 68 4
  let n ← (if par c 65 1 = 1 then do
      need (ob == 0) stParam 0
      let n ← needToKey c
      need (isShake a || decide (n ≤ digLen a)) stParam 0x0507
      pure n
    else do
      need (zeroPar c 80 90) stParam 0
      need (if isShake a then decide (1 ≤ ob) && decide (ob ≤ 65536) else ob == 0) stParam 0x0504
      let n := if isShake a then ob else digLen a
      need (n ≤ c.outCap) stParam 0x0506
      pure n)
  needListAt c
  pure ⟨digSteps 1 (digTotal c) (digCycles a 0 0 (digTotal c) n), 0, []⟩

/-- DIG_MAC_GEN and DIG_MAC_VER before their message (R182, R188, R189). -/
def bodyDigMac (verify : Bool) (c : Cmd) : Run DigPlan := do
  let a := par c 64 1
  need (isMacAlg a) stParam 0x0501
  digForm c
  need (par c 65 1 == 0 && zeroPar c 80 90) stParam 0
  let ll := par c 66 2
  need (if isKmacAlg a then decide (ll ≤ 256) else ll == 0) stParam 0x0503
  let ob := par c 68 4
  need (4 ≤ ob && decide (ob ≤ (if isKmacAlg a then 64 else digLen a))) stParam 0x0504
  need (ob ≤ c.outCap) stParam 0x0506
  needListAt c
  let k ← fetch (digUse c (some (if verify then uMacVer else uMacGen)) (digKeyOk a)) (hA c)
  pure ⟨digSteps 1 (digTotal c) (digCycles a k.lenBytes ll (digTotal c) ob), preCycles a k.lenBytes ll, [k]⟩

/-- DIG_KDF before its message (R191). -/
def bodyDigKdf (c : Cmd) : Run DigPlan := do
  let a := par c 64 1
  need (isMacAlg a) stParam 0x0501
  digForm c
  need (par c 65 1 == 0 && par c 68 4 == 0) stParam 0
  let ll := par c 66 2
  need (ll ≤ 256) stParam 0x0503
  let n ← needToKey c
  needListAt c
  let k ← fetch (digUse c (some uDerive) (digKeyOk a)) (hA c)
  pure ⟨kdfSteps a k.lenBytes ll (digTotal c) n, preCycles a k.lenBytes ll, [k]⟩

/-- The result of a command whose message is absorbed. -/
def digResult (c : Cmd) : Run Res := do
  need (c.taskIn.length == digTotal c) stParam 0x0503
  let a := par c 64 1
  let m := c.taskIn
  let ll := par c 66 2
  let ob := par c 68 4
  if c.code = 0x0501 then
    if par c 65 1 = 1 then
      need (!c.taken.isEmpty) stParam 0x0505
      deriveTo c c.taken (digHashOut a ((newKeyLen c).getD 0) m)
    else pure (resOut (digHashOut a (if isShake a then ob else digLen a) m))
  else
    let key := (c.taken.head?.map (·.mat)).getD []
    if c.code = 0x0504 then
      let n := (newKeyLen c).getD 0
      deriveTo c c.taken (match digHash? a with
        | some h => kdfCtr (.hmac h) key (m.take ll) (m.drop ll) n
        | none => digMacOut a key (m.take ll) (m.drop ll) n)
    else
      let mac := digMacOut a key (m.take ll) (m.drop ll) ob
      pure (if c.code = 0x0502 then resOut mac else if fit c.taskOut ob = mac then resOk else resErr stVerify 0)

/-! ## Running a command (R181, R187, R195) -/

/-- A command enters the context of its level: its form and handle_a are checked, and it has its steps, or the outcome that it
fails with, or the key it waits for. -/
def digBody (cid : Nat) (r : Region) (l : Lane) (lvl : Nat) (hr : HostRead) (c : Cmd) (body : Cmd → Run DigPlan) (d : Dev) : Dev :=
  let d := onCmd cid (fun c => { c with
    outSeg := if c.flags.getLsbD 1 then sgSegs hr.outSg else [(c.outPtr, c.outCap)] }) d
  let h := readOf c hr
  let x := runBody (do listChecks { c with flags := c.flags &&& 0xFFFE } hr true; body c) d
  let started := fun (p : DigPlan) (fs : List Frag) (res : Option Res) =>
    let n := max p.steps 1
    let d := onCmd cid (fun c => { c with
      stage := .running, waitOn := [], ready := res, scratch := [0, n, 0, p.pre, 0], loc := .digCtx r l lvl n
      taskFrags := fs, taskIn := [], taskOut := h.outData, taken := p.key }) x.2
    onDig r (setStep l (digRunning d r l)) d
  match x.1 with
  | .ok p => started p (digFrags c h) none
  | .error (.res res) => started ⟨1, 0, []⟩ [] (some res)
  | .error (.wait on) => onCmd cid (fun c => { c with stage := .running, waitOn := on, loc := .digCtx r l lvl 0 }) x.2
  | .error .running => x.2

/-- Starts the DIG command `cid` when it heads its lane's queue and the context of its level is empty, or goes on with one
that waits in its context for handle_a. The outcome is given when the last step ends (DIGEST_STEP_END). -/
def runDig (code cid : Nat) (hr : HostRead) (body : Cmd → Run DigPlan) (d : Dev) : Dev :=
  match cmdOf? d cid with
  | none => d
  | some c =>
    match c.loc with
    | .digQ r l lvl =>
      if c.code == code && mayStart d c && laneUp d r l && (digContext d r l lvl).isNone
          && (((digQueue d r l lvl).head?).map (·.cid)) == some cid then digBody cid r l lvl hr c body d
      else d
    | .digCtx r l lvl n => if c.code == code && n == 0 && laneUp d r l then digBody cid r l lvl hr c body d else d
    | _ => d

def digest (code cid : Nat) (hr : HostRead) (body : Cmd → Run DigPlan) (s : State) : Ans :=
  nextD (runDig code cid hr body) s

/-- The outcome of a command whose last step has ended, with the counts of R198. -/
def digGive (r : Region) (c : Cmd) (d : Dev) : Dev :=
  let res := c.ready.getD resRetry
  finish c.cid res d |> onCmd c.cid (fun c => { c with taken := [], taskIn := [], taskFrags := [], taskOut := [] }) |> onDig r (fun g => { g with
    keysMade := if digMakesKey c && res.status == stOk then g.keysMade + 1 else g.keysMade
    verifyFails := if res.status == stVerify then g.verifyFails + 1 else g.verifyFails })

/-- The message bytes that the step in progress of a context is to absorb, from the first byte on: with the last step all. -/
def stepTo (c : Cmd) (n : Nat) : Nat := if n ≤ 1 then digTotal c else absorbedBy c (digAt c 2 + 1)

/-- The result is formed once the message is absorbed: a new key may have to wait for room (R95). -/
def digFinish (cid : Nat) (d : Dev) : Dev :=
  match cmdOf? d cid with
  | none => d
  | some c =>
    let x := runBody (digResult c) d
    onCmd cid (fun c => match x.1 with
      | .ok res => { c with ready := some res }
      | .error (.res res) => { c with ready := some res }
      | .error (.wait on) => { c with waitOn := on }
      | .error .running => c) x.2

/-- A step of the command `cid` with `n` steps left absorbs its part of the message; with the last step the whole list is
reached and the result formed. -/
def digStep (cid n : Nat) (c : Cmd) (d : Dev) : Dev :=
  let want := stepTo c n
  let d1 := onCmd cid (fun c => { c with waitOn := [] }) d |> reach cid (if n ≤ 1 then want + 1 else want) (c.taskFrags.length + 1)
  match cmdOf? d1 cid with
  | some k => if n ≤ 1 && k.ready.isNone && k.waitOn.isEmpty then digFinish cid d1 else d1
  | none => d1

/-- DIGEST_STEP_END: the step in progress in a lane ends, of the context it belongs to; the highest context that holds a
command goes on (R181). A command that fails ends at the fragment it fails on, and one that finds a key spilled waits there
(R187, R195). -/
def digestStepEnd (r : Region) (l : Lane) (d : Dev) : Dev :=
  match (digRunning d r l).bind (fun v => (digContext d r l v).map (fun p => (v, p.1, p.2))) with
  | none => d
  | some (v, c, n) =>
    let d1 := if c.ready.isSome then d else digStep c.cid n c d
    let k := (cmdOf? d1 c.cid).getD c
    let done := min (stepTo c n) k.taskIn.length
    let d2 := (if k.ready.isSome then digGive r k d1
      else onCmd c.cid (fun c => { c with
        loc := .digCtx r l v (if k.waitOn.isEmpty then n - 1 else n)
        scratch := [done, digAt k 1, (if k.waitOn.isEmpty then digAt k 2 + 1 else digAt k 2), digAt k 3, digAt k 4] }) d1)
      |> onDig r (fun g => { g with bytes := g.bytes + BitVec.ofNat 64 (done - digAt c 0) })
    onDig r (setStep l (digTop d2 r l)) d2

def execDigestStepEnd (r : Region) (lane : Lane) (s : State) : Ans := nextD (digestStepEnd r lane) s

def execDigHash (cid : Nat) (hr : HostRead) (s : State) : Ans := digest 0x0501 cid hr bodyDigHash s
def execDigMacGen (cid : Nat) (hr : HostRead) (s : State) : Ans := digest 0x0502 cid hr (bodyDigMac false) s
def execDigMacVer (cid : Nat) (hr : HostRead) (s : State) : Ans := digest 0x0503 cid hr (bodyDigMac true) s
def execDigKdf (cid : Nat) (hr : HostRead) (s : State) : Ans := digest 0x0504 cid hr bodyDigKdf s

end Sys2Proof.Machine
end

