-- ==== Sys2Proof/Machine/Access.lean ====
section
/-! DEFINITION. Register pages as places: their base addresses, sources and types (R443, R502, R511), which world a
page admits (R531), and what a refused access logs (R507). -/

namespace Sys2Proof.Machine

/-- The base of region Qn's window. -/
def regionBase (n : Nat) : Nat := 0x0100000000 * (n + 1)

/-- The region and the place within its 17 pages of page m, for m from 1 to 68. -/
def pageRegion (m : Nat) : Nat := (m - 1) / 17
def pagePlace (m : Nat) : Nat := (m - 1) % 17
def isRegionPage (m : Nat) : Bool := 1 ≤ m && m ≤ 68

/-- The base address of page m (R511). -/
def pageBase (m : Nat) : Nat :=
  if m = 0 then 0x0000040000
  else if isRegionPage m then
    let b := regionBase (pageRegion m) + 0xC0000000
    let p := pagePlace m
    if p < 5 then b + 0x1000 * p
    else if p < 10 then b + 0x8000 + 0x1000 * (p - 5)
    else b + 0x10000 + 0x1000 * (p - 10)
  else if m ≤ 87 then 0x0800000000 + 0x1000 * (m - 69)
  else if m = 88 then 0x0800FFF000
  else if m ≤ 90 then 0x0900000000 + 0x1000 * (m - 89)
  else if m = 91 then 0x0900FFF000
  else if m ≤ 93 then 0x0A00000000 + 0x1000 * (m - 92)
  else if m = 94 then 0x0A00FFF000
  else if m ≤ 107 then 0x0B00000000 + 0x1000 * (m - 95)
  else if m = 108 then 0x0B00FFF000
  else if m ≤ 174 then 0x0C00000000 + 0x1000 * (m - 109)
  else if m = 175 then 0x0C00FFF000
  else if m ≤ 181 then 0x0D00000000 + 0x1000 * (m - 176)
  else if m ≤ 184 then 0x0D00006000 + 0x1000 * (m - 182)
  else if m = 185 then 0x0D00FFF000
  else if m ≤ 187 then 0x0E00000000 + 0x1000 * (m - 186)
  else if m ≤ 190 then 0x0E00004000 + 0x1000 * (m - 188)
  else if m = 191 then 0x0E00FFF000
  else if m ≤ 194 then 0x0F00000000 + 0x1000 * (m - 192)
  else 0x0F00FFF000

/-- The page that holds an address. -/
def pageAt (a : Nat) : Option Nat := (List.range 196).find? (fun m => pageBase m ≤ a && a < pageBase m + 0x1000)

/-- A keyway page. -/
def isKwPage (m : Nat) : Bool :=
  if isRegionPage m then 5 ≤ pagePlace m && pagePlace m < 10 else [0, 88, 91, 94, 108, 175, 185, 191, 195].contains m

/-- A function page, with its function. -/
def fnPage (m : Nat) : Option Nat := if 110 ≤ m ∧ m ≤ 173 then some (m - 110) else none

/-- The source of a page's events (R443). -/
def pageSource (m : Nat) : Nat :=
  if isRegionPage m then
    let n := pageRegion m
    let p := pagePlace m
    if p = 0 then 0x28 + n else if p = 1 then 0x2C + n else if p = 2 then 0x74 + n else if p = 3 then 0x70 + n
    else if p = 4 then 0x20 + n else if p < 10 then 0x78 + n else 7 * n + (p - 10)
  else if isKwPage m then 0x89
  else if m = 69 then 0x8B
  else if m ≤ 87 then 0x30 + (m - 70)
  else if m ≤ 90 then 0x48
  else if m ≤ 93 then 0x80
  else if m ≤ 107 then 0x81
  else if m ≤ 174 then 0x50
  else if m = 176 then 0x8A
  else if m = 177 then 0x85
  else if m = 178 then 0x86
  else if m = 179 then 0x87
  else if m = 180 then 0x82
  else if m = 181 then 0x85
  else if m = 182 then 0x58
  else if m = 183 then 0x59
  else if m = 184 then 0x88
  else if m ≤ 187 then 0x84
  else if m = 188 then 0x83
  else if m = 189 then 0x24
  else if m = 190 then 0x88
  else if m = 192 then 0x5C
  else if m = 193 then 0x5D
  else 0x8C

/-- Block type and instance of a page (R502, R511). -/
def pageType (m : Nat) : Nat × Nat :=
  if m = 0 then (0x0201, 0x20)
  else if isRegionPage m then
    let n := pageRegion m
    let p := pagePlace m
    if p < 5 then (0x0101 + p, n) else if p < 10 then (0x0201, 5 * n + (p - 5)) else (0x0106, 7 * n + (p - 10))
  else if isKwPage m then (0x0201, 0x20 + pageBase m / 2 ^ 32)
  else if m = 69 then (0x0301, 0)
  else if m ≤ 87 then (0x0302, m - 70)
  else if m = 89 then (0x0401, 0)
  else if m = 90 then (0x0402, 0)
  else if m = 92 then (0x0501, 0)
  else if m = 93 then (0x0502, 0)
  else if m = 95 then (0x0601, 0)
  else if m ≤ 107 then (0x0602, m - 96)
  else if m = 109 then (0x0701, 0)
  else if m = 110 then (0x0702, 0)
  else if m ≤ 173 then (0x0703, m - 110)
  else if m = 174 then (0x0704, 0)
  else if m ≤ 181 then (0x0801 + (m - 176), 0)
  else if m ≤ 183 then (0x0807, m - 182)
  else if m = 184 then (0x0808, 0)
  else if m = 186 then (0x0901, 0)
  else if m = 187 then (0x0902, 0)
  else if m = 188 then (0x0903, 0)
  else if m = 189 then (0x0105, 4)
  else if m = 190 then (0x0904, 0)
  else (0x0A01 + (m - 192), 0)

/-! ## Admission and refusal (R507, R531) -/

/-- Memory and register access of world D is admitted (R30, R531). -/
def debugAdmitted (d : Dev) : Bool := d.lc.state == .manufacture || d.lc.state == .develop

/-- A page admits a world for reading. -/
def pageReads (d : Dev) (m : Nat) (w : World) (tenant : Nat) : Bool :=
  match w with
  | .K => true
  | .C => !isKwPage m && m != 184
  | .T => match fnPage m with | some v => v != 0 && v == tenant | none => false
  | .D => (fnPage m).isNone && debugAdmitted d

/-- EV_2201 for a refused register access at an internal address. -/
def logRefused (a : Access) (m addr kind : Nat) : Dev → Dev :=
  logEv 0x2201 (pageSource m) (kind * 2 ^ 24 + tagOf a) (addr % 2 ^ 32) (addr / 2 ^ 32 % 256)

/-! ## Interrupt causes and captured errors (R501) -/

def pageOf (d : Dev) (m : Nat) : PageS := tget d.pg.pages m {}
def onPage (m : Nat) (f : PageS → PageS) : Dev → Dev := onPg (fun p => { p with pages := tmod p.pages m {} f })

/-- The block sets an interrupt cause. -/
def irqSet (m bit : Nat) : Dev → Dev := onPage m (fun p => { p with irqRaw := p.irqRaw ||| BitVec.ofNat 32 (2 ^ bit) })

/-- Captures an error where none is held (ERR_INFO0 bit 31). -/
def errCapture (m : Nat) (info0 info1 : Nat) (addr : Nat) : Dev → Dev :=
  onPage m (fun p => if p.err0.getLsbD 31 then p else
    { p with err0 := BitVec.ofNat 32 (2 ^ 31 + info0 % 2 ^ 31), err1 := BitVec.ofNat 32 info1, errAddr := addr })

end Sys2Proof.Machine
end

