-- ==== Sys2Proof/Machine/Fabric.lean ====
section
/-! DEFINITION. The spine and the keyway units (chapter 13): which unit stands before an address, how its rules judge
an access, UPDATE mode, and what the links report. -/

namespace Sys2Proof.Machine

/-! ## Keyway units (R362, R382) -/

def kwOf (d : Dev) (u : KwUnit) : KwS := ((d.kw.find? (fun p => p.1 == u)).map (·.2)).getD {}

def onKw (u : KwUnit) (f : KwS → KwS) (d : Dev) : Dev :=
  if d.kw.any (fun p => p.1 == u) then { d with kw := lmod d.kw (fun p => p.1 == u) (fun p => (p.1, f p.2)) }
  else { d with kw := d.kw ++ [(u, f {})] }

def portNo : Port → Nat
  | .k0 => 0
  | .k1 => 1
  | .k2 => 2
  | .k3 => 3
  | .bridge => 4

/-- The page of a unit (R511). -/
def kwPage : KwUnit → Nat
  | .region r p => 6 + 17 * r + portNo p
  | .central i => lget [0, 88, 91, 94, 108, 175, 185, 191, 195] i.val 0

/-- The window of a central unit: address bits 39:32. -/
def kwWindow (i : Nat) : Nat := if i = 0 then 0 else 7 + i

/-- The last page of a unit's space (R363). -/
def kwLastPage : KwUnit → Nat
  | .region r .k0 => (regionBase r + 0xC0011000) / 4096
  | .region r .k1 => (regionBase r + 0xC0013000) / 4096
  | .region r .k2 => (regionBase r + 0xC0015000) / 4096
  | .region r .k3 => (regionBase r + 0xC0016000) / 4096
  | .region _ .bridge => 0xFFFFFFF
  | .central i => kwWindow i * 2 ^ 20 + 0xFFFFF

/-- Rule 63 as reset leaves it (R365). -/
def kwRule63 (u : KwUnit) : KwRule := { valid := true, limit := kwLastPage u, rights := 7, tenantAny := true }

def kwRuleOf (u : KwUnit) (t : Tab KwRule) (n : Nat) : KwRule := tget t n (if n = 63 then kwRule63 u else {})

/-- The port that serves an offset of a region window, none where the table of R358 maps nothing. -/
def regionPort (o : Nat) : Option Port :=
  let ofPos := fun p => if p < 2 then Port.k0 else if p < 4 then .k1 else if p < 6 then .k2 else .k3
  if o < 0x400000 then some (if o < 0x100000 then .k0 else if o < 0x200000 then .k1 else if o < 0x300000 then .k2 else .k3)
  else if 0x1000000 ≤ o ∧ o < 0x1000000 + 7 * 0x40000 then some (ofPos ((o - 0x1000000) / 0x40000))
  else if 0xC0000000 ≤ o ∧ o < 0xC0005000 then some .k3
  else if 0xC0010000 ≤ o ∧ o < 0xC0017000 then some (ofPos ((o - 0xC0010000) / 0x1000))
  else none

/-- The region whose window holds an address. -/
def regionAt (a : Nat) : Option Region :=
  let w := a / 2 ^ 32
  if h : 1 ≤ w ∧ w ≤ 4 then some ⟨w - 1, by omega⟩ else none

/-- The unit in whose space an address lies, and whether the map holds something there (R358, R511). -/
def kwUnitAt (a : Nat) : Option (KwUnit × Bool) :=
  match regionAt a with
  | some r =>
    match regionPort (a % 2 ^ 32) with
    | some p => some (.region r p, true)
    | none => some (.region r .k3, false)
  | none =>
    let w := a / 2 ^ 32
    if w = 0 then some (.central 0, decide (a < 0x40000))
    else if h : 8 ≤ w ∧ w < 16 then some (.central ⟨w - 7, by omega⟩, (pageAt a).isSome)
    else none

/-- The region a master stands in (R15, R20). -/
def masterRegion (m : Nat) : Option Region :=
  if h : m < 28 then some ⟨m / 7, by omega⟩
  else if h : 0x20 ≤ m ∧ m < 0x24 then some ⟨m - 0x20, by omega⟩
  else if h : 0x28 ≤ m ∧ m < 0x30 then some ⟨(m - 0x28) % 4, Nat.mod_lt _ (by decide)⟩
  else none

/-- The units an access passes, in order: its region's bridge where it leaves the region, then the target's. -/
def kwPath (acc : Access) (a : Nat) : List KwUnit :=
  (match masterRegion acc.master.toNat with
   | some r => if regionAt a == some r then [] else [.region r .bridge]
   | none => []) ++ ((kwUnitAt a).map (·.1)).toList

/-! ## Working rules (R365) -/

/-- The rules of the Keeper firmware: all rights over the unit's space, and at K3 none over the context store (R301). -/
def kwWorkRules (u : KwUnit) : Tab KwRule :=
  let all : KwRule := { valid := true, priority := 1, limit := 0xFFFFFFF, rights := 0xFFF, tenantAny := true }
  match u with
  | .region r .k3 =>
    [(60, { valid := true, priority := 7, base := (regionBase r + 0x300000) / 4096, limit := (regionBase r + 0x3FF000) / 4096,
            tenantAny := true }), (62, all)]
  | _ => [(62, all)]

def allUnits : List KwUnit :=
  (List.finRange 4).flatMap (fun r => [.region r .k0, .region r .k1, .region r .k2, .region r .k3, .region r .bridge])
    ++ (List.finRange 9).map .central

def unitRegion : KwUnit → Option Nat
  | .region r _ => some r
  | .central _ => none

/-- A reset that covers a unit: rule 63 alone, and the page's registers at their reset values (R365). -/
def kwReset (us : List KwUnit) (d : Dev) : Dev := { d with kw := d.kw.filter (fun p => !us.contains p.1) }

/-- The Keeper firmware installs the working rules. -/
def kwInstall (us : List KwUnit) (d : Dev) : Dev := forAll us (fun u => onKw u (fun k => { k with rules := kwWorkRules u })) d

/-! ## Judging an access (R364) -/

def accCode : AccKind → Nat
  | .read => 0
  | .write => 1
  | .execute => 2

/-- The tag breaks R18. -/
def tagBad (acc : Access) : Bool := if acc.world == .T then acc.tenant % 64 == 0 else acc.tenant % 64 != 0

def kwMatches (acc : Access) (page : Nat) (r : KwRule) : Bool :=
  r.valid && decide (r.base ≤ page) && decide (page ≤ r.limit)
    && acc.master &&& r.midMask == r.midValue &&& r.midMask && (r.tenantAny || acc.tenant % 64 == r.tenant)

def kwRight (acc : Access) (kind : AccKind) (r : KwRule) : Bool :=
  r.rights.getLsbD (3 * (match acc.world with | .K => 0 | .C => 1 | .T => 2 | .D => 3) + (2 - accCode kind))

/-- The cause of a denial and the rule reported; none where the access is allowed. -/
def kwJudge (d : Dev) (u : KwUnit) (acc : Access) (a : Nat) (kind : AccKind) : Option (Nat × Nat) :=
  if tagBad acc then some (3, 0x7F)
  else if (kwUnitAt a).any (fun p => p.1 == u && !p.2) then some (0, 0x7F)
  else
    let k := kwOf d u
    let ms := (List.range 64).filter (fun n => kwMatches acc (a / 4096) (kwRuleOf u k.rules n))
    match ms with
    | [] => some (0, 0x7F)
    | _ =>
      let top := ms.foldl (fun p n => max p (kwRuleOf u k.rules n).priority) 0
      let tops := ms.filter (fun n => (kwRuleOf u k.rules n).priority == top)
      if tops.all (fun n => kwRight acc kind (kwRuleOf u k.rules n)) then none else some (1, tops.headD 0x7F)

/-- ERR_INFO0 of a keyway page, its valid bit aside (R385). -/
def kwInfo (acc : Access) (kind : AccKind) (size cause rule : Nat) : Nat :=
  cause * 2 ^ 29 + accCode kind * 2 ^ 27 + (size % 16) * 2 ^ 23 + rule * 2 ^ 16 + acc.master.toNat * 256
    + worldCode acc.world * 64 + acc.tenant % 64

/-- 32-bit increment that stops at the top. -/
def satInc32 (w : Word32) : Word32 := if w == 0xFFFFFFFF then w else w + 1

/-- A violation: captured, counted, and logged unless its cause is 2 (R367). -/
def kwViolation (u : KwUnit) (acc : Access) (a : Nat) (kind : AccKind) (size cause rule : Nat) (d : Dev) : Dev :=
  let i := kwInfo acc kind size cause rule
  d |> onKw u (fun k => { k with viol := satInc32 k.viol, denials := k.denials + 1 })
    |> errCapture (kwPage u) i 0 a
    |> doIf (cause != 2) (logEv 0x2401 (pageSource (kwPage u)) (2 ^ 31 + i) (a / 2 ^ 32 % 256) (a % 2 ^ 32))

/-- How an access fares on its way. -/
inductive Passage where
  | allowed
  | denied
  | stalled
  deriving DecidableEq, Repr

/-- What a unit has found of an access that stalled at it (R366). -/
def kwVerdict (d : Dev) (u : KwUnit) (x : Stalled) : Option Bool :=
  if x.again then ((kwOf d u).verdicts.find? (fun v => v.1 == x)).map (·.2) else none

/-- An access meets the units of its path one after another; a unit in UPDATE stalls it, and one that has judged it since
holds its verdict for it (R364, R366). -/
def kwPass (x : Stalled) : List KwUnit → Dev → Passage × Dev
  | [], d => (.allowed, d)
  | u :: us, d =>
    match kwVerdict d u x with
    | some ok =>
      let d1 := onKw u (fun k => { k with verdicts := k.verdicts.filter (fun v => v.1 != x) }) d
      if ok then kwPass x us d1 else (.denied, d1)
    | none =>
      if (kwOf d u).updating then
        (.stalled, if x.again && (kwOf d u).stalled.contains x then d else onKw u (fun k => { k with stalled := k.stalled ++ [x] }) d)
      else
        let d1 := onKw u (fun k => { k with checks := k.checks + 1 }) d
        match kwJudge d u x.acc x.addr x.kind with
        | some (c, r) => (.denied, kwViolation u x.acc x.addr x.kind x.size c r d1)
        | none => kwPass x us d1

/-- Accesses that nobody waits for any more. -/
def kwForget (p : Stalled → Bool) (d : Dev) : Dev :=
  { d with kw := d.kw.map (fun q => (q.1, { q.2 with
      stalled := q.2.stalled.filter (fun x => !p x), verdicts := q.2.verdicts.filter (fun v => !p v.1) })) }

/-- The fixed check of a keyway page (R362). -/
def kwPageCheck (acc : Access) (m a : Nat) (kind : AccKind) (d : Dev) : Passage × Dev :=
  if (acc.world == .K && kind != .execute) || (acc.world == .D && kind == .read && debugAdmitted d) then (.allowed, d)
  else (.denied, logRefused acc m a 3 d)

/-- A command's access that stalls is listed once at the unit that stalls it; its command is given again. -/
def stallAgain (x : Stalled) (d : Dev) : Dev :=
  match (kwPath x.acc x.addr).find? (fun u => (kwVerdict d u x).isNone && (kwOf d u).updating) with
  | none => d
  | some u => if (kwOf d u).stalled.contains x then d else onKw u (fun k => { k with stalled := k.stalled ++ [x] }) d

/-- An access to an internal address meets the keyways. One that stalls has met none of the units before: they meet it when
its command is given again. -/
def kwMeet (x : Stalled) (d : Dev) : Passage × Dev :=
  let pass := fun (_ : Unit) =>
    let r := kwPass x (kwPath x.acc x.addr) d
    if r.1 == .stalled && x.again then (.stalled, stallAgain x d) else r
  match pageAt x.addr with
  | some m => if isKwPage m then kwPageCheck x.acc m x.addr x.kind d else pass ()
  | none => pass ()

/-- A command's access. -/
def kwAccess (acc : Access) (a : Nat) (kind : AccKind) (size : Nat) : Dev → Passage × Dev :=
  kwMeet ⟨acc, a, kind, size, none, true, none⟩

/-- The transfers of an access: at most 256 bytes each, none across a 4 KiB boundary (R354). -/
def transfers : Nat → Nat → Nat → List (Nat × Nat)
  | 0, _, _ => []
  | f + 1, a, len =>
    if len = 0 then []
    else
      let n := min len (min 256 (4096 - a % 4096))
      (a, n) :: transfers f (a + n) (len - n)

/-- As many turns as an access can have transfers. -/
def splitAt (a len : Nat) : List (Nat × Nat) := transfers (len / 256 + len / 4096 + 3) a len

/-- The transfers of a command's access meet the keyways one after another, to the first that does not pass. Where one stalls,
none has met them: they do when the command goes on. `d0` is the state before the first. -/
def kwTransfers (mk : Nat → Nat → Stalled) (d0 : Dev) : List (Nat × Nat) → Dev → Passage × Dev
  | [], d => (.allowed, d)
  | p :: ps, d =>
    let x := mk p.1 (Nat.log2 p.2)
    match kwMeet x d with
    | (.allowed, d1) => kwTransfers mk d0 ps d1
    | (.denied, d1) => (.denied, d1)
    | (.stalled, _) => (.stalled, stallAgain x d0)

/-- A register access of 32 bits that the keyways let pass goes on with `act`. -/
def regPass (acc : Access) (a : Nat) (kind : AccKind) (act : Dev → Dev) (d : Dev) : Dev :=
  let r := kwAccess acc a kind 2 d
  match r.1 with
  | .allowed => act r.2
  | _ => r.2

/-- A register access to a page: a host access to a function's own page reaches it within the host interface. -/
def pagePass (acc : Access) (m off : Nat) (kind : AccKind) (act : Dev → Dev) : Dev → Dev :=
  if acc.master == 0x50 && fnPage m == some acc.fn then act else regPass acc (pageBase m + off) kind act

/-- A write of an action register that a chapter gives to some worlds: refused with kind 3 for any other. -/
def regAction (acc : Access) (m off : Nat) (worlds : List World) (act : Dev → Dev) : Dev → Dev :=
  pagePass acc m off .write (fun d =>
    if worlds.contains acc.world && (acc.world != .D || debugAdmitted d) then act d
    else logRefused acc m (pageBase m + off) 3 d)

def execKeywayCheck (acc : Access) (addr : Addr) (kind : AccKind) (log2size : Nat) (s : State) : Ans :=
  if 2 ^ 40 ≤ addr then .fault .addressBeyondMap
  else nextD (fun d => (kwMeet ⟨acc, addr, kind, log2size, none, false, none⟩ d).2) s

/-! ## Captured errors and interrupt causes: who writes them (R531) -/

/-- IRQ_RAW, IRQ_MASK, IRQ_FORCE and the valid bit of ERR_INFO0: world K, and on a function page its own world. -/
def irqWriter (acc : Access) (m : Nat) : Bool :=
  acc.world == .K ||
    (match fnPage m with
     | some 0 => acc.world == .C
     | some v => acc.world == .T && acc.tenant == v
     | none => false)

def errInfoClear (m : Nat) : Dev → Dev := onPage m (fun p => { p with err0 := p.err0 &&& 0x7FFFFFFF })

def execErrInfoClear (acc : Access) (page : PageNo) (s : State) : Ans :=
  nextD (pagePass acc page 0x1C .write (fun d => if irqWriter acc page then errInfoClear page d
    else logRefused acc page (pageBase page + 0x1C) 3 d)) s


/-! ## Spine links (R357) -/

/-- The class of each kind of traffic (R353). -/
def qosOf : Traffic → QosClass
  | .tamper | .clockPower | .recorder | .registerPage => .ctrl
  | .haspEntry | .msix | .txnData | .coreAccess | .keyStore => .rt
  | .vaultData | .barrelData | .digestFragment | .hingeDma | .hostData => .bulk
  | .nvmScrub | .wearMove | .rebuild | .telemetry | .katData => .bg

def qosRank : QosClass → Nat
  | .ctrl => 1
  | .rt => 2
  | .bulk => 3
  | .bg => 4


/-- The transfers that wait at a spine port, oldest first, as many as 64: true for Q-BULK, false for Q-BG. Which wait there
no command tells: they are free (log entry 356). -/
def portWaiting (b : Bytes) : List Bool := ((b.drop 1).take (1 + (b.getD 0 0).toNat % 64)).map (fun x => x.toNat % 2 == 0)

/-- SPINE_BULK_BURST: the port grants one burst of at most 48 of them, whole and oldest first, and counts them by class. A
Q-RT transfer behind it waits for one transfer in progress and the burst, at most 392 ns (R356). -/
def bulkBurst (_st : Station) (d : Dev) : Dev :=
  let f := takeFree 67 d
  let burst := (portWaiting (f.1.take 65)).take 48
  let wait := leNat (f.1.drop 65) % 393
  onSpn (fun x => { x with
    xferBulk := x.xferBulk + BitVec.ofNat 64 (count burst id), xferBg := x.xferBg + BitVec.ofNat 64 (count burst not)
    maxWait := max x.maxWait wait }) f.2

def execSpineBulkBurst (st : Station) (s : State) : Ans := nextD (bulkBurst st) s

/-- Of two crossing requests the lower-numbered region's is refused, counted, and retried (R361). -/
def execXregionRetry (fromR : Region) (toR : Region) (s : State) : Ans :=
  nextD (doIf (decide (fromR.val < toR.val)) (onSpn (fun x => { x with xrefusals := x.xrefusals + 1 }))) s

end Sys2Proof.Machine
end

