-- ==== Sys2Proof/Machine/Programs.lean ====
section
/-! DEFINITION. The public-key programs of the shipped microcode image (R146): their catalogue entries (R145), the
operand and result lengths (R149), the checks of their public input (R158) and their results, which the standards that they name
give. -/

namespace Sys2Proof.Machine

/-! ## The catalogue (R145, R146) -/

structure ProgEntry where
  id : Nat
  name : Bytes
  flags : Nat
  bits : Nat
  items : Nat
  typNs : Nat
  maxNs : Nat
  keyUse : Nat
  nIn : Nat
  nOut : Nat
  deriving DecidableEq, Repr

/-- A family of programs: name, first ID, flags, key use, operands, results, and for each variant its suffix, b, m,
typical and maximum time in µs. -/
def progFamily (pre post : String) (base flags use nIn nOut : Nat) (vs : List (String × Nat × Nat × Nat × Nat)) : List ProgEntry :=
  vs.mapIdx (fun i v => {
    id := base + i, name := ascii pre ++ ascii v.1 ++ ascii post, flags, bits := v.2.1, items := v.2.2.1
    typNs := 1000 * v.2.2.2.1, maxNs := 1000 * v.2.2.2.2, keyUse := use, nIn, nOut })

def progsRsaEc : List ProgEntry :=
  progFamily "PRG_RSA_CRT_" "" 0x0101 0x0C 10 1 1 [("2048", 2048, 12, 105, 110), ("3072", 3072, 12, 350, 370), ("4096", 4096, 12, 850, 900)]
  ++ progFamily "PRG_RSA_CRT_" "" 0x0104 0x05 10 1 1 [("8192", 8192, 12, 6500, 6900)]
  ++ progFamily "PRG_RSA_PUB_" "" 0x0111 0x10 255 3 1
      [("2048", 2048, 4, 6, 8), ("3072", 3072, 4, 12, 15), ("4096", 4096, 4, 20, 26), ("8192", 8192, 4, 75, 90)]
  ++ progFamily "PRG_RSA_KEYGEN_" "" 0x0121 0x41 255 0 1
      [("2048", 2048, 16, 25000, 400000), ("3072", 3072, 16, 80000, 1200000), ("4096", 4096, 16, 180000, 3000000),
       ("8192", 8192, 16, 2500000, 40000000)]
  ++ progFamily "PRG_ECDSA_SIGN_" "" 0x0201 0x0C 10 1 1 [("P256", 256, 24, 30, 33), ("P384", 384, 24, 75, 82), ("P521", 521, 24, 160, 175)]
  ++ progFamily "PRG_ECDSA_VER_" "" 0x0211 0x10 255 3 0 [("P256", 256, 20, 42, 46), ("P384", 384, 20, 100, 110), ("P521", 521, 20, 215, 235)]
  ++ progFamily "PRG_ECDH_" "" 0x0221 0x34 11 1 0 [("P256", 256, 20, 28, 31), ("P384", 384, 20, 70, 77), ("P521", 521, 20, 150, 165)]
  ++ progFamily "PRG_EC_KEYGEN_" "" 0x0231 0x40 255 0 1 [("P256", 256, 16, 25, 28), ("P384", 384, 16, 62, 68), ("P521", 521, 16, 135, 148)]

def progsEdLattice : List ProgEntry :=
  progFamily "PRG_EDDSA_SIGN_" "" 0x0241 0x0C 10 1 1 [("ED25519", 256, 24, 26, 30), ("ED448", 448, 24, 72, 80)]
  ++ progFamily "PRG_EDDSA_VER_" "" 0x0251 0x10 255 3 0 [("ED25519", 256, 20, 38, 42), ("ED448", 448, 20, 105, 115)]
  ++ progFamily "PRG_ED_KEYGEN_" "" 0x0261 0x40 255 0 1 [("ED25519", 256, 16, 20, 23), ("ED448", 448, 16, 55, 61)]
  ++ progFamily "PRG_X25519" "" 0x0271 0x34 11 1 0 [("", 256, 12, 22, 25)]
  ++ progFamily "PRG_X25519_KEYGEN" "" 0x0272 0x40 255 0 1 [("", 256, 12, 20, 23)]
  ++ progFamily "PRG_MLKEM" "_KEYGEN" 0x0301 0x40 255 0 1 [("512", 4096, 18, 18, 20), ("768", 4096, 24, 28, 31), ("1024", 4096, 30, 40, 44)]
  ++ progFamily "PRG_MLKEM" "_ENCAP" 0x0311 0x30 255 1 1 [("512", 4096, 18, 20, 22), ("768", 4096, 24, 30, 33), ("1024", 4096, 30, 44, 48)]
  ++ progFamily "PRG_MLKEM" "_DECAP" 0x0321 0x34 11 1 0 [("512", 4096, 18, 25, 28), ("768", 4096, 24, 38, 42), ("1024", 4096, 30, 55, 60)]
  ++ progFamily "PRG_MLDSA" "_KEYGEN" 0x0331 0x40 255 0 1 [("44", 8192, 30, 45, 50), ("65", 8192, 40, 70, 77), ("87", 8192, 52, 100, 110)]
  ++ progFamily "PRG_MLDSA" "_SIGN" 0x0341 0x0E 10 1 1 [("44", 8192, 30, 170, 1000), ("65", 8192, 40, 255, 1000), ("87", 8192, 52, 330, 1000)]
  ++ progFamily "PRG_MLDSA" "_VER" 0x0351 0x10 255 3 0 [("44", 8192, 26, 55, 60), ("65", 8192, 32, 85, 93), ("87", 8192, 44, 125, 137)]

/-- A time that does not fit its field saturates. -/
def sat32 (n : Nat) : Nat := min n (2 ^ 32 - 1)

def progBytes (p : ProgEntry) : Bytes :=
  fit p.name 32 ++ natLE p.id 2 ++ natLE p.flags 2 ++ natLE p.bits 2 ++ natLE p.items 2 ++ natLE (sat32 p.typNs) 4
    ++ natLE (sat32 p.maxNs) 4 ++ [byte p.keyUse, byte p.nIn, byte p.nOut] ++ zeros 13

/-- The image shipped at LC_PROVISION, version 1.0.0. -/
def shippedUcode : ImageRec := ⟨0x01000000, 1, false, (progsRsaEc ++ progsEdLattice).flatMap progBytes, []⟩

/-- The entry of a program in a catalogue. -/
def progIn (cat : Bytes) (id : Nat) : Option ProgEntry :=
  ((chunks 64 cat).find? (fun e => fieldLE e 32 2 == id)).map (fun e => {
    id, name := e.take 32, flags := fieldLE e 34 2, bits := fieldLE e 36 2, items := fieldLE e 38 2, typNs := fieldLE e 40 4
    maxNs := fieldLE e 44 4, keyUse := fieldLE e 48 1, nIn := fieldLE e 49 1, nOut := fieldLE e 50 1 })

def pLong (p : ProgEntry) : Bool := p.flags.testBit 0
def pYields (p : ProgEntry) : Bool := p.flags.testBit 1
def pPrivate (p : ProgEntry) : Bool := p.flags.testBit 2
def pSelfVerify (p : ProgEntry) : Bool := p.flags.testBit 3
def pSecretOut (p : ProgEntry) : Bool := p.flags.testBit 5
def pKeygen (p : ProgEntry) : Bool := p.flags.testBit 6

/-! ## Families, algorithms, lengths -/

def fam (id : Nat) : Nat := id / 16
def var (id : Nat) : Nat := id % 16 - 1
def rsaBits (v : Nat) : Nat := if v = 0 then 2048 else if v = 1 then 3072 else if v = 2 then 4096 else 8192
def rsaBytes (id : Nat) : Nat := rsaBits (var id) / 8
def ecLen (id : Nat) : Nat := (curveOf (var id)).len
def edKeyLen (id : Nat) : Nat := if var id = 0 then 32 else 57
def kemEk (v : Nat) : Nat := if v = 0 then 800 else if v = 1 then 1184 else 1568
def kemCt (v : Nat) : Nat := if v = 0 then 768 else if v = 1 then 1088 else 1568
def dsaPk (v : Nat) : Nat := if v = 0 then 1312 else if v = 1 then 1952 else 2592
def dsaSig (v : Nat) : Nat := if v = 0 then 2420 else if v = 1 then 3309 else 4627
def isRsaCrt (id : Nat) : Bool := fam id == 0x10

/-- The key algorithm that a program with a key use takes (R146). -/
def progAlg (id : Nat) : Option Nat :=
  let f := fam id
  if f = 0x10 then some (0x20 + var id)
  else if f = 0x20 ∨ f = 0x22 then some (0x30 + var id)
  else if f = 0x24 then some (0x34 + var id)
  else if f = 0x27 then some 0x36
  else if f = 0x32 then some (0x50 + var id)
  else if f = 0x34 then some (0x54 + var id)
  else none

/-- The keygen program of an algorithm (R88). -/
def keygenProg (alg : Nat) : Nat :=
  if alg < 0x30 then 0x0121 + (alg - 0x20)
  else if alg < 0x34 then 0x0231 + (alg - 0x30)
  else if alg < 0x36 then 0x0261 + (alg - 0x34)
  else if alg = 0x36 then 0x0272
  else if alg < 0x54 then 0x0301 + (alg - 0x50)
  else 0x0331 + (alg - 0x54)

/-- The operand lengths for an input of `n` bytes, none where `n` does not suit (R149). -/
def operandLens (id n : Nat) : Option (List Nat) :=
  let f := fam id
  let exact := fun (l : List Nat) => if l.sum = n then some l else none
  if f = 0x10 then exact [rsaBytes id]
  else if f = 0x11 then exact [rsaBytes id, 4, rsaBytes id]
  else if f = 0x20 then (if 1 ≤ n ∧ n ≤ 64 then some [n] else none)
  else if f = 0x21 then
    let q := 1 + 2 * ecLen id
    let s := 2 * ecLen id
    if q + s < n ∧ n ≤ q + s + 64 then some [q, n - q - s, s] else none
  else if f = 0x22 then exact [1 + 2 * ecLen id]
  else if f = 0x24 then (if n ≤ 1024 then some [n] else none)
  else if f = 0x25 then
    let k := edKeyLen id
    if 3 * k ≤ n ∧ n ≤ 3 * k + 1024 then some [k, 2 * k, n - 3 * k] else none
  else if id = 0x0271 then exact [32]
  else if f = 0x31 then exact [kemEk (var id)]
  else if f = 0x32 then exact [kemCt (var id)]
  else if f = 0x34 then exact [64]
  else if f = 0x35 then exact [dsaPk (var id), 64, dsaSig (var id)]
  else some [n]

/-- The detail of a length mismatch: ML-KEM inputs have their own (R158). -/
def lengthDetail (id : Nat) : Nat := if fam id = 0x31 ∨ fam id = 0x32 then 0x0406 else 0x0404

/-- The lengths of the public results of a program that is not keygen. -/
def resultLens (id : Nat) : List Nat :=
  let f := fam id
  if f = 0x10 ∨ f = 0x11 then [rsaBytes id]
  else if f = 0x20 then [2 * ecLen id]
  else if f = 0x24 then [2 * edKeyLen id]
  else if f = 0x31 then [kemCt (var id)]
  else if f = 0x34 then [dsaSig (var id)]
  else []

/-- The public key's length after a keygen (R149). -/
def keygenPubLen (alg : Nat) : Nat :=
  if alg < 0x30 then rsaBits (alg - 0x20) / 8
  else if alg < 0x34 then 1 + 2 * (curveOf (alg - 0x30)).len
  else if alg = 0x35 then 57
  else if alg ≤ 0x36 then 32
  else if alg < 0x54 then kemEk (alg - 0x50)
  else dsaPk (alg - 0x54)

def secretLen (id : Nat) : Nat := if fam id = 0x22 then ecLen id else 32

/-- Cuts a byte string at the lengths given. -/
def cutAt : List Nat → Bytes → List Bytes
  | [], _ => []
  | n :: ns, b => b.take n :: cutAt ns (b.drop n)

/-! ## Results -/

/-- What a run gives: a status with its detail, or the public results and the secret one. -/
inductive ProgOut where
  | err (st : BitVec 16) (detail : Nat)
  | ok (pub : List Bytes) (secret : Option Bytes)
  deriving DecidableEq, Repr

/-- Coefficients of 12 bits, two to three bytes, all below 3,329 (FIPS 203). -/
def kemCoefsOk : Bytes → Bool
  | a :: b :: c :: l => a.toNat + b.toNat % 16 * 256 < 3329 && b.toNat / 16 + c.toNat * 16 < 3329 && kemCoefsOk l
  | _ => true

/-- The checks of RSA inputs and parameters (R158). -/
def rsaOk (bits x n e : Nat) : Bool :=
  decide (x < n) && n % 2 == 1 && Nat.log2 n + 1 == bits && e % 2 == 1 && decide (3 ≤ e) && decide (e < n)

/-- A direct or workspace run over sound operands (R146, R158): program, mode, key material, operands, random bytes. -/
def progOut (p : ProgEntry) (mode : Nat) (key : Bytes) (ops : List Bytes) (rnd : Bytes) : ProgOut :=
  let id := p.id
  let f := fam id
  let op := fun (i : Nat) => ops.getD i []
  if f = 0x10 then
    let k := rsaParse (rsaBits (var id)) key
    if !rsaOk (rsaBits (var id)) (beNat (op 0)) (rsaN k) k.e then .err stParam 0x0405
    else match rsaMode mode (rsaBytes id) k (beNat (op 0)) rnd with
      | .ok y => .ok [natBE y (rsaBytes id)] none
      | .badForm => .err stParam 0x0404
      | .badDecode => .err stVerify 0
  else if f = 0x11 then
    let n := beNat (op 0)
    let e := beNat (op 1)
    let x := beNat (op 2)
    if rsaOk (rsaBits (var id)) x n e then
      .ok [natBE (powMod x e n) (rsaBytes id)] none
    else .err stParam 0x0405
  else if f = 0x20 then
    let c := curveOf (var id)
    .ok [ecdsaSign c (beNat key) (ecScalar c rnd) (op 0)] none
  else if f = 0x21 then
    let c := curveOf (var id)
    match ecDecode c (op 0) with
    | none => .err stPoint 0
    | some q => if ecdsaVerify c q (op 1) (op 2) then .ok [] none else .err stVerify 0
  else if f = 0x22 then
    let c := curveOf (var id)
    match ecDecode c (op 0) with
    | none => .err stPoint 0
    | some q => .ok [] (some (ecdh c (beNat key) q))
  else if f = 0x24 then .ok [edSign (edwardsOf (var id)) key (op 0)] none
  else if f = 0x25 then
    let c := edwardsOf (var id)
    match edPublic c (op 0) with
    | none => .err stPoint 0
    | some q => if edVerify c (op 0) q (op 2) (op 1) then .ok [] none else .err stVerify 0
  else if id = 0x0271 then
    let z := x25519 key (op 0)
    if z.all (· = 0) then .err stPoint 0 else .ok [] (some z)
  else if f = 0x31 then
    if kemCoefsOk ((op 0).take (kemEk (var id) - 32)) then
      let x := kemEncaps (var id) (op 0) (rnd.take 32)
      .ok [x.1] (some x.2)
    else .err stParam 0x0406
  else if f = 0x32 then .ok [] (some (kemDecaps (var id) key (op 0)))
  else if f = 0x34 then
    -- DESIGN CHOICE (log entry 149): the hedged variant, as every run draws its randomness (R161)
    .ok [(dsaSign (var id) key (op 0) (rnd.take 32)).getD (fit (Config.mldsaSpent id (op 0)) (dsaSig (var id)))] none
  else if dsaVerify (var id) (op 0) (op 1) (op 2) then .ok [] none else .err stVerify 0

/-- A keygen run: the private material in its held form and the public key, none where the prime search is exhausted
(R82, R88, R173). -/
def keygenOut (alg e : Nat) (rnd : Bytes) : Option (Bytes × Bytes) :=
  if isRsa alg then
    let bits := rsaBits (alg - 0x20)
    (Config.rsaPrimes bits e rnd).map (fun pq =>
      let mat := rsaMaterial bits e pq
      (mat, natBE (rsaN (rsaParse bits mat)) (keygenPubLen alg)))
  else
    let mat := if isEcP alg then let c := curveOf (alg - 0x30); natBE (ecScalar c rnd) c.len else fit rnd ((algLen alg).getD 32)
    some (mat, fit (publicKey alg mat) (keygenPubLen alg))

end Sys2Proof.Machine
end

