-- ==== Sys2Proof/Machine/Keys.lean ====
section
/-! DEFINITION. The KEY commands that no engine runs (R88 to R94), the quotas, and the write of spill records. -/

namespace Sys2Proof.Machine

/-- A use by the key store's wrapping unit (d_wrap). -/
def wrapUse (c : Cmd) (u : Nat) : Use := useOf c .wrap (some u) isSym

/-- The lifetime rules of creating commands: 0 to 2, and no persistent key for a core's command (R88). DESIGN CHOICE (log entry
88): a lifetime above 2 is refused with detail 0x0003. -/
def needLife (c : Cmd) : Run Unit := do
  need (par c 65 1 ≤ 2) stParam 0x0003
  need (par c 65 1 != 2 || isHost c) stParam 0x0003

/-- The attributes of a creating command that its parameters give. DESIGN CHOICE (log entry 88): an export value of 3 is refused
with detail 0x0002. -/
def needAttrs (c : Cmd) (alg : Nat) : Run Unit := do
  need (algKnown alg) stParam 0x0002
  need (usageOk alg c.owner.world (BitVec.ofNat 16 (par c 68 2))) stParam 0x0002
  need (par c 66 1 ≤ 2) stParam 0x0002

/-- The destinations mask has no reserved bit (R84). -/
def needDest (c : Cmd) : Run Unit := need (par c 70 2 < 32) stParam 0

/-- Bits 7:1 of the flags byte are zero (R6). -/
def needFlags (c : Cmd) : Run Unit := need (par c 67 1 < 2) stParam 0

def paramKey (c : Cmd) (alg : Nat) (usage : BitVec 16) (exp_ : Nat) (imported : Bool) (mat : Bytes) : NewKey := {
  owner := c.owner, hint := par c 72 1, alg, life := par c 65 1, usage, export_ := exp_, pinned := par c 67 1 == 1
  ancImported := imported, ancGenerated := !imported, dest := BitVec.ofNat 16 (par c 70 2), session := c.session, mat }

/-- Makes the key and answers its record. -/
def makeOut (n : NewKey) (after : Bytes) : Run Res := do
  let r ← step' (makeKey n)
  let d ← get
  pure (resOut (keyRecord d r ++ after))

/-- The length of a generated key; the command carries none for a secret, which takes an open length within the range
of R82 (log entry 13). -/
def genLen (alg : Nat) : Nat :=
  (algLen alg).getD (16 + Config.implValue 88 alg % (if isHmac alg then 113 else 49))

/-- The parameter checks of KEY_GENERATE (R88). -/
def needGenerate (c : Cmd) : Run Unit := do
  need (zeroPar c 73 76 && zeroPar c 80 128) stParam 0
  needFlags c
  needDest c
  need (c.ha == 0 && c.hb == 0) stParam 0
  let alg := par c 64 1
  needLife c
  needAttrs c alg
  let e := par c 76 4
  need (if isRsa alg then e == 0 || (e % 2 == 1 && decide (65537 ≤ e)) else e == 0) stParam 0

/-- KEY_GENERATE of a symmetric key or a secret (R88, R208). -/
def bodyGenerateSym (c : Cmd) : Run Res := do
  let alg := par c 64 1
  need (32 ≤ c.outCap) stParam 0
  needKeyRoom c.owner (par c 65 1) (genLen alg) (par c 67 1 == 1)
  let m ← needDraw (ksDraw (genLen alg))
  makeOut (paramKey c alg (BitVec.ofNat 16 (par c 68 2)) (par c 66 1) false (if isTdes alg then oddParity m else m)) []

/-- EV_2312 (R101). -/
def importFail {α : Type} (c : Cmd) (format : Nat) : Run α :=
  failLog stParam 5 (logEv 0x2312 0x80 (cmdFn c) (hIndex (hA c)) format)

/-- KEY_IMPORT_X9143 (R90). DESIGN CHOICE (log entry 90): a malformed header or a version that is not taken is refused with detail
4. -/
def bodyImportX (c : Cmd) (hr : HostRead) : Run Res := do
  need (par c 64 1 == 0 && par c 66 1 == 0 && zeroPar c 68 70 && zeroPar c 73 128) stParam 0
  needFlags c
  needDest c
  need (c.hb == 0) stParam 0
  needLife c
  need (32 ≤ c.outCap) stParam 0
  let k ← fetch (wrapUse c uKekUnwrap) (hA c)
  let b := inData c hr
  match kbParse b with
  | none => fail stParam 4
  | some h =>
    let isD := h.version == chr 'D'
    need (isD || h.version == chr 'B') stParam 4
    if !(if isD then isAes k.alg else isTdes k.alg) then keyAttrFail (wrapUse c uKekUnwrap) (hA c) 4
    match kbUnwrap k.mat h b with
    | none => importFail c (if isD then 0 else 1)
    | some key =>
      match kbUsage h.usage h.mode, kbExport h.exp_, kbAlgCode h.alg key.length with
      | some u, some x, some a =>
        need (usageOk a c.owner.world u) stParam 4
        needKeyRoom c.owner (par c 65 1) key.length (par c 67 1 == 1)
        eff (onKs (fun s => { s with unwraps := s.unwraps + 1 }))
        makeOut (paramKey c a u x true key) []
      | _, _, _ => fail stParam 4

def execKeyImportX9143 (cid : Nat) (hr : HostRead) (s : State) : Ans := hasp 0x0202 cid hr bodyImportX s

/-- KEY_IMPORT_38F (R90): format 2 KW, 3 KWP. An import never sets CEREMONY or VAULT. DESIGN CHOICE (log entry 90): a usage that asks
for one of them, and an unwrapped length that does not suit the algorithm, are refused with detail 0x0002. -/
def bodyImportK (c : Cmd) (hr : HostRead) : Run Res := do
  need (zeroPar c 74 128) stParam 0
  needFlags c
  needDest c
  need (c.hb == 0) stParam 0
  let alg := par c 64 1
  let fmt := par c 73 1
  needLife c
  needAttrs c alg
  need (par c 68 2 &&& 0x6000 == 0) stParam 0x0002
  need (fmt == 2 || fmt == 3) stParam 0
  need (32 ≤ c.outCap) stParam 0
  let k ← fetch { wrapUse c uKekUnwrap with algOk := fun a _ => isAes a } (hA c)
  let b := inData c hr
  match (if fmt = 2 then kwUnwrap k.mat b else kwpUnwrap k.mat b) with
  | none => importFail c fmt
  | some m =>
    need (algLenOk alg m.length) stParam 2
    needKeyRoom c.owner (par c 65 1) m.length (par c 67 1 == 1)
    eff (onKs (fun s => { s with unwraps := s.unwraps + 1 }))
    makeOut (paramKey c alg (BitVec.ofNat 16 (par c 68 2)) (par c 66 1) true m) []

def execKeyImport38f (cid : Nat) (hr : HostRead) (s : State) : Ans := hasp 0x0203 cid hr bodyImportK s

/-- KEY_EXPORT (R90): format 0 version D, 1 version B, 2 KW, 3 KWP. -/
def bodyExport (c : Cmd) (_ : HostRead) : Run Res := do
  need (zeroPar c 64 73 && zeroPar c 74 128) stParam 0
  let fmt := par c 73 1
  need (fmt ≤ 3) stParam 0
  let k ← fetch { kind := .wrap, owner := c.owner, session := c.session, fn := cmdFn c, usage := none, algOk := fun _ _ => true } (hA c)
  let kek ← fetch { wrapUse c uKekWrap with
    algOk := fun a _ => if fmt = 1 then isTdes a else isAes a } (hB c)
  if k.export_ = 0 ∨ (2 ≤ fmt ∧ k.export_ = 1) then failLog stKeyAttr 5 (log2310 (cmdFn c) (hA c) 5)
  if algStrength kek.alg kek.lenBytes < algStrength k.alg k.lenBytes then failLog stKeyAttr 7 (log2310 (cmdFn c) (hA c) 7)
  let give := fun (b : Bytes) => do
    need (b.length ≤ c.outCap) stParam 0
    eff (onKs (fun s => { s with wraps := s.wraps + 1 }))
    pure (resOut b)
  if fmt = 2 then
    if k.lenBytes % 8 != 0 || decide (k.lenBytes < 16) then failLog stKeyAttr 4 (log2310 (cmdFn c) (hA c) 4)
    give (kwWrap kek.mat k.mat)
  else if fmt = 3 then give (kwpWrap kek.mat k.mat)
  else
    match kbUsageOf k.alg k.usage, kbAlgByte k.alg with
    | some (u, m), some a =>
      let h : KbHeader := {
        version := chr (if fmt = 0 then 'D' else 'B'), usage := u, alg := a, mode := m, keyVer := ascii "00"
        exp_ := chr (if k.export_ = 1 then 'E' else 'S'), nOpt := ascii "00", rsv := ascii "00", opts := [] }
      need (kbLen h k.lenBytes ≤ c.outCap) stParam 0
      let pad ← needDraw (ksDraw (kbPadLen h.version k.lenBytes))
      give (kbWrap kek.mat h k.mat pad)
    | _, _ => fail stParam 4

def execKeyExport (cid : Nat) (hr : HostRead) (s : State) : Ans := hasp 0x0204 cid hr bodyExport s

/-- Step 1 of R86 alone, for the commands that work on the directory. -/
def needKey (c : Cmd) : Run Key := do
  match keyLookup (← get) c.owner c.session (hA c) with
  | none => failLog stKeyAttr 1 (log2310 (cmdFn c) (hA c) 1)
  | some k => pure k

/-- The spill block of a directory entry (R95). -/
def spillBlock (entry : Nat) : Nat := 0x3F000000000 + entry

/-- The vault's request concerns the block: it asks for a node of its path, rekeys its group or reads it. -/
def reqTouches (b : Nat) (r : VReq) : Bool :=
  if r.kind = 1 then r.nodes.any (fun p => p.2 == b / 64 ^ p.1) else if r.kind = 3 then r.index == b / 64
  else r.kind == 4 && r.index == b

/-- A key's spill write or refill is in progress in the vault (R98). -/
def spillOpen (d : Dev) (k : Key) : Bool :=
  k.spilled && (!k.inBuffer || (d.ks.spillBuf.head?.map (·.1)) == some k.entry) && d.vlt.reqs.any (reqTouches (spillBlock k.entry))

/-- A started command still works with a key derived from this one (R119, R130). -/
def dukptOpen (d : Dev) (k : Key) : Bool :=
  d.hif.cmds.any (fun c => isRunning c && c.ready.isSome && c.owner == k.owner && (c.code == 0x0310 || c.code == 0x0311 || c.code == 0x0312)
    && hIndex (hA c) == k.index && hGen (hA c) == k.gen)

/-- KEY_DELETE (R94, R97). Commands that wait on the key's refill fail at step 1 of R86; the deletion waits for its spill
write or refill and for a started DUKPT command (R98, R119). -/
def bodyDelete (c : Cmd) (_ : HostRead) : Run Res := do
  need (zeroPar c 64 128 && c.hb == 0) stParam 0
  let k ← needKey c
  need (k.life != 2 || !keepOnly (← get)) stDegraded 0
  let d ← get
  if spillOpen d k || dukptOpen d k then
    eff (endWaiting k.entry (resErr stKeyAttr 1))
    throw (.wait [waitKeyEnd])
  eff (deleteKey k)
  eff (endWaiting k.entry (resErr stKeyAttr 1))
  eff asksRun
  eff (wake waitP63)
  pure resOk

def execKeyDelete (cid : Nat) (hr : HostRead) (s : State) : Ans := hasp 0x0205 cid hr bodyDelete s

/-- KEY_INFO (R89). -/
def bodyInfo (c : Cmd) (_ : HostRead) : Run Res := do
  need (zeroPar c 64 128 && c.hb == 0) stParam 0
  need (32 ≤ c.outCap) stParam 0
  let k ← needKey c
  pure (resOut (keyRecord (← get) k))

def execKeyInfo (cid : Nat) (hr : HostRead) (s : State) : Ans := hasp 0x0206 cid hr bodyInfo s

/-- KEY_RESTRICT (R91). -/
def bodyRestrict (c : Cmd) (_ : HostRead) : Run Res := do
  need (zeroPar c 64 66 && zeroPar c 72 128 && c.hb == 0) stParam 0
  needFlags c
  needDest c
  let usage := BitVec.ofNat 16 (par c 68 2)
  let dest := BitVec.ofNat 16 (par c 70 2)
  let x := par c 66 1
  let pin := par c 67 1 == 1
  let k ← needKey c
  if k.lost then fail stLost 0
  need (subMask usage k.usage && subMask dest k.dest && decide (x ≤ k.export_)) stKeyAttr 6
  let d ← get
  need (k.pinned || !pin || decide (slotsPinned d + keySpan k ≤ 49152)) stQuota 0x0011
  need (k.life != 2 || !keepOnly d) stDegraded 0
  eff (onKey k.entry (fun k => { k with usage := usage, dest := dest, export_ := x, pinned := pin }))
  if k.life = 2 then eff (recWrite (keyRecId k) 1)
  pure resOk

def execKeyRestrict (cid : Nat) (hr : HostRead) (s : State) : Ans := hasp 0x0207 cid hr bodyRestrict s

/-- KEY_PERSIST: a persistent copy under a new handle (R93). -/
def bodyPersist (c : Cmd) (_ : HostRead) : Run Res := do
  need (zeroPar c 64 70 && zeroPar c 73 128 && c.hb == 0) stParam 0
  needDest c
  need (isHost c) stParam 3
  need (32 ≤ c.outCap) stParam 0
  let k ← needKey c
  if k.lost then fail stLost 0
  let k ← needResident k
  needKeyRoom c.owner 2 k.lenBytes k.pinned
  makeOut {
    owner := c.owner, hint := par c 72 1, alg := k.alg, life := 2, usage := k.usage, export_ := k.export_, pinned := k.pinned
    depth := k.depth, derived := k.derived, ancCeremony := k.ancCeremony, ancImported := k.ancImported
    ancGenerated := k.ancGenerated, dest := BitVec.ofNat 16 (par c 70 2), session := c.session, mat := k.mat } []

def execKeyPersist (cid : Nat) (hr : HostRead) (s : State) : Ans := hasp 0x0208 cid hr bodyPersist s

/-- KEY_QUOTA_SET (R94). DESIGN CHOICE (log entry 603): the function stands in byte 70. -/
def bodyKeyQuota (c : Cmd) (_ : HostRead) : Run Res := do
  let f := par c 70 1
  let n := par c 64 4
  let p := par c 68 2
  need (zeroPar c 71 128) stParam 0
  need (f ≤ 63 && n ≤ 65536 && p ≤ 4096) stParam 0
  need (!keepOnly (← get)) stDegraded 0
  eff (onKs (fun s => { s with dirQuota := tput s.dirQuota f n, persQuota := tput s.persQuota f p }))
  eff (recWrite (settingRec 4) 1)
  pure resOk

def execKeyQuotaSet (cid : Nat) (hr : HostRead) (s : State) : Ans := hasp 0x0130 cid hr bodyKeyQuota s

end Sys2Proof.Machine
end

