-- ==== Sys2Proof/Machine/Barrel.lean ====
section
/-! DEFINITION. The barrel array (06): engines, roles and slots, the queues with their dispatch, the runs and their
ends, workspaces, aborts, removal, handover, known-answer tests and the microcode roll, with the PKC commands. -/

namespace Sys2Proof.Machine

/-! ## Slots (R140) -/

def lenBits (code : Nat) : Nat := 256 * 2 ^ code
def slotCount (code : Nat) : Nat := min 1024 (8192 / (lenBits code / 64 + 2))
def wsArea (code : Nat) : Nat := slotCount code / 8
def directArea (code : Nat) : Nat := slotCount code - wsArea code
/-- Slots of an item of `bits` (R141). -/
def runSlots (bits code : Nat) : Nat := (bits + lenBits code - 1) / lenBits code

/-! ## Engines and roles (R137, R166) -/

def imageOf (d : Dev) (b : Bool) : Option ImageRec := if b then d.brl.ucodeB else d.brl.ucodeA
def engCat (d : Dev) (e : Nat) : Bytes := ((imageOf d (engOf d e).image).map (·.cat)).getD []
def curCat (d : Dev) : Bytes := ((imageOf d d.brl.selectB).map (·.cat)).getD []
/-- A program that some image of the roll or the current image holds. -/
def progFind (d : Dev) (id : Nat) : Option ProgEntry :=
  match progIn (curCat d) id with
  | some p => some p
  | none => (List.range 18).findSome? (fun e => if (engOf d e).out then none else progIn (engCat d e) id)

/-- The role an engine holds. -/
def roleHeld (d : Dev) (e : Nat) : Option Nat := (List.range 16).find? (fun r => (roleOf d r).engine.map (·.val) == some e)
/-- The role an engine serves with new direct jobs: during a handover the spare serves it (R166 step 2). -/
def roleServed (d : Dev) (e : Nat) : Option Nat :=
  (List.range 16).find? (fun r =>
    match (roleOf d r).handover with
    | some (s, _) => s.val == e
    | none => (roleOf d r).engine.map (·.val) == some e)

/-- The engine works: in service and not shutting down (R164). -/
def engInService (d : Dev) (e : Nat) : Bool := let g := engOf d e; !g.out && !g.stopping
def engIdle (d : Dev) (e : Nat) : Bool := engInService d e && (engOf d e).running.isNone
/-- The spare that a handover moves a role to. -/
def inHandover (d : Dev) (e : Nat) : Bool := (List.range 16).any (fun r => (roleOf d r).handover.map (·.1.val) == some e)
/-- The engine that a roll updates in place: it has left its role and takes it again (R169). -/
def inPlace (d : Dev) (e : Nat) : Bool := d.brl.rollHold == some e && d.brl.rollFor.isSome
/-- An engine in service with no role, from LC_PROVISION on (R137). -/
def isSpare (d : Dev) (e : Nat) : Bool :=
  !(engOf d e).out && (roleHeld d e).isNone && !inPlace d e && d.lc.state != .manufacture
/-- A spare that can take a role now. -/
def spareFree (d : Dev) (e : Nat) : Bool := isSpare d e && engInService d e && !inHandover d e && d.brl.rollHold != some e
def sparesFree (d : Dev) : List Engine := (List.finRange 18).filter (fun (e : Engine) => spareFree d e)

/-- Ends an engine's run: its direct area is zeroed (R162). -/
def engStop (e : Nat) : Dev → Dev := onEng e (fun g => { g with running := none, direct := [] })

def isPoolRole (r : Nat) : Bool := 12 ≤ r
def poolFilled (d : Dev) : Nat := count [12, 13, 14, 15] (fun r => (roleOf d r).engine.isSome)
/-- The long-job pool is enabled and not wholly vacant (R152). -/
def poolOn (d : Dev) : Bool := d.brl.longPool && !d.brl.poolEmptied

/-- EV_4134 with reasons 3 and 4 (R152). -/
def poolCheck (d : Dev) : Dev :=
  let n := poolFilled d
  if d.brl.longPool && n == 0 && !d.brl.poolEmptied then
    onBrl (fun b => { b with poolEmptied := true }) d |> logEv 0x4134 0x8B 3 0 0
  else if 0 < n ∧ d.brl.poolEmptied = true then
    onBrl (fun b => { b with poolEmptied := false }) d |> logEv 0x4134 0x8B 4 n 0
  else d

/-- An engine's image holds a program, and its direct area of a length code has room for it. -/
def progFits (d : Dev) (p : ProgEntry) (e l : Nat) : Bool :=
  (progIn (engCat d e) p.id).isSome && decide (p.items * runSlots p.bits l ≤ directArea l)

/-- An engine held for a roll takes back the role it left. -/
def rollGive (d : Dev) : Dev :=
  match d.brl.rollHold, d.brl.rollFor with
  | some e, some r => onRole r (fun x => { x with engine := some (Fin.ofNat 18 e) }) d |> onBrl (fun b => { b with rollFor := none }) |> poolCheck
  | _, _ => d
/-- An engine leaves its role to be updated in place: it takes no more jobs, and the role is vacant (R169 step 2). -/
def rollVacate (r : Nat) (o : Engine) (d : Dev) : Dev :=
  onRole r (fun x => { x with engine := none, image := d.brl.selectB }) d
    |> onBrl (fun b => { b with rollHold := some o.val, rollFor := some r }) |> poolCheck

/-- Eligible for a program (R143). An engine that a roll is about to update takes no job (R169). -/
def eligible (d : Dev) (p : ProgEntry) (e : Nat) : Bool :=
  !(engOf d e).out && d.brl.rollHold != some e && (roleServed d e).isSome && progFits d p e (engOf d e).len

/-! ## Workspaces (R154) -/

def wsOf (d : Dev) (session : Word32) : Option Workspace := d.brl.ws.find? (fun w => w.session == session)
def onWs (session : Word32) (f : Workspace → Workspace) : Dev → Dev :=
  onBrl (fun b => { b with ws := lmod b.ws (fun w => w.session == session) f })
def wsOn (d : Dev) (e : Nat) : List Workspace := d.brl.ws.filter (fun w => w.engine.val == e)
def wsUsed (d : Dev) (e : Nat) : Nat := ((wsOn d e).map (·.slots)).sum
/-- Zeroes and closes a session's workspace (R162). -/
def wsDrop (session : Word32) : Dev → Dev := onBrl (fun b => { b with ws := b.ws.filter (fun w => w.session != session) })
/-- Every workspace of an engine is void (R162). -/
def wsVoid (e : Nat) : Dev → Dev :=
  onBrl (fun b => { b with ws := b.ws.map (fun w => if w.engine.val == e then { w with void := true, items := [] } else w) })

/-- The item that holds a local slot. -/
def itemAt (w : Workspace) (s : Nat) : Option (Nat × WsItem) := w.items.find? (fun p => p.1 ≤ s && s < p.1 + p.2.count)
/-- Slots of an engine's workspace area that no workspace holds, the lowest first. -/
def freeSlots (d : Dev) (e code : Nat) : List Nat :=
  (List.range (wsArea code)).filter (fun s => (wsOn d e).all (fun w => !w.place.contains s))

/-- A run of `n` slots from `s` lies in the workspace and meets no item but those that begin at a slot of `ok`. -/
def runFits (w : Workspace) (s n : Nat) (ok : List Nat) : Bool :=
  decide (1 ≤ n) && decide (s + n ≤ w.slots) &&
    (List.range n).all (fun i => match itemAt w (s + i) with | some p => ok.contains p.1 | none => true)
/-- Zeroes the slots of a run: every item that begins or reaches into it. -/
def runClear (w : Workspace) (s n : Nat) : Workspace :=
  { w with items := w.items.filter (fun p => p.1 + p.2.count ≤ s || s + n ≤ p.1) }

/-- The header word of a slot (R142): of an item's first slot, or of a later one. `owner` holds index and generation. -/
def hdrWord (direct first : Bool) (i : WsItem) (owner : Word32) (loc : Nat) : Word64 :=
  BitVec.ofNat 64 (2 ^ 63 + b2n i.secret * 2 ^ 62 + b2n (!first) * 2 ^ 61 + b2n direct * 2 ^ 60 + i.exportCap % 4 * 2 ^ 58
    + i.anc.toNat * 2 ^ 55 + owner.toNat % 2 ^ 16 * 2 ^ 32 + owner.toNat / 2 ^ 16 % 256 * 2 ^ 24 + loc % 2 ^ 10 * 2 ^ 14
    + (if first then i.bits % 2 ^ 14 else 0))

/-- The item of a direct area that holds its slot `s`, and whether `s` is its first. -/
def directAt (len : Nat) : List WsItem → Nat → Option (WsItem × Bool)
  | [], _ => none
  | i :: l, s => if s < i.count then some (i, s == 0) else directAt len l (s - i.count)

/-- The header word of slot `s` of an engine's operand memory (R140, R142). -/
def slotHeader (d : Dev) (e s : Nat) : Word64 :=
  let g := engOf d e
  if s < wsArea g.len then
    match (wsOn d e).findSome? (fun w => (w.place.idxOf? s).bind (fun i => (itemAt w i).map (fun p => (w, i, p)))) with
    | some (w, i, p) => hdrWord false (p.1 == i) p.2 w.session i
    | none => 0
  else
    match directAt g.len g.direct (s - wsArea g.len) with
    | some (i, first) =>
      hdrWord true first i (((g.running.bind (cmdOf? d)).map (·.session)).getD 0) 0
    | none => 0

/-! ## Jobs -/

def isKeygenJob (c : Cmd) : Bool := c.code == 0x0201
def jobProg (c : Cmd) : Nat := if isKeygenJob c then keygenProg (par c 64 1) else par c 64 2
/-- The job stands in a queue with its operands read, and waits for nothing but an engine. -/
def jobReady (c : Cmd) : Bool := isWaiting c && c.scratch.getD 0 0 == 1 && c.waitOn.isEmpty
def jobCancelled (c : Cmd) : Bool := c.scratch.getD 5 0 == 1

/-- The oldest job at the head of a queue. -/
def headOf (d : Dev) (l : Loc) : Option Cmd := d.hif.cmds.find? (fun c => c.loc == l && jobReady c)

def bestOf (d : Dev) (e : Nat) (l : List (Option Cmd)) : Option (Cmd × ProgEntry) :=
  l.foldl (fun a x =>
    match x.bind (fun c => (progFind d (jobProg c)).map (fun p => (c, p))) with
    | none => a
    | some (c, p) =>
      let fits := match c.loc with
        | .wsQ _ _ => eligible d p e && roleHeld d e == roleServed d e
        | _ => eligible d p e
      if !fits then a
      else match a with
        | none => some (c, p)
        | some b => if c.cid < b.1.cid then some (c, p) else some b) none

/-- The job an engine takes when it is free (R151): the highest level first; a pool engine serves the long queue first. -/
def jobFor (d : Dev) (e : Engine) : Option (Cmd × ProgEntry) :=
  let pool := poolOn d && (match roleServed d e with | some r => isPoolRole r | none => false)
  let long := fun (l : Nat) => if pool || !poolOn d then headOf d (.longQ l) else none
  let levels := [3, 2, 1, 0]
  let other := levels.findSome? (fun l => bestOf d e
    ([if pool then none else long l, headOf d (.shortQ l), headOf d (.wsQ e l)]))
  if pool then (levels.findSome? (fun l => bestOf d e [long l])).or other else other

/-- The first region that serves, from an engine's own on in ascending order. -/
def engServing (d : Dev) (e : Nat) : Option Region :=
  ((List.finRange 4).map (fun i => Fin.ofNat 4 (e + i.val))).find? (fun (r : Region) => drbgServes d r)

/-- The region an engine draws from (R161): its own, also while that one's DRBG only awaits seed of a supply that runs, else
the next in ascending order that serves. -/
def engRegion (d : Dev) (e : Nat) : Option Region :=
  if drbgAwaits d (e % 4) then some (Fin.ofNat 4 e) else engServing d e

/-- Draws an engine's guard words anew, at a clear of its operand memory (R142); where no region serves they stay (DESIGN
CHOICE, log entry 142). -/
def guardDraw (e : Nat) (d : Dev) : Dev :=
  match engServing d e with
  | none => d
  | some r =>
    let o := draw r (8 * slotCount (engOf d e).len) d
    onEng e (fun g => { g with guards := o.1.getD g.guards }) o.2

/-- Random bytes for a job; with `pr` the DRBG takes a seed block first. An engine whose regions only await seed waits for one
of them (R161). -/
def jobDraw (e : Nat) (pr : Bool) (n : Nat) : Run Bytes := do
  let d ← get
  match engRegion d e with
  | none => needDraw (fun d => (none, d))
  | some r =>
    if pr then
      match takeBlock d with
      | some (b, d') => set (drbgReseedWith r b d')
      | none => fail stEntropy 0
    needDraw (draw r n)

def needsDraw (p : ProgEntry) : Bool := pPrivate p || pKeygen p || fam p.id == 0x31

/-- The items of a workspace run stand in catalogue order, the message of an EDDSA_VER before the signature (R146, R148). -/
def mapOrder (p : ProgEntry) (l : List Bytes) : List Bytes :=
  if fam p.id = 0x25 then [l.getD 0 [], l.getD 2 [], l.getD 1 []] else l

/-- The operands of a job: the bytes read at its arrival, or the items that in_map names; the message of an EDDSA_VER is the last
(R149). -/
def jobOps (d : Dev) (c : Cmd) (p : ProgEntry) : List Bytes :=
  if isKeygenJob c then []
  else if c.code == 0x0412 then
    match wsOf d c.session with
    | none => []
    | some w => mapOrder p ((List.range p.nIn).map (fun i => ((itemAt w (fieldLE c.params (24 + 2 * i) 2)).map (·.2.data)).getD []))
  else cutAt ((operandLens p.id c.taskIn.length).getD []) c.taskIn

/-- The secret inputs of a workspace run (R150). -/
def jobSecrets (d : Dev) (c : Cmd) (p : ProgEntry) : List WsItem :=
  if c.code == 0x0412 then
    match wsOf d c.session with
    | none => []
    | some w => (List.range p.nIn).filterMap (fun i =>
        (itemAt w (fieldLE c.params (24 + 2 * i) 2)).bind (fun x => if x.2.secret then some x.2 else none))
  else []

/-- The ancestry bits of a key, as in the header word: 2 ceremony, 1 imported, 0 generated. -/
def ancOf (k : Key) : BitVec 3 := BitVec.ofNat 3 (4 * b2n k.ancCeremony + 2 * b2n k.ancImported + b2n k.ancGenerated)

/-- The algorithms that suit a program (R146). -/
def progAlgOk (p : ProgEntry) (a : Nat) : Bool := match progAlg p.id with | some x => a == x | none => isAsym a

/-- The usage that a program checks: the RSA programs take the mode's, raw either (R146, R148). -/
def progUse (p : ProgEntry) (c : Cmd) (k : Option Key) : Nat :=
  if isRsaCrt p.id then
    let m := par c 66 1
    if m = 4 then uDecryptPk
    else if m = 0 ∧ (k.map (fun k => k.usage.getLsbD uSign)) = some false then uDecryptPk
    else uSign
  else p.keyUse

/-- The random input that a yielding job carries from run to run (R151). -/
def fragRandom (c : Cmd) : Option Bytes := (c.taskFrags.find? (fun f => f.bytes == [2])).map (·.data)

/-- The start of a run on an engine: public input is checked, then the key is fetched, then the randomness is drawn;
the outcome is formed and kept until the run ends (R150, R158, R161). -/
def jobStart (e : Engine) (c : Cmd) (p : ProgEntry) : Run Unit := do
  let d ← get
  let ops := jobOps d c p
  if fam p.id = 0x22 then need (ecDecode (curveOf (var p.id)) (ops.getD 0 [])).isSome stPoint 0
  let keyed := p.keyUse ≠ 255 ∧ isKeygenJob c = false
  let k ← (if keyed then do
      let use := progUse p c (keyLookup d c.owner c.session (hA c))
      let k ← fetch ⟨.barrel, c.owner, c.session, cmdFn c, some use, fun a _ => progAlgOk p a⟩ (hA c)
      pure (some k)
    else pure none)
  -- each run draws anew (R161); a job that goes on keeps the random input of its first run beside (R151)
  let drawn ← (if needsDraw p then jobDraw e ((fragRandom c).isNone && c.params.getD 3 0 == 1 && !isKeygenJob c) 80 else pure [])
  let rnd := (fragRandom c).getD drawn
  let sec := jobSecrets (← get) c p
  let exp_ := sec.foldl (fun a x => min a x.exportCap) ((k.map (·.export_)).getD 2)
  let anc := sec.foldl (fun a x => a ||| x.anc) (((k.map ancOf).getD 0) ||| 1)
  let res : ProgOut := if isKeygenJob c then
      match keygenOut (par c 64 1) (if par c 76 4 = 0 then 65537 else par c 76 4) rnd with
      | some (m, pub) => .ok [pub] (some m)
      | none => .err stRetry 0x0410
    else progOut p (par c 66 1) ((k.map (·.mat)).getD []) ops rnd
  let hold := match res with
    | .err st detail => (some (resErr st detail), [])
    | .ok pub s => (none, (s.toList.map (fun b => (⟨[1], b, none⟩ : Frag))) ++ pub.map (fun b => (⟨[0], b, none⟩ : Frag)))
  eff (onCmd c.cid (fun x => { x with
    stage := .running, loc := .engine e, waitOn := [], ready := hold.1
    taskFrags := hold.2 ++ (if pYields p then [⟨[2], rnd, none⟩] else [])
    scratch := [1, x.scratch.getD 1 0, exp_, anc.toNat, (k.map (·.depth)).getD 0, x.scratch.getD 5 0] }))
  eff (onEng e (fun g => { g with
    running := some c.cid
    direct := ops.map (fun b => ⟨runSlots (8 * b.length) g.len, false, 0, 0, 8 * b.length, b⟩) }))

/-- Gives an engine its next job; a job that ends at its start leaves the engine free for the next. `fuel` bounds them. -/
def engTake (e : Engine) : Nat → Dev → Dev
  | 0, d => d
  | f + 1, d =>
    if !engIdle d e then d
    else
      match jobFor d e with
      | none => d
      | some (c, p) =>
        let r := runBody (jobStart e c p) d
        match r.1 with
        | .ok _ => r.2
        | .error (.res res) =>
          engTake e f (finish c.cid res r.2 |> onEng e (fun g => { g with jobs := g.jobs + 1 }) |> onBrl (fun b => { b with jobs := b.jobs + 1 }))
        | .error (.wait on) => engTake e f (onCmd c.cid (fun c => { c with waitOn := on }) r.2)
        | .error .running => r.2

def engNext (e : Engine) (d : Dev) : Dev := engTake e (d.hif.cmds.length + 1) d

/-- Some engine in service is eligible for a program, or becomes so with the role that a spare is to take (R165, R173). -/
def couldRun (d : Dev) (p : ProgEntry) : Bool :=
  (List.range 18).any (fun e => eligible d p e || d.brl.rollHold == some e && progFits d p e (engOf d e).len)
    || (List.range 16).any (fun r => (roleOf d r).engine.isNone && (sparesFree d).any (fun e =>
        (progIn (((imageOf d (roleOf d r).image).map (·.cat)).getD []) p.id).isSome
          && decide (p.items * runSlots p.bits (roleOf d r).len ≤ directArea (roleOf d r).len) && !(engOf d e).out))

/-- The engine of a workspace can run a program: after a handover in progress, the one that takes it over. -/
def wsCouldRun (d : Dev) (p : ProgEntry) (e : Nat) : Bool :=
  match (roleHeld d e).bind (fun r => (roleOf d r).handover) with
  | some (s, _) => progFits d p s (engOf d s).len
  | none => progFits d p e (engOf d e).len

/-- A waiting job that no engine can take any more ends with ST_RETRY, detail 0x0411 (R169, R173). -/
def sweepJobs (d : Dev) : Dev :=
  let stuck := fun (c : Cmd) =>
    match progFind d (jobProg c) with
    | none => true
    | some p => match c.loc with
      | .wsQ e _ => !wsCouldRun d p e
      | _ => !couldRun d p
  endAll (fun c => isWaiting c && (match c.loc with | .shortQ _ | .longQ _ | .wsQ _ _ => stuck c | _ => false))
    (resErr stRetry 0x0411) d

/-- Offers waiting jobs to idle engines: outside the pool by role number, then the pool (R151). -/
def dispatch (d : Dev) : Dev :=
  forAll (List.range 16) (fun r d =>
    match (List.finRange 18).find? (fun (e : Engine) => roleServed d e == some r) with
    | some e => engNext e d
    | none => d) (sweepJobs d)

/-- A job reaches its queue (R151). -/
def jobQueue (c : Cmd) (l : Loc) (ops : Bytes) (d : Dev) : Dev :=
  let c' := { c with loc := l, taskIn := ops, scratch := [1, 0, 2, 0, 0, 0], waitOn := [] }
  onHif (fun h => { h with cmds := h.cmds.filter (fun x => x.cid != c.cid) ++ [c'] }) d |> dispatch

/-- The queue a job joins (R151, R152). -/
def jobLoc (d : Dev) (c : Cmd) (p : ProgEntry) : Loc := if pLong p && poolOn d then .longQ c.prio else .shortQ c.prio

/-! ## Counts of faults, abort and removal (R160, R163, R165) -/

/-- Those of the last 60 s. -/
def lastMinute (d : Dev) (l : List Nat) : List Nat := l.filter (fun t => nowTb d - t < 60 * ticksPerS)
def faultTimes (d : Dev) (e : Nat) : List Nat := lastMinute d (engOf d e).faultTimes

/-- A workspace job that waits on an engine. -/
def waitsOn (e : Nat) (c : Cmd) : Bool := isWaiting c && (match c.loc with | .wsQ e' _ => e'.val == e | _ => false)

/-- Aborts an engine: its job ends with `res`, its memory is zeroed, its workspaces are void and the jobs that wait for
them are lost (R162, R171); a test that ran falls due again (R167). Nothing while stopping. -/
def engAbort (e : Nat) (res : Res) (d : Dev) : Dev :=
  if (engOf d e).stopping then d
  else
    let d1 := match (engOf d e).running with
      | some cid => (match cmdOf? d cid with
        | some c => if jobCancelled c then finish cid (resErr stAborted 0) d else finish cid res d
        | none => d)
      | none => d
    onEng e (fun g => { g with stopping := true, aborting := true, katDue := g.katDue || g.running == some 0 }) d1
      |> engStop e |> endAll (waitsOn e) (resErr stWsLost 0)
      |> wsVoid e |> onBrl (fun b => { b with aborts := b.aborts + 1 })

/-- Begins a handover of a role to a spare; `cid` is the command that asked, 0 for none. The spare takes the role's length
and the image that the handover requires (R166 step 1). DESIGN CHOICE (log entry 142): it keeps its guard words and their count. -/
def handoverTo (role cid : Nat) (sp : Engine) (image : Bool) (d : Dev) : Dev :=
  onRole role (fun r => { r with handover := some (sp, cid) }) d
    |> onEng sp (fun g => { g with image := image, len := (roleOf d role).len })

/-- Begins a handover to the lowest-numbered spare that is free. -/
def handoverStart (role cid : Nat) (d : Dev) : Dev :=
  match (roleOf d role).engine, (sparesFree d).head? with
  | some o, some sp => if (roleOf d role).handover.isSome then d else handoverTo role cid sp (engOf d o).image d
  | _, _ => d

/-- A handover that ENGINE_HANDOVER asked for is not to be: the command ends with ST_RETRY (DESIGN CHOICE, log entry 166). -/
def handoverLost (cid : Nat) (d : Dev) : Dev := doIf (decide (cid ≠ 0)) (svcDone cid resRetry) d

/-- A removed engine leaves its role and every handover. Where it was the one that takes over, another spare does. -/
def roleLeave (e : Nat) (d : Dev) : Dev :=
  forAll (List.range 16) (fun r d =>
    let x := roleOf d r
    if x.engine.map (·.val) == some e then
      onRole r (fun x => { x with engine := none, removed := e, image := (engOf d e).image, handover := none }) d
        |> (match x.handover with | some (_, cid) => handoverLost cid | none => id)
    else
      match x.handover with
      | some (s, cid) =>
        if s.val == e then
          let d1 := onRole r (fun x => { x with handover := none }) d |> handoverStart r cid
          if (roleOf d1 r).handover.isSome then d1 else handoverLost cid d1
        else d
      | none => d) d

/-- ENGINE_REMOVAL (R165): cause 1 threshold, 2 known-answer test, 3 self-test. -/
def engRemove (e cause : Nat) (res : Res) (d : Dev) : Dev :=
  if (engOf d e).out then d
  else
    let d := if inPlace d e then rollGive d else d
    let n := count (wsOn d e) (fun w => !w.void)
    let r := roleHeld d e
    engAbort e res d
      |> logEv 0x4137 0x8B e n 0
      |> logEv 0x4130 0x8B e cause (r.getD 0x1F)
      |> onEng e (fun g => { g with out := true, katDue := false, heldRole := none })
      |> onBrl (fun b => if b.rollHold == some e then { b with rollHold := none, rollRetest := false } else b)
      |> roleLeave e |> poolCheck |> dispatch

/-- The program that a test of an image finds wrong in a roll or at start-up, of which no command tells (log entry 174). -/
def katProg (e : Nat) : Nat := Config.implValue 174 e % 2 ^ 16

/-- EV_4131, and the engine is removed (R167, R174). -/
def katRemove (e prog : Nat) (d : Dev) : Dev := logEv 0x4131 0x8B e prog (b2n (engOf d e).image) d |> engRemove e 2 resRetry

/-- A mismatch or guard violation is counted; the third within 60 s removes the engine (R160). -/
def engFault (e : Nat) (d : Dev) : Dev :=
  let t := nowTb d :: faultTimes d e
  let d1 := onEng e (fun g => { g with faultTimes := t }) d |> onBrl (fun b => { b with faults := b.faults + 1 })
  if 3 ≤ t.length then engRemove e 1 (resErr stFault 0) d1 else d1

/-! ## The end of a run -/

def fragSecret (c : Cmd) : Option Bytes := (c.taskFrags.find? (fun f => f.bytes == [1])).map (·.data)
def fragPub (c : Cmd) : List Bytes := (c.taskFrags.filter (fun f => f.bytes == [0])).map (·.data)

/-- The new key of a secret result (R150). -/
def secretKey (c : Cmd) (exp_ : Nat) (anc : BitVec 3) (depth : Nat) (mat : Bytes) : NewKey := {
  owner := c.owner, hint := par c 75 1, alg := par c 74 1, life := par c 73 1, usage := BitVec.ofNat 16 (par c 68 2)
  export_ := min (par c 72 1) exp_, pinned := false, depth, ancCeremony := anc.getLsbD 2, ancImported := anc.getLsbD 1
  ancGenerated := true, dest := BitVec.ofNat 16 (par c 70 2), session := c.session, mat }

/-- The local slots that out_map names for results of the given bits. -/
def outRuns (c : Cmd) (len : Nat) (sizes : List Nat) : List (Nat × Nat) :=
  sizes.mapIdx (fun i n => (fieldLE c.params (40 + 2 * i) 2, runSlots (8 * n) len))

/-- What a finished run answers, with its results written (R150, R162). -/
def jobEnd (c : Cmd) : Run Res := do
  match c.ready with
  | some r => pure r
  | none =>
    let exp_ := c.scratch.getD 2 2
    let anc := BitVec.ofNat 3 (c.scratch.getD 3 0)
    let depth := c.scratch.getD 4 0
    if isKeygenJob c then
      let m := (fragSecret c).getD []
      needKeyRoom c.owner (par c 65 1) m.length (par c 67 1 == 1)
      makeOut (paramKey c (par c 64 1) (BitVec.ofNat 16 (par c 68 2)) (par c 66 1) false m) (fragPub c).flatten
    else if c.code == 0x0412 then
      match wsOf (← get) c.session with
      | none => fail stWsLost 0
      | some w =>
        let outs := (fragPub c).map (fun b => (false, b)) ++ (fragSecret c).toList.map (fun b => (true, b))
        let place := fun (w : Workspace) (p : (Nat × Nat) × Bool × Bytes) =>
          let w := runClear w p.1.1 p.1.2
          { w with items := tput w.items p.1.1 ⟨p.1.2, p.2.1, exp_, anc, 8 * p.2.2.length, p.2.2⟩ }
        eff (onWs c.session (fun w' => ((outRuns c w.len (outs.map (·.2.length))).zip outs).foldl place w'))
        pure resOk
    else
      match fragSecret c with
      | none => pure (resOut (fragPub c).flatten)
      | some m =>
        needKeyRoom c.owner (par c 73 1) m.length false
        makeOut (secretKey c exp_ anc depth m) (fragPub c).flatten

/-- Frees an engine after a run: a test that is due runs first, then the next job (R151, R167). -/
def engFree (e : Engine) (d : Dev) : Dev :=
  let d := engStop e d
  if (engOf d e).katDue && engInService d e then onEng e (fun g => { g with running := some 0, katDue := false }) d
  else engNext e d

/-- The lengths of a program's results, the secret one last. -/
def outSizes (p : ProgEntry) : List Nat := resultLens p.id ++ (if pSecretOut p then [secretLen p.id] else [])

/-- The runs of a failed workspace job's results are zeroed (R162). -/
def wipeOuts (c : Cmd) (p : ProgEntry) (d : Dev) : Dev :=
  if c.code == 0x0412 then
    match wsOf d c.session with
    | none => d
    | some w => onWs c.session (fun x => (outRuns c w.len (outSizes p)).foldl (fun x q => runClear x q.1 q.2) x) d
  else d

def jobCount (e : Nat) (d : Dev) : Dev :=
  onEng e (fun g => { g with jobs := g.jobs + 1 }) d |> onBrl (fun b => { b with jobs := b.jobs + 1 })

/-- A job back at the head of its level, carrying its iteration counter and its random input (R151). -/
def jobYield (e : Engine) (c : Cmd) (p : ProgEntry) (d : Dev) : Dev :=
  let l : Loc := if c.code == 0x0412 then .wsQ e c.prio else jobLoc d c p
  let c' := { c with stage := .waiting, loc := l, ready := none, taskFrags := c.taskFrags.filter (fun f => f.bytes == [2])
                     scratch := [1, c.scratch.getD 1 0 + 24, 2, 0, 0, c.scratch.getD 5 0] }
  onHif (fun h => { h with cmds := c' :: h.cmds.filter (fun x => x.cid != c.cid) }) d

/-- BARREL_RUN_END for a job (R151, R159, R160). -/
def runEndJob (e : Engine) (c : Cmd) (p : ProgEntry) (how : RunEnd) (d : Dev) : Dev :=
  match how with
  | .finished =>
    if jobCancelled c then finish c.cid (resErr stAborted 0) d |> jobCount e |> engFree e
    else
      let r := runBody (jobEnd c) d
      match r.1 with
      | .ok res => finish c.cid res r.2 |> jobCount e |> engFree e
      | .error (.res res) => finish c.cid res r.2 |> jobCount e |> engFree e
      | .error (.wait on) => onCmd c.cid (fun c => { c with waitOn := on }) r.2
      | .error .running => r.2
  | .mismatch =>
    if pPrivate p || pSelfVerify p then
      let t := nowTb d :: lastMinute d (engOf d e).mismatchTimes
      wipeOuts c p d |> finish c.cid (resErr stFault 0) |> jobCount e |> engStop e
        |> onEng e (fun g => { g with mismatches := g.mismatches + 1, mismatchTimes := t })
        |> logEv 0x4107 0x8B e p.id t.length |> engFault e |> (fun d => if engIdle d e then engFree e d else d)
    else d
  | .guardViolation slot =>
    wipeOuts c p d |> finish c.cid (resErr stFault 0) |> jobCount e |> engStop e
      |> logEv 0x4108 0x8B e p.id slot |> engFault e |> (fun d => if engIdle d e then engFree e d else d)
  | .yields =>
    if pYields p then
      (if jobCancelled c then finish c.cid (resErr stAborted 0) d else jobYield e c p d) |> jobCount e |> engFree e
    else d
  | _ => d

/-- BARREL_RUN_END (R151, R167). Number 0 stands for the engine's own test. -/
def runEnd (e : Engine) (how : RunEnd) (d : Dev) : Dev :=
  match (engOf d e).running with
  | none => d
  | some 0 =>
    match how with
    | .katPass => onBrl (fun b => { b with kats := b.kats + 1 }) d |> engFree e
    | .katFail prog => engStop e d |> katRemove e prog
    | _ => d
  | some cid =>
    match cmdOf? d cid with
    | none => engStop e d |> engNext e
    | some c =>
      match progFind d (jobProg c) with
      | none => d
      | some p => runEndJob e c p how d

def execBarrelRunEnd (e : Engine) (how : RunEnd) (s : State) : Ans := nextD (runEnd e how) s

/-- BARREL_JOB_PROMOTE: a job that has waited 10 ms goes to the tail of the next higher level (R151). -/
def jobPromote (cid : Nat) (d : Dev) : Dev :=
  match cmdOf? d cid with
  | none => d
  | some c =>
    let up : Option Loc := match c.loc with
      | .shortQ l => if l < 3 then some (.shortQ (l + 1)) else none
      | .longQ l => if l < 3 then some (.longQ (l + 1)) else none
      | .wsQ e l => if l < 3 then some (.wsQ e (l + 1)) else none
      | _ => none
    match up with
    | some l =>
      if isWaiting c then
        onHif (fun h => { h with cmds := h.cmds.filter (fun x => x.cid != cid) ++ [{ c with loc := l, prio := c.prio + 1 }] }) d
      else d
    | none => d

def execBarrelJobPromote (cid : Nat) (s : State) : Ans := nextD (jobPromote cid) s

/-! ## Commands (R147 to R157) -/

def needB (c : Cmd) : Run Unit := need (hB c == 0) stParam 0x0409

/-- The program a command names, with the mode and flags it allows (R147, R148). -/
def needProg (c : Cmd) : Run ProgEntry := do
  match progFind (← get) (par c 64 2) with
  | none => fail stParam 0x0401
  | some p =>
    if pKeygen p then fail stParam 0x0408
    let m := par c 66 1
    need (m ≤ 5 && (m == 0 || isRsaCrt p.id)) stParam 0x0409
    need (par c 67 1 < 2) stParam 0x0409
    need (p.keyUse != 255 || hA c == 0) stParam 0x0409
    pure p

/-- Some engine in service can run the program (R169, R173). -/
def needEngine (p : ProgEntry) : Run Unit := do
  need (couldRun (← get) p) stRetry 0x0411

/-- The attributes of a new key for a secret result of `n` bytes (R148). -/
def needSecretAttrs (c : Cmd) (n : Nat) : Run Unit := do
  need (par c 73 1 ≤ 1) stParam 0x0003
  let a := par c 74 1
  need (isSecret a && algLenOk a n) stParam 0x0002
  need (par c 72 1 ≤ 2 && usageOk a c.owner.world (BitVec.ofNat 16 (par c 68 2))) stParam 0x0002
  need (par c 70 2 < 32) stParam 0

/-- PKC_RUN: the first time it reads its operands and joins its queue; afterwards it is offered again (R149 to R151). -/
def pkcRun (c : Cmd) (hr : HostRead) : Run Res := do
  if c.scratch.getD 0 0 == 1 then
    eff (onCmd c.cid (fun c => { c with waitOn := [] }))
    eff dispatch
    throw (.wait [])
  needB c
  let p ← needProg c
  need (par c 73 1 != 2) stParam 0x0003
  need (zeroPar c 76 128 && (pSecretOut p || zeroPar c 68 76)) stParam 0
  match operandLens p.id c.inLen with
  | none => fail stParam (lengthDetail p.id)
  | some _ =>
    if pSecretOut p then needSecretAttrs c (secretLen p.id)
    need ((resultLens p.id).sum + (if pSecretOut p then 32 else 0) ≤ c.outCap) stParam 0x040C
    needEngine p
    let d ← get
    eff (jobQueue { c with outSeg := ((cmdOf? d c.cid).map (·.outSeg)).getD [] } (jobLoc d c p) (fit hr.data c.inLen))
    throw (.wait [])

/-- Runs a command's body like `runCmd`, but a wait keeps what the job has become. -/
def runJob (code cid : Nat) (hr : HostRead) (body : Cmd → HostRead → Run Res) (d : Dev) : Dev :=
  match cmdOf? d cid with
  | none => d
  | some c =>
    if c.code == code && mayStart d c then
      let d := onCmd cid (fun c => { c with
        outSeg := if c.flags.getLsbD 1 then sgSegs hr.outSg else [(c.outPtr, c.outCap)] }) d
      let r := runBody (do (if c.scratch.getD 0 0 == 1 then pure () else listChecks c hr false); body c (readOf c hr)) d
      match r.1 with
      | .ok res => finish cid res r.2
      | .error (.res res) => finish cid res r.2
      | .error (.wait on) => if on.isEmpty then r.2 else onCmd cid (fun c => { c with waitOn := on }) r.2
      | .error .running => onCmd cid (fun c => { c with stage := .running, waitOn := [] }) r.2
    else d

def execPkcRun (cid : Nat) (hr : HostRead) (s : State) : Ans := nextD (runJob 0x0401 cid hr pkcRun) s

/-- KEY_GENERATE (R88): a symmetric key at once; an asymmetric one by a keygen job at the command's own priority. -/
def bodyGenerate (c : Cmd) (_ : HostRead) : Run Res := do
  if c.scratch.getD 0 0 == 1 then
    eff (onCmd c.cid (fun c => { c with waitOn := [] }))
    eff dispatch
    throw (.wait [])
  needGenerate c
  let alg := par c 64 1
  if !isAsym alg then bodyGenerateSym c
  else
    need (32 + keygenPubLen alg ≤ c.outCap) stParam 0
    needKeyRoom c.owner (par c 65 1) ((algLen alg).getD 0) (par c 67 1 == 1)
    match progFind (← get) (keygenProg alg) with
    | none => fail stParam 0x0401
    | some p =>
      needEngine p
      let d ← get
      eff (jobQueue { c with outSeg := ((cmdOf? d c.cid).map (·.outSeg)).getD [] } (jobLoc d c p) [])
      throw (.wait [])

def execKeyGenerate (cid : Nat) (hr : HostRead) (s : State) : Ans := nextD (runJob 0x0201 cid hr bodyGenerate) s

/-- PKC_CATALOG (R145). -/
def pkcCatalog (c : Cmd) (_ : HostRead) : Run Res := do
  needB c
  need (hA c == 0) stParam 0x0409
  need (zeroPar c 64 128) stParam 0
  let b := curCat (← get)
  need (b.length ≤ c.outCap) stParam 0x040C
  pure (resOut b)

def execPkcCatalog (cid : Nat) (hr : HostRead) (s : State) : Ans := hasp 0x0403 cid hr pkcCatalog s

/-- A command in the wrong state (R71). -/
def wrongState {α : Type} (c : Cmd) (kind : Nat) : Run α := failLog stState 0 (log5104 c.code (cmdFn c) kind)

/-- PKC_CANCEL (R157). -/
def pkcCancel (c : Cmd) (_ : HostRead) : Run Res := do
  needB c
  need (hA c == 0) stParam 0x0409
  need (zeroPar c 64 76 && zeroPar c 80 128) stParam 0
  let d ← get
  let seq := BitVec.ofNat 32 (par c 76 4)
  match d.hif.cmds.find? (fun x => x.session == c.session && x.fn == c.fn && isHost x == isHost c && x.seq == seq
      && x.cid != c.cid && x.dupOf.isNone && x.accepted && isAccepted x) with
  | none => wrongState c 1
  | some t =>
    if classOf t.code ≠ 0x04 ∨ isDone t ∨ jobCancelled t then wrongState c 1
    if isWaiting t then
      eff (finish t.cid (resErr stAborted 0))
      pure resOk
    else
      match t.loc with
      | .engine e =>
        if (wsOn d e).isEmpty then
          eff (onCmd t.cid (fun x => { x with scratch := lmodAt (fit0 x.scratch) 5 (fun _ => 1) }))
          eff (engAbort e (resErr stAborted 0))
        else eff (onCmd t.cid (fun x => { x with scratch := lmodAt (fit0 x.scratch) 5 (fun _ => 1) }))
        pure resOk
      | _ =>
        eff (finish t.cid (resErr stAborted 0))
        pure resOk
where
  /-- Six values, the missing ones 0. -/
  fit0 (l : List Nat) : List Nat := (List.range 6).map (fun i => l.getD i 0)

def execPkcCancel (cid : Nat) (hr : HostRead) (s : State) : Ans := hasp 0x0402 cid hr pkcCancel s

/-- The length code of a slot length in bits. -/
def lenCode? (bits : Nat) : Option Nat := (List.range 6).find? (fun k => lenBits k == bits)

/-- The roles a workspace may be placed on, of a length code (R154). -/
def wsRoles (d : Dev) (code : Nat) : List (Nat × Engine) :=
  (List.range 16).filterMap (fun r =>
    let x := roleOf d r
    match x.engine with
    | some e =>
      if x.len == code && x.lenNext == x.len && !(isPoolRole r && poolOn d) then some (r, e) else none
    | none => none)

/-- An earlier workspace command of the session is not done (R154, order). -/
def wsBehind (d : Dev) (c : Cmd) : Bool :=
  d.hif.cmds.any (fun x => x.cid != c.cid && x.session == c.session && x.owner == c.owner && 0x0410 ≤ x.code && x.code ≤ 0x0416
    && x.dupOf.isNone && isAccepted x && !isDone x && (if isHost x && isHost c then seqBelow x.seq c.seq else decide (x.cid < c.cid)))

/-- PKC_WS_OPEN (R154). -/
def pkcWsOpen (c : Cmd) (_ : HostRead) : Run Res := do
  needB c
  need (hA c == 0) stParam 0x0409
  need (zeroPar c 64 80 && zeroPar c 84 128) stParam 0
  let d ← get
  if wsBehind d c then throw (.wait [])
  let n := par c 80 2
  match lenCode? (par c 82 2) with
  | none => fail stParam 0x0403
  | some code =>
    let roles := wsRoles d code
    need (!roles.isEmpty) stParam 0x0403
    need (1 ≤ n && n ≤ wsArea code) stParam 0x0407
    if (wsOf d c.session).isSome then wrongState c 1
    let freeOf := fun (p : Nat × Engine) => wsArea code - wsUsed d p.2
    let best := roles.foldl (fun (a : Option (Nat × Engine)) p => match a with
      | none => some p
      | some b => if freeOf b < freeOf p then some p else a) none
    match best with
    | some (r, e) =>
      need (n ≤ freeOf (r, e)) stQuota 0x0402
      eff (onBrl (fun b => { b with ws := b.ws ++ [⟨c.session, e, code, n, false, [], (freeSlots d e code).take n⟩] }))
      pure (resVal (n + 65536 * r))
    | none => fail stQuota 0x0402

def execPkcWsOpen (cid : Nat) (hr : HostRead) (s : State) : Ans := nextD (runJob 0x0410 cid hr pkcWsOpen) s

/-- The session's workspace, in turn and not void (R154, R162). -/
def needWs (c : Cmd) : Run Workspace := do
  let d ← get
  if wsBehind d c then throw (.wait [])
  match wsOf d c.session with
  | none => wrongState c 1
  | some w => if w.void then fail stWsLost 0 else pure w

/-- PKC_WS_LOAD (R155). -/
def pkcWsLoad (c : Cmd) (hr : HostRead) : Run Res := do
  needB c
  need (hA c == 0) stParam 0x0409
  need (zeroPar c 64 84 && zeroPar c 88 128) stParam 0
  let w ← needWs c
  let s := par c 84 2
  let bits := par c 86 2
  need (1 ≤ bits && bits ≤ 8192) stParam 0x0407
  need (c.inLen == (bits + 7) / 8) stParam 0x0404
  let n := runSlots bits w.len
  need (runFits w s n [s]) stParam 0x0407
  eff (onWs c.session (fun w => let w := runClear w s n; { w with items := tput w.items s ⟨n, false, 0, 0, bits, inData c hr⟩ }))
  pure resOk

def execPkcWsLoad (cid : Nat) (hr : HostRead) (s : State) : Ans := nextD (runJob 0x0411 cid hr pkcWsLoad) s

/-- PKC_WS_RUN (R155): its checks, then it waits on its engine's workspace queue. -/
def pkcWsRun (c : Cmd) (_ : HostRead) : Run Res := do
  if c.scratch.getD 0 0 == 1 then
    eff (onCmd c.cid (fun c => { c with waitOn := [] }))
    eff dispatch
    throw (.wait [])
  needB c
  let p ← needProg c
  need (zeroPar c 68 88 && zeroPar c 120 128) stParam 0
  let w ← needWs c
  let ins := (List.range 8).map (fun i => fieldLE c.params (24 + 2 * i) 2)
  let outs := (List.range 8).map (fun i => fieldLE c.params (40 + 2 * i) 2)
  let lens := (jobOps (← get) c p).map (·.length)
  need ((ins.take p.nIn).all (fun s => w.items.any (fun x => x.1 == s)) && (ins.drop p.nIn).all (· == 0xFFFF)) stParam 0x0407
  match operandLens p.id lens.sum with
  | none => fail stParam (lengthDetail p.id)
  | some l =>
    need (l == lens) stParam (lengthDetail p.id)
    let sizes := outSizes p
    let runs := outRuns c w.len sizes
    need ((outs.drop sizes.length).all (· == 0xFFFF)) stParam 0x0407
    need (runs.all (fun r => runFits w r.1 r.2 (outs ++ ins))) stParam 0x0407
    need (runs.all (fun r => count runs (fun q => decide (q.1 < r.1 + r.2) && decide (r.1 < q.1 + q.2)) ≤ 1)) stParam 0x0407
    need (wsCouldRun (← get) p w.engine) stRetry 0x0411
    eff (jobQueue c (.wsQ w.engine c.prio) [])
    throw (.wait [])

def execPkcWsRun (cid : Nat) (hr : HostRead) (s : State) : Ans := nextD (runJob 0x0412 cid hr pkcWsRun) s

/-- The item at a first slot. -/
def needItem (w : Workspace) (s : Nat) : Run WsItem :=
  match tget? w.items s with
  | some i => pure i
  | none => fail stParam 0x0407

/-- PKC_WS_READ (R155). -/
def pkcWsRead (c : Cmd) (_ : HostRead) : Run Res := do
  needB c
  need (hA c == 0) stParam 0x0409
  need (zeroPar c 64 84 && zeroPar c 86 128) stParam 0
  let w ← needWs c
  let i ← needItem w (par c 84 2)
  needLog (!i.secret) stKeyAttr 0x040A (logEv 0x4135 0x8B (cmdFn c) c.session.toNat (par c 84 2))
  need (i.data.length ≤ c.outCap) stParam 0x040C
  pure (resOut i.data)

def execPkcWsRead (cid : Nat) (hr : HostRead) (s : State) : Ans := nextD (runJob 0x0413 cid hr pkcWsRead) s

/-- PKC_WS_RELEASE (R155). -/
def pkcWsRelease (c : Cmd) (_ : HostRead) : Run Res := do
  needB c
  need (hA c == 0) stParam 0x0409
  need (zeroPar c 64 84 && zeroPar c 88 128) stParam 0
  let w ← needWs c
  let s := par c 84 2
  let n := par c 86 2
  need (1 ≤ n && s + n ≤ w.slots) stParam 0x0407
  need ((List.range n).all (fun i => match itemAt w (s + i) with
    | some p => decide (s ≤ p.1) && decide (p.1 + p.2.count ≤ s + n)
    | none => true)) stParam 0x0407
  eff (onWs c.session (fun w => runClear w s n))
  pure resOk

def execPkcWsRelease (cid : Nat) (hr : HostRead) (s : State) : Ans := nextD (runJob 0x0414 cid hr pkcWsRelease) s

/-- PKC_WS_TO_KEY (R155). -/
def pkcWsToKey (c : Cmd) (_ : HostRead) : Run Res := do
  needB c
  need (hA c == 0) stParam 0x0409
  need (zeroPar c 64 68 && zeroPar c 76 84 && zeroPar c 86 128) stParam 0
  let w ← needWs c
  let s := par c 84 2
  let i ← needItem w s
  need i.secret stKeyAttr 0x040B
  needSecretAttrs c i.data.length
  need (32 ≤ c.outCap) stParam 0x040C
  needKeyRoom c.owner (par c 73 1) i.data.length false
  let r ← makeOut (secretKey c i.exportCap i.anc 0 i.data) []
  eff (onWs c.session (fun w => runClear w s i.count))
  pure r

def execPkcWsToKey (cid : Nat) (hr : HostRead) (s : State) : Ans := nextD (runJob 0x0415 cid hr pkcWsToKey) s

/-- PKC_WS_CLOSE (R155, R162). -/
def pkcWsClose (c : Cmd) (_ : HostRead) : Run Res := do
  needB c
  need (hA c == 0) stParam 0x0409
  need (zeroPar c 64 128) stParam 0
  let d ← get
  if wsBehind d c then throw (.wait [])
  if (wsOf d c.session).isNone then wrongState c 1
  eff (wsDrop c.session)
  pure resOk

def execPkcWsClose (cid : Nat) (hr : HostRead) (s : State) : Ans := nextD (runJob 0x0416 cid hr pkcWsClose) s

/-! ## Settings (R138, R152) -/

def bodyEngineLen (c : Cmd) (_ : HostRead) : Run Res := do
  let r := par c 64 1
  let l := par c 65 1
  need (zeroPar c 66 128 && hA c == 0 && hB c == 0) stParam 0
  need (r ≤ 15 && l ≤ 5) stParam 0x0409
  need (!keepOnly (← get)) stDegraded 0
  eff (recWrite (settingRec 2) 1)
  eff (onRole r (fun x => { x with lenNext := l }))
  pure resOk

def execEngineLenSet (cid : Nat) (hr : HostRead) (s : State) : Ans := hasp 0x0150 cid hr bodyEngineLen s

/-- ROLE_LEN_APPLY: once the role's engine has no workspace and runs no job (R138). -/
def roleLenApply (r : Nat) (d : Dev) : Dev :=
  let x := roleOf d r
  match x.engine with
  | none => d
  | some e =>
    if x.lenNext ≠ x.len ∧ engIdle d e = true ∧ (wsOn d e).isEmpty = true ∧ x.handover.isNone = true then
      onRole r (fun x => { x with len := x.lenNext }) d |> onEng e (fun g => { g with len := x.lenNext })
        |> guardDraw e |> logEv 0x4136 0x8B r e x.lenNext |> dispatch
    else d

def execRoleLenApply (role : Role) (s : State) : Ans := nextD (roleLenApply role) s

def bodyLongPool (c : Cmd) (_ : HostRead) : Run Res := do
  let v := par c 64 1
  need (zeroPar c 65 128 && hA c == 0 && hB c == 0) stParam 0
  need (v ≤ 1) stParam 0x0409
  need (!keepOnly (← get)) stDegraded 0
  eff (recWrite (settingRec 1) 1)
  eff (onBrl (fun b => { b with longPool := v == 1, poolEmptied := b.poolEmptied && v == 1 }))
  eff (logEv 0x4134 0x8B (if v = 1 then 1 else 2) (poolFilled (← get)) 0)
  eff poolCheck
  eff dispatch
  pure resOk

def execLongPoolSet (cid : Nat) (hr : HostRead) (s : State) : Ans := hasp 0x0151 cid hr bodyLongPool s

/-! ## Abort, substitution, handover, tests -/

/-- ENGINE_ABORT: a write of 1 to BRL_CTRL.abort by world K or C (R163, R178). -/
def execEngineAbort (acc : Access) (e : Engine) (s : State) : Ans :=
  nextD (regAction acc (70 + e.val) 0x008 [.K, .C] (engAbort e resRetry)) s

/-- The engine goes on from idle: its test or its next job, unless a test runs. -/
def engGo (e : Engine) (d : Dev) : Dev := if engIdle d e then engFree e d else d

/-- SPARE_ROLE_TAKE: a spare that passes its self-test takes the length, image and place of a vacant role (R165 step 4). An
assignment to one that shuts down is held (R164). -/
def spareTake (sp : Engine) (role : Nat) (pass : Bool) (d : Dev) : Dev :=
  if isSpare d sp && !inHandover d sp && d.brl.rollHold != some sp.val && (roleOf d role).engine.isNone && d.brl.rollFor != some role then
    if !pass then engRemove sp 3 resRetry d
    else if (engOf d sp).stopping then onEng sp (fun g => { g with heldRole := some role }) d
    else
      onRole role (fun r => { r with engine := some sp }) d
        |> onEng sp (fun g => { g with image := (roleOf d role).image, len := (roleOf d role).len })
        |> logEv 0x7120 0x8B (roleOf d role).removed sp role |> poolCheck |> engGo sp
  else d

def execSpareRoleTake (spare : Engine) (role : Role) (pass : Bool) (s : State) : Ans := nextD (spareTake spare role pass) s

/-- The shutdown is over: the engine works again, from full initialisation, in the role that was held for it (R164). -/
def engRestart (e : Engine) (d : Dev) : Dev :=
  let d1 := onEng e (fun g => { g with stopping := false, heldRole := none }) d
  if (engOf d e).out then d1
  else match (engOf d e).heldRole with
    | some r => spareTake e r true d1 |> engGo e
    | none => engFree e d1

/-- ENGINE_ABORT_DONE (R163 step 4, R164): the guards are redrawn and the engine is ready again; in a block reset it waits
for the self-test. -/
def engAbortDone (e : Engine) (d : Dev) : Dev :=
  if (engOf d e).stopping then
    let d1 := if (engOf d e).aborting then onEng e (fun g => { g with aborting := false }) d |> guardDraw e else d
    if blkResetting d (.barrel e) then d1 else engRestart e d1
  else d

def execEngineAbortDone (e : Engine) (s : State) : Ans := nextD (engAbortDone e) s

/-- The move of R166: workspaces and role go to S, O is cleared and becomes a spare. -/
def roleMove (role : Nat) (o sp : Engine) (d : Dev) : Dev :=
  onBrl (fun b => { b with ws := b.ws.map (fun w => if w.engine == o then { w with engine := sp } else w) }) d
    |> onHif (fun h => { h with cmds := h.cmds.map (fun c =>
        match c.loc with | .wsQ e l => if e == o then { c with loc := .wsQ sp l } else c | _ => c) })
    |> onRole role (fun r => { r with engine := some sp, handover := none })
    |> guardDraw o |> logEv 0x7120 0x8B o sp role

/-- HANDOVER_MOVE: after O's current run, to a spare that still works (R166 steps 3 to 5). -/
def handoverMove (role : Nat) (d : Dev) : Dev :=
  match (roleOf d role).handover, (roleOf d role).engine with
  | some (sp, cid), some o =>
    if !engIdle d o || !engInService d sp then d
    else roleMove role o sp d
      |> doIf (decide (cid ≠ 0)) (svcDone cid resOk)
      |> engFree o |> dispatch
  | _, _ => d

def execHandoverMove (role : Role) (s : State) : Ans := nextD (handoverMove role) s

/-- BARREL_KAT_DUE: the test runs at once on an idle engine, else when it is next idle (R167). -/
def barrelKatDue (e : Nat) (d : Dev) : Dev :=
  if (engOf d e).out then d
  else if engIdle d e then onEng e (fun g => { g with running := some 0, katDue := false }) d
  else onEng e (fun g => { g with katDue := true }) d

def execBarrelKatDue (e : Engine) (s : State) : Ans := nextD (barrelKatDue e) s

/-- KAT_HANDOVER_TIMEOUT: 60 s without an idle moment (R167). -/
def execKatHandoverTimeout (e : Engine) (s : State) : Ans :=
  nextD (fun d => match roleHeld d e with
    | some r => if (engOf d e).katDue then handoverStart r 0 d |> dispatch else d
    | none => d) s

/-! ## Microcode (R144, R168 to R170) -/

/-- An entry joins a catalogue in the order of prog_id (R145). -/
def catInsert (e : Bytes) : List Bytes → List Bytes
  | [] => [e]
  | x :: l => if fieldLE e 32 2 ≤ fieldLE x 32 2 then e :: x :: l else x :: catInsert e l

/-- The catalogue of an image, entry by entry as it stands. -/
def ucodeCat (b : Bytes) : List Bytes := chunks 64 (slice b (fieldLE b 20 4) (64 * fieldLE b 16 2))

/-- The record of an image that has the right form: its magic, and its fields within the bounds of R144 (of which R168 names
the magic and the length alone; log entry 144). -/
def ucodeParse (b : Bytes) : Option ImageRec :=
  let n := fieldLE b 16 2
  let body := 64 + fieldLE b 12 4
  let cat := fieldLE b 20 4
  let code := fieldLE b 24 4
  if b.length = 262144 ∧ b.take 4 = ascii "ZBMI" ∧ 1 ≤ n ∧ n ≤ 1024 ∧ 1 ≤ fieldLE b 8 4 ∧ body ≤ 0x3E000
      ∧ 64 ≤ cat ∧ cat + 64 * n ≤ body ∧ 64 ≤ code ∧ code ≤ body then
    some { version := BitVec.ofNat 32 (fieldLE b 4 4), svn := BitVec.ofNat 32 (fieldLE b 8 4), resetRequired := false
           cat := ((ucodeCat b).foldr catInsert []).flatten, code := slice b code (body - code) }
  else none

/-- The reserved fields of an image, of its catalogue entries, and its zero fill (R144, R145, R6). -/
def ucodeZero (b : Bytes) : Bool :=
  let body := 64 + fieldLE b 12 4
  (slice b 18 2).all (· = 0) && (slice b 28 36).all (· = 0) && (slice b 0x3F213 0x1ED).all (· = 0) && (slice b 0x3F460 0xBA0).all (· = 0)
    && (slice b body (0x3E000 - body)).all (· = 0)
    && (ucodeCat b).all (fun e => (slice e 51 13).all (· = 0) && decide (fieldLE e 34 2 < 128))

/-- Both signatures of an image verify (R144). -/
def ucodeSigned (b : Bytes) : Bool :=
  verifyMldsa Config.zilxiaMldsaKey (b.take 0x3E000) (slice b 0x3E000 4627) &&
    ecdsa384 Config.zilxiaEcKey (b.take 0x3E000) (slice b 0x3F400 96)

def curVersion (d : Dev) : Nat := ((imageOf d d.brl.selectB).map (·.version.toNat)).getD 0
def newVersion (d : Dev) : Nat := ((imageOf d (!d.brl.selectB)).map (·.version.toNat)).getD 0

def bodyUcode (c : Cmd) (hr : HostRead) : Run Res := do
  need (zeroPar c 64 128 && hA c == 0 && hB c == 0) stParam 0
  let d ← get
  need (c.inLen == 262144) stParam 0x0404
  let b := inData c hr
  match ucodeParse b with
  | none => fail stParam 0x0404
  | some img =>
    need (ucodeZero b) stParam 0
    needLog (ucodeSigned b) stParam 0x040D (logEv 0x4133 0x8B 5 (curVersion d) img.version.toNat)
    need (rwpVal d rwpUcodeMinsv ≤ img.svn) stParam 0x040F
    if d.brl.rollPhase ≠ 0 then wrongState c 1
    need (!keepOnly d) stDegraded 0
    match rwpRefused d rwpUcodeMinsv with
    | some st => fail st 0
    | none => pure ()
    eff (recWrite (ucodeRec (if d.brl.selectB then 0 else 1)) 64)
    eff (onBrl (fun x => if x.selectB then { x with ucodeA := some img } else { x with ucodeB := some img }))
    eff (onBrl (fun x => { x with rollPhase := 1, rollRole := 0, rollCid := some c.cid }))
    eff (logEv 0x4133 0x8B 1 (curVersion d) img.version.toNat)
    throw .running

def execUcodeInstall (cid : Nat) (hr : HostRead) (s : State) : Ans := hasp 0x0152 cid hr bodyUcode s

/-- The array is at rest between rolls; a vacant role's image is the current one again (R165, R170). -/
def rollIdle (b : BrlS) : BrlS :=
  { b with
    rollPhase := 0, rollRole := 0, rollCid := none, rollHold := none, rollRetest := false, rollRes := none, rollFor := none
    roles := b.roles.map (fun p => (p.1, if p.2.engine.isNone then { p.2 with image := b.selectB } else p.2)) }

/-- Ends the roll with every engine on the current image: EV_4133, and the image of the roll is erased (R170). -/
def rollAbandon (reason : Nat) (res : Option Res) (d : Dev) : Dev :=
  let ev := logEv 0x4133 0x8B reason (curVersion d) (newVersion d)
  let d1 := onBrl (fun b =>
    let b := if b.selectB then { b with ucodeA := none } else { b with ucodeB := none }
    { rollIdle b with engs := (List.range 18).map (fun e => (e, { tget b.engs e {} with image := b.selectB })) }) (rollGive d)
    |> doIf (!keepOnly d) (recErase (ucodeRec (if d.brl.selectB then 0 else 1))) |> ev |> dispatch
  match d.brl.rollCid, res with
  | some cid, some r => finishRunning cid r d1
  | _, _ => d1

/-- The roll turns back; when every engine is on the current image again, UCODE_INSTALL ends with `res` (R170). -/
def rollReverse (res : Res) (d : Dev) : Dev :=
  onBrl (fun b => { b with rollPhase := 3, rollRes := some res, rollHold := none, rollRetest := false }) (rollGive d)

/-- The end of the roll: the selector, the minimum version, EV_4133 and the command (R169 step 3). A store that has come to admit
only keep writes refuses the selector, and the roll turns back (R401; DEDUCED, log entry 170). -/
def rollFinish (d : Dev) : Dev :=
  if keepOnly d then rollReverse (resErr stDegraded 0) d else
  let svn := ((imageOf d (!d.brl.selectB)).map (·.svn)).getD 0
  let ev := logEv 0x4133 0x8B 2 (curVersion d) (newVersion d)
  let d1 := onBrl (fun b => rollIdle { b with selectB := !b.selectB }) d
    |> recWrite (ucodeRec 2) 1 |> rwpWrite rwpUcodeMinsv svn |> ev
  match d.brl.rollCid with
  | some cid => finishRunning cid resOk d1
  | none => d1


/-- An engine fails its test on the new image: EV_4131, and the roll is reversed with that engine first; a role that it left
stays vacant meanwhile (R169, R170). -/
def rollFail (e : Nat) (d : Dev) : Dev :=
  logEv 0x4131 0x8B e (katProg e) (b2n (!d.brl.selectB)) d
    |> onBrl (fun b => { b with rollPhase := 3, rollRes := some (resErr stParam 0x040E), rollHold := some e, rollRetest := true })

/-- An engine loads an image and is tested, and one that left its role takes it again. One that fails on the new image ends
the roll; one that fails on the old image is removed. -/
def rollLoad (e role : Nat) (new pass : Bool) (d : Dev) : Dev :=
  let d1 := onEng e (fun g => { g with image := if new then !d.brl.selectB else d.brl.selectB }) d
  let loaded := fun (d : Dev) => onBrl (fun b => { b with rollHold := none, rollRetest := false }) (rollGive d)
  if !pass then (if new then rollFail e d1 else katRemove e (katProg e) (loaded d1))
  else (if new then logEv 0x4132 0x8B e role (newVersion d1) (loaded d1) else loaded d1) |> dispatch

/-- An engine runs the image that the roll moves away from. -/
def rollOld (d : Dev) (e : Nat) : Bool := ((engOf d e).image == d.brl.selectB) == decide (d.brl.rollPhase ≠ 3)

/-- The spares that have yet to load. -/
def rollSpares (d : Dev) : List Nat := (List.range 18).filter (fun e => isSpare d e && !inHandover d e && rollOld d e)

/-- The next role whose engine has yet to load: in ascending order, and in a reversal in descending order. -/
def rollNext (d : Dev) : Option (Nat × Engine) :=
  ((if d.brl.rollPhase = 3 then (List.range 16).reverse else List.range 16).filterMap (fun r =>
    (roleOf d r).engine.bind (fun e => if rollOld d e then some (r, e) else none))).head?

/-- The role's turn: it passes to a spare that has loaded, which a HANDOVER_MOVE completes; with no spare in service its
engine leaves it, ends its run, takes no other and is updated in place at a later step (R169 step 2). -/
def rollRole (r : Nat) (o : Engine) (d : Dev) : Dev :=
  let d := onBrl (fun b => { b with rollRole := r }) d
  if (roleOf d r).handover.isSome then d
  else
    match (sparesFree d).find? (fun (e : Engine) => !rollOld d e.val) with
    | some s => handoverTo r 0 s (engOf d s).image d |> dispatch
    | none =>
      if (List.range 18).any (isSpare d) then d else rollVacate r o d

/-- Nothing is left to load: the roll ends, or its reversal does. -/
def rollEnd (d : Dev) : Dev :=
  if !(rollSpares d).isEmpty || (rollNext d).isSome || d.brl.rollHold.isSome || (List.range 16).any (fun r => (roleOf d r).handover.isSome) then d
  else if d.brl.rollPhase = 3 then rollAbandon 3 d.brl.rollRes d
  else rollFinish d

/-- The engine that failed reloads the current image and is tested again, one that left its role is updated when its run has
ended; then the spares, then the roles. A spare that shuts down or is being tested is waited for (R164). -/
def rollTurn (pass : Bool) (d : Dev) : Dev :=
  match d.brl.rollHold with
  | some e => if engIdle d e then rollLoad e (d.brl.rollFor.getD 0x1F) (!d.brl.rollRetest && d.brl.rollPhase != 3) pass d else d
  | none =>
    match (rollSpares d).find? (engIdle d), d.brl.rollPhase with
    | some e, ph => rollLoad e (if ph = 1 then 0x1F else d.brl.rollRole) (ph != 3) pass d
    | none, 1 => if (rollSpares d).isEmpty then onBrl (fun b => { b with rollPhase := 2 }) d else d
    | none, _ => match rollNext d with
      | some (r, o) => rollRole r o d
      | none => d

/-- UCODE_ROLL_STEP: the next engine of the roll is updated, or in a reversal goes back; the last one ends it (R169, R170). In die
safe state and tamper hold nothing moves: the reset that ends them abandons the roll (R13, R171). -/
def rollStep (katPass : Bool) (d : Dev) : Dev :=
  if d.brl.rollPhase = 0 || d.die.safe || d.tmp.hold then d
  else
    let d1 := rollTurn katPass d
    let d2 := if d.brl.rollPhase = 1 ∧ d1.brl.rollPhase = 2 then rollTurn katPass d1 else d1
    rollEnd d2

def execUcodeRollStep (katPass : Bool) (s : State) : Ans := nextD (rollStep katPass) s

/-! ## Effects of other units on the array -/

/-- G2, G3, or a warm reset: every job ends with ST_RETRY, every slot is zeroed, every workspace void, a roll ends (R162, R171). -/
def brlReset (reason : Nat) (d : Dev) : Dev :=
  let isJob := fun (c : Cmd) => !isDone c && (classOf c.code == 0x04 || isKeygenJob c) && c.dupOf.isNone && isAccepted c
  let d1 := onHif (fun h => { h with cmds := lmod h.cmds isJob (fun c => { c with stage := .done resRetry, loc := .none, waitOn := [] }) }) d
    |> onBrl (fun b => { b with
        ws := b.ws.map (fun w => { w with void := true, items := [] })
        engs := b.engs.map (fun p => (p.1, { p.2 with
          running := none, stopping := false, aborting := false, direct := [], heldRole := none }))
        roles := b.roles.map (fun p => (p.1, { p.2 with handover := none })) })
  if d.brl.rollPhase = 0 then d1 else rollAbandon reason (some resRetry) d1

end Sys2Proof.Machine
end

