-- ==== Sys2Proof/Machine/Tree.lean ====
section
/-! DEFINITION. The counter tree of the vault (09): nodes and their MACs, block encryption, the knuckle cache, requests
to the host, write-back with renewal and rekey of inner nodes (R225 to R237, R240 to R242, R248). -/

namespace Sys2Proof.Machine

/-! ## Nodes (R230 to R235) -/

def nMinor (n : Node) (i : Nat) : Nat := n.minors.getD i 0
def nSetMinor (n : Node) (i v : Nat) : Node := { n with minors := (List.range 64).map (fun j => if j = i then v else nMinor n j) }
def nGen (n : Node) : Nat := n.major / 2 ^ 48
def nCount (n : Node) : Nat := n.major % 2 ^ 48
/-- A child's counter is blank (R233). -/
def nBlank (n : Node) (i : Nat) : Bool := nMinor n i == 0 && nCount n == 0

/-- Bytes 0 to 55 of a node (R231). -/
def nodeBody (n : Node) : Bytes :=
  natLE ((List.range 64).foldl (fun a i => a + nMinor n i % 64 * 2 ^ (6 * i)) 0) 48 ++ natLE n.major 8

/-- A node from its 64 bytes. -/
def nodeOf (b : Bytes) : Node :=
  let m := leNat (slice b 0 48)
  ⟨(List.range 64).map (fun i => m / 2 ^ (6 * i) % 64), fieldLE b 48 8⟩

/-- The partition of a node. -/
def nodePart (level idx : Nat) : Nat := idx / 64 ^ (6 - level)

/-- A key derived from a partition key (R232, R235). -/
def partKdf (p : Part) (label ctx : Bytes) : Bytes := kdfCtr (.hmac .sha256) p.key label ctx 32
def nodeKey (p : Part) : Bytes := partKdf p (ascii "ZXVN") []
def blockKey (p : Part) (gen : Nat) : Bytes := partKdf p (ascii "ZXVB") (natLE gen 2)

/-- The instance salt where the partition has one: P63 (R232). -/
def saltOf (d : Dev) (p : Nat) : Bytes := if p = 63 then natLE (partOf d 63).salt.toNat 8 else []

/-- The MAC of a node under its parent's counter (R232). -/
def nodeMac (d : Dev) (level idx : Nat) (n : Node) (pmaj pmin : Nat) : Bytes :=
  let p := nodePart level idx
  kmac128 (nodeKey (partOf d p)) (nodeBody n ++ [byte level] ++ natLE idx 8 ++ natLE pmaj 8 ++ [byte pmin] ++ saltOf d p) 8 (ascii "ZXVN")

/-! ## Blocks (R228, R229) -/

def blockIv (index : Nat) (maj min : Nat) : Bytes := natBE (index * 2 ^ 54 + maj % 2 ^ 48 * 64 + min % 64) 12
def blockAad (d : Dev) (index : Nat) : Bytes := natLE index 8 ++ saltOf d (index / 2 ^ 36)

/-- The block entry of a plaintext under a counter, with an epoch label. -/
def blockEntry (d : Dev) (index epoch maj min : Nat) (pt : Bytes) : Bytes :=
  let c := gcmEnc (blockKey (partOf d (index / 2 ^ 36)) (maj / 2 ^ 48)) (blockIv index maj min) (blockAad d index) pt
  natLE index 8 ++ natLE epoch 8 ++ c.1 ++ c.2

/-- The plaintext of a block entry whose index and tag are right under a counter. -/
def blockOpen (d : Dev) (index maj min : Nat) (e : Bytes) : Option Bytes :=
  if fieldLE e 0 8 = index then
    gcmDec (blockKey (partOf d (index / 2 ^ 36)) (maj / 2 ^ 48)) (blockIv index maj min) (blockAad d index) (slice e 16 4096) (slice e 4112 16)
  else none

/-! ## The cache (R236) -/

def isLine (level idx : Nat) (l : Line) : Bool := l.level == level && l.index == idx
def lineOf (d : Dev) (level idx : Nat) : Option Line := d.vlt.cache.find? (isLine level idx)
def nodeIn (d : Dev) (level idx : Nat) : Option Node := (lineOf d level idx).map (·.node)
def onLine (level idx : Nat) (f : Line → Line) : Dev → Dev := onVlt (fun v => { v with cache := lmod v.cache (isLine level idx) f })

/-- Marks a line as just used. -/
def lineTouch (level idx : Nat) (d : Dev) : Dev :=
  onVlt (fun v => { v with clock := v.clock + 1 }) d |> onLine level idx (fun l => { l with used := d.vlt.clock + 1 })

def isPinned (l : Line) : Bool := 4 ≤ l.level
def unpinnedLines (d : Dev) : Nat := count d.vlt.cache (fun l => !isPinned l)
def dirtyLines (d : Dev) : Nat := count d.vlt.cache (·.dirty)
def dirtyUnpinned (d : Dev) : Nat := count d.vlt.cache (fun l => l.dirty && !isPinned l)

/-- The least recently used line among those that meet `p`. -/
def lruLine (d : Dev) (p : Line → Bool) : Option Line :=
  d.vlt.cache.foldl (fun a l => if p l then (match a with
    | none => some l
    | some b => if l.used < b.used then some l else a) else a) none

/-- A clean line leaves the unpinned area. -/
def lineEvict (x : Line) : Dev → Dev :=
  onVlt (fun v => { v with cache := v.cache.filter (fun l => !isLine x.level x.index l), evictions := v.evictions + 1 })

/-- A request is open that needs the line: a fetch of a child, a rekey of its group, or a fetch of one of its blocks (R260). -/
def lineAwaited (d : Dev) (l : Line) : Bool :=
  d.vlt.reqs.any (fun r =>
    (r.kind == 1 && r.nodes.any (fun p => p.1 + 1 == l.level && p.2 / 64 == l.index))
    || (r.kind == 3 && l.level == 1 && r.index == l.index)
    || (r.kind == 4 && l.level == 1 && r.index / 64 == l.index))

/-- The unpinned area holds 257,984 lines: a full one drops its least recently used clean line (R236; log entry 236). -/
def lineWay (d : Dev) : Dev :=
  if unpinnedLines d < 257984 then d
  else
    match lruLine d (fun l => !isPinned l && !l.dirty && !lineAwaited d l) with
    | some l => lineEvict l d
    | none => d

/-- Enters a verified or zero node as a clean line. -/
def lineEnter (level idx : Nat) (n : Node) (d : Dev) : Dev :=
  if (lineOf d level idx).isSome then d
  else
    onVlt (fun v => { v with clock := v.clock + 1, cache := v.cache ++ [⟨level, idx, n, false, v.clock + 1⟩] })
      (if level ≤ 3 then lineWay d else d)

/-- Drops every line of a partition. -/
def linesDrop (p : Nat) : Dev → Dev := onVlt (fun v => { v with cache := v.cache.filter (fun l => nodePart l.level l.index != p) })

/-! ## Paths (R245 steps 1 and 2) -/

/-- Brings a node into the cache: from the lowest cached ancestor downward blank children are taken as zero nodes; the
others are missing and answered in order from the top. `n` counts the levels left above the node. -/
def pathGo (level idx : Nat) : Nat → Dev → Except (List (Nat × Nat)) Dev
  | 0, d => .ok d
  | n + 1, d =>
    -- the node at level + n of the path
    let k := level + n
    let i := idx / 64 ^ n
    match nodeIn d k i with
    | some _ => pathGo level idx n d
    | none =>
      match nodeIn d (k + 1) (i / 64) with
      | none => .error ((List.range (n + 1)).reverse.map (fun j => (level + j, idx / 64 ^ j)))
      | some par =>
        if nBlank par (i % 64) then pathGo level idx n (lineEnter k i {} d)
        else .error ((List.range (n + 1)).reverse.map (fun j => (level + j, idx / 64 ^ j)))

/-- The number of path levels below the lowest cached node. -/
def pathDepth (d : Dev) (level idx : Nat) : Nat :=
  ((List.range (7 - level)).find? (fun n => (lineOf d (level + n) (idx / 64 ^ n)).isSome)).getD (7 - level)

/-- Ensures that a node is in the cache. -/
def nodeEnsure (level idx : Nat) (d : Dev) : Except (List (Nat × Nat)) Dev :=
  let n := pathDepth d level idx
  let hit := n == 0
  let d := onVlt (fun v => if hit then { v with hits := v.hits + 1 } else { v with misses := v.misses + 1 }) d
  if hit then .ok (lineTouch level idx d) else pathGo level idx n d

/-! ## Requests (R240 to R242) -/

/-- The function that a partition's requests go to. -/
def partFn (d : Dev) (p : Nat) : Nat := let o := (partOf d p).owner; if o = 0x80 then 0 else o

def reqWait (id : Nat) : Nat := 2000000 + id
def waitCommit : Nat := 1000002
def waitStall : Nat := 1000003

def nodeDesc (p : Nat × Nat) : Bytes := natLE p.2 8 ++ [byte p.1] ++ zeros 7

/-- A new request; the number it gets. -/
def reqAdd (r : VReq) (d : Dev) : Nat × Dev :=
  let id := d.vlt.nextReq
  (id, onVlt (fun v => { v with reqs := v.reqs ++ [{ r with id := id }], nextReq := if id + 1 ≥ 2 ^ 32 then 1 else id + 1 }) d)

def reqBlank (d : Dev) (kind part : Nat) : VReq := {
  id := 0, kind, fn := partFn d part, part, epoch := 0, index := 0, mask := 0, nodes := [], payload := [], posted := false
  waiters := [], held := false }

/-- The NODE_FETCH for a list of nodes: the outstanding one, or a new one. -/
def fetchReq (part : Nat) (nodes : List (Nat × Nat)) (d : Dev) : Nat × Dev :=
  match d.vlt.reqs.find? (fun r => r.kind == 1 && r.nodes == nodes) with
  | some r => (r.id, d)
  | none =>
    let r := reqAdd { reqBlank d 1 part with nodes := nodes } d
    (r.1, onVlt (fun v => { v with nodeFetches := v.nodeFetches + BitVec.ofNat 64 nodes.length }) r.2)

/-- The bytes of a request (R241). -/
def reqBytes (d : Dev) (r : VReq) : Bytes :=
  let body := if r.kind = 1 then r.nodes.flatMap nodeDesc else if r.kind = 2 ∨ r.kind = 5 then r.payload else []
  let cnt := if r.kind = 1 then r.nodes.length else if r.kind = 2 then r.payload.length / 80 else if r.kind = 5 then 1 else 0
  natLE r.kind 2 ++ natLE cnt 2 ++ natLE r.id 4 ++ [byte r.part] ++ zeros 7 ++ natLE r.epoch 8 ++ natLE r.index 8
    ++ natLE r.mask.toNat 8 ++ (if r.part = 63 then natLE (partOf d 63).salt.toNat 8 else zeros 8) ++ zeros 16 ++ body

/-- A node entry (R241). -/
def nodeEntry (d : Dev) (level idx : Nat) (n : Node) (pmaj pmin : Nat) : Bytes :=
  nodeDesc (level, idx) ++ nodeBody n ++ nodeMac d level idx n pmaj pmin

/-- Hands one node entry to the host: it joins an unposted NODE_STORE of its partition and label with room, or a new one. -/
def nodeStore (epoch level idx : Nat) (n : Node) (pmaj pmin : Nat) (d : Dev) : Dev :=
  let p := nodePart level idx
  let e := nodeEntry d level idx n pmaj pmin
  let fits := fun (r : VReq) => r.kind == 2 && r.part == p && r.epoch == epoch && !r.posted && decide (r.payload.length < 96 * 80)
  let d1 := onVlt (fun v => { v with nodeStores := v.nodeStores + 1 }) d
    |> onPart p (fun x => { x with label := max x.label epoch })
  match d.vlt.reqs.find? fits with
  | some r => onVlt (fun v => { v with reqs := lmod v.reqs (fun x => x.id == r.id) (fun x => { x with payload := x.payload ++ e }) }) d1
  | none => (reqAdd { reqBlank d 2 p with epoch := epoch, payload := e } d1).2

/-! ## Write-back (R237), with renewal (R235) and rekey (R248) of the parent -/

/-- EV_3308 (R234). -/
def logCount (level idx : Nat) : Dev → Dev := logEv 0x3308 0x48 level (idx / 2 ^ 32 % 1024) (idx % 2 ^ 32)

/-- Ensures every child of a node that `p` names, the missing ones in one fetch. -/
def childrenEnsure (level idx : Nat) (kids : List Nat) (d : Dev) : Except (List (Nat × Nat)) Dev :=
  let r := kids.foldl (fun (a : List (Nat × Nat) × Dev) j =>
    match nodeEnsure (level - 1) (64 * idx + j) a.2 with
    | .ok d => (a.1, d)
    | .error m => (a.1 ++ m, a.2)) ([], d)
  if r.1.isEmpty then .ok r.2 else .error (r.1.take 63)

/-- Hands out the children named, each under the parent's present counter, and marks their lines clean. -/
def childrenStore (epoch level idx : Nat) (kids : List Nat) (par : Node) (d : Dev) : Dev :=
  forAll kids (fun j d =>
    let c := 64 * idx + j
    nodeStore epoch (level - 1) c ((nodeIn d (level - 1) c).getD {}) par.major (nMinor par j) d
      |> onLine (level - 1) c (fun l => { l with dirty := false })) d

/-- The parent after renewal and, where the child's minor stands at 63, after the rekey; the children that either
hands out again. -/
def renewNode (g : Nat) (n : Node) : Node :=
  ⟨(List.range 64).map (fun i => if nBlank n i then 0 else 1), g * 2 ^ 48⟩

/-- A write-back of the line would raise its parent's count beyond 2^48 - 1 (R234). -/
def lineStuck (d : Dev) (l : Line) : Bool :=
  match nodeIn d (l.level + 1) (l.index / 64) with
  | some par => !decide (nGen par < (partOf d (nodePart l.level l.index)).gen) && nMinor par (l.index % 64) == 63
      && nCount par + 1 == 2 ^ 48
  | none => false

/-- Writes a dirty node of level 1 to 5 back to the host; what is missing for it where it cannot yet. At the limit of a
count nothing changes (R234). -/
def writeBack (epoch level idx : Nat) (d : Dev) : Except (List (Nat × Nat)) Dev :=
  let pl := level + 1
  let pi := idx / 64
  let j := idx % 64
  match nodeEnsure pl pi d with
  | .error m => .error m
  | .ok d =>
    let g := (partOf d (nodePart level idx)).gen
    let par := (nodeIn d pl pi).getD {}
    let renewKids := if nGen par < g then (List.range 64).filter (fun i => !nBlank par i && i != j) else []
    match childrenEnsure pl pi renewKids d with
    | .error m => .error m
    | .ok d =>
      let par1 := if nGen par < g then renewNode g par else par
      let d := if nGen par < g then childrenStore epoch pl pi renewKids par1 d else d
      let rekey := nMinor par1 j == 63
      if rekey && nCount par1 + 1 == 2 ^ 48 then .ok (logCount pl pi d)
      else
        let others := if rekey then (List.range 64).filter (· != j) else []
        match childrenEnsure pl pi others d with
        | .error m => .error m
        | .ok d =>
          let par2 := if rekey then ⟨[], par1.major + 1⟩ else nSetMinor par1 j (nMinor par1 j + 1)
          let d := if rekey then onVlt (fun v => { v with rekeys := v.rekeys + 1 }) d |> childrenStore epoch pl pi others par2 else d
          .ok (childrenStore epoch pl pi [j] par2 d |> onLine pl pi (fun l => { l with node := par2, dirty := true }))

/-- Writes back lines while `more` names one, or asks for the nodes that are missing. `fuel` bounds the lines. -/
def writeBackLoop (epoch : Nat) (more : Dev → Option Line) : Nat → Dev → Dev
  | 0, d => d
  | f + 1, d =>
    match more d with
    | none => d
    | some l =>
      match writeBack epoch l.level l.index d with
      | .ok d => writeBackLoop epoch more f d
      | .error m => (fetchReq (nodePart l.level l.index) m d).2

/-! ## Replacement (R236, R260) -/

/-- Steps 1 to 3 of a commit, in which writes wait (R249). -/
def commitHolds (d : Dev) : Bool := (d.vlt.commit.map (fun m => decide (m.step < 3))).getD false

/-- The label of a node handed out: in steps 1 to 3 of a commit every dirty line was dirty at its step 1, or is the parent of
one that was (R249). -/
def storeEpoch (d : Dev) : Nat :=
  match d.vlt.commit with
  | some m => if m.step < 3 then m.epoch else d.vlt.openEpoch
  | none => d.vlt.openEpoch

/-- Stalled writes go on once the count of dirty lines is below 196,608 (R237). -/
def stallEnd (d : Dev) : Dev := if dirtyLines d < 196608 then wake waitStall d else d

/-- Frees the ways of a path's three unpinned lines, least recently used first: a clean line is dropped, a dirty one
written back before. What a write-back lacks is the answer where one has to wait for the host. `n` bounds the lines. -/
def makeWay : Nat → Dev → Except (Nat × List (Nat × Nat)) Dev
  | 0, d => .ok d
  | n + 1, d =>
    if unpinnedLines d + 3 ≤ 257984 then .ok d
    else
      match lruLine d (fun l => !isPinned l && !lineAwaited d l && !(l.dirty && lineStuck d l)) with
      | none => .ok d
      | some l =>
        if l.dirty then
          match writeBack (storeEpoch d) l.level l.index d with
          | .ok d => makeWay n (lineEvict l d)
          | .error m => .error (nodePart l.level l.index, m)
        else makeWay n (lineEvict l d)

end Sys2Proof.Machine
end

