-- ==== Sys2Proof/Machine/Vault.lean ====
section
/-! DEFINITION. The vault engine (09): VLT commands, partitions, requests to the host with their answers and timeouts,
epochs and the root ring, start-up and reset of the engine, and the write of spill records. -/

namespace Sys2Proof.Machine

/-! ## Partitions and admission -/

def isBound (d : Dev) (p : Nat) : Bool := (partOf d p).owner != 0
def boundParts (d : Dev) : List Nat := (List.range 64).filter (isBound d)
def partsOf (d : Dev) (fn : Nat) : List Nat := (List.range 63).filter (fun p => fn != 0 && (partOf d p).owner == fn)

/-- EV_3309 (R262). -/
def log3309 (fn what detail : Nat) : Dev → Dev := logEv 0x3309 0x48 fn what detail

/-- The handles and the reserved bytes of a VLT command are zero: looked at before its session (R6, R71, R238). -/
def needVltForm (c : Cmd) (reserved : Bool) : Run Unit := do
  need (hA c == 0 && hB c == 0) stParam 0x0701
  need reserved stParam 0

/-- R239: hook sessions carry hooks alone. A task's command belongs to no hook session. -/
def needVltSession (c : Cmd) (hook : Bool) : Run Unit := do
  if isHost c then
    let s := tget (← get).hif.sess (c.session.toNat % 65536) {}
    if (if hook then s.otherVlt else s.hook) then wrongState c 1

/-- The session has carried the command. DEDUCED (log entry 239): one that a check refuses has no effect and is not counted. -/
def vltCarried (c : Cmd) (hook : Bool) : Dev → Dev :=
  doIf (isHost c) (onHif (fun h => { h with sess := tmod h.sess (c.session.toNat % 65536) {} (fun s =>
    if hook then { s with hook := true } else { s with otherVlt := true }) }))

/-- No other vault command that could start goes before this one: they are queued by queue priority, and of one priority in
order of acceptance (R55, R256). -/
def vltFirst (d : Dev) (c : Cmd) : Bool :=
  !d.hif.cmds.any (fun x => x.cid != c.cid && classOf x.code == 0x07 && x.code != 0x0703 && mayStart d x && x.waitOn.isEmpty
    && (decide (c.prio < x.prio) || (c.prio == x.prio && decide (x.cid < c.cid))))

/-- Waits for the command's turn at the vault engine. -/
def needVltTurn (c : Cmd) : Run Unit := do
  if !vltFirst (← get) c then throw (.wait [])

/-- The block index of a data command and the admission of its partition (R225, R226, R253, R259). -/
def needBlockIndex (c : Cmd) : Run Nat := do
  let b := par c 64 8
  need (b < 2 ^ 42) stParam 0x0703
  let p := b / 2 ^ 36
  let d ← get
  let x := partOf d p
  let mine := x.owner != 0 && x.owner != 0x80 && c.owner == ⟨.T, x.owner⟩
  needLog mine stParam 0x0702 (log3309 (cmdFn c) p 0x0702)
  pure b

def needOnline (p : Nat) : Run Unit := do
  let d ← get
  need (!d.vlt.rollback && (partOf d p).state != 4) stLost 0
  need (d.vlt.ready && (partOf d p).state == 3) stRetry 0x0711

/-- Asks the host for missing nodes and waits. -/
def waitNodes {α : Type} (c : Cmd) (p : Nat) (m : List (Nat × Nat)) : Run α := do
  let id ← step' (fetchReq p m)
  eff (onVlt (fun v => { v with reqs := lmod v.reqs (fun r => r.id == id) (fun r =>
    { r with waiters := if r.waiters.contains c.cid then r.waiters else r.waiters ++ [c.cid] }) }))
  throw (.wait [reqWait id])

/-- Brings the L1 node of a block into the cache. -/
def needPath (c : Cmd) (b : Nat) : Run Node := do
  if (lineOf (← get) 1 (b / 64)).isNone then
    match makeWay 64 (← get) with
    | .ok d => set (stallEnd d)
    | .error (p, m) => waitNodes c p m
  match nodeEnsure 1 (b / 64) (← get) with
  | .ok d =>
    set d
    pure ((nodeIn d 1 (b / 64)).getD {})
  | .error m => waitNodes c (b / 2 ^ 36) m

/-- EV_3301 and the suspect mark of an integrity failure (R255). Level 0 is a block. -/
def integrityFail (level idx : Nat) (d : Dev) : Dev :=
  let p := if level = 0 then idx / 2 ^ 36 else nodePart level idx
  onVlt (fun v => { v with integrity := v.integrity + 1 }) d
    |> doIf (decide (level ≤ 3)) (onPart p (fun x =>
        let l4 := idx / 64 ^ (4 - level)
        { x with suspect := if x.suspect.contains l4 then x.suspect else x.suspect ++ [l4] }))
    |> logEv 0x3301 0x48 level (idx / 2 ^ 32 % 1024) (idx % 2 ^ 32)

/-- The write that caused a rekey still waits for it; a spill write always does. -/
def rekeyAlive (d : Dev) (r : VReq) : Bool :=
  match r.waiters with
  | [] => true
  | cid :: _ => ((cmdOf? d cid).map (fun c => isWaiting c && c.waitOn.contains (reqWait r.id))).getD false

/-- The rekey of a group in progress. -/
def rekeying (d : Dev) (l1 : Nat) : Option VReq := d.vlt.reqs.find? (fun r => r.kind == 3 && r.index == l1 && rekeyAlive d r)

/-! ## VAULT_READ and VAULT_WRITE (R245 to R247) -/

/-- A VAULT_WRITE of the block is accepted and not completed (R260). -/
def blockBusy (d : Dev) (c : Cmd) (b : Nat) : Bool :=
  d.hif.cmds.any (fun x => x.cid != c.cid && x.code == 0x0702 && x.accepted && isAccepted x && x.dupOf.isNone && !isDone x
    && par x 64 8 == b && decide (x.cid < c.cid))

/-- A block lies under a suspect L4 node (R255). -/
def isSuspect (d : Dev) (b : Nat) : Bool := (partOf d (b / 2 ^ 36)).suspect.contains (b / 64 ^ 4)

/-- The clean lines of L1 to L3 on a block's path leave the cache, but for those that a request needs (R255, R260). -/
def pathDrop (b : Nat) (d : Dev) : Dev :=
  onVlt (fun v => { v with cache := v.cache.filter (fun l =>
    l.dirty || lineAwaited d l || !(decide (l.level ≤ 3) && l.index == b / 64 ^ l.level)) }) d

/-- Under a suspect subtree the clean lines of the path are dropped once, so that they are fetched (R255). -/
def suspectDrop (c : Cmd) (b : Nat) : Run Unit := do
  if isSuspect (← get) b ∧ c.scratch.getD 0 0 = 0 then
    eff (onCmd c.cid (fun c => { c with scratch := [1] }))
    eff (pathDrop b)

def vaultRead (c : Cmd) (hr : HostRead) : Run Res := do
  needVltForm c (zeroPar c 72 128)
  needVltSession c false
  let b ← needBlockIndex c
  need (c.inLen == 0 || c.inLen == 4128) stParam 0x0704
  need (4096 ≤ c.outCap) stParam 0x0705
  needOnline (b / 2 ^ 36)
  needVltTurn c
  let d ← get
  need (!blockBusy d c b && (rekeying d (b / 64)).isNone) stRetry 0x0710
  eff (vltCarried c false)
  suspectDrop c b
  let n ← needPath c b
  eff (onVlt (fun v => { v with reads := v.reads + 1 }))
  if nBlank n (b % 64) then pure { resOut (zeros 4096) with status := stUnwritten }
  else
    let d' ← get
    match (if c.inLen = 0 then none else blockOpen d' b n.major (nMinor n (b % 64)) (inData c hr)) with
    | some pt => pure (resOut pt)
    | none => failLog stIntegrity 0 (integrityFail 0 b)

def execVaultRead (cid : Nat) (hr : HostRead) (s : State) : Ans := hasp 0x0701 cid hr vaultRead s

/-- The block's new counter, its entry, and the dirty L1 line (R246 steps 2 and 3). -/
def blockPut (b : Nat) (n : Node) (pt : Bytes) (d : Dev) : Bytes × Dev :=
  let e := blockEntry d b d.vlt.openEpoch n.major (nMinor n (b % 64)) pt
  (e, onLine 1 (b / 64) (fun l => { l with node := n, dirty := true }) d |> lineTouch 1 (b / 64)
    |> onPart (b / 2 ^ 36) (fun x => { x with label := max x.label d.vlt.openEpoch })
    |> onVlt (fun v => { v with writes := v.writes + 1 }))

/-- The other blocks of a group whose counters are not blank. -/
def groupMask (n : Node) (j : Nat) : List Nat := (List.range 64).filter (fun i => i != j && !nBlank n i)
def maskOf (l : List Nat) : Nat := l.foldl (fun a i => a + 2 ^ i) 0

/-- What a write does next at its L1 node: a count at its limit, a group to ask for, or the node with the new counter. -/
inductive WriteStep where
  | limit
  | ask (mask : List Nat)
  | put (n : Node)

def writeStep (g : Nat) (n : Node) (j : Nat) : WriteStep :=
  if nGen n < g then
    let m := groupMask n j
    if m.isEmpty then let r := renewNode g n; .put (nSetMinor r j (nMinor r j + 1)) else .ask m
  else if nMinor n j < 63 then .put (nSetMinor n j (nMinor n j + 1))
  else if nCount n + 1 = 2 ^ 48 then .limit
  else .ask (groupMask n j)

/-- Posts the REKEY_GROUP of a write: the block written and its plaintext stay with the request. -/
def rekeyAsk (b : Nat) (mask : List Nat) (pt : Bytes) (waiters : List Nat) (d : Dev) : Nat × Dev :=
  reqAdd { reqBlank d 3 (b / 2 ^ 36) with
    index := b / 64, mask := BitVec.ofNat 64 (maskOf mask), nodes := [(0, b)], payload := pt, waiters := waiters } d

def vaultWrite (c : Cmd) (hr : HostRead) : Run Res := do
  needVltForm c (zeroPar c 72 128)
  needVltSession c false
  let b ← needBlockIndex c
  let p := b / 2 ^ 36
  need (c.inLen == 4096) stParam 0x0704
  need (4128 ≤ c.outCap) stParam 0x0705
  needOnline p
  let d ← get
  need (!(partOf d p).pendingGen) stDegraded 0
  needLog (!(partOf d p).exhausted) stEndurance 0 (logEv 0x3308 0x48 7 (p * 16) 0)
  needVltTurn c
  eff (vltCarried c false)
  if commitHolds d then throw (.wait [waitCommit])
  if 196608 ≤ dirtyLines d then throw (.wait [waitStall])
  match rekeying d (b / 64) with
  | some r => throw (.wait [reqWait r.id])
  | none => pure ()
  let n ← needPath c b
  match writeStep (partOf (← get) p).gen n (b % 64) with
  | .limit => failLog stEndurance 0 (logCount 1 (b / 64))
  | .ask m =>
    let id ← step' (rekeyAsk b m (inData c hr) [c.cid])
    throw (.wait [reqWait id])
  | .put n' => pure (resOut (← step' (blockPut b n' (inData c hr))))

def execVaultWrite (cid : Nat) (hr : HostRead) (s : State) : Ans := hasp 0x0702 cid hr vaultWrite s

/-! ## Spill records (R95, R96) -/

/-- Posts a BLOCK_STORE of an entry. -/
def blockStore (b : Nat) (e : Bytes) (d : Dev) : Dev :=
  (reqAdd { reqBlank d 5 (b / 2 ^ 36) with epoch := d.vlt.openEpoch, index := b, payload := e } d).2

/-- The oldest spill record leaves the buffer; those that wait for an entry of it run again. -/
def spillDone (entry : Nat) (d : Dev) : Dev :=
  onKs (fun s => { s with spillBuf := s.spillBuf.filter (fun p => p.1 != entry) }) d
    |> onKey entry (fun k => { k with inBuffer := false }) |> wake waitBuffer |> wake waitKeyEnd |> asksRun

/-- SPILL_RECORD_WRITE: the oldest buffered record is written to its block of P63. -/
def spillWrite (d : Dev) : Dev :=
  match d.ks.spillBuf with
  | [] => d
  | (entry, rec_) :: _ =>
    let b := spillBlock entry
    if (partOf d 63).state ≠ 3 ∨ (rekeying d (b / 64)).isSome = true then d
    else
      match nodeEnsure 1 (b / 64) d with
      | .error m => (fetchReq 63 m d).2
      | .ok d =>
        match writeStep 1 ((nodeIn d 1 (b / 64)).getD {}) (b % 64) with
        | .limit => logCount 1 (b / 64) d
        | .ask m => (rekeyAsk b m rec_ [] d).2
        | .put n => let r := blockPut b n rec_ d; blockStore b r.1 r.2 |> spillDone entry

def execSpillRecordWrite (s : State) : Ans := nextD spillWrite s

/-! ## Hooks and posting (R240, R244) -/

def vaultHook (c : Cmd) (_ : HostRead) : Run Res := do
  needVltForm c (zeroPar c 64 128)
  needVltSession c true
  need (8192 ≤ c.outCap) stParam 0x0705
  eff (vltCarried c true)
  eff (onVlt (fun v => { v with starvedLogged := v.starvedLogged.filter (· != cmdFn c) }))
  throw .running

def execVaultHook (cid : Nat) (hr : HostRead) (s : State) : Ans := hasp 0x0703 cid hr vaultHook s

/-- The lowest-numbered registered hook of a function. -/
def hookOf (d : Dev) (fn : Nat) : Option Cmd :=
  d.hif.cmds.foldl (fun a c =>
    if c.code == 0x0703 && isRunning c && cmdFn c == fn then
      (match a with
       | none => some c
       | some b => if seqBelow c.seq b.seq then some c else a)
    else a) none

/-- Spilled keys that a command or a fetch waits for and whose record is in P63. -/
def refillKeys (d : Dev) : List Key :=
  d.ks.keys.filter (fun k => k.spilled && !k.inBuffer && (d.hif.cmds.any (fun c => c.waitOn.contains k.entry) || d.ks.asks.any (asksFor k)))

/-- A refill under a suspect subtree drops the clean lines of its path once (R255). -/
def refillDrop (k : Key) (d : Dev) : Dev :=
  let b := spillBlock k.entry
  if isSuspect d b && !d.vlt.refetched.contains k.entry then
    onVlt (fun v => { v with refetched := v.refetched ++ [k.entry] }) (pathDrop b d)
  else d

/-- The vault reads of waiting refills (R96, R245): the path of the spill block is asked for, then the block; one whose
counter is blank was never written. -/
def refillReqs (d : Dev) : Dev :=
  if !d.vlt.ready || (partOf d 63).state != 3 then d
  else
    onVlt (fun v => { v with refetched := v.refetched.filter (fun e => (refillKeys d).any (fun k => k.entry == e)) }) d
      |> forAll (refillKeys d) (fun k d =>
      let b := spillBlock k.entry
      if d.vlt.reqs.any (reqTouches b) then d
      else
        let d := refillDrop k d
        match nodeEnsure 1 (b / 64) d with
        | .error m => (fetchReq 63 m d).2
        | .ok d =>
          if nBlank ((nodeIn d 1 (b / 64)).getD {}) (b % 64) then keyRefill k.entry .unwritten d
          else (reqAdd { reqBlank d 4 63 with index := b } d).2)

/-- The refills whose path has a node of a list end with `f` (R97). -/
def refillsEnd (nodes : List (Nat × Nat)) (f : Key → Dev → Dev) (d : Dev) : Dev :=
  forAll ((refillKeys d).filter (fun k => nodes.any (fun p => p.2 == spillBlock k.entry / 64 ^ p.1))) f d

/-- The rekeys whose write has ended are withdrawn with it; the writes behind them run again. -/
def rekeysPrune (d : Dev) : Dev :=
  let dead := d.vlt.reqs.filter (fun r => r.kind == 3 && r.supply.isNone && !rekeyAlive d r)
  onVlt (fun v => { v with reqs := v.reqs.filter (fun r => !dead.contains r) }) d
    |> forAll dead (fun r => wake (reqWait r.id))

/-- VAULT_REQUEST_POST: the oldest unposted request whose function has a hook goes out. -/
def requestPost (d : Dev) : Dev :=
  let d := refillReqs (rekeysPrune d)
  match d.vlt.reqs.find? (fun r => !r.posted && !r.held && (hookOf d r.fn).isSome) with
  | none => d
  | some r =>
    match hookOf d r.fn with
    | none => d
    | some h =>
      let b := reqBytes d r
      let d1 := finish h.cid ⟨stOk, BitVec.ofNat 16 r.kind, b.length, BitVec.ofNat 32 r.id, b⟩ d
      if r.kind = 2 ∨ r.kind = 5 then onVlt (fun v => { v with reqs := v.reqs.filter (fun x => x.id != r.id) }) d1
      else onVlt (fun v => { v with reqs := lmod v.reqs (fun x => x.id == r.id) (fun x => { x with posted := true }) }) d1

def execVaultRequestPost (s : State) : Ans := nextD requestPost s

/-- A request leaves. -/
def reqDrop (id : Nat) : Dev → Dev := onVlt (fun v => { v with reqs := v.reqs.filter (fun r => r.id != id) })

/-- Those that waited on a request end with `r`; a refill's commands wait on their key. -/
def reqEnd (r : VReq) (res : Res) (d : Dev) : Dev :=
  let d := endWaiting (reqWait r.id) res d
  if r.kind = 4 then (match keyAt d (r.index % 2 ^ 36) with | some k => refillRetry k res d | none => d) else d


/-- ATTACH_REPOST: 1 s after the timeout the ATTACH may be posted again (R244). -/
def execAttachRepost (reqId : Nat) (s : State) : Ans :=
  nextD (onVlt (fun v => { v with reqs := lmod v.reqs (fun r => r.id == reqId && r.held) (fun r => { r with held := false }) })) s

/-- Requests that wait for a hook of a function. -/
def starving (d : Dev) (fn : Nat) : List VReq :=
  if (hookOf d fn).isSome then [] else d.vlt.reqs.filter (fun r => !r.posted && !r.held && r.fn == fn)

/-- HOOK_STARVED: 100 ms without a hook, once a starved period (R244). -/
def hookStarved (fn : Nat) (d : Dev) : Dev :=
  let n := (starving d fn).length
  if n = 0 ∨ d.vlt.starvedLogged.contains fn = true then d
  else onVlt (fun v => { v with starvedLogged := v.starvedLogged ++ [fn] }) d |> logEv 0x3304 0x48 fn n 0

def execHookStarved (fn : Fn) (s : State) : Ans := nextD (hookStarved fn) s

/-! ## The ring (R251) -/

/-- The bound partitions but P63. -/
def hostParts (d : Dev) : List Nat := (boundParts d).filter (· != 63)
/-- P63 takes no part in commits: its committed epoch stays 0 (R249). -/
def committedTab (d : Dev) : Tab Nat := (hostParts d).map (fun p => (p, (partOf d p).committed))
/-- P63 is always bound, and its generation stays 1 (R226, R235). -/
def gensTab (d : Dev) : Tab Nat := (hostParts d).map (fun p => (p, (partOf d p).gen)) ++ [(63, 1)]

/-- The ring key (R246): derived from the envelope key and the device secret. Its label is a constant of the NK8's that
the manual does not give (log entry 246). -/
def ringKey (d : Dev) : Bytes := deriveKey (envAndSecret d) (Config.kdfLabel 246)

/-- The root's MAC under the ring key, with the epoch in place of a parent's counter (R232). -/
def rootMac (d : Dev) (e : Nat) (n : Node) : Bytes :=
  kmac128 (ringKey d) (nodeBody n ++ [7] ++ natLE 0 8 ++ natLE e 8) 8 (ascii "ZXVN")

/-- The bytes of a slot that its MAC covers (R251). -/
def ringSlotBytes (s : RingSlot) : Bytes :=
  natLE s.epoch 8 ++ nodeBody s.root ++ s.rootMac ++ (List.range 64).flatMap (fun p => natLE (tget s.committed p 0) 8)
    ++ (List.range 64).flatMap (fun p => if (s.l6.map (·.1)).contains p then nodeBody (tget s.l6 p {}) ++ tget s.l6Macs p [] else zeros 64)
    ++ (List.range 64).flatMap (fun p => natLE (tget s.gens p 0) 2)

def slotMacOf (d : Dev) (s : RingSlot) : Bytes := kmac256 (ringKey d) (ringSlotBytes s) 32 []

/-- The slot of epoch `e` with the state as it stands. -/
def slotNow (e : Nat) (d : Dev) : RingSlot :=
  let s : RingSlot := {
    epoch := e, root := d.vlt.root, rootMac := rootMac d e d.vlt.root, committed := committedTab d, l6 := d.vlt.commL6
    l6Macs := d.vlt.commL6.map (fun q => (q.1, nodeMac d 6 q.1 q.2 d.vlt.root.major (nMinor d.vlt.root q.1)))
    gens := gensTab d }
  { s with slotMac := slotMacOf d s }

/-- Writes the slot of epoch `e` with the state as it stands, the base epoch with slot 0, and the epoch hint, which stands
through a rollback (R249, R251, R253). -/
def ringWrite (e : Nat) (d : Dev) : Dev :=
  onVlt (fun v => { v with ring := tput v.ring (e % 4096) (slotNow e d), lastEpoch := e, ringSlot := e % 4096 }) d
    |> recWrite (ringRec (e % 4096)) 2
    |> doIf (e % 4096 == 0) (fun d => onVlt (fun v => { v with ringBase := e }) d |> keepWrite 0x30)
    |> doIf (!d.vlt.rollback) (onBat (fun b => { b with hint := e }))

/-! ## Commits (R249, R250) -/

/-- The epoch of step 2: lines to write back, lowest level first. P63 takes no part, nor does a line whose write-back
a count's limit refuses. -/
def commitLine (d : Dev) : Option Line :=
  [1, 2, 3, 4, 5].findSome? (fun k => d.vlt.cache.find? (fun l => l.level == k && l.dirty && nodePart k l.index != 63 && !lineStuck d l))


/-- EV_3308 for each dirty line whose write-back is refused (R234). -/
def logStuck (d : Dev) : Dev :=
  forAll (d.vlt.cache.filter (fun l => l.dirty && lineStuck d l)) (fun l => logCount (l.level + 1) (l.index / 64)) d

/-- The functions with partitions that have items labelled at or above the committed epoch, with those partitions. -/
def commitAsk (d : Dev) : List (Nat × List Nat) :=
  (List.range 64).filterMap (fun fn =>
    let ps := (List.range 63).filter (fun p => isBound d p && partFn d p == fn && (partOf d p).label != 0
      && decide ((partOf d p).committed ≤ (partOf d p).label))
    if ps.isEmpty then none else some (fn, ps))

/-- The root's minor for a partition rises; a minor at 63 raises the root's major. -/
def rootRaise (p : Nat) (n : Node) : Node := if nMinor n p = 63 then ⟨[], n.major + 1⟩ else nSetMinor n p (nMinor n p + 1)

/-- The root's count is at its limit for the partition (R234). -/
def rootStuck (p : Nat) (n : Node) : Bool := nMinor n p == 63 && nCount n + 1 == 2 ^ 48

/-- A partition's accepted data commands. -/
def partBusy (d : Dev) (p : Nat) : Bool :=
  d.hif.cmds.any (fun x => (x.code == 0x0701 || x.code == 0x0702) && x.accepted && isAccepted x && x.dupOf.isNone && !isDone x
    && par x 64 8 / 2 ^ 36 == p)

/-- Partition keys are world K's. -/
def worldK : Owner := ⟨.K, 0⟩

/-- A slot written for a change of partitions: it closes the open epoch without a commit (R227, R253 step 2). -/
def ringNow (d : Dev) : Dev :=
  let e := d.vlt.openEpoch
  onVlt (fun v => { v with openEpoch := e + 1 }) d |> ringWrite e

/-- Step 2 of R253: every generation rises by one, and a ring slot records it. -/
def raiseGens (d : Dev) : Dev :=
  let ps := hostParts d
  forAll ps (onPart · (fun x =>
    if x.gen ≥ 0xFFFF then { x with exhausted := true, pendingGen := false } else { x with gen := x.gen + 1, pendingGen := false })) d
    |> doIf (ps.any (fun p => 0xFFFF ≤ (partOf d p).gen)) (forAll (ps.filter (fun p => 0xFFFF ≤ (partOf d p).gen)) (fun p =>
        logEv 0x3308 0x48 7 (p * 16) 0))
    |> ringNow

/-- General writes are admitted again: step 2 of R253 is made up, after a commit in progress. -/
def vaultAdmit (d : Dev) : Dev :=
  if d.vlt.ready && d.vlt.commit.isNone && !keepOnly d && d.vlt.parts.any (fun p => p.2.pendingGen) then raiseGens d else d

/-- Destroys a partition: its key, its lines, its requests and its committed L6. With the last one a rollback ends, and the slot
that records it sets the hint to the ring's epoch (R227, R253). -/
def partDestroyed (p : Nat) (d : Dev) : Dev :=
  let o := (partOf d p).owner
  let d1 := (match keyAt d (partOf d p).keyEntry with
    | some k => if k.owner == worldK then deleteKey k d else d
    | none => d)
    |> linesDrop p
    |> onVlt (fun v => { v with parts := tdel v.parts p, commL6 := tdel v.commL6 p, reqs := v.reqs.filter (fun r => r.part != p || r.kind == 6) })
  doIf (hostParts d1).isEmpty (onVlt (fun v => { v with rollback := false })) d1 |> stallEnd |> ringNow |> logEv 0x3307 0x48 p o 2

/-- COMMIT_FINISH (R249 steps 6 to 8). -/
def commitFinish (d : Dev) : Dev :=
  match d.vlt.commit with
  | none => d
  | some m =>
    let asked := d.vlt.reqs.filter (fun r => r.kind == 6)
    let named := (List.range 63).filter (fun p => m.answered.getLsbD p)
    let done := named.filter (fun p => !rootStuck p d.vlt.root)
    let late := asked.flatMap (fun r => (List.range 63).filter (fun p => r.mask.getLsbD p && !m.answered.getLsbD p))
    let d := onVlt (fun v => { v with reqs := v.reqs.filter (fun r => r.kind != 6), commit := none }) d
    if keepOnly d then
      forAll m.joined (fun cid => finishRunning cid (resErr stDegraded 0)) d |> wake waitCommit
    else
      let d := doIf (decide (done.length < named.length)) (logCount 7 0) d
      let d := forAll done (fun p d =>
        onVlt (fun v => { v with root := rootRaise p v.root, commL6 := tput v.commL6 p (tget m.l6 p {}) }) d
          |> onLine 6 p (fun l => { l with dirty := l.node != tget m.l6 p {} })
          |> onPart p (fun x => { x with committed := m.epoch, suspect := [] })) d
      let d := forAll late (fun p => logEv 0x3302 0x48 p (m.epoch % 2 ^ 32) (partFn d p)) d
      let d := ringWrite m.epoch d |> onVlt (fun v => { v with commits := v.commits + 1 })
      forAll m.joined (fun cid d =>
        match cmdOf? d cid with
        | none => d
        | some c =>
          let mask := maskOf (done.filter (fun p => partFn d p == cmdFn c))
          let out := if 16 ≤ c.outCap then natLE m.epoch 8 ++ natLE mask 8 else []
          finishRunning cid ⟨stOk, 0, out.length, BitVec.ofNat 32 m.epoch, out⟩ d) d |> wake waitCommit |> vaultAdmit

/-- The COMMIT requests of an unbound function are withdrawn (R260). -/
def commitWithdraw (fn : Nat) (d : Dev) : Dev :=
  let d := onVlt (fun v => { v with reqs := v.reqs.filter (fun r => !(r.kind == 6 && r.fn == fn)) }) d
  match d.vlt.commit with
  | some m => if m.step = 5 ∧ d.vlt.reqs.all (fun r => r.kind != 6) = true then commitFinish d else d
  | none => d

/-- GROUP_REKEY and renewal of an L1 node (R235, R247): the plaintexts of the entries, or the position that fails. -/
def rekeyOpen (d : Dev) (r : VReq) (n : Node) (ents : List Bytes) : Except Nat (List (Nat × Bytes)) :=
  (((List.range 64).filter (fun i => r.mask.getLsbD i)).mapIdx (fun k i => (k, i))).foldl (fun a p =>
    match a with
    | .error k => .error k
    | .ok l =>
      match blockOpen d (64 * r.index + p.2) n.major (nMinor n p.2) (ents.getD p.1 []) with
      | some pt => .ok (l ++ [(p.2, pt)])
      | none => .error p.1) (.ok [])

/-- Completes the rekey: the group's new entries, and the write that caused it. -/
def rekeyDone (r : VReq) (n : Node) (pts : List (Nat × Bytes)) (d : Dev) : Bytes × Dev :=
  let b := (r.nodes.headD (0, 0)).2
  let j := b % 64
  let g := (partOf d r.part).gen
  let renew := decide (nGen n < g)
  let n1 : Node := if renew then renewNode g n else ⟨[], n.major + 1⟩
  let kids := (List.range 64).filter (fun i => i != j && (!renew || !nBlank n i))
  let out := kids.flatMap (fun i =>
    blockEntry d (64 * r.index + i) d.vlt.openEpoch n1.major (nMinor n1 i) ((pts.find? (fun p => p.1 == i)).map (·.2) |>.getD (zeros 4096)))
  let n2 := if renew then nSetMinor n1 j (nMinor n1 j + 1) else n1
  let w := blockPut b n2 r.payload d
  let d1 := onVlt (fun v => { v with rekeys := v.rekeys + 1 }) w.2
  match r.waiters with
  | [] => (out, blockStore b w.1 d1 |> spillDone (b % 2 ^ 36))
  | cid :: _ => (out, onCmd cid (fun c => { c with stage := .done ⟨stOk, 1, 4128, 0, w.1⟩, waitOn := [], loc := .none }) d1)

/-- What the payload of a REKEY_GROUP makes of the group: the supply's outcome. A failure ends the write that caused the rekey;
the writes behind it run again (R247, R255). A request whose write has ended meanwhile is outstanding no more. -/
def rekeyTake (r : VReq) (pay : Bytes) (d : Dev) : Res × Dev :=
  let d1 := reqDrop r.id d
  if !rekeyAlive d r then (resErr stParam 0x0706, wake (reqWait r.id) d1)
  else
    let n := (nodeIn d 1 r.index).getD {}
    match rekeyOpen d r n (chunks 4128 pay) with
    | .error i =>
      let j := ((List.range 64).filter (fun i => r.mask.getLsbD i)).getD i 0
      (resErr stIntegrity i, integrityFail 0 (64 * r.index + j) d1 |> forAll (r.waiters.take 1) (fun cid => finish cid (resErr stIntegrity 0))
        |> wake (reqWait r.id))
    | .ok pts =>
      let x := rekeyDone r n pts d1
      (resOut x.1, wake (reqWait r.id) x.2)

/-- Step 3 of a commit: the rekeys supplied meanwhile are made, labelled with the epoch now open (R260). -/
def rekeysHeld (d : Dev) : Dev :=
  forAll d.vlt.reqs (fun r d =>
    match r.supply with
    | none => d
    | some (cid, pay) => let x := rekeyTake r pay d; finishRunning cid x.1 x.2) d

/-- Steps 2 to 5: every dirty line is written back; then writes resume and the COMMITs are posted. -/
def commitGo (d : Dev) : Dev :=
  match d.vlt.commit with
  | none => d
  | some m =>
    if 3 ≤ m.step then d
    else
      let d := writeBackLoop m.epoch commitLine (6 * d.vlt.cache.length + 1) d |> stallEnd
      if (commitLine d).isSome then d
      else
        let l6 : Tab Node := (boundParts d).filterMap (fun p => if p = 63 then none else (nodeIn d 6 p).map (fun n => (p, n)))
        let d := onVlt (fun v => { v with commit := some { m with step := 5, l6 := l6 } }) d |> wake waitCommit
        let asks := commitAsk d
        let d := forAll asks (fun a d => (reqAdd { reqBlank d 6 (a.2.headD 0) with
          fn := a.1, epoch := m.epoch, mask := BitVec.ofNat 64 (maskOf a.2) } d).2) (rekeysHeld d)
        if asks.isEmpty then commitFinish d else d

/-- EPOCH_COMMIT_START: a pending commit starts 250 ms after the one before (R249 step 1). -/
def commitStart (d : Dev) : Dev :=
  if d.vlt.commit.isSome || !d.vlt.ready || (d.vlt.pending.isEmpty && !d.vlt.pendingReg) then d
  else
    let e := d.vlt.openEpoch
    let joined := d.vlt.pending
    onVlt (fun v => { v with
      commit := some ⟨e, 1, joined, v.pendingReg, 0, []⟩, openEpoch := e + 1, pending := [], pendingReg := false }) d
      |> forAll joined (fun cid => onCmd cid (fun c => { c with scratch := [1] }))
      |> logStuck |> commitGo

def execEpochCommitStart (s : State) : Ans := nextD commitStart s

/-- COMMIT_WAIT_TIMEOUT: 5 s after step 4 (R249 step 5). -/
def commitTimeout (d : Dev) : Dev :=
  match d.vlt.commit with
  | some m => if m.step = 5 then commitFinish d else d
  | none => d

def execCommitWaitTimeout (s : State) : Ans := nextD commitTimeout s

def epochCommit (c : Cmd) (_ : HostRead) : Run Res := do
  needVltForm c (zeroPar c 64 128)
  needVltSession c false
  if cmdFn c ≠ 0 ∧ (partsOf (← get) (cmdFn c)).isEmpty = true then wrongState c 1
  needVltTurn c
  eff (vltCarried c false)
  eff (onVlt (fun v => { v with pending := v.pending ++ [c.cid] }))
  throw .running

def execEpochCommit (cid : Nat) (hr : HostRead) (s : State) : Ans := hasp 0x0705 cid hr epochCommit s

/-- EPOCH_CMD_COMMIT: a write of 1 to VLT_EPOCH_CMD.commit by world K or C (R264). -/
def execEpochCmdCommit (acc : Access) (s : State) : Ans :=
  nextD (regAction acc 89 0x040 [.K, .C] (onVlt (fun v => { v with pendingReg := true }))) s

/-- The next line of a forced write-back. -/
def forcedLine (d : Dev) : Option Line :=
  if dirtyUnpinned d ≤ 96744 then none else lruLine d (fun l => l.dirty && !isPinned l && !lineStuck d l)

/-- A forced write-back goes on down to 96,744 dirty lines; it waits where a node is missing (R237). -/
def forcedGo (d : Dev) : Dev :=
  if !d.vlt.forcing then d
  else
    let d := writeBackLoop (storeEpoch d) forcedLine (3 * d.vlt.cache.length) d
    onVlt (fun v => { v with forcing := (forcedLine d).isSome }) d |> stallEnd

/-- FORCED_WRITE_BACK (R237). -/
def forcedWriteBack (d : Dev) : Dev :=
  doIf (decide (128992 < dirtyUnpinned d)) (onVlt (fun v => { v with forcing := true })) d |> forcedGo

def execForcedWriteBack (s : State) : Ans := nextD forcedWriteBack s

/-! ## Loading a partition (R253 steps 3 to 5) -/

/-- Nodes of L5, then of L4, that are not blank and not loaded. -/
def loadMissing (d : Dev) (p : Nat) : List (Nat × Nat) :=
  let kids := fun (level idx : Nat) => match nodeIn d level idx with
    | none => []
    | some n => (List.range 64).filterMap (fun i =>
        let c := 64 * idx + i
        if nBlank n i || (lineOf d (level - 1) c).isSome then none else some (level - 1, c))
  let l5 := kids 6 p
  if l5.isEmpty then ((d.vlt.cache.filter (fun l => l.level == 5 && nodePart 5 l.index == p)).map (·.index)).flatMap (kids 5) else l5

/-- PARTITION_ONLINE: asks for what is missing, or marks the partition online. -/
def partLoad (p : Nat) (d : Dev) : Dev :=
  if (partOf d p).state ≠ 2 then d
  else
    let m := loadMissing d p
    if m.isEmpty then onPart p (fun x => { x with state := 3 }) d
    else if d.vlt.reqs.any (fun r => r.kind == 1 && r.part == p) then d
    else forAll (chunks 63 m) (fun l d => (fetchReq p l d).2) d

/-- What waits for the nodes of a NODE_FETCH that has ended goes on, or asks again: a partition's load, a commit's and a forced
write-back. -/
def fetchOver (p : Nat) (d : Dev) : Dev := partLoad p d |> commitGo |> forcedGo

/-- VAULT_REQUEST_TIMEOUT: 1 s without an answer (R244). -/
def requestTimeout (id : Nat) (d : Dev) : Dev :=
  match d.vlt.reqs.find? (fun r => r.id == id && r.posted && r.supply.isNone && [1, 3, 4, 7].contains r.kind) with
  | none => d
  | some r =>
    let d1 := logEv 0x3303 0x48 r.fn r.kind r.id d
    if r.kind = 7 then
      onVlt (fun v => { v with reqs := lmod v.reqs (fun x => x.id == id) (fun x => { x with posted := false, held := true }) }) d1
    else reqDrop id d1 |> reqEnd r (resErr stRetry 0x0712) |> wake waitKeyEnd
      |> doIf (r.kind == 1) (fun d => refillsEnd r.nodes (fun k => refillRetry k (resErr stRetry 0x0712)) d |> fetchOver r.part)

def execVaultRequestTimeout (reqId : Nat) (s : State) : Ans := nextD (requestTimeout reqId) s

/-! ## VAULT_SUPPLY (R243) -/

/-- Checks the supplied nodes in order and enters those that verify; the position of the first that fails. A node that
its parent's counter proves blank is 64 zero bytes, whatever was supplied (R233). -/
def supplyNodes (ents : List Bytes) : Nat → List (Nat × Nat) → Dev → Option Nat × Dev
  | _, [], d => (none, d)
  | i, (level, idx) :: rest, d =>
    let e := slice (ents.getD i []) 16 64
    let n := nodeOf e
    match nodeIn d (level + 1) (idx / 64) with
    | none => (some i, d)
    | some par =>
      if nBlank par (idx % 64) then supplyNodes ents (i + 1) rest (lineEnter level idx {} d)
      else if nodeMac d level idx n par.major (nMinor par (idx % 64)) = slice e 56 8 then
        supplyNodes ents (i + 1) rest (lineEnter level idx n d)
      else (some i, integrityFail level idx d)

/-- Bytes 9 to 15 of every node entry are zero (R6, R241). -/
def supplyZero (r : VReq) (ents : List Bytes) : Bool := r.kind != 1 || ents.all (fun e => (slice e 9 7).all (· = 0))

/-- The requested entries as index and level of each. -/
def supplyMatches (r : VReq) (ents : List Bytes) : Bool :=
  if r.kind = 1 then r.nodes.mapIdx (fun i p => fieldLE (ents.getD i []) 0 8 == p.2 && fieldLE (ents.getD i []) 8 1 == p.1) |>.all id
  else if r.kind = 3 then
    ((List.range 64).filter (fun i => r.mask.getLsbD i)).mapIdx (fun k i => fieldLE (ents.getD k []) 0 8 == 64 * r.index + i) |>.all id
  else if r.kind = 4 then fieldLE (ents.getD 0 []) 0 8 == r.index
  else true

/-- The length of a kind's payload, and of one of its entries. -/
def supplyLen (r : VReq) : Nat × Nat :=
  if r.kind = 1 then (80 * r.nodes.length, 80)
  else if r.kind = 3 then (4128 * count (List.range 64) (fun i => r.mask.getLsbD i), 4128)
  else if r.kind = 4 then (4128, 4128)
  else (0, 1)

/-- What the refill of a spill block makes of its entry (R96, R97). -/
def refillAnswer (r : VReq) (e : Bytes) (d : Dev) : Except (List (Nat × Nat)) (SpillRead × Dev) :=
  match nodeEnsure 1 (r.index / 64) d with
  | .error m => .error m
  | .ok d =>
    let n := (nodeIn d 1 (r.index / 64)).getD {}
    if nBlank n (r.index % 64) then .ok (.unwritten, d)
    else
      match blockOpen d r.index n.major (nMinor n (r.index % 64)) e with
      | some pt => .ok (.payload pt, d)
      | none => .ok (.integrity, integrityFail 0 r.index d)

/-- A session holds a VAULT_READ or VAULT_WRITE not completed (R239). -/
def dataOpen (d : Dev) (c : Cmd) : Bool :=
  d.hif.cmds.any (fun x => sameSession x c && x.cid != c.cid && (x.code == 0x0701 || x.code == 0x0702) && x.accepted
    && isAccepted x && x.dupOf.isNone && !isDone x && decide (x.cid < c.cid))

def vaultSupply (c : Cmd) (hr : HostRead) : Run Res := do
  needVltForm c (zeroPar c 69 72 && zeroPar c 80 128)
  needVltSession c false
  if dataOpen (← get) c then wrongState c 1
  needVltTurn c
  eff (vltCarried c false)
  let d ← get
  let id := par c 64 4
  let fn := cmdFn c
  match d.vlt.reqs.find? (fun r => r.id == id && r.posted && r.supply.isNone && r.fn == fn && (r.kind != 3 || rekeyAlive d r)) with
  | none => failLog stParam 0x0706 (log3309 fn id 0x0706)
  | some r =>
    needLog (par c 68 1 == r.kind) stParam 0x0706 (log3309 fn id 0x0706)
    let mask := par c 72 8
    need (r.kind == 6 || mask == 0) stParam 0
    let ln := supplyLen r
    need (c.inLen == ln.1) stParam 0x0704
    let ents := chunks ln.2 (inData c hr)
    need (supplyZero r ents) stParam 0
    needLog (supplyMatches r ents) stParam 0x0706 (log3309 fn id 0x0706)
    needLog (r.kind != 6 || BitVec.ofNat 64 mask &&& ~~~r.mask == 0) stParam 0x0706 (log3309 fn id 0x0706)
    need (r.kind != 3 || decide (264192 ≤ c.outCap)) stParam 0x0705
    if r.kind = 1 then
      let x := supplyNodes ents 0 r.nodes d
      set x.2
      eff (reqDrop id)
      match x.1 with
      | some i =>
        eff (reqEnd r (resErr stIntegrity 0))
        eff (refillsEnd [r.nodes.getD i (0, 0)] (fun k => refillLose k stIntegrity))
        eff (fetchOver r.part)
        fail stIntegrity i
      | none =>
        eff (wake (reqWait id))
        eff (fetchOver r.part)
        pure resOk
    else if r.kind = 3 then
      if commitHolds d then
        eff (onVlt (fun v => { v with reqs := lmod v.reqs (fun x => x.id == id) (fun x => { x with supply := some (c.cid, inData c hr) }) }))
        throw .running
      else pure (← step' (rekeyTake r (inData c hr)))
    else if r.kind = 4 then
      match refillAnswer r (ents.getD 0 []) d with
      | .error m =>
        -- the nodes above the block have left the cache: they are asked for, and the block again after them
        eff (fun d => (fetchReq r.part m d).2)
        eff (reqDrop id)
        pure resOk
      | .ok (a, d') =>
        set d'
        eff (reqDrop id)
        eff (keyRefill (r.index % 2 ^ 36) a)
        if a == .integrity then fail stIntegrity 0 else pure resOk
    else if r.kind = 6 then
      eff (reqDrop id)
      eff (onVlt (fun v => { v with commit := v.commit.map (fun m => { m with answered := m.answered ||| BitVec.ofNat 64 mask }) }))
      -- a partition asked and not named stays at its earlier epoch
      let lost := (List.range 63).filter (fun p => r.mask.getLsbD p && !(BitVec.ofNat 64 mask).getLsbD p)
      let e := (d.vlt.commit.map (·.epoch)).getD 0
      eff (forAll lost (fun p => logEv 0x3302 0x48 p (e % 2 ^ 32) fn))
      if (← get).vlt.reqs.all (fun r => r.kind != 6) then eff commitFinish
      pure resOk
    else
      eff (reqDrop id)
      eff (onPart r.part (fun x => if x.state = 1 then { x with state := 2 } else x))
      eff (partLoad r.part)
      pure resOk

def execVaultSupply (cid : Nat) (hr : HostRead) (s : State) : Ans := hasp 0x0704 cid hr vaultSupply s

/-! ## Creation and destruction (R227) -/

/-- Partition keys are AES-256 keys of world K, usage VAULT, destination d_vault, pinned (R226). -/
def partKeyNew (life : Nat) (mat : Bytes) : NewKey := {
  owner := worldK, hint := 255, alg := 3, life, usage := bitMask [uVault], export_ := 0, pinned := true
  ancGenerated := true, dest := 8, session := 0, mat }

def partCreate (c : Cmd) (_ : HostRead) : Run Res := do
  need (zeroPar c 66 128) stParam 0
  need (hA c == 0 && hB c == 0) stParam 0x0701
  let p := par c 64 1
  let o := par c 65 1
  need (p ≤ 62 && ((decide (1 ≤ o) && decide (o ≤ 63)) || o == 0x80)) stParam 0x0702
  let d ← get
  if isBound d p then wrongState c 1
  if o ≤ 63 ∧ d.hif.bound.contains o = false then wrongState c 1
  need (!keepOnly d) stDegraded 0
  if !d.vlt.ready then throw (.wait [])
  if d.vlt.commit.isSome then throw (.wait [waitCommit])
  needKeyRoom worldK 2 32 true
  let m ← needDraw (ksDraw 32)
  let k ← step' (makeKey (partKeyNew 2 m))
  eff (linesDrop p)
  eff (onPart p (fun _ => { owner := o, state := 3, gen := 1, committed := d.vlt.openEpoch, key := m, keyEntry := k.entry }))
  eff (lineEnter 6 p {})
  eff (onVlt (fun v => { v with commL6 := tput v.commL6 p {} }))
  eff ringNow
  eff (logEv 0x3307 0x48 p o 1)
  pure resOk

def execPartCreate (cid : Nat) (hr : HostRead) (s : State) : Ans := hasp 0x0160 cid hr partCreate s

def partDestroy (c : Cmd) (_ : HostRead) : Run Res := do
  need (zeroPar c 65 128) stParam 0
  need (hA c == 0 && hB c == 0) stParam 0x0701
  let p := par c 64 1
  need (p ≤ 62) stParam 0x0702
  let d ← get
  if isBound d p = false then wrongState c 1
  need (!keepOnly d) stDegraded 0
  if !d.vlt.ready then throw (.wait [])
  if d.vlt.commit.isSome then throw (.wait [waitCommit])
  if partBusy d p then throw (.wait [])
  eff (partDestroyed p)
  pure resOk

def execPartDestroy (cid : Nat) (hr : HostRead) (s : State) : Ans := nextD (runJob 0x0161 cid hr partDestroy) s

/-! ## Start-up and reset (R96, R251, R253, R258, R259) -/

/-- P63 with a key, an instance salt and a spill key: every counter blank, online at once, and live for spill; the
commands that wait for it run again (R96). -/
def p63Online (key salt spill : Bytes) (d : Dev) : Dev :=
  let d1 := (match keyAt d (partOf d 63).keyEntry with
    | some x => if x.owner == worldK && x.life == 1 && x.usage == bitMask [uVault] then deleteKey x d else d
    | none => d) |> linesDrop 63 |> stallEnd
  let mk := makeKey (partKeyNew 1 key) d1
  onPart 63 (fun _ => { owner := 0x80, state := 3, gen := 1, key, salt := BitVec.ofNat 64 (leNat salt), keyEntry := mk.1.entry }) mk.2
    |> lineEnter 6 63 {}
    |> onKs (fun s => { s with spillReady := true, spillKey := if s.spillKey.isEmpty then spill else s.spillKey })
    |> wake waitP63 |> asksRun

/-- Re-creates P63 with draws of the key store and the vault engine (R96, R208). DESIGN CHOICE (log entry 96): where no
DRBG serves, P63 stays away until the next re-creation. -/
def p63Create (d : Dev) : Dev :=
  match ksDraw 32 d with
  | (some k, d) =>
    match ksDraw 8 d with
    | (some salt, d) =>
      match ksDraw 32 d with
      | (some sp, d) => p63Online k salt sp d
      | (none, d) => d
    | (none, d) => d
  | (none, d) => d


/-- A slot verifies under the ring key (R251). -/
def slotOk (d : Dev) (s : RingSlot) : Bool := s.slotMac == slotMacOf d s

/-- EV_3305 for a slot that fails its MAC. -/
def logSlot (s : RingSlot) : Dev → Dev := logEv 0x3305 0x48 (s.epoch % 4096) (s.epoch % 2 ^ 32) 0

/-- The slot of the highest epoch. -/
def ringNewest (l : Tab RingSlot) : Option RingSlot :=
  l.foldl (fun a p => match a with
    | none => some p.2
    | some b => if b.epoch < p.2.epoch then some p.2 else a) none

/-- The newest slot that verifies, each failing one above it logged (R251): `n` bounds the slots looked at. -/
def ringFind : Nat → Tab RingSlot → Dev → Option RingSlot × Dev
  | 0, _, d => (none, d)
  | n + 1, l, d =>
    match ringNewest l with
    | none => (none, d)
    | some s => if slotOk d s then (some s, d) else ringFind n (l.filter (fun p => p.2.epoch != s.epoch)) (logSlot s d)

/-- The ring is behind the epoch hint: no partition but P63 comes online; one that is lost stays so (R253, R259). -/
def ringBehind (e : Nat) (d : Dev) : Dev :=
  onVlt (fun v => { v with rollback := true }) d
    |> forAll (hostParts d) (onPart · (fun x => { x with state := if x.state = 4 then 4 else 1 }))
    |> logEv 0x3306 0x48 (e % 2 ^ 32) (d.bat.hint % 2 ^ 32) 0

/-- VAULT_START (R253). Bound partitions without any slot that verifies are lost (R259); a ring with no slot at all is behind
any hint. -/
def vaultStart (d0 : Dev) : Dev :=
  let f := ringFind d0.vlt.ring.length d0.vlt.ring d0
  let d := onVlt (fun v => { v with stopping := false, ready := true }) f.2
  match f.1 with
  | none => onVlt (fun v => { v with openEpoch := max v.openEpoch 1 }) d
      |> forAll (hostParts d) (onPart · (fun x => { x with state := 4 })) |> doIf (decide (0 < d.bat.hint)) (ringBehind 0)
  | some r =>
    let ps := hostParts d
    let d := onVlt (fun v => { v with root := r.root, commL6 := r.l6, lastEpoch := r.epoch, ringSlot := r.epoch % 4096, openEpoch := r.epoch + 1 }) d
    if r.epoch < d.bat.hint then ringBehind r.epoch d
    else
      let d := forAll ps (fun p d =>
        let x := partOf d p
        let lost := x.state == 4 || recLost d (ringRec (r.epoch % 4096)) || (match keyAt d x.keyEntry with | some k => k.lost | none => true)
        onPart p (fun x => { x with state := if lost then 4 else 1, committed := tget r.committed p 0, gen := tget r.gens p x.gen, label := 0 }) d
          |> linesDrop p |> lineEnter 6 p (tget r.l6 p {})) d
      let d := if keepOnly d then forAll ps (onPart · (fun x => { x with pendingGen := true })) d else raiseGens d
      forAll (ps.filter (fun p => (partOf d p).state == 1)) (fun p d =>
        (reqAdd { reqBlank d 7 p with epoch := (partOf d p).committed } d).2) d

/-- The vault's state is gone: commands and supplies in flight end with ST_RETRY, with the refills; a commit is
abandoned (R97, R258). -/
def vaultReset (d : Dev) : Dev :=
  let gone := fun (c : Cmd) => (classOf c.code == 0x07 || c.code == 0x0160 || c.code == 0x0161) && !isDone c && c.dupOf.isNone && isAccepted c
  endAll gone resRetry d
    |> forAll (refillKeys d) (fun k => refillRetry k resRetry) |> wake waitKeyEnd
    |> onVlt (fun v => { v with
        cache := [], root := {}, commL6 := [], commit := none, pending := [], pendingReg := false, reqs := [], ready := false
        stopping := true, forcing := false, refetched := []
        parts := v.parts.map (fun p => (p.1, { p.2 with state := if p.2.state = 4 then 4 else 1, suspect := [] })) })
    |> onKs (fun s => { s with spillReady := false })


/-- R252: at power-fail a commit between its steps 5 and 7 is finished with the answers received. -/
def vaultPowerFail (d : Dev) : Dev := commitTimeout d

end Sys2Proof.Machine
end

