-- ==== Sys2Proof/Machine/Hif.lean ====
section
/-! DEFINITION. The host interface (chapter 3): function pages, doorbells, fetching and sequencing of submission
entries, the checks of R22, completions, MSI-X, and the opening of queue pairs and sessions. -/

namespace Sys2Proof.Machine

/-! ## Functions and MSI-X (R42, R62) -/

/-- The function exists: the PF, or a VF that host software has enabled. -/
def fnThere (d : Dev) (f : Nat) : Bool := f == 0 || (d.hif.vfEnable && decide (f ≤ d.hif.numVfs))

/-- The function answers configuration requests (R43). -/
def fnConfig (d : Dev) (f : Nat) : Bool := d.cpm.power == .ready && fnThere d f

/-- A BAR of the function is reachable: none is in D3hot (R41, R43; log entry 41). -/
def fnUp (d : Dev) (f : Nat) : Bool := fnConfig d f && !(fnOf d f).d3hot

def isVf (f : Nat) : Bool := f != 0
def qpMax (f : Nat) : Nat := if isVf f then 63 else 15
def vecMax (f : Nat) : Nat := if isVf f then 15 else 255

def emit (t : Tx) : Dev → Dev := onHif (fun h => { h with tx := h.tx ++ [t] })

/-- A vector's own mask bit, 1 until host software clears it. PRESUMED (log entry 44): the reset value of the PCIe base
specification, to which the manual gives none of its own. -/
def vecMasked (x : FnS) (v : Nat) : Bool := tget x.vecMasked v true
def vecSends (x : FnS) (v : Nat) : Bool := x.msixEnable && !x.funcMask && !vecMasked x v && !x.d3hot

/-- Raises a vector: a message, or its pending bit where none may be sent. -/
def raiseVec (f v : Nat) (d : Dev) : Dev :=
  if vecSends (fnOf d f) v then emit (.msix f v) d
  else onFn f (fun x => if x.vecPending.contains v then x else { x with vecPending := x.vecPending ++ [v] }) d

/-- The messages whose pending bit is set and that may now be sent. -/
def sendPending (f : Nat) (d : Dev) : Dev :=
  let x := fnOf d f
  let out := x.vecPending.filter (vecSends x)
  onFn f (fun x => { x with vecPending := x.vecPending.filter (fun v => !out.contains v) }) d
    |> forAll out (fun v => emit (.msix f v))

/-- A function event: its cause, and vector 0 where the page's mask lets it through (R501). -/
def fnIrq (f bit : Nat) (d : Dev) : Dev :=
  let d := irqSet (110 + f) bit d
  doIf (((pageOf d (110 + f)).irqMask.getD 7).getLsbD bit) (raiseVec f 0) d

def msixUnmask (f : Nat) (what : MsixOp) (d : Dev) : Dev :=
  onFn f (fun x => match what with
    | .enable => { x with msixEnable := true }
    | .unmaskFunction => { x with funcMask := false }
    | .unmaskVector v => { x with vecMasked := tput x.vecMasked v false }
    | .disable => { x with msixEnable := false }
    | .maskFunction => { x with funcMask := true }
    | .maskVector v => { x with vecMasked := tput x.vecMasked v true }) d
    |> sendPending f

def execMsixUnmask (fn : Fn) (what : MsixOp) (s : State) : Ans :=
  nextD (fun d => doIf (fnUp d fn) (msixUnmask fn what) d) s

/-! ## Queue pairs (R47 to R54) -/

def log5101 (f q value cause : Nat) : Dev → Dev := logEv 0x5101 0x50 f (q + (value % 65536) * 65536) cause

/-- Entries between two indices of a ring. -/
def ringDist (depth a b : Nat) : Nat := if depth = 0 then 0 else (b + depth - a % depth) % depth

def sqHeld (x : Qp) : Nat := ringDist x.sqDepth x.sqHead x.sqTail
def cqHeld (x : Qp) : Nat := ringDist x.cqDepth x.cqHead x.cqPost
def cqFree (x : Qp) : Bool := decide (cqHeld x + 1 < x.cqDepth)

def qpError (f q value cause : Nat) (d : Dev) : Dev :=
  onQp f q (fun x => { x with err := true }) d |> log5101 f q value cause |> fnIrq f 0

/-- The entries of queue pair 0 that AQ_CFG gives (R49). -/
def aqStart (f : Nat) (d : Dev) : Dev :=
  let x := fnOf d f
  let c := x.aqCfg.toNat
  let sq := c % 4096 + 1
  let cq := c / 4096 % 4096 + 1
  let v := c / 2 ^ 24
  if sq < 2 ∨ cq < 2 ∨ vecMax f < v then
    onFn f (fun x => { x with enable := true, cfgError := true }) d |> log5101 f 0 0 5
  else
    onFn f (fun x => { x with enable := true, cfgError := false }) d
      |> onQp f 0 (fun _ => {
          live := true, sqDepth := sq, cqDepth := cq, sqBase := x.sqBase, cqBase := x.cqBase, vector := v
          prio := 3, coalCount := 1 })
      |> fnIrq f 1

/-- A write of 1 to CTRL.enable. DESIGN CHOICE (log entry 48): after a refused setting, which leaves enable reading 1, a further
write of 1 does nothing until enable is cleared. -/
def fnEnable (f : Nat) (d : Dev) : Dev :=
  let x := fnOf d f
  if x.stopping then onFn f (fun x => { x with enableHeld := true }) d
  else if x.enable then d
  else aqStart f d

/-- Commands fetched from a queue pair whose completions are still to be posted: not those a reset left unposted (R74). -/
def qpBusy (d : Dev) (f q : Nat) : Bool := d.hif.cmds.any (fun c => isHost c && c.fn == f && c.qp == q && !c.silent)

def qpsOf (d : Dev) (f : Nat) : List Nat := (List.range 64).filter (fun q => (qpOf d f q).live || (qpOf d f q).stopping)

def qpDrop (f q : Nat) : Dev → Dev := onHif (fun h => { h with qps := tdel h.qps (64 * f + q) })

/-- A pair stops: it is no longer live, and nothing more is fetched from it. -/
def qpStop (f q : Nat) : Dev → Dev := onQp f q (fun x => { x with live := false, stopping := true })

/-- The stop of a function ends when its last completion is posted; a held enable then starts queue pair 0. -/
def fnStopCheck (f : Nat) (d : Dev) : Dev :=
  let x := fnOf d f
  if x.stopping ∧ (qpsOf d f).all (fun q => !qpBusy d f q) then
    let d := forAll (qpsOf d f) (qpDrop f) d |> onFn f (fun x => { x with stopping := false, enableHeld := false })
    doIf x.enableHeld (aqStart f) d
  else d

/-- A write of 0 to CTRL.enable (R47, R52). -/
def fnDisable (f : Nat) (d : Dev) : Dev :=
  let x := fnOf d f
  if x.stopping then onFn f (fun x => { x with enable := false, enableHeld := false }) d
  else if !x.enable then d
  else
    let was := (qpOf d f 0).live
    onFn f (fun x => { x with enable := false, stopping := true }) d
      |> forAll (qpsOf d f) (qpStop f)
      |> doIf was (fnIrq f 1)
      |> fnStopCheck f

/-- Who writes a function page: the PF's by K and C, a VF's by K and its own tenant (R531). -/
def fnPageWriter (acc : Access) (f : Nat) : Bool :=
  acc.world == .K || (if isVf f then acc.world == .T && acc.tenant == f else acc.world == .C)

def execFnEnable (fn : Fn) (s : State) : Ans := nextD (fun d => doIf (fnUp d fn) (fnEnable fn) d) s
def execFnDisable (fn : Fn) (s : State) : Ans := nextD (fun d => doIf (fnUp d fn) (fnDisable fn) d) s

/-! ## Doorbells (R45, R53) -/

/-- A write of SQ_TAIL. DESIGN CHOICE (log entry 53): for a pair that is in error and deleted or stopped, the refusal of a pair that
is not live comes first; `cqHead` keeps silent on its invalid value, as for every pair in error. -/
def sqTail (f q value : Nat) (d : Dev) : Dev :=
  let x := qpOf d f q
  let v := value % 4096
  if !x.live then log5101 f q v 3 d
  else if x.err then d
  else if x.sqDepth ≤ v ∨ x.sqDepth ≤ sqHeld x + ringDist x.sqDepth x.sqTail v then qpError f q v 1 d
  else onQp f q (fun x => { x with sqTail := v }) d

def cqHead (f q value : Nat) (d : Dev) : Dev :=
  let x := qpOf d f q
  let v := value % 4096
  if !x.live && !x.stopping then log5101 f q v 3 d
  else if x.cqDepth ≤ v ∨ cqHeld x < ringDist x.cqDepth x.cqHead v then (if x.err then d else qpError f q v 2 d)
  else onQp f q (fun x => { x with cqHead := v }) d

/-- The doorbell of a queue pair that the function's BAR has (R44). -/
def bellThere (d : Dev) (f q : Nat) : Bool := fnUp d f && decide (q ≤ qpMax f)

def execSqTail (fn : Fn) (qp : Nat) (value : BitVec 32) (s : State) : Ans :=
  nextD (fun d => doIf (bellThere d fn qp) (sqTail fn qp value.toNat) d) s
def execCqHead (fn : Fn) (qp : Nat) (value : BitVec 32) (s : State) : Ans :=
  nextD (fun d => doIf (bellThere d fn qp) (cqHead fn qp value.toNat) d) s

/-! ## Configuration requests (R42, R43) -/

/-- What a function holds after its reset; the session quota is a tenant setting and stays. -/
def fnClear (f : Nat) (d : Dev) : Dev :=
  d |> forAll (List.range 64) (qpDrop f)
    |> onFn f (fun x => { sessQuota := x.sessQuota })
    |> onPg (fun p => { p with pages := tdel p.pages (110 + f) })

/-! ## Sessions (R63 to R67) -/

def sessId (i : Nat) (s : Sess) : Word32 := BitVec.ofNat 32 (s.fn * 2 ^ 24 + s.gen % 256 * 65536 + i)
def sessOf (d : Dev) (i : Nat) : Sess := tget d.hif.sess i {}
def ctlOf (d : Dev) (f : Nat) : Sess := { tget d.hif.ctl f {} with isOpen := true, fn := f }

/-- The open session of a function that an ID names; ID 0 names its control session. -/
def sessNamed (d : Dev) (f : Nat) (id : Word32) : Option Sess :=
  if id = 0 then some (ctlOf d f)
  else
    let i := id.toNat % 65536
    let s := sessOf d i
    if s.isOpen && s.fn == f && sessId i s == id then some s else none

def onSess (f : Nat) (id : Word32) (g : Sess → Sess) : Dev → Dev :=
  onHif (fun h => if id = 0 then { h with ctl := tmod h.ctl f {} g } else { h with sess := tmod h.sess (id.toNat % 65536) {} g })

/-- The open sessions, by pool index. -/
def openSess (d : Dev) : List (Nat × Sess) := d.hif.sess.filter (fun p => p.2.isOpen)
def sessCount (d : Dev) (f : Nat) : Nat := count (openSess d) (fun p => p.2.fn == f)

/-- The region in service with the fewest sessions, the lowest number taking any tie (R64). -/
def homeRegion (d : Dev) (hint : Nat) : Option Region :=
  let up := (List.finRange 4).filter (fun (r : Region) => regionUp d r)
  match up.find? (fun r => r.val == hint) with
  | some r => some r
  | none =>
    let load := fun (r : Region) => count (openSess d) (fun p => p.2.home == r)
    up.foldl (fun (a : Option Region) r => match a with
      | none => some r
      | some b => if load r < load b then some r else a) none

/-- The commands of a session that count as accepted and not completed (R67). -/
def sessLive (d : Dev) (f : Nat) (id : Word32) : List Cmd :=
  d.hif.cmds.filter (fun c => isHost c && c.fn == f && c.session == id && c.accepted && isAccepted c && c.dupOf.isNone && !c.silent)

/-- SESSION_OPEN. DESIGN CHOICE (log entry 64): the quota is looked at before the regions. -/
def bodySessionOpen (c : Cmd) (_ : HostRead) : Run Res := do
  if c.session != 0 then wrongState c 1
  need (zeroPar c 65 128) stParam 0
  let d ← get
  need (sessCount d c.fn < (fnOf d c.fn).sessQuota) stQuota 0
  need (decide (d.hif.nextFresh < 65536) || !d.hif.freed.isEmpty) stQuota 0
  match homeRegion d (par c 64 1) with
  | none => wrongState c 4
  | some home =>
    let fresh := decide (d.hif.nextFresh < 65536)
    let i := if fresh then d.hif.nextFresh else d.hif.freed.headD 0
    let gen := if fresh then 1 else nextGen (sessOf d i).gen
    let s : Sess := { isOpen := true, gen, fn := c.fn, home }
    eff (onHif (fun h => { h with
      sess := tput h.sess i s
      nextFresh := if fresh then h.nextFresh + 1 else h.nextFresh
      freed := if fresh then h.freed else h.freed.drop 1 }))
    pure (resVal (sessId i s).toNat)

def execSessionOpen (cid : Nat) (hr : HostRead) (s : State) : Ans := hasp 0x0010 cid hr bodySessionOpen s

/-! ## Queue commands (R51, R52) -/

/-- QUEUE_CREATE. DESIGN CHOICE (log entry 51): a number that is still being deleted or stopped counts as live, and a pair created
while its function stops is a stopping one. -/
def bodyQueueCreate (c : Cmd) (_ : HostRead) : Run Res := do
  let q := par c 64 2
  let d ← get
  need (c.qp == 0 && decide (1 ≤ q) && decide (q ≤ qpMax c.fn) && zeroPar c 90 128) stParam 0
  let sq := par c 66 2
  let cq := par c 68 2
  need (decide (2 ≤ sq) && decide (sq ≤ 4096) && decide (2 ≤ cq) && decide (cq ≤ 4096)) stParam 0
  need (decide (par c 70 1 ≤ vecMax c.fn) && decide (par c 71 1 ≤ 3)) stParam 0
  need (par c 72 8 % 4096 == 0 && par c 80 8 % 4096 == 0) stParam 0
  let x := qpOf d c.fn q
  need (!x.live && !x.stopping) stParam 0
  eff (onQp c.fn q (fun _ => {
    live := !(fnOf d c.fn).stopping, stopping := (fnOf d c.fn).stopping, sqDepth := sq, cqDepth := cq
    sqBase := BitVec.ofNat 64 (par c 72 8), cqBase := BitVec.ofNat 64 (par c 80 8), vector := par c 70 1
    prio := par c 71 1, coalCount := par c 88 1, coalTime := par c 89 1 }))
  pure resOk

def execQueueCreate (cid : Nat) (hr : HostRead) (s : State) : Ans := hasp 0x0001 cid hr bodyQueueCreate s

/-- The commands of a pair that its deletion waits for: not those that wait behind the deletion itself (R52, R72). -/
def delWaits (d : Dev) (f q cid : Nat) : Bool :=
  match cmdOf? d cid with
  | none => false
  | some c =>
    d.hif.cmds.any (fun x => isHost x && x.fn == f && x.qp == q && !x.silent && !(sameSession x c && seqBelow c.seq x.seq))

/-- Ends a deletion whose commands have all posted. -/
def delCheck (f q : Nat) (d : Dev) : Dev :=
  match (qpOf d f q).delCid with
  | some cid => if delWaits d f q cid then d else qpDrop f q d |> finish cid resOk
  | none => d

def bodyQueueDelete (c : Cmd) (_ : HostRead) : Run Res := do
  let q := par c 64 2
  need (c.qp == 0 && q != 0 && decide (q ≤ qpMax c.fn) && zeroPar c 66 128) stParam 0
  need (qpOf (← get) c.fn q).live stParam 0
  eff (qpStop c.fn q)
  eff (onQp c.fn q (fun x => { x with delCid := some c.cid }))
  throw .running

def queueDelete (cid : Nat) (hr : HostRead) (d : Dev) : Dev :=
  let d := runCmd 0x0002 cid hr false bodyQueueDelete d
  match cmdOf? d cid with
  | some c => delCheck c.fn (par c 64 2) d
  | none => d

def execQueueDelete (cid : Nat) (hr : HostRead) (s : State) : Ans := nextD (queueDelete cid hr) s

/-! ## The checks of R22 -/

def onPfOnly (code : Nat) : Bool := classOf code == 1 || [0x0801, 0x0802, 0x0610, 0x0620].contains code

/-- The key that KEY_EXPORT names is a persistent key of the submitting owner (R22, R90). -/
def exportsPersistent (d : Dev) (c : Cmd) : Bool :=
  c.code == 0x0204 && ((keyLookup d c.owner c.session (hA c)).map (fun k => k.life == 2)).getD false

/-- The classes that PCIe carries (R57). -/
def classListed (code : Nat) : Bool := [0, 1, 2, 3, 4, 5, 6, 7, 8, 0x0A, 0x0B, 0x0C].contains (classOf code)

/-- Step 1: port and class (R21). -/
def portOk (d : Dev) (c : Cmd) : Bool :=
  classListed c.code && (!isVf c.fn || (!onPfOnly c.code && !exportsPersistent d c))

/-- The state that an LC command leads to, none where R31 gives no transition. -/
def lcTarget (s : LcState) (code : Nat) : Option LcState :=
  match s, code with
  | .manufacture, 0x0101 => some .provisioned
  | .provisioned, 0x0102 => some .develop
  | .develop, 0x0103 => some .provisioned
  | .provisioned, 0x0104 => some .operational
  | .manufacture, 0x0105 => some .quarantine
  | .provisioned, 0x0105 => some .quarantine
  | .develop, 0x0105 => some .quarantine
  | .operational, 0x0105 => some .quarantine
  | .retired, 0x0106 => none
  | _, 0x0106 => some .retired
  | _, _ => none

def isLc (code : Nat) : Bool := 0x0101 ≤ code && code ≤ 0x0106

/-- A class is admitted in a lifecycle state, on the PF or on a VF (R30). -/
def classAdmitted (s : LcState) (pf : Bool) (cls : Nat) : Bool :=
  match s with
  | .develop => true
  | .operational => true
  | .provisioned => cls == 1 || cls == 8 || cls == 0x0A || cls == 0x0B || cls == 0x0C || (pf && (cls == 2 || cls == 6))
  | .manufacture => cls == 0x0A || cls == 0x0B || cls == 0x0C || (pf && cls == 6)
  | .quarantine => cls == 0x0A || cls == 0x0B || cls == 0x0C
  | .retired => cls == 0x0A || cls == 0x0C

/-- Step 2: the lifecycle state admits the command (R30, R31, R57). -/
def lifecycleOk (d : Dev) (c : Cmd) : Bool :=
  let s := d.lc.state
  let pf := !isVf c.fn
  if c.code == 0x0010 then [2, 3, 4, 5, 7, 8].any (classAdmitted s pf)
  else if classOf c.code == 0 then true
  else if isLc c.code then (lcTarget s c.code).isSome && !(s == .manufacture && c.code == 0x0105)
  else if c.code == 0x0110 then s == .provisioned
  else if c.code == 0x0610 then s == .manufacture
  else classAdmitted s pf (classOf c.code)

def fnBound (d : Dev) (f : Nat) : Bool := f == 0 || d.hif.bound.contains f

/-- Step 2: an unbound VF takes IDN, QUEUE_CREATE and QUEUE_DELETE alone (R23). -/
def bindingOk (d : Dev) (c : Cmd) : Bool :=
  fnBound d c.fn || classOf c.code == 0x0C || c.code == 0x0001 || c.code == 0x0002

/-- The retirement token stands in place of a quorum (R31, R39). -/
def tokenRetires (d : Dev) : Bool := d.lc.state == .manufacture || (d.lc.state == .quarantine && d.lc.cards.isEmpty)

/-- The sensitive commands of R28. -/
def isSensitive (d : Dev) (c : Cmd) : Bool :=
  [0x0102, 0x0103, 0x0104, 0x0105, 0x0111, 0x0112, 0x0113, 0x0114, 0x0170, 0x0120, 0x0121, 0x0122, 0x0140, 0x0151, 0x01A0,
    0x0153, 0x0152, 0x0160, 0x0161, 0x0801, 0x0802].contains c.code
  || (c.code == 0x0106 && !tokenRetires d) || exportsPersistent d c

/-- The codes that a chapter defines, as the table of commands lists them. -/
def codeKnown (code : Nat) : Bool :=
  [0x0001, 0x0002, 0x0010, 0x0011, 0x0101, 0x0102, 0x0103, 0x0104, 0x0105, 0x0106, 0x0110, 0x0111, 0x0112, 0x0113, 0x0114, 0x0115,
    0x0120, 0x0121, 0x0122, 0x0130, 0x0140, 0x0150, 0x0151, 0x0152, 0x0153, 0x0160, 0x0161, 0x0170, 0x0180, 0x0181, 0x0182,
    0x0190, 0x0191, 0x01A0, 0x01B0, 0x0201, 0x0202, 0x0203, 0x0204, 0x0205, 0x0206, 0x0207, 0x0208].contains code
  || [0x0301, 0x0302, 0x0303, 0x0304, 0x0310, 0x0311, 0x0312, 0x0320, 0x0321, 0x0330, 0x0340, 0x0341, 0x0401, 0x0402, 0x0403,
    0x0410, 0x0411, 0x0412, 0x0413, 0x0414, 0x0415, 0x0416, 0x0501, 0x0502, 0x0503, 0x0504, 0x0601, 0x0610, 0x0620,
    0x0701, 0x0702, 0x0703, 0x0704, 0x0705, 0x0801, 0x0802, 0x0810, 0x0811, 0x0812, 0x0813, 0x0A01, 0x0A02, 0x0B01, 0x0B02,
    0x0C01].contains code

/-- The detail of an unknown code of a listed class; the classes whose chapters name none take 0. -/
def unknownDetail (code : Nat) : Nat :=
  match classOf code with
  | 3 => 0x0306
  | 4 => 0x0401
  | 5 => 0x0501
  | 6 => 0x0603
  | 7 => 0x0701
  | 8 => 0x0801
  | _ => 0

/-- The close of a session is accepted and on its way: a SESSION_CLOSE that ended without effect leaves none (R66). -/
def isClosing (d : Dev) (s : Sess) : Bool := (s.closing.bind (cmdOf? d)).any (fun x => !isDone x)

/-- Where the target of SESSION_CLOSE stands (R66): the session it may close. -/
def closeTarget (d : Dev) (c : Cmd) : Option Word32 :=
  let id := BitVec.ofNat 32 (par c 64 4)
  if c.session != 0 || id == 0 || !zeroPar c 68 128 then none
  else match sessNamed d c.fn id with
    | some s => if isClosing d s then none else some id
    | none => none

/-- Classes that safe operation keeps: LOG, IDN and TEL (R32, R422). -/
def classFree (code : Nat) : Bool := [0x0A, 0x0B, 0x0C].contains (classOf code)

/-- Why an accepted command is refused before its own checks, with what is logged; none where it goes on.
DESIGN CHOICE (log entry 22): within step 2 of R22 the binding is tested before the lifecycle state. -/
def gate (d : Dev) (c : Cmd) (s : Sess) : Option (Res × (Dev → Dev)) :=
  let st := fun (kind : Nat) => some (resErr stState 0, log5104 c.code c.fn kind)
  if d.tmp.hold then (if classFree c.code then none else some (resErr stRetry 0x1001, id))
  else if d.die.safe then st 4
  else if d.lc.transition.isSome && !classFree c.code then st 3
  else if !portOk d c then some (resErr stWorld 0, logEv 0x2101 0x50 c.fn (classOf c.code) c.code)
  else if !bindingOk d c then st 5
  else if !lifecycleOk d c then st 3
  else if isSensitive d c && !quorumLive d then some (resErr stWorld 0, logEv 0x2102 0x50 c.code 0 0)
  else if isClosing d s then st 1
  else if !codeKnown c.code then some (resErr stParam (unknownDetail c.code), id)
  else if c.code == 0x0704 && dataOpen d c then st 1
  else none

/-! ## Acceptance and routing (R68, R72) -/

def isTxn (code : Nat) : Bool := classOf code == 3
def isDig (code : Nat) : Bool := classOf code == 5

/-- Where an admitted command waits: at a bolt pipeline, at a digest lane, or at its own block. -/
def route (d : Dev) (c : Cmd) (home : Region) : Option Loc :=
  if isTxn c.code then boltRoute d home c.prio
  else if isDig c.code then digRoute d home c.prio
  else some .none

/-- Rewrites the command `cid` and moves it to the end of the list, in acceptance order. -/
def cmdEnter (c : Cmd) : Dev → Dev := onHif (fun h => { h with cmds := h.cmds.filter (fun x => x.cid != c.cid) ++ [c] })

/-- The numbers of a session whose commands keep their own result: completed, or started before an ST_RETRY set A back (R69). -/
def ownSeqs (c : Cmd) (s : Sess) (d : Dev) : List Word32 :=
  s.cache.map (·.seq) ++ ((d.hif.cmds.filter (fun x => sameSession x c && x.accepted && x.dupOf.isNone && !x.silent
    && (match x.stage with | .running => true | .done r => r.status != stRetry | _ => false))).map (·.seq))

/-- A passes over every higher number whose command keeps its own result (R69). -/
def passOver (own : List Word32) (s : Sess) : Sess :=
  { s with a := own.foldl (fun a _ => if own.contains (a + 1) then a + 1 else a) s.a }

/-- Accepts a command: A advances, and the checks of R13, R422, R32 and R22 decide where it goes. -/
def acceptCmd (c0 : Cmd) (d : Dev) : Dev :=
  let d1 := onHif (fun h => { h with nextCid := h.nextCid + 1, cmds := h.cmds.filter (fun x => x.cid != c0.cid) }) d
    |> onSess c0.fn c0.session (fun s => passOver (ownSeqs c0 s d) { s with a := c0.seq })
    |> onFn c0.fn (fun x => { x with accepted := x.accepted + 1 })
  let c := { c0 with cid := d.hif.nextCid, accepted := true, stage := .waiting, dupOf := none }
  let s := (sessNamed d1 c.fn c.session).getD {}
  match gate d1 c s with
  | some (r, log) => cmdEnter { c with stage := .done r } (log d1)
  | none =>
    let c := if isSensitive d1 c then { c with qmask := quorumMask d1 } else c
    match route d1 c s.home with
    | none => cmdEnter { c with stage := .done (resErr stState 0) } (log5104 c.code c.fn 4 d1)
    | some loc =>
      let d2 := cmdEnter { c with loc } d1
      if c.code == 0x0011 then
        match closeTarget d2 c with
        | some id => onSess c.fn id (fun s => { s with closing := some c.cid }) d2
        | none => d2
      else d2

/-- The completion of a replayed command (R70). -/
def dupRes (r : Replay) : Res := ⟨if r.status = stOk then stOkDup else r.status, r.detail, r.outLen, 0, []⟩

def log5110 (c : Cmd) : Dev → Dev := logEv 0x5110 0x50 c.fn c.session.toNat c.seq.toNat
def log5111 (c : Cmd) : Dev → Dev := logEv 0x5111 0x50 c.fn c.session.toNat c.seq.toNat
def log5112 (c : Cmd) : Dev → Dev := logEv 0x5112 0x50 c.fn c.session.toNat c.seq.toNat

/-- A refusal that leaves A and the replay cache unchanged. -/
def refuseCmd (c : Cmd) (r : Res) : Dev → Dev := cmdEnter { c with accepted := false, stage := .done r, dupOf := none }

/-- Judges a command of case recent (R70). -/
def recentCmd (c : Cmd) (s : Sess) (d : Dev) : Dev :=
  match s.cache.find? (fun r => r.seq == c.seq) with
  | some r =>
    if r.crc = c.crc then cmdEnter { c with accepted := false, duplicate := true, stage := .done (dupRes r), dupOf := none } d
    else refuseCmd c (resErr stSeqStale 0) (log5110 c d)
  | none =>
    match d.hif.cmds.find? (fun x => sameSession x c && x.seq == c.seq && x.accepted && isAccepted x && x.dupOf.isNone && !x.silent) with
    | some x => cmdEnter { c with accepted := false, stage := .held, dupOf := some x.cid } d
    | none => refuseCmd c (resErr stSeqStale 0) (log5112 c d)

/-- Classifies a command by its distance from A (R68). -/
def classify (c : Cmd) (d : Dev) : Dev :=
  let s := (sessNamed d c.fn c.session).getD {}
  let n := (c.seq - s.a).toNat
  if n = 1 then acceptCmd c d
  else if 2 ≤ n ∧ n ≤ 16 then cmdEnter { c with accepted := false, stage := .held } d
  else if n = 0 ∨ 2 ^ 32 - 63 ≤ n then recentCmd c s d
  else if n < 2 ^ 31 then refuseCmd c (resErr stSeqGap 0) (log5111 c d)
  else refuseCmd c (resErr stSeqStale 0) (log5112 c d)

/-- A session at its limit of commands accepted and not yet completed (R67). -/
def sessAtLimit (d : Dev) (f : Nat) (id : Word32) : Bool := decide (256 ≤ (sessLive d f id).length)

/-- A held command that the advance of A has reached; the next one stays held while its session is at the limit of R67. -/
def heldReady (d : Dev) (f : Nat) (id : Word32) : Option Cmd :=
  let a := ((sessNamed d f id).getD {}).a
  let full := sessAtLimit d f id
  d.hif.cmds.find? (fun c => isHost c && c.fn == f && c.session == id && c.stage == .held && c.dupOf.isNone
    && (let n := (c.seq - a).toNat; n == 0 || decide (2 ^ 31 ≤ n) || (n == 1 && !full)))

/-- Releases held commands, one for each held at the start at most. -/
def releaseLoop (f : Nat) (id : Word32) : Nat → Dev → Dev
  | 0, d => d
  | n + 1, d =>
    match heldReady d f id with
    | some c => releaseLoop f id n (classify c d)
    | none => d

def release (f : Nat) (id : Word32) (d : Dev) : Dev := releaseLoop f id (d.hif.cmds.length + 1) d

/-! ## Fetching entries (R55, R56, R67) -/

def qpLevel (x : Qp) : Nat := min 3 (x.prio + x.boost)

/-- The pair may be fetched from: live, without error, with entries, and with room in its completion queue. -/
def qpEligible (x : Qp) : Bool := x.live && !x.err && !x.sessFull && decide (0 < sqHeld x) && cqFree x

/-- The pair served next: the highest level, and within it the next in turn. -/
def qpPick (d : Dev) : Option (Nat × Qp) :=
  let el := d.hif.qps.filter (fun p => qpEligible p.2 && fnUp d (p.1 / 64))
  let top := el.foldl (fun a p => max a (qpLevel p.2)) 0
  let same := el.filter (fun p => qpLevel p.2 == top)
  match same.find? (fun p => decide (tget d.hif.rr top 0 ≤ p.1)) with
  | some p => some p
  | none => same.head?

/-- The turn of a pair's level passes to the pairs after it. -/
def qpServed (n : Nat) (x : Qp) : Dev → Dev := onHif (fun h => { h with rr := tput h.rr (qpLevel x) (n + 1) })

/-- The check code of R70: the low half of the CRC-32C over bytes 0 to 11 and 16 to 127. -/
def checkCode (e : Bytes) : BitVec 16 := BitVec.ofNat 16 (crc32c (slice e 0 12 ++ slice e 16 112))

def entryCmd (d : Dev) (f q prio : Nat) (e : Bytes) : Cmd := {
  cid := d.hif.nextCid, fn := f, qp := q, code := fieldLE e 0 2, flags := BitVec.ofNat 16 (fieldLE e 2 2)
  session := BitVec.ofNat 32 (fieldLE e 4 4), seq := BitVec.ofNat 32 (fieldLE e 8 4), tag := BitVec.ofNat 32 (fieldLE e 12 4)
  ha := BitVec.ofNat 64 (fieldLE e 16 8), hb := BitVec.ofNat 64 (fieldLE e 24 8)
  inPtr := BitVec.ofNat 64 (fieldLE e 32 8), inLen := fieldLE e 40 4, outCap := fieldLE e 44 4
  outPtr := BitVec.ofNat 64 (fieldLE e 48 8), params := slice e 64 64, owner := fnOwner f, prio, crc := checkCode e
  accepted := false }

/-- The entry's own reserved fields (R6, R68): bytes 56 to 63, and flags 15:4. -/
def entryClean (e : Bytes) : Bool := (slice e 56 8).all (· = 0) && fieldLE e 2 2 < 16

/-- Classes of the control session (R63); a class that R57 does not list goes on to R22. -/
def ctlClass (code : Nat) : Bool := [0, 1, 6, 0x0A, 0x0B, 0x0C].contains (classOf code) || !classListed code

/-- Checks and sequences one fetched entry. -/
def takeEntry (c : Cmd) (e : Bytes) (d : Dev) : Dev :=
  let d1 := onHif (fun h => { h with nextCid := h.nextCid + 1 }) d
  if !entryClean e then refuseCmd c (resErr stParam 0) d1
  else
    match sessNamed d1 c.fn c.session with
    | none => refuseCmd c (resErr stState 0) (log5104 c.code c.fn 1 d1)
    | some _ =>
      if c.session = 0 ∧ ctlClass c.code = false then refuseCmd c (resErr stState 0) (log5104 c.code c.fn 1 d1)
      else release c.fn c.session (classify c d1)

def entryFetch (rd : EntryRead) (d : Dev) : Dev :=
  if d.cpm.power != .ready then d
  else
    match qpPick d with
    | none => d
    | some (n, x) =>
      let f := n / 64
      let q := n % 64
      match rd with
      | .error => qpServed n x d |> aerSet f 12 |> qpError f q 0 4
      | .ok bytes =>
        let e := fit bytes 128
        let c := entryCmd d f q x.prio e
        if sessAtLimit d f c.session then onQp f q (fun x => { x with sessFull := true }) d
        else
          qpServed n x d
            |> onQp f q (fun x => { x with sqHead := (x.sqHead + 1) % x.sqDepth, boost := 0 })
            |> takeEntry c e

def execSqEntryFetch (rd : EntryRead) (s : State) : Ans := nextD (entryFetch rd) s

/-- 100 µs non-empty and unserved: served at the next higher level (R55). DESIGN CHOICE (log entry 55): each further
100 µs raises it by one more level, to level 3. -/
def sqPromote (f q : Nat) (d : Dev) : Dev :=
  let x := qpOf d f q
  if x.live && decide (0 < sqHeld x) && decide (qpLevel x < 3) then onQp f q (fun x => { x with boost := x.boost + 1 }) d else d

def execSqPriorityPromote (fn : Fn) (qp : Nat) (s : State) : Ans := nextD (sqPromote fn qp) s

def holdTimeout (cid : Nat) (d : Dev) : Dev :=
  match cmdOf? d cid with
  | some c => if c.stage == .held && c.dupOf.isNone then refuseCmd c (resErr stSeqGap 0) (log5111 c d) else d
  | none => d

def execSeqHoldTimeout (cid : Nat) (s : State) : Ans := nextD (holdTimeout cid) s

/-! ## Completions (R60 to R62, R69, R70, R72) -/

/-- The 32 bytes of R60. -/
def entryBytes (r : Res) (session seq tag : Word32) (sqHead qp flags : Nat) (qmask : BitVec 16) : Bytes :=
  natLE r.status.toNat 2 ++ natLE r.detail.toNat 2 ++ natLE session.toNat 4 ++ natLE seq.toNat 4 ++ natLE tag.toNat 4
    ++ natLE sqHead 2 ++ natLE qp 2 ++ natLE flags 2 ++ natLE qmask.toNat 2 ++ natLE r.outLen 4 ++ natLE r.result.toNat 4

/-- Output bytes over the pieces of the output buffer. -/
def spread : List (Word64 × Nat) → Bytes → List Tx
  | [], _ => []
  | p :: ps, b => if b.isEmpty then [] else .output p.1 (b.take p.2) :: spread ps (b.drop p.2)

/-- The command posts in its session's order: it was accepted, or R69 ended it while it was held. -/
def inOrder (x : Cmd) : Bool := (x.accepted && isAccepted x) || x.swept

/-- No duplicate of the session is still to be posted directly after its original (R70), and for one that posts in order no
command of the session below it is still to be posted. -/
def mayPost (d : Dev) (c : Cmd) : Bool :=
  (c.follows || d.hif.cmds.all (fun x => !(sameSession x c && x.follows && !x.silent)))
    && (!inOrder c || d.hif.cmds.all (fun x => !(sameSession x c && inOrder x && x.dupOf.isNone && !x.silent && seqBelow x.seq c.seq)))

/-- The interrupt of a completion queue (R62). -/
def coalesce (c : Cmd) (d : Dev) : Dev :=
  if c.flags.getLsbD 3 then d
  else
    let x := qpOf d c.fn c.qp
    let n := x.coalN + 1
    if x.coalCount ≤ n ∨ x.coalTime = 0 then onQp c.fn c.qp (fun x => { x with coalN := 0 }) d |> raiseVec c.fn x.vector
    else onQp c.fn c.qp (fun x => { x with coalN := n }) d

/-- Output, entry and interrupt of a completion (R61). -/
def postEntry (c : Cmd) (r : Res) (d : Dev) : Dev :=
  let x := qpOf d c.fn c.qp
  let e := entryBytes r c.session c.seq c.tag x.sqHead c.qp (b2n x.phase + 2 * b2n c.duplicate) c.qmask
  let next := (x.cqPost + 1) % x.cqDepth
  d |> onHif (fun h => { h with
        tx := h.tx ++ spread c.outSeg r.out ++ [.completion c.fn c.qp x.cqPost e]
        duplicates := if c.duplicate then h.duplicates + 1 else h.duplicates })
    |> onQp c.fn c.qp (fun x => { x with cqPost := next, phase := if next = 0 then !x.phase else x.phase })
    |> onFn c.fn (fun x => { x with completed := x.completed + 1 })
    |> coalesce c

/-- The replay cache after a completion: entries from A − 63 to A, and those above A (R69, R70). -/
def cacheAdd (c : Cmd) (r : Res) (s : Sess) : Sess :=
  let l := s.cache ++ [⟨c.seq, c.code, r.status, r.detail, r.outLen, c.crc⟩]
  { s with cache := l.filter (fun x => decide ((s.a - x.seq).toNat < 64) || seqBelow s.a x.seq) }

/-- After an ST_RETRY: the higher commands not yet started end with it, and A falls back (R69). -/
def retryCascade (c : Cmd) (d : Dev) : Dev :=
  d |> onHif (fun h => { h with
        cmds := lmod h.cmds (fun x => sameSession x c && seqBelow c.seq x.seq && x.dupOf.isNone && (isWaiting x || x.stage == .held))
          (fun x => { x with stage := .done resRetry, loc := .none, waitOn := [], swept := true }) })
    |> onSess c.fn c.session (fun s => if seqBelow (c.seq - 1) s.a then { s with a := c.seq - 1 } else s)

/-- Judges again the duplicates held for a command that has completed: by its entry in the replay cache, where it has one
(R70). -/
def judgeDups (c : Cmd) (r : Res) (d : Dev) : Dev :=
  forAll (d.hif.cmds.filter (fun x => x.dupOf == some c.cid)) (fun x d =>
    if r.status = stRetry then refuseCmd x resRetry d
    else
      match ((sessNamed d c.fn c.session).getD {}).cache.find? (fun y => y.seq == c.seq) with
      | none => refuseCmd x (resErr stSeqStale 0) (log5112 x d)
      | some y =>
        if x.crc = y.crc then cmdEnter { x with duplicate := true, follows := true, stage := .done (dupRes y), dupOf := none } d
        else refuseCmd x (resErr stSeqStale 0) (log5110 x d)) d

def cmdDrop (cid : Nat) : Dev → Dev := onHif (fun h => { h with cmds := h.cmds.filter (fun x => x.cid != cid) })

/-- What a completion of an accepted command does to its session. -/
def sessPosted (c : Cmd) (r : Res) (d : Dev) : Dev :=
  if !c.accepted || c.swept then d
  else if r.status = stRetry then retryCascade c d
  else onSess c.fn c.session (cacheAdd c r) d

/-- The pairs that a full session held back may be fetched from again (R67). -/
def unblock : Dev → Dev :=
  onHif (fun h => { h with qps := h.qps.map (fun p => (p.1, { p.2 with sessFull := false })) })

/-- Posts the completion `cid` where its turn and its completion queue allow. One of a command that waited behind the
QUEUE_DELETE of its own pair finds no pair and is dropped. DESIGN CHOICE (log entry 52): R52 lets the deletion wait for
every command fetched from the pair, and R72 lets these start only after it. -/
def completionPost (cid : Nat) (d : Dev) : Dev :=
  match cmdOf? d cid with
  | none => d
  | some c =>
    match c.stage with
    | .done r =>
      let x := qpOf d c.fn c.qp
      if !isHost c then d
      else if c.silent then cmdDrop cid d
      else if !mayPost d c then d
      else if !x.live && !x.stopping then
        cmdDrop cid d |> sessPosted c r |> judgeDups c r |> unblock |> release c.fn c.session
      else if !cqFree x then d
      else
        postEntry c r d |> cmdDrop cid |> sessPosted c r |> judgeDups c r |> unblock |> release c.fn c.session
          |> delCheck c.fn c.qp |> fnStopCheck c.fn
    | _ => d


def coalTimeout (f q : Nat) (d : Dev) : Dev :=
  let x := qpOf d f q
  if x.coalN = 0 then d else onQp f q (fun x => { x with coalN := 0 }) d |> raiseVec f x.vector

def execCqCoalTimeout (fn : Fn) (qp : Nat) (s : State) : Ans := nextD (coalTimeout fn qp) s

/-- A command that creates a key. -/
def createsKey (d : Dev) (c : Cmd) : Bool :=
  [0x0201, 0x0202, 0x0203, 0x0208, 0x0504, 0x0415].contains c.code || (c.code == 0x0501 && par c 65 1 == 1)
    || (c.code == 0x0401 && ((progFind d (par c 64 2)).map pSecretOut).getD false)

end Sys2Proof.Machine
end

