-- ==== Sys2Proof/Machine/Segs.lean ====
section
/-! DEFINITION. Segments: the descriptor rules of R281, the checks of R282, the message window (R313), and the bytes
behind an offset. -/

namespace Sys2Proof.Machine

/-- Segment numbers. -/
def sgCS : Nat := 0
def sgDS : Nat := 1
def sgSS : Nat := 2
def sgHS : Nat := 3
def sgMS : Nat := 4
def sgXS : Nat := 5
def sgG0 : Nat := 6
def sgG1 : Nat := 7

/-- The right an access needs. -/
inductive Right where
  | r | w | x | h
  deriving DecidableEq, Repr

def hasRight (g : Seg) : Right → Bool
  | .r => g.rights.getLsbD 0
  | .w => g.rights.getLsbD 1
  | .x => g.rights.getLsbD 2
  | .h => g.rights.getLsbD 3

/-- A well-formed descriptor (R281). -/
def segWf (n : Nat) (g : Seg) : Bool :=
  g.reservedZero && g.rights.toNat / 16 == 0 && g.base % 64 == 0 && g.rights != 0
    && (!hasRight g .h || g.rights == 8)
    && (!hasRight g .x || (n == sgCS && !hasRight g .w))
    && (n != sgSS || (g.limit + 1) % 64 == 0)

def segOf (t : Task) (n : Nat) : Seg := t.segs.getD n {}

/-- Where the output buffer stands in the message window (R313). -/
def msOut : Nat := 0x08000000

/-- The whole access lies within the segment; the message window has its input and its output range. -/
def segInside (t : Task) (g : Seg) (off len : Nat) : Bool :=
  if g.ms then decide (off + len ≤ t.inLen) || (decide (msOut ≤ off) && decide (off + len ≤ msOut + t.outCap))
  else decide (off + len ≤ g.limit + 1)

/-- The kind of the first check that fails, in the order of R282; none where the access is allowed. -/
def segCheck (t : Task) (n : Nat) (need : Right) (off len align : Nat) : Option Nat :=
  let g := segOf t n
  if !segWf n g then some 8
  else if !(g.world == t.owner.world && g.tenant == t.owner.tenant) then some 6
  else if !hasRight g need then
    some (if hasRight g .h then 5 else match need with | .r => 2 | .w => 3 | .x => 4 | .h => 5)
  else if off % align != 0 then some 7
  else if !segInside t g off len then some 1
  else none

/-- The pieces of a host buffer from an offset on. -/
def piecesFrom : List (Word64 × Nat) → Nat → List (Word64 × Nat)
  | [], _ => []
  | p :: ps, o => if p.2 ≤ o then piecesFrom ps (o - p.2) else (p.1 + BitVec.ofNat 64 o, p.2 - o) :: ps

/-- The host addresses behind an offset of the message window. -/
def msPieces (t : Task) (off : Nat) : List (Word64 × Nat) :=
  if off < msOut then piecesFrom t.inSeg off else piecesFrom t.outSeg (off - msOut)

def hostStores : List (Word64 × Nat) → Bytes → List Tx
  | [], _ => []
  | p :: ps, b => if b.isEmpty then [] else .hostStore p.1 (b.take p.2) :: hostStores ps (b.drop p.2)

/-- An address of cluster SRAM or local memory, which the state holds byte by byte. -/
def isRam (a : Nat) : Bool :=
  match regionAt a with
  | some _ => let o := a % 2 ^ 32; decide (o < 0x400000) || (decide (0x1000000 ≤ o) && decide (o < 0x1000000 + 7 * 0x40000))
  | none => false

/-- Stores bytes behind a segment offset that the checks have passed: to RAM, or out to the host; registers are written
one by one (`storeBytes`). -/
def segStore (t : Task) (n off : Nat) (b : Bytes) (s : State) : State :=
  let g := segOf t n
  if g.ms then onDev (onHif (fun h => { h with tx := h.tx ++ hostStores (msPieces t off) b })) s
  else if isRam (g.base + off) then onMem (fun m => memSetN m (g.base + off) b) s
  else s

/-- The bytes of RAM behind a segment offset. -/
def segLoad (t : Task) (n off len : Nat) (s : State) : Bytes := memGetN s.mem ((segOf t n).base + off) len

/-- A segment-relative address of R184: segment and offset, none where its reserved bits are set. -/
def segRel (a : Nat) : Option (Nat × Nat) :=
  if a / 2 ^ 59 = 0 ∧ a / 2 ^ 40 % 2 ^ 16 = 0 then some (a / 2 ^ 56 % 8, a % 2 ^ 40) else none

/-- A segment pointer: segment in bits 31:29, offset in bits 28:0 (R281). -/
def ptrSeg (p : Word32) : Nat := p.toNat / 2 ^ 29
def ptrOff (p : Word32) : Nat := p.toNat % 2 ^ 29

/-- The local memory of a slot and its size (R301). -/
def localBase (r p : Nat) : Nat := regionBase r + 0x1000000 + 0x40000 * p
def localSize : Nat := 0x40000
/-- The applet area: the SRAMs of K0, K1 and K2. -/
def appletBase (r : Nat) : Nat := regionBase r
def appletSize : Nat := 0x300000

end Sys2Proof.Machine
end

