-- ==== Sys2Proof/Machine/Tumbler.lean ====
section
/-! DEFINITION. The tumbler schedulers (R301 to R310, R317): tasks with their memory, dispatch and preemption, waits,
cancellation and the end of a task, the spare core, and the halt of a core (R299). -/

namespace Sys2Proof.Machine

/-! ## Memory of tasks and instances (R301, R303, R315) -/

def roundUp (n k : Nat) : Nat := (n + k - 1) / k * k

def segSize (g : Seg) : Nat := if g.rights = 0 then 0 else g.limit + 1

/-- A task's DS, SS, HS and G0 stand one after another in its home slot's local memory. -/
def taskBase (t : Task) : Nat := (segOf t sgDS).base
def taskLen (t : Task) : Nat :=
  segSize (segOf t sgDS) + segSize (segOf t sgSS) + roundUp (segSize (segOf t sgHS)) 64 + segSize (segOf t sgG0)

def taskLives (t : Task) : Bool := t.state != .free
def tasksOf (d : Dev) (r : Nat) : List (Nat × Task) := (regionOf d r).tmb.tasks.filter (fun p => taskLives p.2)
def homedAt (d : Dev) (r p : Nat) : List (Nat × Task) := (tasksOf d r).filter (fun x => x.2.home == p)

/-- The first gap of `len` bytes between blocks of an area. -/
def firstFit (base size len : Nat) (blocks : List (Nat × Nat)) : Option Nat :=
  let free := fun a => decide (a + len ≤ base + size) && blocks.all (fun b => decide (a + len ≤ b.1) || decide (b.1 + b.2 ≤ a))
  (base :: blocks.map (fun b => b.1 + b.2)).filter free |>.foldl (fun (a : Option Nat) x => match a with
    | none => some x
    | some y => some (min x y)) none

/-- The blocks taken in a slot's local memory; a task re-homed away holds none there. -/
def localBlocks (d : Dev) (r p : Nat) : List (Nat × Nat) := (homedAt d r p).map (fun x => (taskBase x.2, taskLen x.2))
def localFree (d : Dev) (r p : Nat) : Nat := localSize - ((localBlocks d r p).map (·.2)).sum

def instLen (i : Inst) : Nat := i.csLen + i.g1Len + i.xsLen
def instsOf (d : Dev) (r : Nat) : List Inst := (regionOf d r).tmb.insts
def areaBlocks (d : Dev) (r : Nat) : List (Nat × Nat) := (instsOf d r).map (fun i => (i.csBase, instLen i))
def areaFree (d : Dev) (r : Nat) : Nat := appletSize - ((areaBlocks d r).map (·.2)).sum
def instOf (d : Dev) (r n : Nat) : Option Inst := (instsOf d r).find? (fun i => i.inst == n)

/-- The image of an instance. -/
def appletOf (d : Dev) (n : Nat) : Option Applet := d.apl.applets.find? (fun a => a.inst == n)

/-- What a change of the tasks and instances of region `r` does to its memory: blocks that end are zeroed, new ones are
zeroed or filled from the image, and a task that moved takes its block along (R303, R310, R315). -/
def syncRegion (old new : Dev) (m0 : List Host.Cell) (r : Nat) (m : List Host.Cell) : List Host.Cell :=
  let was := tasksOf old r
  let now := tasksOf new r
  let same := fun (x y : Nat × Task) => x.1 == y.1 && taskBase x.2 == taskBase y.2 && x.2.call == y.2.call
  let gone := was.filter (fun x => !now.any (same x))
  let come := now.filter (fun x => !was.any (same x))
  let m := gone.foldl (fun m x => memZero m (taskBase x.2) (taskLen x.2)) m
  let m := come.foldl (fun m x =>
    let m := memZero m (taskBase x.2) (taskLen x.2)
    match gone.find? (fun y => y.1 == x.1 && y.2.call == x.2.call) with
    | some y => memSetN m (taskBase x.2) (memGetN m0 (taskBase y.2) (taskLen y.2))
    | none => m) m
  let left := (instsOf old r).filter (fun i => !(instsOf new r).contains i)
  let placed := (instsOf new r).filter (fun i => !(instsOf old r).contains i)
  let m := left.foldl (fun m i => memZero m i.csBase (instLen i)) m
  placed.foldl (fun m i =>
    memSetN (memZero m i.csBase (instLen i)) i.csBase (((appletOf new i.inst).map (·.code)).getD [])) m

def syncMem (old new : Dev) (m : List Host.Cell) : List Host.Cell :=
  (List.range 4).foldl (fun acc r => syncRegion old new m r acc) m

/-- A device function that may create, move or end tasks and instances. -/
def withTasks (f : Dev → Dev) (s : State) : State :=
  let d := f s.toDev
  { s with toDev := d, mem := syncMem s.toDev d s.mem }

def nextT (f : Dev → Dev) (s : State) : Ans := .next (withTasks f s)

/-! ## Slots (R288, R310) -/

/-- A core is in service. -/
def coreUp (d : Dev) (r p : Nat) : Bool :=
  let c := tget (regionOf d r).cores p {}
  !c.out && !c.stopping

/-- The core that serves a slot position: the spare where it stands in. -/
def servingPos (d : Dev) (r p : Nat) : Nat := if (regionOf d r).tmb.standIn == some p then 6 else p

/-- Positions with a core that serves them. -/
def slotsUp (d : Dev) (r : Nat) : List Nat := (List.range 6).filter (fun p => coreUp d r (servingPos d r p))

/-- The position that a core serves. -/
def homeOf (d : Dev) (c : CoreId) : Option Nat :=
  if c.pos.val = 6 then (regionOf d c.region).tmb.standIn
  else if (regionOf d c.region).tmb.standIn == some c.pos.val then none else some c.pos.val

def onCoreP (r p : Nat) (f : CoreS → CoreS) : Dev → Dev :=
  onRegion r (fun x => { x with cores := tmod x.cores p {} f })

/-- The core that runs a task. -/
def coreRunning (d : Dev) (r t : Nat) : Option Nat :=
  (List.range 7).find? (fun p => (tget (regionOf d r).cores p {}).task == some t)

def freeCore (r t : Nat) (d : Dev) : Dev :=
  match coreRunning d r t with
  | some p => onCoreP r p (fun c => { c with task := none }) d
  | none => d

/-- The tumbler admits new tasks (R317, R322). -/
def tmbAdmits (d : Dev) (r : Nat) : Bool :=
  let x := regionOf d r
  x.phase == .up && !x.tmb.draining && !x.tmb.stopping

/-- The tumbler dispatches: started tasks run on in a drain (R317). -/
def tmbRuns (d : Dev) (r : Nat) : Bool :=
  let x := regionOf d r
  (x.phase == .up || x.phase == .draining) && !x.tmb.stopping

/-! ## States (R303) -/

/-- A task becomes READY behind those of its level. -/
def makeReady (r t : Nat) (d : Dev) : Dev :=
  let n := (regionOf d r).tmb.clock + 1
  onTask r t (fun x => { x with state := .ready, stamp := n }) d |> onTmb r (fun y => { y with clock := n })

/-- An event is pending for a task (R288). -/
def eventPending (d : Dev) (r : Nat) (t : Task) : Bool :=
  t.latch || t.seen != (tget (regionOf d r).cores t.home {}).sev

def waitsEvent (t : Task) : Bool := t.wait == .event || t.wait == .eventUntil

/-- WAITING tasks with an event pending become READY (R290, R291). -/
def wakeTasks (r : Nat) (d : Dev) : Dev :=
  forAll ((tasksOf d r).filter (fun x => x.2.state == .waiting && x.2.ending.isNone && waitsEvent x.2 && eventPending d r x.2))
    (fun x => makeReady r x.1) d

/-- The commands and descriptor lists a task has outstanding (R294, R304). -/
def taskCmds (d : Dev) (r t : Nat) : List Cmd :=
  d.hif.cmds.filter (fun c => match c.origin with | .task k => k.region.val == r && k.task == t && c.code != 0xFF05 | .host => false)

def dmaOf (d : Dev) (i : Nat) : DmaS := tget d.dma i {}
def taskLists (d : Dev) (r t : Nat) : List Nat :=
  ((dmaOf d r).chans.filter (fun p => p.2.ownerTask == some t && (p.2.state == .running || p.2.state == .stopping))).map (·.1)

def taskQuiet (d : Dev) (r t : Nat) : Bool := (taskCmds d r t).isEmpty && (taskLists d r t).isEmpty

/-- EV_4150 (R293, R295), logged and captured by the core that trapped. -/
def trapP1 (t : Nat) (k : TrapRec) : Nat := k.cause * 2 ^ 27 + k.kind * 2 ^ 23 + k.seg * 2 ^ 20 + k.master * 2 ^ 12 + t

def logTrap (t : Nat) (k : TrapRec) (d : Dev) : Dev :=
  let p1 := trapP1 t k
  let d := logEv 0x4150 k.master p1 k.p2.toNat k.pc.toNat d
  match masterCore? k.master with
  | some c => onCore c (fun x => { x with p1 := BitVec.ofNat 32 p1, p2 := k.p2, p3 := k.pc }) d
  | none => d

/-- APL_CANCEL commands that wait for the task of the call `cid` (R313). -/
def cancelsDone (cid : Nat) (d : Dev) : Dev :=
  forAll (d.hif.cmds.filter (fun c => isRunning c && c.code == 0x0813 && c.scratch == [cid])) (fun c => finish c.cid resOk) d

/-- A task whose end is decided reaches DONE or CANCELLED once nothing of it is outstanding (R294, R296, R304). -/
def taskSettle (r t : Nat) (d : Dev) : Dev :=
  let k := taskOf d r t
  match k.ending with
  | none => d
  | some e =>
    if k.state == .done || k.state == .cancelled || k.state == .free || !taskQuiet d r t then d
    else
      let d := freeCore r t d
        |> onTask r t (fun x => { x with state := if e = .exit then .done else .cancelled, wake := 0, cancel := false })
        |> doIf (e != .exit) (onTmb r (fun x => { x with cancels := x.cancels + 1 }))
      (match k.trap with
        | some tr => if e = .trap then logTrap t tr d else d
        | none => d) |> cancelsDone k.call

/-- Decides a task's end: it gives up its core and runs no further instruction. -/
def taskEnding (r t : Nat) (e : Ending) (d : Dev) : Dev :=
  freeCore r t d |> onTask r t (fun x => { x with ending := some e, stop := none }) |> taskSettle r t

/-! ## An instruction in progress (R292, R304, R366) -/

/-- The software read of coprocessor 5 that an instruction of a core has begun (R210). -/
def cpRead? (d : Dev) (c : CoreId) : Option Cmd :=
  d.hif.cmds.find? (fun x => x.code == 0xFF05 && (match x.origin with | .task k => k.number == coreMaster c | .host => false))

/-- A core's instruction waits at a keyway unit, or for random bytes: it completes or traps first. -/
def insHeld (d : Dev) (c : CoreId) : Bool :=
  d.kw.any (fun q => q.2.stalled.any (fun x => x.by_ == some c) || q.2.verdicts.any (fun v => v.1.by_ == some c))
    || (cpRead? d c).isSome

/-- The instruction in progress is abandoned: it has had no effect. -/
def insForget (c : CoreId) (d : Dev) : Dev :=
  kwForget (fun x => x.by_ == some c) d
    |> onHif (fun h => { h with cmds := h.cmds.filter (fun x => !(x.code == 0xFF05 &&
        (match x.origin with | .task k => k.number == coreMaster c | .host => false))) })

/-- A task whose instruction is in progress. -/
def taskHeld (d : Dev) (r t : Nat) : Bool :=
  match coreRunning d r t with
  | some p => if h : r < 4 ∧ p < 7 then insHeld d ⟨⟨r, h.1⟩, ⟨p, h.2⟩⟩ else false
  | none => false

/-- A cancellation (R304): nothing where the task has ended or its end is decided; an instruction in progress completes
first. -/
def cancelTask (r t : Nat) (e : Ending) (d : Dev) : Dev :=
  let k := taskOf d r t
  if k.ending.isSome || k.stop.isSome || k.state == .free || k.state == .done || k.state == .cancelled then d
  else
    let d1 := onTask r t (fun x => { x with cancel := true }) d
    if taskHeld d r t then onTask r t (fun x => { x with stop := some e }) d1 else taskEnding r t e d1

/-- A cancellation takes effect when the instruction that it met is over. -/
def stopTask (r t : Nat) (d : Dev) : Dev :=
  match (taskOf d r t).stop with
  | some e => if taskHeld d r t then d else taskEnding r t e d
  | none => d

/-! ## Dispatch (R306, R307) -/

/-- A READY task's level: raised by its age up to 14. -/
def taskLevel (t : Task) : Nat := if 14 ≤ t.priority then t.priority else min 14 (t.priority + t.age)

/-- The READY task to run next on a position: highest level, longest READY. -/
def readyBest (d : Dev) (r p : Nat) : Option (Nat × Task) :=
  ((homedAt d r p).filter (fun x => x.2.state == .ready && x.2.ending.isNone)).foldl (fun (a : Option (Nat × Task)) x =>
    match a with
    | none => some x
    | some y =>
      if taskLevel y.2 < taskLevel x.2 ∨ (taskLevel y.2 = taskLevel x.2 ∧ x.2.stamp < y.2.stamp) then some x else a) none

/-- Stamps of the region move up, and the preempted task becomes the first of its level. -/
def preempt (r t : Nat) : Dev → Dev :=
  onTmb r (fun x => { x with
    clock := x.clock + 1, preempts := x.preempts + 1
    tasks := x.tasks.map (fun p =>
      if p.1 = t then (p.1, { p.2 with state := .ready, stamp := 0 }) else (p.1, { p.2 with stamp := p.2.stamp + 1 })) })

/-- A task that waited takes its event at its dispatch (R290, R291). -/
def resumeWait (d : Dev) (r : Nat) (t : Task) : Task :=
  if waitsEvent t then
    { t with latch := false, seen := (tget (regionOf d r).cores t.home {}).sev, wait := .none, wake := 0
             ds := if t.wait = .eventUntil then 1 :: t.ds else t.ds }
  else t

def dispatchTo (c : CoreId) (t : Nat) (d : Dev) : Dev :=
  let r := c.region.val
  let k := resumeWait d r (taskOf d r t)
  onTask r t (fun _ => { k with state := .running, age := 0 }) d
    |> onCore c (fun x => { x with task := some t })
    |> onTmb r (fun x => { x with dispatches := x.dispatches + 1 })

/-- Another core that runs a task homed at a position: the task moves to the core that serves it at its next preemption point,
where no instruction is in progress (R310). -/
def takeOver (c : CoreId) (p : Nat) (d : Dev) : Dev :=
  let r := c.region.val
  match (List.range 7).find? (fun q => q != c.pos.val && ((tget (regionOf d r).cores q {}).task.map (fun t => (taskOf d r t).home)) == some p) with
  | none => d
  | some q =>
    match (tget (regionOf d r).cores q {}).task with
    | some t =>
      if taskHeld d r t then d
      else onCoreP r q (fun x => { x with task := none }) d |> onCore c (fun x => { x with task := some t })
        |> onTmb r (fun x => { x with migrations := x.migrations + 1 })
    | none => d

/-- A task homed at a position that another core still runs. -/
def awaitsTask (d : Dev) (c : CoreId) (p : Nat) : Bool :=
  (List.range 7).any (fun q => q != c.pos.val
    && ((tget (regionOf d c.region).cores q {}).task.map (fun t => (taskOf d c.region t).home)) == some p)

/-- TASK_DISPATCH: a task whose instruction is in progress keeps the core until it is over (R292, R307). -/
def taskDispatch (c : CoreId) (d0 : Dev) : Dev :=
  let r := c.region.val
  let d1 := (match (coreOf d0 c).task with | some t => stopTask r t d0 | none => d0)
  let d := (match homeOf d1 c with | some p => doIf ((coreOf d1 c).task.isNone) (takeOver c p) d1 | none => d1)
  let k := coreOf d c
  if !tmbRuns d r || k.out || k.stopping || k.halt || insHeld d c then d
  else
    match homeOf d c with
    | none => d
    | some p =>
      if k.task.isNone && awaitsTask d c p then d else
      match readyBest d r p with
      | none => d
      | some b =>
        match k.task with
        | none => dispatchTo c b.1 d
        | some t =>
          if (taskOf d r t).priority < taskLevel b.2 then
            onCore c (fun x => { x with task := none }) d |> preempt r t |> dispatchTo c b.1
          else d

def execTaskDispatch (c : CoreId) (s : State) : Ans := nextD (taskDispatch c) s

/-- A task has run 1 ms while one of its priority is READY on its slot: it moves behind that task. A halted core keeps its task
RUNNING (R299), and an instruction in progress completes first (R292). -/
def timeSlice (c : CoreId) (d : Dev) : Dev :=
  let r := c.region.val
  match (coreOf d c).task with
  | none => d
  | some t =>
    let k := taskOf d r t
    if (coreOf d c).halt || insHeld d c then d
    else if (homedAt d r k.home).any (fun x => x.2.state == .ready && x.2.ending.isNone && taskLevel x.2 == k.priority) then
      freeCore r t d |> makeReady r t
    else d

def execTimeSliceExpire (c : CoreId) (s : State) : Ans := nextD (timeSlice c) s

/-- 10 ms READY without a dispatch: one level more (R306). -/
def taskAge (r t : Nat) (d : Dev) : Dev :=
  let k := taskOf d r t
  if k.state == .ready && decide (k.priority + k.age < 14) then onTask r t (fun x => { x with age := x.age + 1 }) d else d

def execTaskAgePromote (r : Region) (task : Nat) (s : State) : Ans := nextD (taskAge r task) s

/-- The time limit expires: cancelled, but an EXIT that waits ends as DONE (R304, R318). -/
def execTaskTimeLimit (r : Region) (task : Nat) (s : State) : Ans := nextD (cancelTask r task .limit) s

/-- The deadline of a wait (R291). -/
def waitDeadline (r t : Nat) (d : Dev) : Dev :=
  let k := taskOf d r t
  if k.state != .waiting || k.ending.isSome then d
  else
    match k.wait with
    | .until_ => onTask r t (fun x => { x with wait := .none, wake := 0 }) d |> makeReady r t
    | .eventUntil =>
      if eventPending d r k then makeReady r t d
      else onTask r t (fun x => { x with wait := .none, wake := 0, ds := 0 :: x.ds }) d |> makeReady r t
    | _ => d

def execWaitDeadline (r : Region) (task : Nat) (s : State) : Ans := nextD (waitDeadline r task) s

/-! ## The end of a task (R305, R316) -/

/-- APL_CALLs of a session accepted and not completed. -/
def callsOpen (d : Dev) (f : Nat) (id : Word32) : Bool :=
  d.hif.cmds.any (fun c => isHost c && c.fn == f && c.session == id && c.code == 0x0812 && c.accepted && isAccepted c
    && c.dupOf.isNone && !isDone c)

def currentImage (d : Dev) (id : Nat) : Option Applet := d.apl.applets.find? (fun a => a.id == id && !a.old)

/-- Quiescent sessions of a replaced instance move to the new one (R316 step 5). -/
def sessMove (d : Dev) : Dev :=
  let move := fun (f : Nat) (id : Word32) (s : Sess) =>
    match s.applet with
    | some (a, i) =>
      match currentImage d a with
      | some n => if n.inst ≠ i ∧ callsOpen d f id = false then { s with applet := some (a, n.inst) } else s
      | none => s
    | none => s
  onHif (fun h => { h with sess := h.sess.map (fun p => (p.1, if p.2.isOpen then move p.2.fn (sessId p.1 p.2) p.2 else p.2)) }) d

def instUsed (d : Dev) (n : Nat) : Bool :=
  (openSess d).any (fun p => (p.2.applet.map (·.2)) == some n) ||
    (List.range 4).any (fun r => (tasksOf d r).any (fun x => x.2.inst == n))

def dropInst (n : Nat) (d : Dev) : Dev :=
  forAll (List.range 4) (fun r => onTmb r (fun x => { x with insts := x.insts.filter (fun i => i.inst != n) })) d

/-- Step 6 of R316: an old instance that nothing uses is retired. -/
def retireOld (d : Dev) : Dev :=
  forAll (d.apl.applets.filter (fun a => a.old && !instUsed d a.inst)) (fun a d =>
    dropInst a.inst d
      |> onApl (fun x => { x with applets := x.applets.filter (fun b => b.inst != a.inst) })
      |> recErase (appletRec a.rec_)
      |> logEv 0x7131 0x70 a.id a.version.toNat 0) d

def instanceCheck (d : Dev) : Dev := retireOld (sessMove d)

/-- A session may fall quiescent as its last call completes, however that call ended (R316 step 5). -/
def execCompletionPost (cid : Nat) (s : State) : Ans := nextT (fun d => instanceCheck (completionPost cid d)) s

/-- The completion of an APL_CALL whose task has ended, with what is logged (R305). -/
def callResult (r t : Nat) (k : Task) (reply : Bytes) : Res × (Dev → Dev) :=
  let st := fieldLE reply 0 2
  if k.state == .done then
    if (st == 0 || (0x8000 ≤ st && st ≤ 0xFFFE)) && decide (fieldLE reply 4 4 ≤ k.outCap) then
      (⟨BitVec.ofNat 16 st, BitVec.ofNat 16 (fieldLE reply 2 2), fieldLE reply 4 4, BitVec.ofNat 32 (fieldLE reply 8 4), []⟩, id)
    else (resErr 0x0309 0, logEv 0x4153 (0x70 + r) r t st)
  else
    match k.ending with
    | some .trap => (resErr stTrap 0, id)
    | some .limit =>
      if k.started then (resErr stTaskEnded 0, logEv 0x4151 (0x70 + r) r t k.appletId) else (resErr stAborted 0, id)
    | _ => if k.started then (resErr stTaskEnded 0, id) else (resErr stAborted 0, id)

def freeTask (r t : Nat) : Dev → Dev := onTmb r (fun x => { x with tasks := tdel x.tasks t })

def taskEnd (r t : Nat) (reply : Bytes) (d0 : Dev) : Dev :=
  let d := stopTask r t d0
  let k := taskOf d r t
  if k.state == .done || k.state == .cancelled then
    let x := callResult r t k reply
    d |> x.2 |> finish k.call x.1 |> freeTask r t |> instanceCheck
  else d

def execTaskEnd (r : Region) (task : Nat) (s : State) : Ans :=
  nextT (taskEnd r task (segLoad (taskOf s.toDev r task) sgDS 0 16 s)) s

/-! ## Results of a task's commands (R283, R285, R287) -/

/-- An earlier command of the same task and coprocessor is still outstanding. -/
def resultWaits (d : Dev) (k : TaskRef) : Bool :=
  d.hif.cmds.any (fun c => match c.origin with
    | .task j => j.region == k.region && j.task == k.task && j.cp == k.cp && decide (j.issue < k.issue) && c.code != 0xFF05
    | .host => false)

/-- The completion of R60 as a coprocessor writes it. -/
def resultBytes (c : Cmd) (r : Res) : Bytes := entryBytes r c.session c.seq c.tag 0 0 0 0

/-- Where a task's command writes its output. -/
def outTarget (c : Cmd) : Option (Nat × Nat) := segRel c.outPtr.toNat

/-- The output of a task's command; the handle of a key it made goes to its HS slot and reads zero here. -/
def cpOutput (k : TaskRef) (c : Cmd) (r : Res) (s : State) : State :=
  let t := taskOf s.toDev k.region k.task
  let made := k.hs.isSome && r.status == stOk && decide (8 ≤ r.out.length)
  let out := if made then zeros 8 ++ r.out.drop 8 else r.out
  let s := if out.isEmpty then s else match outTarget c with
    | some (n, o) => segStore t n o out s
    | none => s
  match k.hs with
  | some h => if made then segStore t sgHS (8 * h) (r.out.take 8) s else s
  | none => s

/-- The core that issued a command writes its result: what the keyways make of it (R20, R367). -/
def resPass (k : TaskRef) (d : Dev) : Passage × Dev :=
  let t := taskOf d k.region k.task
  let g := segOf t k.resSeg
  let acc : Access := ⟨t.owner.world, t.owner.tenant, byte k.number, ownerFn t.owner⟩
  if g.ms then (.allowed, d)
  else kwTransfers (fun a n => ⟨acc, a, .write, n, none, true, none⟩) d (splitAt (g.base + k.resOff) 32) d

/-- CP_COMMAND_COMPLETE: the output, the new key's slot and the result are written, and the task's latch is set (R285). The
output and the slot have met the keyways at issue (log entry 367); a result that a unit stalls waits, and one that a unit denies
never reaches its target. -/
def cpComplete (cid : Nat) (s : State) : State :=
  match cmdOf? s.toDev cid with
  | none => s
  | some c =>
    match c.origin, c.stage with
    | .task k, .done r =>
      if c.code = 0xFF05 || resultWaits s.toDev k then s
      else
        let t := taskOf s.toDev k.region k.task
        let m := resPass k s.toDev
        let s1 := { s with toDev := m.2 }
        if m.1 == .stalled then s1
        else
          let s2 := cpOutput k c r s1
          let s3 := if m.1 == .allowed then segStore t k.resSeg k.resOff (resultBytes c r) s2 else s2
          onDev (fun d => cmdDrop cid d |> onTask k.region k.task (fun x => { x with latch := true })
            |> wakeTasks k.region |> taskSettle k.region k.task) s3
    | _, _ => s

def execCpCommandComplete (cid : Nat) (s : State) : Ans := .next (cpComplete cid s)

/-! ## Traps (R293, R294) -/

/-- A trap of the task on a core: the task runs no further instruction. -/
def trapTask (c : CoreId) (t cause kind seg : Nat) (p2 : Nat) (d : Dev) : Dev :=
  let pc := (taskOf d c.region t).pc
  let k : TrapRec := { cause := cause, kind := kind, seg := seg, p2 := BitVec.ofNat 32 p2, pc := pc, master := coreMaster c }
  insForget c d |> onCore c (fun x => { x with traps := x.traps + 1, step := false, halted := x.halt })
    |> onTask c.region t (fun x => { x with trap := some k })
    |> taskEnding c.region t .trap

/-! ## UPDATE mode (R366, R383) -/

/-- What a denial after a stall does: a core's own access traps its task with kind 9 (R282); any other command learns of it
when it goes on (R367). -/
def stallDenied (u : KwUnit) (x : Stalled) (d : Dev) : Dev :=
  match x.core, x.by_ with
  | some (sg, off), some c =>
    match (coreOf d c).task with
    | some t => trapTask c t 3 9 sg off d
    | none => d
  | _, _ => doIf x.again (onKw u (fun k => { k with verdicts := k.verdicts ++ [(x, false)] })) d

/-- A stalled access is judged by the rules that hold now. -/
def stallJudge (u : KwUnit) (x : Stalled) (d : Dev) : Dev :=
  if !x.again then (kwPass x ((kwPath x.acc x.addr).dropWhile (fun v => v != u)) d).2
  else
    let d1 := onKw u (fun k => { k with checks := k.checks + 1 }) d
    match kwJudge d u x.acc x.addr x.kind with
    | some (c, r) => kwViolation u x.acc x.addr x.kind x.size c r d1 |> stallDenied u x
    | none => onKw u (fun k => { k with verdicts := k.verdicts ++ [(x, true)] }) d1

/-- Leaves UPDATE: EV_2402 for the period's denials, and the stalled accesses judged in arrival order. -/
def kwLeave (u : KwUnit) (d : Dev) : Dev :=
  let k := kwOf d u
  d |> onKw u (fun k => { k with updating := false, shadow := [], stalled := [], denialsNow := 0 })
    |> doIf (decide (0 < k.denialsNow))
        (logEv 0x2402 (pageSource (kwPage u)) (pageBase (kwPage u) % 2 ^ 32) k.denialsNow 0)
    |> forAll k.stalled (stallJudge u)

def kwEnter (u : KwUnit) (d : Dev) : Dev :=
  if (kwOf d u).updating then d else onKw u (fun k => { k with updating := true, shadow := k.rules, denialsNow := 0 }) d

def kwCommit (u : KwUnit) (d : Dev) : Dev :=
  if (kwOf d u).updating then kwLeave u (onKw u (fun k => { k with rules := k.shadow }) d) else d

def kwAbort (u : KwUnit) (d : Dev) : Dev := if (kwOf d u).updating then kwLeave u d else d

def execKwUpdateEnter (acc : Access) (u : KwUnit) (s : State) : Ans :=
  nextD (regAction acc (kwPage u) 8 [.K] (kwEnter u)) s
def execKwUpdateCommit (acc : Access) (u : KwUnit) (s : State) : Ans :=
  nextD (regAction acc (kwPage u) 8 [.K] (kwCommit u)) s
def execKwUpdateAbort (acc : Access) (u : KwUnit) (s : State) : Ans :=
  nextD (regAction acc (kwPage u) 8 [.K] (kwAbort u)) s

/-- The oldest stalled access has waited 4 µs: denied with cause 2. -/
def kwStallDeny (u : KwUnit) (d : Dev) : Dev :=
  match (kwOf d u).stalled with
  | [] => d
  | x :: rest =>
    d |> onKw u (fun k => { k with
          stalled := rest, denialsNow := k.denialsNow + 1, stallDenials := satInc32 k.stallDenials, checks := k.checks + 1 })
      |> kwViolation u x.acc x.addr x.kind x.size 2 0x7F

/-- KW_STALL_TIMEOUT: the denial of the oldest stalled access, and what its master sees of it (R366, R367). -/
def kwStallEnd (u : KwUnit) (d : Dev) : Dev :=
  match (kwOf d u).stalled with
  | [] => d
  | x :: _ => kwStallDeny u d |> stallDenied u x

def execKwStallTimeout (u : KwUnit) (s : State) : Ans := nextD (kwStallEnd u) s

/-! ## The spare (R310) -/

/-- The remaining slot with the most free local memory, the lowest position taking a tie. -/
def homeSlot (d : Dev) (r : Nat) : Option Nat :=
  (slotsUp d r).foldl (fun (a : Option Nat) p => match a with
    | none => some p
    | some q => if localFree d r q < localFree d r p then some p else a) none

/-- The eight segments with the task's memory moved to another base. -/
def moveSegs (t : Task) (base : Nat) : List Seg :=
  let old := taskBase t
  t.segs.mapIdx (fun i g => if [sgDS, sgSS, sgHS, sgG0].contains i then { g with base := base + (g.base - old) } else g)

/-- Gives a task a new home slot; where none has room it is cancelled. -/
def rehomeTask (r t : Nat) (d : Dev) : Dev :=
  let k := taskOf d r t
  let place := match homeSlot d r with
    | none => none
    | some p => (firstFit (localBase r p) localSize (taskLen k) (localBlocks d r p)).map (fun b => (p, b))
  match place with
  | none => cancelTask r t .cancel d
  | some (p, b) =>
    let d := freeCore r t d |> onTask r t (fun x => { x with home := p, latch := true, segs := moveSegs x b })
      |> onTmb r (fun x => { x with migrations := x.migrations + 1 })
    (if k.state == .running && k.ending.isNone then makeReady r t d else d) |> wakeTasks r

def log7110 (r p : Nat) (d : Dev) : Dev := logEv 0x7110 (0x70 + r) r p (homedAt d r p).length d

/-- The spare takes a position, with the task that ran there; one whose instruction is in progress follows (`takeOver`). -/
def standIn (r p : Nat) (d : Dev) : Dev :=
  let t := ((tget (regionOf d r).cores p {}).task).filter (fun t => !taskHeld d r t)
  d |> onTmb r (fun x => { x with standIn := some p, migrations := x.migrations + (if t.isSome then 1 else 0) })
    |> doIf t.isSome (fun d => onCoreP r p (fun c => { c with task := none }) d |> onCoreP r 6 (fun c => { c with task := t }))
    |> log7110 r p

/-- A core leaves service: the spare stands in, or the tasks homed there are re-homed (R310). -/
def coreLeave (c : CoreId) (d : Dev) : Dev :=
  let r := c.region.val
  let d1 := onCore c (fun x => { x with out := true, stopping := false }) (insForget c d)
  if c.pos.val = 6 then
    match (regionOf d r).tmb.standIn with
    | none => d1
    | some p => onTmb r (fun x => { x with standIn := none }) d1 |> forAll (homedAt d1 r p) (fun x => rehomeTask r x.1)
  else if (regionOf d r).tmb.standIn.isNone && coreUp d r 6 then standIn r c.pos d1
  else forAll (homedAt d1 r c.pos) (fun x => rehomeTask r x.1) d1

/-! ## Containment (R317) -/

/-- READY tasks that have not started are freed, and their calls are accepted again in the new home region. -/
def drainTasks (r : Nat) (d : Dev) : Dev :=
  forAll ((tasksOf d r).filter (fun x => x.2.state == .ready && !x.2.started && x.2.ending.isNone)) (fun x d =>
    freeTask r x.1 d |> onCmd x.2.call (fun c => { c with stage := .waiting })) d
    |> onTmb r (fun x => { x with draining := true })

/-- A reset of a function ends its tasks, and none of their completions is posted. -/
def resetTasks (f : Nat) (d : Dev) : Dev :=
  forAll (List.range 4) (fun r d =>
    forAll ((tasksOf d r).filter (fun x => ownerFn x.2.owner == f)) (fun x d =>
      if x.2.started then cancelTask r x.1 .cancel d else freeCore r x.1 d |> freeTask r x.1 |> cmdDrop x.2.call) d) d

/-- Commands of a halted task end with ST_RETRY: the result reaches host memory where its place is in the message window; the
task's own memory is gone (R129, R194). -/
def haltResults (t : Task) (cs : List Cmd) : Dev → Dev :=
  onHif (fun h => { h with tx := h.tx ++ cs.flatMap (fun c => match c.origin with
    | .task k => if (segOf t k.resSeg).ms then hostStores (msPieces t k.resOff) (resultBytes c resRetry) else []
    | .host => []) })

/-- Every task of a region ends without a further instruction, its call with the result that `res` gives (tamper
response, halt, region reset). -/
def haltTasks (r : Nat) (res : Task → Res) (d : Dev) : Dev :=
  forAll (tasksOf d r) (fun x d =>
    (match coreRunning d r x.1 with
     | some p => if h : r < 4 ∧ p < 7 then insForget ⟨⟨r, h.1⟩, ⟨p, h.2⟩⟩ d else d
     | none => d)
      |> haltResults x.2 (taskCmds d r x.1)
      |> onHif (fun h => { h with cmds := h.cmds.filter (fun c => !(taskCmds d r x.1).any (fun y => y.cid == c.cid)) })
      |> finish x.2.call (res x.2) |> cancelsDone x.2.call |> freeCore r x.1 |> freeTask r x.1) d

/-! ## Halt, resume and step of a core (R299) -/

def corePage (c : CoreId) : Nat := 1 + 17 * c.region.val + 10 + c.pos.val

def coreHalt (c : CoreId) : Dev → Dev := onCore c (fun x => { x with halt := true, halted := true })
def coreResume (c : CoreId) : Dev → Dev := onCore c (fun x => { x with halt := false, halted := false, step := false })
/-- One instruction is to run; without halt the bit does nothing. -/
def coreStep (c : CoreId) : Dev → Dev := onCore c (fun x => if x.halt then { x with step := true, halted := false } else x)

def execOcdHalt (acc : Access) (c : CoreId) (s : State) : Ans := nextD (regAction acc (corePage c) 8 [.K, .D] (coreHalt c)) s
def execOcdResume (acc : Access) (c : CoreId) (s : State) : Ans := nextD (regAction acc (corePage c) 8 [.K, .D] (coreResume c)) s
def execOcdStep (acc : Access) (c : CoreId) (s : State) : Ans := nextD (regAction acc (corePage c) 8 [.K, .D] (coreStep c)) s

end Sys2Proof.Machine
end

