-- ==== Sys2Proof/Machine/Applets.lean ====
section
/-! DEFINITION. Applet images and the APL commands (R311 to R316), and the maker chain (R312). -/

namespace Sys2Proof.Machine

/-! ## Images (R311, R312) -/

def le4 (b : Bytes) (o : Nat) : Nat := fieldLE b o 4

def inStep (n lo hi k : Nat) : Bool := decide (lo ≤ n) && decide (n ≤ hi) && n % k == 0

/-- The layout rules of R311 for the header, the entry table and the length. -/
def appletLayout (b : Bytes) : Bool :=
  let cs := le4 b 16
  let g1 := le4 b 20
  let n := fieldLE b 38 2
  b.take 4 == ascii "ZAPI" && le4 b 4 != 0 && inStep cs 64 1048576 64 && inStep g1 0 1048576 64 && inStep (le4 b 24) 0 1048576 64
    && inStep (le4 b 28) 64 65536 64 && inStep (le4 b 32) 256 65536 64 && inStep (fieldLE b 36 2) 1 256 1 && inStep n 1 64 1
    && inStep (le4 b 40) 0 65536 64 && decide (fieldLE b 45 1 < 4) && fieldLE b 46 2 == 0 && inStep (le4 b 48) 1 60000 1
    && (slice b 52 76).all (· = 0)
    && (List.range 64).all (fun i => let e := le4 b (128 + 4 * i)
        if i < n then e % 2 == 0 && decide (e < cs) else e == 0)
    && b.length == 12608 + cs + g1 && (slice b (b.length - 13) 13).all (· = 0)

def certOf (b : Bytes) : Bytes := slice b (b.length - 12224) 7488
def certSerial (b : Bytes) : Nat := le4 (certOf b) 4

def certLayout (k : Bytes) : Bool :=
  k.take 4 == ascii "ZAPC" && (slice k 8 8).all (· = 0) && (slice k 2705 47).all (· = 0) && (slice k 7475 13).all (· = 0)

/-- The four signatures of an image under the chain (R312). -/
def imageSigned (chain b : Bytes) : Bool :=
  let k := certOf b
  let body := b.take (b.length - 4736)
  certLayout k
    && verifyMldsa (slice chain 0 2592) (k.take 2752) (slice k 2752 4627)
    && ecdsa384 (slice chain 2592 97) (k.take 2752) (slice k 7379 96)
    && verifyMldsa (slice k 16 2592) body (slice b (b.length - 4736) 4627)
    && ecdsa384 (slice k 2608 97) body (slice b (b.length - 109) 96)

def chainSerial (chain : Bytes) : Nat := le4 chain 2692

def parseApplet (b : Bytes) : Applet :=
  let cs := le4 b 16
  let g1 := le4 b 20
  let n := fieldLE b 38 2
  { id := le4 b 4, version := BitVec.ofNat 32 (le4 b 8), svn := BitVec.ofNat 32 (le4 b 12), csLen := cs, g1Len := g1
    xsLen := le4 b 24, dsLen := le4 b 28, ssLen := le4 b 32, hsSlots := fieldLE b 36 2, g0Len := le4 b 40
    dmaGrant := fieldLE b 44 1, flags := byte (fieldLE b 45 1), limitMs := le4 b 48
    entries := tabulate n (fun i => le4 b (128 + 4 * i)), code := slice b 384 (cs + g1), inst := 0, rec_ := 0, old := false }

def minSvn (d : Dev) (id : Nat) : Nat := (tget d.apl.minSvns id 0).toNat

def log2320 (det : Nat) (b : Bytes) : Dev → Dev := logEv 0x2320 0x70 det (le4 b 4) (le4 b 8)

/-- The checks of an image (R312, R314). -/
def imageChecks (b : Bytes) : Run Applet := do
  needLog (appletLayout b) stParam 0x0802 (log2320 0x0802 b)
  let d ← get
  let chain := d.apl.chain.getD []
  needLog (d.apl.chain.isSome && imageSigned chain b) stParam 0x0803 (log2320 0x0803 b)
  let a := parseApplet b
  needLog (decide (chainSerial chain ≤ certSerial b) && decide (minSvn d a.id ≤ a.svn.toNat)) stParam 0x0804 (log2320 0x0804 b)
  pure a

/-! ## Placing instances (R315, R316) -/

def placement (d : Dev) (r : Nat) (a : Applet) : Option Nat :=
  firstFit (appletBase r) appletSize (a.csLen + a.g1Len + a.xsLen) (areaBlocks d r)

/-- Places an instance in a region: code, read-only data, and a zeroed XS. -/
def placeIn (a : Applet) (r : Nat) (d : Dev) : Dev :=
  match placement d r a with
  | none => d
  | some b =>
    onTmb r (fun x => { x with insts := x.insts ++ [{
      inst := a.inst, appletId := a.id, version := a.version, csBase := b, csLen := a.csLen, g1Base := b + a.csLen
      g1Len := a.g1Len, xsBase := b + a.csLen + a.g1Len, xsLen := a.xsLen }] }) d

def placeAll (a : Applet) (d : Dev) : Dev := forAll (regionsUp d) (placeIn a) d

/-- Places every recorded applet in a region (R315); a lost record gives no image (R400). -/
def placeRecorded (r : Nat) (d : Dev) : Dev := forAll (d.apl.applets.filter (fun a => !recLost d (appletRec a.rec_))) (fun a => placeIn a r) d

def freeRec (d : Dev) : Nat := ((List.range 33).find? (fun i => !d.apl.applets.any (fun a => a.rec_ == i))).getD 0
def appletPages (a : Applet) : Nat := pagesOf (12608 + a.csLen + a.g1Len + 4)

/-- Writes the image's record, notes its svn, and places it (R315, R316 steps 2 and 3). -/
def installImage (a : Applet) (d : Dev) : Dev :=
  let a := { a with inst := d.apl.nextInst, rec_ := freeRec d }
  d |> recWrite (appletRec a.rec_) (appletPages a)
    |> onApl (fun x => { x with
        applets := x.applets ++ [a], nextInst := x.nextInst + 1, minSvns := tput x.minSvns a.id a.svn })
    |> placeAll a

def log7130 (a : Applet) (action : Nat) : Dev → Dev := logEv 0x7130 0x70 a.id a.version.toNat action

def draining (d : Dev) : Bool := d.apl.applets.any (·.old)

/-- Room in the applet area of every region in service, and in the store (R314, R390). -/
def imageRoom (a : Applet) : Run Unit := do
  let d ← get
  need ((regionsUp d).all (fun r => (placement d r a).isSome)) stQuota 0x0806

def storeRoom (a : Applet) : Run Unit := do
  let d ← get
  need (decide (appletPages a ≤ pagesForApplets d)) stQuota 0x0B01

def handlesZero (c : Cmd) : Bool := c.ha == 0 && c.hb == 0

def bodyLoad (c : Cmd) (hr : HostRead) : Run Res := do
  need (zeroPar c 65 128) stParam 0
  need (par c 64 1 == 0 && handlesZero c) stParam 0x0801
  let a ← imageChecks (inData c hr)
  let d ← get
  need (currentImage d a.id).isNone stParam 0x0805
  need (decide (count d.apl.applets (fun x => !x.old) < 32)) stQuota 0x0806
  imageRoom a
  storeRoom a
  need (!keepOnly d) stDegraded 0
  eff (installImage a)
  eff (log7130 a 1)
  pure (resVal d.apl.nextInst)

def bodyUnload (c : Cmd) (_ : HostRead) : Run Res := do
  need (zeroPar c 65 68 && zeroPar c 72 128) stParam 0
  need (handlesZero c) stParam 0x0801
  let d ← get
  match currentImage d (par c 68 4) with
  | none => fail stParam 0x0805
  | some a =>
    if (openSess d).any (fun p => (p.2.applet.map (·.1)) == some a.id) then wrongState c 1
    need (!keepOnly d) stDegraded 0
    eff (dropInst a.inst)
    eff (onApl (fun x => { x with applets := x.applets.filter (fun b => b.inst != a.inst), minSvns := tdel x.minSvns a.id }))
    eff (recErase (appletRec a.rec_))
    eff (log7130 a 3)
    pure resOk

/-- Byte 64 of code 0x0801 tells an unload from a load (R313). -/
def isUnload (d : Dev) (cid : Nat) : Bool := ((cmdOf? d cid).map (fun c => par c 64 1 == 1)).getD false

def execAplLoad (cid : Nat) (hr : HostRead) (s : State) : Ans :=
  nextT (fun d => if isUnload d cid then d else runCmd 0x0801 cid hr false bodyLoad d) s

def execAplUnload (cid : Nat) (hr : HostRead) (s : State) : Ans :=
  nextT (fun d => if isUnload d cid then runCmd 0x0801 cid hr false bodyUnload d else d) s

def bodyUpdate (c : Cmd) (hr : HostRead) : Run Res := do
  need (zeroPar c 64 128) stParam 0
  need (handlesZero c) stParam 0x0801
  let a ← imageChecks (inData c hr)
  let d ← get
  match currentImage d a.id with
  | none => fail stParam 0x0805
  | some o =>
    if draining d then wrongState c 1
    imageRoom a
    storeRoom a
    need (!keepOnly d) stDegraded 0
    eff (onApl (fun x => { x with applets := lmod x.applets (fun b => b.inst == o.inst) (fun b => { b with old := true }) }))
    eff (installImage a)
    eff (log7130 a 2)
    pure resOk

/-- Once the update has completed, quiescent sessions move and an unused old instance is retired (R316 steps 5, 6). -/
def execAplUpdate (cid : Nat) (hr : HostRead) (s : State) : Ans :=
  nextT (fun d => instanceCheck (runCmd 0x0802 cid hr false bodyUpdate d)) s

/-! ## Sessions and applets -/

def appletAllows (a : Applet) (fn : Nat) : Bool := if fn = 0 then a.flags.getLsbD 1 else a.flags.getLsbD 0

def bodyBind (c : Cmd) (_ : HostRead) : Run Res := do
  need (zeroPar c 64 68 && zeroPar c 72 128) stParam 0
  need (handlesZero c) stParam 0x0801
  let d ← get
  match currentImage d (par c 68 4) with
  | none => fail stParam 0x0805
  | some a =>
    need (appletAllows a c.fn) stParam 0x0805
    if c.session == 0 || (((sessNamed d c.fn c.session).map (fun s => s.applet.isSome)).getD true) then wrongState c 1
    eff (onSess c.fn c.session (fun s => { s with applet := some (a.id, a.inst) }))
    pure resOk

def execAplBind (cid : Nat) (hr : HostRead) (s : State) : Ans := hasp 0x0810 cid hr bodyBind s

def sessApplet (d : Dev) (c : Cmd) : Option (Nat × Nat) := if c.session = 0 then none else (sessNamed d c.fn c.session).bind (·.applet)

def bodyUnbind (c : Cmd) (_ : HostRead) : Run Res := do
  need (zeroPar c 64 128) stParam 0
  need (handlesZero c) stParam 0x0801
  if (sessApplet (← get) c).isNone then wrongState c 1
  eff (onSess c.fn c.session (fun s => { s with applet := none }))
  pure resOk

def execAplUnbind (cid : Nat) (hr : HostRead) (s : State) : Ans :=
  nextT (fun d => instanceCheck (runCmd 0x0811 cid hr false bodyUnbind d)) s

/-! ## Calls (R302, R306, R313) -/

def mkSeg (base len : Nat) (rights : Byte) (o : Owner) : Seg :=
  if len = 0 then { world := o.world, tenant := o.tenant }
  else { base := base, limit := len - 1, rights := rights, world := o.world, tenant := o.tenant }

/-- The segments of a call (R313). -/
def callSegs (a : Applet) (i : Inst) (base inLen outCap : Nat) (o : Owner) : List Seg :=
  let hs := 8 * a.hsSlots
  let ms := if 0 < outCap then msOut + outCap else inLen
  [mkSeg i.csBase i.csLen 4 o, mkSeg base a.dsLen 3 o, mkSeg (base + a.dsLen) a.ssLen 3 o, mkSeg (base + a.dsLen + a.ssLen) hs 8 o,
    { base := 0, limit := ms - 1, rights := 3, world := o.world, tenant := o.tenant, ms := true },
    mkSeg i.xsBase i.xsLen 3 o, mkSeg (base + a.dsLen + a.ssLen + roundUp hs 64) a.g0Len 3 o, mkSeg i.g1Base i.g1Len 1 o]

def callLen (a : Applet) : Nat := a.dsLen + a.ssLen + roundUp (8 * a.hsSlots) 64 + a.g0Len

def freeTaskNo (d : Dev) (r : Nat) : Option Nat := (List.range 4096).find? (fun t => !taskLives (taskOf d r t))

/-- The home slot and the memory for a call: the slot with the most free local memory. -/
def callPlace (d : Dev) (r : Nat) (a : Applet) : Option (Nat × Nat) :=
  match homeSlot d r with
  | none => none
  | some p => (firstFit (localBase r p) localSize (callLen a) (localBlocks d r p)).map (fun b => (p, b))

def inPieces (c : Cmd) (hr : HostRead) : List (Word64 × Nat) := if c.flags.getLsbD 0 then sgSegs hr.inSg else [(c.inPtr, c.inLen)]

def callTask (c : Cmd) (hr : HostRead) (a : Applet) (i : Inst) (home base : Nat) (limitMs : Nat) (d : Dev) : Task :=
  { state := .ready, priority := 4 * c.prio + par c 66 1, home := home, dmaGrant := a.dmaGrant, appletId := a.id, inst := a.inst
    entry := par c 64 2, session := c.session, seq := c.seq, owner := c.owner, limit := nowTb d + limitMs * ticksPerMs
    pc := BitVec.ofNat 32 (a.entries.getD (par c 64 2) 0), rsp := a.ssLen
    segs := callSegs a i base c.inLen c.outCap c.owner, call := c.cid, inSeg := inPieces c hr, inLen := c.inLen
    outSeg := c.outSeg, outCap := c.outCap }

def bodyCall (c : Cmd) (hr : HostRead) : Run Res := do
  need (zeroPar c 72 128) stParam 0
  need (handlesZero c && par c 66 1 ≤ 3 && par c 67 1 == 0 && par c 68 4 ≤ 60000) stParam 0x0801
  need (decide (c.inLen ≤ msOut) && decide (c.outCap ≤ msOut)) stParam 0x0801
  let d ← get
  match sessApplet d c, sessNamed d c.fn c.session with
  | some b, some s =>
    match appletOf d b.2 with
    | none => fail stParam 0x0805
    | some a =>
      need (decide (par c 64 2 < a.entries.length)) stParam 0x0801
      let r := s.home
      match instOf d r a.inst, freeTaskNo d r, callPlace d r a with
      | some i, some t, some (p, base) =>
        if !tmbAdmits d r then fail stRetry 0x0807
        let lim := if par c 68 4 = 0 then a.limitMs else par c 68 4
        eff (onTask r t (fun _ => callTask c hr a i p base lim d))
        eff (makeReady r t)
        throw .running
      | _, _, _ => fail stRetry 0x0807
  | _, _ => wrongState c 1

/-- The host's input is read through MS, so a read error meets the task's accesses, not the call. -/
def execAplCall (cid : Nat) (hr : HostRead) (s : State) : Ans :=
  nextT (fun d => instanceCheck (runCmd 0x0812 cid hr true bodyCall d)) s

/-- The task of a call. -/
def callTaskNo (d : Dev) (cid : Nat) : Option (Nat × Nat) :=
  (List.range 4).findSome? (fun r => ((tasksOf d r).find? (fun x => x.2.call == cid)).map (fun x => (r, x.1)))

def bodyCancel (c : Cmd) (_ : HostRead) : Run Res := do
  need (zeroPar c 64 76 && zeroPar c 80 128) stParam 0
  need (handlesZero c) stParam 0x0801
  let d ← get
  let seq := BitVec.ofNat 32 (par c 76 4)
  let hit := d.hif.cmds.find? (fun x => sameSession x c && x.seq == seq && x.accepted && isAccepted x && x.dupOf.isNone
    && seqBelow x.seq c.seq)
  match hit with
  | some x =>
    if x.code != 0x0812 then wrongState c 1
    match callTaskNo d x.cid with
    | none => pure resOk
    | some (r, t) =>
      eff (cancelTask r t .cancel)
      if (taskOf (← get) r t).state == .done || (taskOf (← get) r t).state == .cancelled then pure resOk
      else
        eff (onCmd c.cid (fun y => { y with scratch := [x.cid] }))
        throw .running
  | none =>
    let s := (sessNamed d c.fn c.session).getD {}
    if s.cache.any (fun e => e.seq == seq && e.code == 0x0812) then pure resOk else wrongState c 1

def execAplCancel (cid : Nat) (hr : HostRead) (s : State) : Ans := hasp 0x0813 cid hr bodyCancel s

/-! ## The maker chain (R312) -/

def bodyChain (c : Cmd) (hr : HostRead) : Run Res := do
  need (zeroPar c 64 128 && handlesZero c) stParam 0
  need (c.inLen == 2696) stParam 0x0802
  let b := inData c hr
  need (b.getD 2592 0 == 4 && (slice b 2689 3).all (· = 0)) stParam 0x0802
  need (!keepOnly (← get)) stDegraded 0
  eff (recWrite (settingRec 3) 1)
  eff (onApl (fun x => { x with chain := some b }))
  eff (logEv 0x7133 0x70 (chainSerial b) 0 0)
  pure resOk

def execMakerChainSet (cid : Nat) (hr : HostRead) (s : State) : Ans := hasp 0x0170 cid hr bodyChain s

end Sys2Proof.Machine
end

