-- ==== Sys2Proof/Machine/Channels.lean ====
section
/-! DEFINITION. The channels of the hinge DMAs (R368, R373, R376, R379 to R381): starting, stopping, signalling the owner. -/

namespace Sys2Proof.Machine

def onDma (i : Nat) (f : DmaS → DmaS) (d : Dev) : Dev := { d with dma := tmod d.dma i {} f }
def chOf (d : Dev) (i ch : Nat) : ChS := tget (dmaOf d i).chans ch {}
def onCh (i ch : Nat) (f : ChS → ChS) : Dev → Dev := onDma i (fun x => { x with chans := tmod x.chans ch {} f })

def dmaPage (i : Nat) : Nat := if i < 4 then 1 + 17 * i + 4 else 189

def chBusy (c : ChS) : Bool := c.state == .running || c.state == .stopping

/-- Signals the owner of a channel: a task through its latch, world K through IRQ_RAW (R373). -/
def chSignal (i ch : Nat) (d : Dev) : Dev :=
  let c := chOf d i ch
  match c.ownerTask with
  | some t => onTask i t (fun x => { x with latch := true }) d |> wakeTasks i
  | none => doIf c.irqEn (irqSet (dmaPage i) ch) d

/-- The running channel of highest priority, round robin from the one after the last run (R368). -/
def dmaNext (x : DmaS) : Option Nat :=
  let runs := (List.range 8).map (fun k => (x.last + 1 + k) % 8) |>.filter (fun ch => (tget x.chans ch {}).state == .running)
  runs.foldl (fun (a : Option Nat) ch => match a with
    | none => some ch
    | some b => if (tget x.chans b {}).usePrio < (tget x.chans ch {}).usePrio then some ch else a) none

/-- The datapath goes to the next channel, which is then the one last run. -/
def dmaTake (x : DmaS) : DmaS :=
  match dmaNext x with
  | some ch => { x with active := some ch, last := ch }
  | none => { x with active := none }

/-- A free datapath takes the next channel; one that is held is kept to its descriptor's end. -/
def dmaPick (i : Nat) : Dev → Dev :=
  onDma i (fun x => if (x.active.map (fun ch => chBusy (tget x.chans ch {}))).getD false then x else dmaTake x)

/-- Nothing of the descriptor in progress is kept. -/
def chClear (c : ChS) : ChS := { c with desc := [], moved := 0, held := [], back := none }

/-- The accesses of a hinge DMA that stall at a keyway unit are given up. -/
def dmaForget (i : Nat) : Dev → Dev := kwForget (fun x => x.again && x.acc.master == byte (0x20 + i))

/-- A list has ended: its owner is signalled, and a task that waits for it may end (R373). -/
def chSettle (i ch : Nat) (d : Dev) : Dev :=
  match (chOf d i ch).ownerTask with
  | some t => chSignal i ch d |> taskSettle i t
  | none => chSignal i ch d

/-- The DMA is out of service or in a block reset. -/
def dmaDown (d : Dev) (i : Nat) : Bool := d.die.out.any (· == .dma (Fin.ofNat 5 i)) || blkResetting d (.dma (Fin.ofNat 5 i))

/-- A channel in a state of its own, before its list begins from full initialisation (R373, R376). DESIGN CHOICE (log entry
11): on a DMA that is out of service or in reset the list halts at once with kind 9. -/
def chBegin (i ch : Nat) (f : ChS → ChS) (d : Dev) : Dev :=
  let down := dmaDown d i
  let d1 := onCh i ch (fun c => { f (chClear c) with
    startHeld := false, stop := false, state := if down then .halted else .running, kind := if down then 9 else 0
    skipped := 0, retries := 0, done := 0, offset := 0 }) d
  if down then chSettle i ch d1 else dmaPick i d1

/-- A register start: the list at DMA_CHn_LIST (R373). -/
def chStart (i ch : Nat) : Dev → Dev :=
  chBegin i ch (fun c => { c with
    cur := c.list, curSeg := false, ownerTask := none, owner := ⟨.K, 0⟩, useRetry := c.retry, useSkip := c.skipBad, usePrio := c.priority })

/-- A task's start (R373): `at_` is the segment-relative address of the first descriptor. -/
def chStartTask (i ch t : Nat) (k : Task) (at_ : Nat) : Dev → Dev :=
  chBegin i ch (fun c => { c with
    cur := at_, curSeg := true, ownerTask := some t, owner := k.owner, useRetry := 3, useSkip := false, usePrio := k.priority / 2 })

/-- A write of 1 to DMA_CHn_CTL.start: held while STOPPING, refused while the channel runs. -/
def chStartWrite (acc : Access) (i ch : Nat) (d : Dev) : Dev :=
  match (chOf d i ch).state with
  | .stopping => onCh i ch (fun c => { c with startHeld := true }) d
  | .running => logRefused acc (dmaPage i) (pageBase (dmaPage i) + 0x108 + 0x20 * ch) 5 d
  | _ => chStart i ch d

/-- A write of 1 to DMA_CHn_CTL.stop: the channel shuts down at its next boundary. -/
def chStopWrite (i ch : Nat) (d : Dev) : Dev :=
  if (chOf d i ch).state == .running then onCh i ch (fun c => { c with state := .stopping, stop := true }) d else d

/-- A list is over: what it held is gone, its owner is signalled, a task that waits for it may end, and a held start begins
(R373, R376). -/
def chOver (i ch : Nat) (d : Dev) : Dev :=
  onCh i ch chClear d |> chSettle i ch |> doIf (chOf d i ch).startHeld (chStart i ch) |> dmaPick i

/-- A channel halts: the state, the kind and the bytes completed (R374). -/
def chHalt (i ch kind offset : Nat) (d : Dev) : Dev :=
  doIf ((dmaOf d i).active == some ch) (dmaForget i) d
    |> onCh i ch (fun c => { c with state := .halted, kind := kind, offset := offset, stop := false }) |> chOver i ch

/-- Every channel of a DMA halts with kind 9, and no list that was to follow begins (R376). -/
def dmaHaltAll (i : Nat) (d : Dev) : Dev :=
  onDma i (fun x => { x with chans := x.chans.map (fun p => (p.1, { p.2 with startHeld := false })) }) d
    |> forAll (List.range 8) (fun ch d => doIf (chBusy (chOf d i ch)) (chHalt i ch 9 0) d)

def execDmaChStart (acc : Access) (i : DmaInst) (ch : Channel) (s : State) : Ans :=
  nextD (regAction acc (dmaPage i) (0x108 + 0x20 * ch.val) [.K] (chStartWrite acc i ch)) s
def execDmaChStop (acc : Access) (i : DmaInst) (ch : Channel) (s : State) : Ans :=
  nextD (regAction acc (dmaPage i) (0x108 + 0x20 * ch.val) [.K] (chStopWrite i ch)) s

def chCode : ChState → Nat
  | .idle => 0
  | .running => 1
  | .done => 2
  | .halted => 3
  | .diff => 4
  | .stopping => 5

/-- DMA_CHn_STATUS (R381). -/
def chStatus (c : ChS) : Nat := chCode c.state * 2 ^ 28 + c.kind * 2 ^ 24 + c.skipped * 2 ^ 19 + c.retries % 8 * 2 ^ 16 + min c.done 65535

/-! ## The region crossbar (R360) -/

/-- The level that an inbound spine request takes by its class. -/
def qosLevel : QosClass → Nat
  | .ctrl => 3
  | .rt => 2
  | .bulk => 1
  | .bg => 0

/-- The traffic by which a master outside the region reaches it. DESIGN CHOICE (log entry 360): a master stands for the
traffic that R353 gives it, the barrel engines and the vault engine for their data. -/
def inboundOf (m : Nat) : Traffic :=
  if m < 0x20 then .coreAccess else if m < 0x25 then .hingeDma else if m < 0x2C then .txnData else if m < 0x30 then .digestFragment
  else if m < 0x48 then .barrelData else if m = 0x48 then .vaultData else if m = 0x50 then .hostData else .registerPage

/-- The level that a request of master `m` begins at in the crossbar of region `r`. -/
def xbarStart (d : Dev) (r : Region) (m : Nat) : Nat :=
  match masterCore? m, masterRegion m == some r with
  | some c, true => ((coreOf d c).task.map (fun t => (taskOf d r t).priority / 4)).getD 0
  | none, true =>
    if m < 0x24 then ((dmaOf d r).active.map (fun ch => (chOf d r ch).usePrio / 2)).getD 0
    else if m < 0x2C then (boltRunning d r).getD 0
    else max ((digRunning d r 0).getD 0) ((digRunning d r 1).getD 0)
  | _, false => qosLevel (qosOf (inboundOf m))

/-- A request that has waited 128 cycles rises one level, up to 3; `m` is the master that waits (R360). -/
def xbarPromote (p : Port) (m start : Nat) (l : List (Port × Nat × Nat)) : List (Port × Nat × Nat) :=
  if l.any (fun x => x.1 == p && x.2.1 == m) then
    lmod l (fun x => x.1 == p && x.2.1 == m) (fun x => (x.1, x.2.1, min 3 (x.2.2 + 1)))
  else l ++ [(p, m, min 3 (start + 1))]

def execXbarAgePromote (r : Region) (port : Port) (req : Nat) (s : State) : Ans :=
  nextD (fun d => onRegion r (fun x => { x with xbar := xbarPromote port req (xbarStart d r req) x.xbar }) d) s

/-- A request at level 3 waits for one transfer, 5 ns: it is granted within a tick. -/
def xbarGrant (r : Nat) : Dev → Dev := onRegion r (fun x => { x with xbar := x.xbar.filter (fun q => decide (q.2.2 < 3)) })

end Sys2Proof.Machine
end

