-- ==== Sys2Proof/Machine/Cells.lean ====
section
/-! DEFINITION. The arithmetic and logic of the Ocord cores on single and double cells (R274, R275, R280): everything wraps
and sets no flags. -/

namespace Sys2Proof.Machine

/-- A flag on the stack: 1 true, 0 false. -/
def flag (b : Bool) : Word32 := if b then 1 else 0

/-- High halves of the 64-bit products. -/
def mulHu (a b : Word32) : Word32 := (a.zeroExtend 64 * b.zeroExtend 64).extractLsb' 32 32
def mulHs (a b : Word32) : Word32 := (a.signExtend 64 * b.signExtend 64).extractLsb' 32 32

/-- Shift counts are taken modulo 32 or 64. -/
def sh32 (n : Word32) : Nat := n.toNat % 32
def sh64 (n : Word32) : Nat := n.toNat % 64

def clz (a : Word32) : Word32 :=
  BitVec.ofNat 32 (((List.range 32).map (fun i => a.getLsbD (31 - i))).takeWhile (fun b => !b)).length

def popc (a : Word32) : Word32 := BitVec.ofNat 32 ((List.range 32).filter (fun i => a.getLsbD i)).length

def bswap (a : Word32) : Word32 :=
  a.extractLsb' 0 8 ++ a.extractLsb' 8 8 ++ a.extractLsb' 16 8 ++ a.extractLsb' 24 8

/-- The carry out of a sum, and the borrow of a difference. -/
def carry (a b : Word32) : Word32 := flag (decide (2 ^ 32 ≤ a.toNat + b.toNat))
def borrow (a b : Word32) : Word32 := flag (decide (a.toNat < b.toNat))

/-- A double cell from its low and high cells. -/
def dbl (lo hi : Word32) : Word64 := hi ++ lo
def dlo (d : Word64) : Word32 := d.extractLsb' 0 32
def dhi (d : Word64) : Word32 := d.extractLsb' 32 32

/-- An immediate of 8 or 24 bits as a cell. -/
def sx8 (i : BitVec 8) : Word32 := i.signExtend 32
def zx8 (i : BitVec 8) : Word32 := i.zeroExtend 32
def sx24 (i : BitVec 24) : Word32 := i.signExtend 32
def zx24 (i : BitVec 24) : Word32 := i.zeroExtend 32

end Sys2Proof.Machine
end

