-- ==== Sys2Proof/Machine/Cards.lean ====
section
/-! DEFINITION. The card slots below the custodian protocol: presence and activation (R324, R325), the answer to reset
(R326), the speed path (R327 to R329), T=1 (R331 to R334), deactivation (R335, R336); with the custodian quorum (R24,
R25), ceremonies' endings (R344) and the registration that CUS_ENROL and CUS_REGISTER make (R27, R38). -/

namespace Sys2Proof.Machine

/-! ## Quorum and custodian records -/

/-- The Keeper's source byte (R443). -/
def keeperSrc : Nat := 0x88

def bitsMask (l : List Nat) : Nat := l.foldl (fun a i => a ||| 2 ^ i) 0

/-- A live quorum ends (R25); the commands accepted under it keep their full effect whatever ends a later one (R26). -/
def quorumEnd (reason : Nat) (d : Dev) : Dev :=
  match d.lc.quorum with
  | none => d
  | some q => onLc (fun l => { l with quorum := none }) d |> logEv 0x6111 keeperSrc reason q.mask.toNat 0
      |> onHif (fun h => { h with cmds := h.cmds.map (fun c => { c with qPast := c.qPast || c.qmask != 0 }) })

/-- A registered card has authenticated (R24). -/
def quorumCount (i : Nat) (d : Dev) : Dev :=
  if quorumLive d || d.lc.counted.contains i then d
  else
    let l := d.lc.counted ++ [i]
    if l.length < d.lc.m then onLc (fun x => { x with counted := l }) d
    else
      onLc (fun x => { x with
        counted := [], quorum := some ⟨BitVec.ofNat 16 (bitsMask l), nowTb d, (rwpVal d rwpQuorumLife).toNat % 1024⟩ }) d
        |> logEv 0x6110 keeperSrc (bitsMask l) 0 0

/-- The custodian set changes: the registration records, then record 0x01, each with the new set version (R38, R395). -/
def custodianCommit (cards : Tab Bytes) (m : Nat) (d : Dev) : Dev :=
  let v := d.lc.setVersion + 1
  forAll ((List.range 16).map (· + 0x10)) keepWrite d |> keepWrite 0x01
    |> onLc (fun l => { l with cards := cards, m := m, setVersion := v })
    |> logEv 0x0112 keeperSrc v m (bitsMask (cards.map (·.1)))

/-- CUS_ENROL or CUS_REGISTER ends without a registration. -/
def enrolAbort (st : BitVec 16) (detail : Nat) (d : Dev) : Dev :=
  match d.lc.enrol with
  | none => d
  | some e => onLc (fun l => { l with enrol := none }) d |> finishRunning e.cid (resErr st detail)

/-- Every card has bound and authenticated: the whole set is committed (R27, R38). -/
def enrolCommit (d : Dev) : Dev :=
  match d.lc.enrol with
  | none => d
  | some e =>
    if e.cards.length = e.n ∧ e.cards.all (fun x => x.2.2) = true then
      let cards := e.cards.foldl (fun t x => tput t x.1 x.2.1) d.lc.cards
      onLc (fun l => { l with enrol := none }) d
        |> custodianCommit cards (if e.enrol then e.m else d.lc.m)
        |> quorumEnd 8
        |> finishRunning e.cid (if e.enrol then resVal (bitsMask (e.cards.map (·.1))) else resOk)
    else d

/-! ## Ceremonies (R341 to R345) -/

/-- The exchange of a slot's turn is cut: the card gets no further command. -/
def turnCut (s : Nat) : Dev → Dev :=
  onSlot s (fun x => { x with await := .none, out := [], chainIn := [], state := if x.state == .turn then .ready else x.state })

/-- The open ceremony is gone, with its accumulator and its components. -/
def cerClear : Dev → Dev := onCrd (fun c => { c with cer := none })

/-- A ceremony ends without effect (R344). DESIGN CHOICE (log entry 345): a card whose turn has not begun gets nothing
further. -/
def cerEnd (st : BitVec 16) (detail : Nat) (d : Dev) : Dev :=
  match d.crd.cer with
  | none => d
  | some c =>
    cerClear d |> logEv 0x6122 keeperSrc c.kind detail c.taken
      |> finishRunning c.cid ⟨st, BitVec.ofNat 16 detail, 0, c.mask.setWidth 32, []⟩

/-- The ceremony is abandoned with its turns cut. -/
def cerCut (st : BitVec 16) (detail : Nat) (d : Dev) : Dev :=
  match d.crd.cer with
  | none => d
  | some c => forAll c.turns turnCut d |> cerEnd st detail

/-- A tamper response, a reset or a lifecycle transition (R344). -/
def cerInterrupt : Dev → Dev := cerCut stRetry 0x0907

/-- A function level reset of the PF: nothing is posted or logged (R345); an enrolment goes the same way. -/
def cerDrop (d : Dev) : Dev :=
  let d := match d.crd.cer with
    | none => d
    | some c => forAll c.turns turnCut d |> cerClear |> finishRunning c.cid (resErr stAborted 0)
  enrolAbort stAborted 0 d

/-! ## Slots -/

/-- A card slot's event: its first parameter is the slot. -/
def logCard (code s a b : Nat) : Dev → Dev := logEv code (0x58 + s) s a b

/-- Session keys and what authentication holds are zeroised (R336). -/
def slotKeysClear (x : SlotS) : SlotS := { x with
  regIndex := none, authed := false, ephPriv := [], cardKey := [], transcript := [], sigC := [], ksm := [], ctrOut := 0, ctrIn := 0 }

/-- A slot whose card is to be served from its insertion on; a Mboelle switch that failed counts while the card is in (R327). -/
def slotFresh (x : SlotS) : SlotS := { x with
  state := .debounce, await := .none, cls := 0, badAtrs := 0, noPps := false, held := false }

/-- The enabled class above `c`, lowest first: 1 C, 2 B, 3 A (R324). -/
def classAbove (x : SlotS) (c : Nat) (ok : Nat → Bool) : Option Nat :=
  [1, 2, 3].find? (fun k => decide (c < k) && x.cfg.getLsbD (k - 1) && ok k)

/-- A cold activation begins, with card_rst, card_clk and card_io low (R325). -/
def slotActivate (now : Nat) (x : SlotS) : SlotS := { x with
  state := .activating, await := .none, vccEnN := false, vccSel := x.cls - 1, rst := false, clkOn := false, clkStopped := false
  clkHigh := false, ioLow := true, div := 20, etuM1 := 371, path := 0, ifsc := 0, info := {}, busyCode := 0, nsOut := false, nsIn := false
  actTb := now, activations := x.activations + 1 }

/-- Step 2 of the activation: card_io is released and the clock runs. -/
def slotClocked (x : SlotS) : SlotS :=
  if x.state == .activating && !x.vccEnN then { x with clkOn := true, ioLow := false } else x

/-- Steps 2 and 3 of the activation have passed: the clock runs and card_rst is high. -/
def slotRaised (x : SlotS) : SlotS :=
  if x.state == .activating && !x.vccEnN then { slotClocked x with state := .atr, rst := true } else x

/-- The time from card_vcc_en_n low to the start of the clock, in timebase ticks. -/
def clockTicks (x : SlotS) : Nat := x.vccSettle * ticksPerUs

/-- The time from card_vcc_en_n low to card_rst high, in timebase ticks: CRD_VCC_SETTLE and 1,000 card clocks at 4 MHz. -/
def raiseTicks (x : SlotS) : Nat := x.vccSettle * ticksPerUs + 250 * ticksPerUs

/-- Steps 4 and 5 of a deactivation, 1 µs after one another (R335). DESIGN CHOICE (log entry 335): the times within the maxima. -/
def slotLower (now : Nat) (x : SlotS) : SlotS :=
  if x.state != .stopping then x
  else
    let low := decide (x.actTb + ticksPerUs ≤ now)
    { x with
      clkOn := x.clkOn && !low, clkStopped := x.clkStopped && !low, clkHigh := x.clkHigh && !low
      ioLow := x.ioLow || decide (x.actTb + 2 * ticksPerUs ≤ now) }

/-- The state of a slot once its card has no power (R335). -/
def slotOff (now : Nat) (x : SlotS) : SlotS :=
  let x := { x with vccEnN := true, deactivating := false, clkOn := false, clkStopped := false, clkHigh := false, ioLow := true }
  if !x.enable then { x with state := .disabled, held := false, andThen := .settle }
  else if !x.detLow then { x with state := .empty, held := false, andThen := .settle }
  else if x.held then slotFresh { x with andThen := .settle }
  else match x.andThen with
    | .again => slotActivate now { x with andThen := .settle }
    | .againLater => { x with state := .activating }
    | .refused => { x with state := .refused, andThen := .settle }
    | .settle => { x with state := .refused }

/-- An enrolment loses the card of a slot that bound and has not authenticated. -/
def enrolUnbind (s : Nat) (d : Dev) : Dev :=
  match (slotOf d s).regIndex with
  | none => d
  | some i => onLc (fun l => { l with enrol := l.enrol.map (fun e => { e with cards := e.cards.filter (fun x => x.1 != i || x.2.2) }) }) d

/-- A deactivation starts with card_rst low (R335): the slot is STOPPING until step 6; a card without power has nothing to go
through. -/
def slotStop (s : Nat) (t : CardThen) (d : Dev) : Dev :=
  enrolUnbind s d |> onSlot s (fun x =>
    let x := { slotKeysClear x with await := .none, sent := [], out := [], chainIn := [], andThen := t }
    if x.state == .stopping then x
    else if x.vccEnN then slotOff (nowTb d) x
    else { x with state := .stopping, rst := false, actTb := nowTb d })

/-- The slot holds a card's turn. -/
def inTurn (d : Dev) (s : Nat) : Bool := (d.crd.cer.map (fun c => c.turns.contains s)).getD false

/-- A turn breaks (R336): cause 1 removal, 2 link failure. -/
def turnBreak (s cause : Nat) (d : Dev) : Dev :=
  if inTurn d s then
    logCard 0x6102 s ((slotOf d s).regIndex.getD 0) cause d |> cerCut stAborted 0x0904
  else d

/-- A card is refused (R326, R338, R339) with the class in force. -/
def cardRefuse (s reason : Nat) (d : Dev) : Dev :=
  logCard 0x6105 s reason (slotOf d s).cls d |> turnBreak s 2 |> slotStop s .refused

/-- The link fails (R332, R333). -/
def linkFail (s cause : Nat) (d : Dev) : Dev :=
  logCard 0x6103 s cause 0 d |> turnBreak s 2 |> slotStop s .refused

/-- The NK8 sends bytes to the card; a stopped clock runs again first (R334). -/
def cardSend (s : Nat) (b : Bytes) (d : Dev) : Dev :=
  onSlot s (fun x => { x with clkStopped := false, clkHigh := false }) d |> emit (.card s b)

def xorAll (b : Bytes) : Byte := b.foldl (· ^^^ ·) 0

/-! ## Insertion, activation, deactivation -/

/-- Class CRD is accepted on the card slots: not in MANUFACTURE and RETIRED (R30), nor while a lifecycle transition runs
(R32 step 2). -/
def crdAdmitted (d : Dev) : Bool := d.lc.state != .manufacture && d.lc.state != .retired && d.lc.transition.isNone

/-- Cards are served while the Keeper runs and class CRD is accepted. -/
def cardsServed (d : Dev) : Bool := d.cpm.power == .ready && crdAdmitted d

def cardDetect (s : Nat) : Dev → Dev :=
  onSlot s (fun x =>
    if x.detLow then x
    else
      let x := { x with detLow := true, mbFailed := false }
      if x.state == .empty then slotFresh x else if x.state == .stopping then { x with held := true } else x)

def debounceEnd (s : Nat) (d : Dev) : Dev :=
  let x := slotOf d s
  if cardsServed d && x.state == .debounce && x.detLow then
    match classAbove x 0 (fun _ => true) with
    | some c => onSlot s (fun x => slotActivate (nowTb d) { x with cls := c }) d
    | none => cardRefuse s 4 d
  else d

def atrTimeout (s : Nat) (d : Dev) : Dev :=
  let x := slotRaised (slotOf d s)
  if x.state == .atr then
    match classAbove x x.cls (fun _ => true) with
    | some c => slotStop s .again d |> onSlot s (fun x => { x with cls := c })
    | none => cardRefuse s 4 d
  else d

def cardReactivate (s : Nat) (d : Dev) : Dev :=
  let x := slotOf d s
  if x.state == .activating && x.vccEnN && x.andThen == .againLater then
    onSlot s (fun x => slotActivate (nowTb d) { x with andThen := .settle }) d
  else d

def deactivationDone (s : Nat) (d : Dev) : Dev :=
  if (slotOf d s).state == .stopping then onSlot s (slotOff (nowTb d)) d else d

/-- A card that is binding for an enrolment and has not authenticated. -/
def isBinding (d : Dev) (s : Nat) : Bool :=
  let x := slotOf d s
  d.lc.enrol.isSome && !x.authed && (x.state == .bind ||
    (match x.regIndex, d.lc.enrol with | some i, some e => e.cards.any (fun c => c.1 == i && !c.2.2) | _, _ => false))

def cardRemoval (s : Nat) (d : Dev) : Dev :=
  let x := slotOf d s
  if x.detLow then
    let binding := isBinding d s
    onSlot s (fun x => { x with detLow := false, held := false }) d
      |> turnBreak s 1 |> slotStop s .settle |> doIf binding (enrolAbort stRetry 0)
  else d

/-! ## The answer to reset (R326) -/

/-- The interface bytes as (level, kind, value): kind 0 TA, 1 TB, 2 TC, 3 TD; with what follows them. -/
def atrInterface : Nat → Nat → Nat → Bytes → Option (List (Nat × Nat × Byte) × Bytes)
  | 0, _, _, _ => none
  | fuel + 1, level, y, b =>
    let need := (List.range 4).filter (fun k => y.testBit k)
    if b.length < need.length then none
    else
      let here := (need.zip b).map (fun p => (level, p.1, p.2))
      let rest := b.drop need.length
      match here.getLast? with
      | some (_, 3, td) => (atrInterface fuel (level + 1) (td.toNat / 16) rest).map (fun r => (here ++ r.1, r.2))
      | _ => some (here, rest)

def atrByte (l : List (Nat × Nat × Byte)) (level kind : Nat) : Option Byte :=
  (l.find? (fun x => x.1 == level && x.2.1 == kind)).map (·.2.2)

/-- The protocol that announces the bytes of a level from 2 on. -/
def atrProtocol (l : List (Nat × Nat × Byte)) (level : Nat) : Option Nat :=
  (atrByte l (level - 1) 3).map (fun t => t.toNat % 16)

/-- The first byte of a kind at a level above 2 that protocol `t` announces. -/
def atrFirst (l : List (Nat × Nat × Byte)) (t kind : Nat) : Option Byte :=
  (l.find? (fun x => decide (2 < x.1) && x.2.1 == kind && atrProtocol l x.1 == some t)).map (·.2.2)

/-- The value of a compact-TLV object 0x54 with four bytes. -/
def atrTlv : Nat → Bytes → Option Bytes
  | 0, _ => none
  | _, [] => none
  | fuel + 1, t :: b => if t = 0x54 ∧ 4 ≤ b.length then some (b.take 4) else atrTlv fuel (b.drop (t.toNat % 16))

/-- The cap of a Mboelle announcement in the historical bytes. -/
def atrMboelle (hist : Bytes) : Option Nat :=
  match hist with
  | c :: b =>
    if c = 0x80 then
      match atrTlv b.length b with
      | some [a, m, v, cap] => if a = 0x4D ∧ m = 0x42 ∧ v = 0x01 ∧ 1 ≤ cap.toNat ∧ cap.toNat ≤ 20 then some cap.toNat else none
      | _ => none
    else none
  | [] => none

/-- What an ATR says: its parameters, whether it is to be refused for its protocol, and its class indicator. -/
structure AtrParsed where
  info : AtrInfo
  protocolBad : Bool
  classes : Option Nat
  deriving DecidableEq, Repr

/-- A valid ATR's content, none for an invalid one. -/
def atrParse (b : Bytes) : Option AtrParsed :=
  match b with
  | ts :: t0 :: rest =>
    if !(ts == 0x3B || ts == 0x3F) || decide (33 < b.length) then none
    else
      match atrInterface 33 1 (t0.toNat / 16) rest with
      | none => none
      | some (l, tail) =>
        let k := t0.toNat % 16
        let tds := (l.filter (fun x => x.2.1 == 3)).map (fun x => x.2.2.toNat % 16)
        let tck := tds.any (· != 0)
        let ifsc : Nat := ((atrFirst l 1 0).map (·.toNat)).getD 32
        let tb : Nat := ((atrFirst l 1 1).map (·.toNat)).getD 0x4D
        let ok := tail.length == k + b2n tck && (!tck || xorAll (b.drop 1) == 0) && ifsc != 0 && ifsc != 255 && decide (tb / 16 ≤ 9)
        if !ok then none
        else
          let ta2 := atrByte l 2 0
          let t15 := (atrFirst l 15 0).map (·.toNat)
          some {
            info := {
              ta1 := atrByte l 1 0, specific := ta2.isSome, extraGuard := ((atrByte l 1 2).map (·.toNat)).getD 0, ifsc
              bwi := tb / 16, cwi := tb % 16, crc := ((atrFirst l 1 2).map (fun x => x.getLsbD 0)).getD false
              xi := (t15.getD 0) / 64, ui := (t15.getD 0) % 64, mbCap := atrMboelle (tail.take k) }
            protocolBad := !tds.contains 1 || (match ta2 with | some t => t.getLsbD 4 || t.toNat % 16 != 1 | none => false)
            classes := t15.map (· % 64) }
  | _ => none

/-- Bit of the class indicator that names a class: A 0, B 1, C 2 (ISO/IEC 7816-3; PRESUMED, log entry 3). -/
def uiNames (ui c : Nat) : Bool := ui.testBit (3 - c)

/-! ## Rates (R327) -/

/-- Fi with its fmax in kHz, and Di, by code (ISO/IEC 7816-3 tables; PRESUMED, log entry 3). -/
def fiOf (c : Nat) : Option (Nat × Nat) :=
  ([(0, 372, 4000), (1, 372, 5000), (2, 558, 6000), (3, 744, 8000), (4, 1116, 12000), (5, 1488, 16000), (6, 1860, 20000)
   , (9, 512, 5000), (10, 768, 7500), (11, 1024, 10000), (12, 1536, 15000), (13, 2048, 20000)] : List (Nat × Nat × Nat)).lookup c
def diOf (c : Nat) : Option Nat :=
  ([(1, 1), (2, 2), (3, 4), (4, 8), (5, 16), (6, 32), (7, 64), (8, 12), (9, 20)] : List (Nat × Nat)).lookup c

def mbMax (x : SlotS) : Nat := x.cfg.toNat / 2 ^ 16 % 256
def busyProposed (x : SlotS) : Nat := x.cfg.toNat / 2 ^ 8 % 256

/-- The divisor of the highest clock at or below a limit in kHz. -/
def divFor (limit : Nat) : Nat := max 4 ((80000 + limit - 1) / limit)

/-- Divisor and clocks per ETU minus 1 of a supported TA1. The manual states no ETU where F is no multiple of D: an open
value (log entry 2). -/
def ratesOf (x : SlotS) (ta1 : Byte) : Option (Nat × Nat) :=
  match fiOf (ta1.toNat / 16), diOf (ta1.toNat % 16) with
  | some (f, fmax), some dd =>
    if 16 * dd ≤ f then
      some (divFor (min fmax (min 20000 (1000 * mbMax x))), (if f % dd = 0 then f / dd - 1 else Config.implValue 350 ta1.toNat % 2048))
    else none
  | _, _ => none

/-! ## T=1 blocks (R331) -/

/-- One step of the CRC of ISO/IEC 13239 (PRESUMED, log entry 3). -/
def crc16Byte (c : Nat) (b : Byte) : Nat :=
  (List.range 8).foldl (fun c _ => if c % 2 = 1 then (c / 2) ^^^ 0x8408 else c / 2) (c ^^^ b.toNat)
def crc16 (b : Bytes) : Nat := b.foldl crc16Byte 0xFFFF

def t1Edc (crc : Bool) (b : Bytes) : Bytes := if crc then natBE (crc16 b) 2 else [xorAll b]

def t1Bytes (crc : Bool) (pcb : Nat) (inf : Bytes) : Bytes :=
  let h := [0, byte pcb, byte inf.length] ++ inf
  h ++ t1Edc crc h

/-- Sends a block; `keep` has it be the block that a rejection repeats. -/
def t1Send (s pcb : Nat) (inf : Bytes) (keep : Bool) (d : Dev) : Dev :=
  let b := t1Bytes (slotOf d s).info.crc pcb inf
  doIf keep (onSlot s (fun x => { x with sent := b })) d |> cardSend s b

/-- The next I-block of the command's chain. -/
def t1SendI (s : Nat) (d : Dev) : Dev :=
  let x := slotOf d s
  t1Send s (b2n x.nsOut * 64 + b2n (decide (x.ifsc < x.out.length)) * 32) (x.out.take x.ifsc) true d

/-- An R-block that asks for the card's next or present block (error 0, 1 EDC or parity, 2 other). -/
def t1SendR (s err : Nat) (d : Dev) : Dev :=
  let x := slotOf d s
  t1Send s (0x80 + b2n x.nsIn * 16 + err) [] false d

/-- A new exchange begins: its attempts and waits start from zero. -/
def exchangeStart (a : CardAwait) (x : SlotS) : SlotS := { x with
  await := a, retrans := 0, resynchs := 0, wtxTotal := 0, wtxNext := 0, chainIn := [] }

/-- Announces IFSD 254 (R331). -/
def sendIfs (s : Nat) (d : Dev) : Dev :=
  onSlot s (fun x => { exchangeStart .ifs x with out := [] }) d |> t1Send s 0xC1 [254] true

/-- Sends an APDU: header, Lc and data (R337). -/
def sendApdu (s : Nat) (a : CardAwait) (hdr data : Bytes) (d : Dev) : Dev :=
  onSlot s (fun x => { exchangeStart a x with out := hdr ++ [byte data.length] ++ data }) d |> t1SendI s

/-- T=1 starts at the rate of a path. -/
def t1Begin (s path : Nat) (d : Dev) : Dev :=
  onSlot s (fun x => { x with
    path := path, state := .auth, ifsc := x.info.ifsc, nsOut := false, nsIn := false
    busyCode := if path = 1 then x.sent.getD 3 0 |>.toNat else 0 }) d |> sendIfs s

/-! ## The speed path (R327 to R329) -/

def setRates (r : Nat × Nat) (x : SlotS) : SlotS := { x with div := r.1, etuM1 := r.2 }

def sendSwitch (s : Nat) (cap : Nat) (d : Dev) : Dev :=
  let x := slotOf d s
  let b : Bytes := [0xE7, 0x4D, byte (divFor (1000 * min cap (mbMax x))), 16, byte (busyProposed x)]
  let b := b ++ [xorAll b]
  onSlot s (fun x => { x with state := .speed, await := .switchReply, sent := b }) d |> cardSend s b

def sendPps (s : Nat) (ta1 : Byte) (d : Dev) : Dev :=
  let b : Bytes := [0xFF, 0x11, ta1]
  let b := b ++ [xorAll b]
  onSlot s (fun x => { x with state := .speed, await := .pps, sent := b }) d |> cardSend s b

/-- Takes the first path that applies. -/
def speedPath (s : Nat) (d : Dev) : Dev :=
  let x := slotOf d s
  let ta1 := x.info.ta1.getD 0x11
  if x.info.specific then
    match ratesOf x ta1 with
    | some r => onSlot s (setRates r) d |> t1Begin s 2
    | none => cardRefuse s 3 d
  else
    match (if x.cfg.getLsbD 5 && !x.mbFailed then x.info.mbCap else none) with
    | some cap => sendSwitch s cap d
    | none =>
      if ta1 != 0x11 && (ratesOf x ta1).isSome && x.cfg.getLsbD 4 && !x.noPps then sendPps s ta1 d else t1Begin s 3 d

def atrReceived (s : Nat) (b : Bytes) (charOk : Bool) (d0 : Dev) : Dev :=
  let d := onSlot s slotRaised d0
  if (slotOf d s).state == .atr then
    let d := onSlot s (fun x => { x with atr := b.take 33 }) d
    let x := slotOf d s
    match (if charOk then atrParse b else none) with
    | none =>
      if x.badAtrs = 0 then onSlot s (fun x => { x with badAtrs := 1 }) d |> slotStop s .again else cardRefuse s 2 d
    | some p =>
      if p.protocolBad then cardRefuse s 3 d
      else
        match p.classes with
        | some ui =>
          if uiNames ui x.cls then onSlot s (fun x => { x with info := p.info }) d |> speedPath s
          else
            match classAbove x x.cls (uiNames ui) with
            | some c => slotStop s .again d |> onSlot s (fun x => { x with cls := c })
            | none => cardRefuse s 4 d
        | none => onSlot s (fun x => { x with info := p.info }) d |> speedPath s
  else d0

/-- A Mboelle switch fails: cause 1 mismatch, 2 timeout, 3 character error (R328). -/
def switchFail (s cause : Nat) (d : Dev) : Dev :=
  slotStop s .againLater d |> onSlot s (fun x => { x with mbFailed := true, fallbacks := x.fallbacks + 1 })
    |> logCard 0x6104 s cause 0

/-- The check block with its random bytes. DESIGN CHOICE (log entry 328): where no DRBG serves none is sent, and the switch
fails at its time-out. -/
def sendCheck (s : Nat) (d : Dev) : Dev :=
  let x := slotOf d s
  let r := ksDraw 3 d
  match r.1 with
  | none => onSlot s (fun x => { x with await := .checkEcho, sent := [] }) r.2
  | some rnd =>
    let b : Bytes := [0xE8, x.sent.getD 2 0, x.sent.getD 3 0, x.sent.getD 4 0] ++ rnd
    let b := b ++ [xorAll b]
    onSlot s (fun x => { x with await := .checkEcho, sent := b }) r.2 |> cardSend s b

def switchReply (s : Nat) (b : Bytes) (charOk : Bool) (d : Dev) : Dev :=
  let x := slotOf d s
  if x.await == .switchReply then
    if !charOk then switchFail s 3 d
    else if b != x.sent then switchFail s 1 d
    else onSlot s (setRates ((b.getD 2 0).toNat, 15)) d |> sendCheck s
  else d

def checkEcho (s : Nat) (b : Bytes) (charOk : Bool) (d : Dev) : Dev :=
  let x := slotOf d s
  if x.await == .checkEcho then
    if !charOk then switchFail s 3 d else if b != x.sent || b.isEmpty then switchFail s 1 d else t1Begin s 1 d
  else d

def switchTimeout (s : Nat) (d : Dev) : Dev :=
  let x := slotOf d s
  if x.await == .switchReply || x.await == .checkEcho then switchFail s 2 d else d

/-- Activated again with no PPS (R329). -/
def ppsFail (s : Nat) (d : Dev) : Dev := slotStop s .again d |> onSlot s (fun x => { x with noPps := true })

/-- A PPS response, its PCK right, with bit 4 of PPS0 clear. -/
def ppsDeclines (b : Bytes) : Bool :=
  decide (3 ≤ b.length) && b.getD 0 0 == 0xFF && !(b.getD 1 0).getLsbD 4 && xorAll b == 0

def ppsResponse (s : Nat) (b : Bytes) (d : Dev) : Dev :=
  let x := slotOf d s
  if x.await == .pps then
    if b == x.sent then
      match ratesOf x (b.getD 2 0) with
      | some r => onSlot s (setRates r) d |> t1Begin s 2
      | none => ppsFail s d
    else if ppsDeclines b then t1Begin s 3 d
    else ppsFail s d
  else d

def ppsTimeout (s : Nat) (d : Dev) : Dev := if (slotOf d s).await == .pps then ppsFail s d else d

end Sys2Proof.Machine
end

