-- ==== Sys2Proof/Machine/Custody.lean ====
section
/-! DEFINITION. The custodian protocol (R337 to R339, R433), ceremonies (R340 to R344), the judgement of T=1 blocks
(R331 to R333), and the rows of the card slots. -/

namespace Sys2Proof.Machine

/-! ## Keys of the protocol (R338, R339) -/

def cardAid : Bytes := [0xF0, 0x5A, 0x58, 0x4E, 0x4B, 0x38, 0x01]

/-- The private bits of the NK8 custodian key: the persistent P-384 key of world K; none while it is lost. -/
def custodianKey (d : Dev) : Option Bytes :=
  match d.ks.keys.find? (fun k => k.owner == ⟨.K, 0⟩ && k.alg == 0x31) with
  | none => none
  | some k => if k.lost then none else if k.resident then some k.mat else if d.bat.keyErased then none else some k.stored

/-- The registration index that a card's static key holds. -/
def registeredAs (d : Dev) (key : Bytes) : Option Nat := (d.lc.cards.find? (fun p => p.2 == key)).map (·.1)

/-- The index at which an enrolment bound a card's key. -/
def boundAs (d : Dev) (key : Bytes) : Option Nat :=
  d.lc.enrol.bind (fun e => (e.cards.find? (fun x => x.2.1 == key)).map (·.1))

def gcmIv (dir : Byte) (n : Nat) : Bytes := dir :: (zeros 7 ++ natBE n 4)

/-- Header bytes by the message (R337). -/
def apduHeader (a : CardAwait) (idx : Nat) : Bytes :=
  match a with
  | .select => [0x00, 0xA4, 0x04, 0x00]
  | .bindResp => [0x80, 0x30, byte idx, 0x00]
  | .authInit => [0x80, 0x10, 0x00, 0x00]
  | .authFinish => [0x80, 0x12, 0x00, 0x00]
  | .getComponent => [0x84, 0x20, 0x00, 0x00]
  | .putComponent => [0x84, 0x22, 0x00, 0x00]
  | .cardDone => [0x84, 0x2E, 0x00, 0x00]
  | _ => []

/-- A protected command: its data under K_sm with the next counter (R339). -/
def sendProtected (s : Nat) (a : CardAwait) (msg : Bytes) (d : Dev) : Dev :=
  let x := slotOf d s
  let e := gcmEnc x.ksm (gcmIv 0x01 x.ctrOut) (apduHeader a 0) msg
  onSlot s (fun x => { x with ctrOut := x.ctrOut + 1 }) d |> sendApdu s a (apduHeader a 0) (e.1 ++ e.2)

/-- The plain data of a protected response, none where its tag fails. -/
def openProtected (x : SlotS) (a : CardAwait) (b : Bytes) : Option Bytes :=
  if b.length < 16 then none
  else gcmDec x.ksm (gcmIv 0x02 x.ctrIn) (apduHeader a 0) (b.take (b.length - 16)) (b.drop (b.length - 16))

def countIn (s : Nat) : Dev → Dev := onSlot s (fun x => { x with ctrIn := x.ctrIn + 1 })

/-! ## Authentication -/

/-- The exchange with the card is over until something else is to be sent. -/
def exchangeOver (s : Nat) : Dev → Dev := onSlot s (fun x => { x with await := .none, out := [], chainIn := [] })

def sendSelect (s : Nat) (d : Dev) : Dev :=
  onSlot s (fun x => { x with state := .auth }) d |> sendApdu s .select (apduHeader .select 0) cardAid

def sendAuthInit (s : Nat) (d : Dev) : Dev :=
  let e := ksDraw 48 d
  let n := ksDraw 32 e.2
  match e.1, n.1 with
  | some eph, some nh =>
    let k := ecScalar p384 eph
    let data := ecEncode p384 (ecMul p384 k (ecBase p384)) ++ nh ++ natLE Config.serial.toNat 8
    let pre := cardAid ++ natLE Config.serial.toNat 8 ++ data.take 129
    onSlot s (fun x => { x with state := .auth, ephPriv := natBE k 48, transcript := pre }) n.2
      |> sendApdu s .authInit (apduHeader .authInit 0) data
  | _, _ => cardRefuse s 6 n.2

/-- The index that a card would bind to: the lowest of the command's indices that no card has and the other slot is not
giving out (R38). -/
def bindIndex (d : Dev) (s : Nat) : Option Nat :=
  match d.lc.enrol with
  | none => none
  | some e =>
    let other := slotOf d (1 - s)
    ((List.range e.n).map (· + e.base)).find? (fun i =>
      !(e.cards.any (fun x => x.1 == i)) && !(other.await == .bindResp && other.regIndex == some i))

def sendBind (s i : Nat) (d : Dev) : Dev :=
  match custodianKey d with
  | none => cardRefuse s 6 d
  | some k =>
    onSlot s (fun x => { x with state := .bind, regIndex := some i }) d
      |> sendApdu s .bindResp (apduHeader .bindResp i) (publicKey 0x31 k)

/-- The response to SELECT (R338): BIND while cards are being registered, otherwise AUTH_INIT. -/
def onSelect (s : Nat) (d : Dev) : Dev :=
  match (if d.lc.state == .quarantine then none else bindIndex d s) with
  | some i => sendBind s i d
  | none => sendAuthInit s d

/-- The response to BIND: the card's static key is the key to be registered; a key that the command bound before, or that
is registered, keeps its index. -/
def onBind (s : Nat) (data : Bytes) (d : Dev) : Dev :=
  if data.length ≠ 97 then onSlot s (fun x => { x with regIndex := none }) d |> cardRefuse s 6
  else
    let x := slotOf d s
    let d1 := match boundAs d data, registeredAs d data with
      | some i, _ => onSlot s (fun x => { x with regIndex := some i }) d
      | none, some i => onSlot s (fun x => { x with regIndex := some i }) d
      | none, none => onLc (fun l => { l with enrol := l.enrol.map (fun e => { e with cards := e.cards ++ [(x.regIndex.getD 0, data, false)] }) }) d
    onSlot s (fun x => { x with cardKey := data }) d1 |> sendAuthInit s

/-- The card counts as authenticated: EV_6101 with the path (R338). -/
def authLog (s i : Nat) (d : Dev) : Dev := logCard 0x6101 s i (slotOf d s).path d

/-- The response to AUTH_INIT (R338, R339, R433). -/
def onAuthInit (s : Nat) (data : Bytes) (d : Dev) : Dev :=
  let x := slotOf d s
  if data.length ≠ 322 then cardRefuse s 6 d
  else
    let qs := data.take 97
    let qe := slice data 97 97
    let sig := slice data 226 96
    match (match boundAs d qs with | some i => some i | none => registeredAs d qs) with
    | none => cardRefuse s 5 d
    | some i =>
      if !x.cardKey.isEmpty && x.cardKey != qs then cardRefuse s 5 d
      else
        let t := sha384 (x.transcript ++ qs ++ qe ++ slice data 194 32)
        if !ecdsa384 qs t sig then cardRefuse s 6 d
        else if d.lc.state == .quarantine then quorumCount i d |> authLog s i |> slotStop s .refused
        else
          let n := ksDraw 48 d
          match ecDecode p384 qe, custodianKey d, n.1 with
          | some q, some key, some rnd =>
            let ksm := kdfCtr (.hmac .sha384) (ecdh p384 (beNat x.ephPriv) q) (ascii "ZXCS") t 32
            let sigH := ecdsaSign p384 (beNat key) (ecScalar p384 rnd) (sha384 (sha384 (t ++ sig)))
            onSlot s (fun x => { x with regIndex := some i, cardKey := qs, transcript := t, sigC := sig, ksm := ksm, ephPriv := [] }) n.2
              |> sendApdu s .authFinish (apduHeader .authFinish 0) sigH
          | _, _, _ => cardRefuse s 6 d

/-! ## Turns (R341) -/

def sendDone (s : Nat) (d : Dev) : Dev := sendProtected s .cardDone [] d

/-- The turn of the first slot in the order of authentication begins. -/
def turnStart (d : Dev) : Dev :=
  match d.crd.cer with
  | none => d
  | some c =>
    match c.turns with
    | [] => d
    | s :: _ =>
      let i := (slotOf d s).regIndex.getD 0
      let d := onSlot s (fun x => { x with state := .turn }) d
      if c.mask.getLsbD i then logCard 0x6123 s i 3 d |> sendDone s
      else if c.k ≤ c.taken then sendDone s d
      else if c.kind = 1 then sendProtected s .getComponent c.keyId d
      else
        let comp := c.comps.headD []
        sendProtected s .putComponent (c.keyId ++ comp ++ keyKcv c.alg comp) d

/-- An authenticated card takes its turn in an open ceremony, or CARD_DONE. -/
def afterAuth (s : Nat) (d : Dev) : Dev :=
  match d.crd.cer with
  | none => sendDone s d
  | some c =>
    let d := onCrd (fun x => { x with cer := some { c with turns := c.turns ++ [s] } }) d
    if c.turns.isEmpty then turnStart d else exchangeOver s d

/-- The response to AUTH_FINISH (R338, R339): a card whose enrolment has ended meanwhile is refused with reason 5, and only a
registered one takes a turn in a ceremony (R343). -/
def onAuthFinish (s : Nat) (data : Bytes) (d : Dev) : Dev :=
  let x := slotOf d s
  if data != (gcmEnc x.ksm (gcmIv 0x02 0) x.transcript []).2 then cardRefuse s 6 d
  else
    let i := x.regIndex.getD 0
    let ready := fun (d : Dev) => onSlot s (fun x => { x with authed := true, state := .ready, ctrOut := 1, ctrIn := 1 }) d |> authLog s i
    if (boundAs d x.cardKey).isSome then
      let d1 := onLc (fun l => { l with enrol := l.enrol.map (fun e => { e with cards := lmod e.cards (fun c => c.1 == i) (fun c => (c.1, c.2.1, true)) }) }) (ready d)
        |> enrolCommit
      if (registeredAs d1 x.cardKey).isSome then afterAuth s d1 else sendDone s d1
    else if (registeredAs d x.cardKey).isSome then quorumCount i (ready d) |> afterAuth s
    else cardRefuse s 5 d

/-- The turn of a slot ends, and the next begins. -/
def turnEnd (s : Nat) (d : Dev) : Dev :=
  let d := exchangeOver s d |> onSlot s (fun x => { x with state := if x.state == .turn then .ready else x.state })
  match d.crd.cer with
  | none => d
  | some c =>
    if c.turns.contains s then
      onCrd (fun x => { x with cer := some { c with turns := c.turns.filter (· != s) } }) d |> doIf (c.turns.head? == some s) turnStart
    else d

def onCer (f : Ceremony → Ceremony) : Dev → Dev := onCrd (fun x => { x with cer := x.cer.map f })

/-- A component is refused: 1 length, 2 kcv, 4 status word; the third ends the ceremony (R341, R344). DESIGN CHOICE (log
entry 341): the card gets its CARD_DONE all the same. -/
def componentRefuse (s reason : Nat) (d : Dev) : Dev :=
  let d := logCard 0x6123 s ((slotOf d s).regIndex.getD 0) reason d |> onCer (fun c => { c with refused := c.refused + 1 })
  let third := (d.crd.cer.map (fun c => decide (3 ≤ c.refused))).getD false
  sendDone s d |> doIf third (cerEnd stAborted 0x0905)

/-- Every component has been taken and the ceremony has its effect (R344). -/
def cerComplete (c : Ceremony) (r : Res) (index : Nat) (d : Dev) : Dev :=
  cerClear d |> logEv 0x6121 keeperSrc c.kind c.mask.toNat index |> finishRunning c.cid { r with result := c.mask.setWidth 32 }

/-- What a combined key's parameters make of it (R342). -/
def cerKey (c : Cmd) (mat : Bytes) : NewKey := {
  owner := ⟨.C, 0⟩, hint := par c 72 1, alg := par c 64 1, life := par c 65 1, usage := BitVec.ofNat 16 (par c 68 2)
  export_ := par c 66 1, pinned := par c 67 1 == 1, ancCeremony := true, dest := BitVec.ofNat 16 (par c 70 2)
  session := c.session, mat }

/-- R342: the key is formed and created; where ward slots are short the command waits, and goes on at its next row (R95). -/
def cerCombine (c : Ceremony) (d : Dev) : Dev :=
  match cmdOf? d c.cid with
  | none => cerClear d
  | some x =>
    let mat := if isTdes c.alg then oddParity c.acc else c.acc
    if c.kcv != zeros 3 && c.kcv != keyKcv c.alg mat then cerEnd stVerify 0x0906 d
    else if par x 65 1 == 2 && keepOnly d then cerEnd stDegraded 0 d
    else
      let r := runBody (needKeyRoom ⟨.C, 0⟩ (par x 65 1) mat.length (par x 67 1 == 1)) d
      match r.1 with
      | .error (.res e) => cerEnd e.status e.detail.toNat r.2
      | .error (.wait on) => onCmd c.cid (fun x => { x with waitOn := on }) r.2
      | .error .running => r.2
      | .ok _ =>
        let k := makeKey (cerKey x mat) r.2
        cerComplete c (resOut (keyRecord k.2 k.1)) k.1.index k.2 |> onKs (fun s => { s with combines := s.combines + 1 })

/-- Step 5 of R341: a component is taken; with the k-th the ceremony has its effect. -/
def componentTake (s : Nat) (acc : Bytes) (d : Dev) : Dev :=
  let i := (slotOf d s).regIndex.getD 0
  let d := onCer (fun c => { c with
    taken := c.taken + 1, acc := acc, comps := c.comps.drop 1, mask := c.mask ||| BitVec.ofNat 16 (2 ^ i) }) d
  let d := sendDone s d |> logCard 0x6120 s i ((d.crd.cer.map (·.taken)).getD 0) |> onSlot s (fun x => { x with state := .done })
  match d.crd.cer with
  | none => d
  | some c =>
    if c.taken < c.k then d
    else if c.kind = 1 then cerCombine c d
    else cerComplete c resOk c.keyIndex d

/-- The open ceremony where the slot has the turn. -/
def turnOf (d : Dev) (s : Nat) : Option Ceremony := d.crd.cer.bind (fun c => if c.turns.head? == some s then some c else none)

/-- The response to GET_COMPONENT: length, then kcv over the component as given (R341). -/
def onGet (s : Nat) (data : Bytes) (d : Dev) : Dev :=
  match openProtected (slotOf d s) .getComponent data with
  | none => cardRefuse s 6 d
  | some m =>
    let d := countIn s d
    match turnOf d s with
    | none => sendDone s d
    | some c =>
      let comp := m.take (m.length - 3)
      if m.length ≠ c.lenBytes + 3 then componentRefuse s 1 d
      else if keyKcv c.alg comp != m.drop (m.length - 3) then componentRefuse s 2 d
      else componentTake s (xorB c.acc comp) d

/-- The response to PUT_COMPONENT. -/
def onPut (s : Nat) (data : Bytes) (d : Dev) : Dev :=
  match openProtected (slotOf d s) .putComponent data with
  | none => cardRefuse s 6 d
  | some _ =>
    let d := countIn s d
    match turnOf d s with
    | none => sendDone s d
    | some c => componentTake s c.acc d

/-- A status word other than 0x9000 in a component exchange. -/
def componentStatus (s : Nat) (d : Dev) : Dev := if (turnOf d s).isSome then componentRefuse s 4 d else sendDone s d

/-- The response to CARD_DONE. -/
def onDone (s : Nat) (data : Bytes) (ok : Bool) (d : Dev) : Dev :=
  if ok && (openProtected (slotOf d s) .cardDone data).isNone then cardRefuse s 6 d
  else countIn s d |> turnEnd s

/-- Card traffic that the lifecycle does not accept (R30, R32): the card is refused. DESIGN CHOICE (log entry 32):
EV_5104 names no command code and, in place of a function, the port number of EV_2101; the reason of EV_6105 is 6. -/
def crdRefuse (s : Nat) (d : Dev) : Dev := log5104 0 (0x80 + s) 3 d |> cardRefuse s 6

/-- A whole response APDU arrives: data and status word (R337). -/
def apduResponse (s : Nat) (data : Bytes) (sw : Nat) (d : Dev) : Dev :=
  let ok := sw == 0x9000
  if !crdAdmitted d then crdRefuse s d
  else match (slotOf d s).await with
  | .select => if ok then onSelect s d else cardRefuse s 6 d
  | .bindResp => if ok then onBind s data d else onSlot s (fun x => { x with regIndex := none }) d |> cardRefuse s 6
  | .authInit => if ok then onAuthInit s data d else cardRefuse s 6 d
  | .authFinish => if ok then onAuthFinish s data d else cardRefuse s 6 d
  | .getComponent => if ok then onGet s data d else componentStatus s d
  | .putComponent => if ok then onPut s data d else componentStatus s d
  | .cardDone => onDone s data ok d
  | _ => d

/-! ## T=1 (R331 to R333) -/

/-- The card's next message is to be authentication again: session keys are zeroised (R332 step 2). DESIGN CHOICE (log
entry 332): a turn that this cuts ends with no component refused, and the card takes another once it has authenticated. -/
def authAgain (s : Nat) (d : Dev) : Dev :=
  let d := enrolUnbind s d
  let d := match d.crd.cer with
    | some c =>
      let first := c.turns.head? == some s
      onCrd (fun x => { x with cer := some { c with turns := c.turns.filter (· != s) } }) d |> doIf first turnStart
    | none => d
  onSlot s (fun x => { slotKeysClear x with state := .auth, out := [], chainIn := [] }) d

def isApdu : CardAwait → Bool
  | .select | .bindResp | .authInit | .authFinish | .getComponent | .putComponent | .cardDone => true
  | _ => false

/-- T=1 runs and the NK8 waits for a block. -/
def t1Waits (x : SlotS) : Bool := isApdu x.await || x.await == .ifs || x.await == .resynch

def sendResynch (s : Nat) (d : Dev) : Dev :=
  onSlot s (fun x => { x with await := .resynch, resynchs := x.resynchs + 1, resynchN := x.resynchN + 1 }) d |> t1Send s 0xC0 [] true

/-- One failed attempt (R332); `again` sends the block that the recovery step gives. -/
def t1Failed (s : Nat) (again : Dev → Dev) (d : Dev) : Dev :=
  let x := slotOf d s
  if x.await == .resynch then (if x.resynchs < 3 then sendResynch s d else linkFail s 1 d)
  else if x.retrans < 3 then onSlot s (fun x => { x with retrans := x.retrans + 1, retransN := x.retransN + 1 }) d |> again
  else sendResynch s d

/-- Repeats the NK8's block. -/
def t1Repeat (s : Nat) (d : Dev) : Dev := cardSend s (slotOf d s).sent d

/-- A block that is invalid or does not come: error 1 for characters and EDC, 2 for all else. -/
def t1Invalid (s err : Nat) (d : Dev) : Dev :=
  t1Failed s (if (slotOf d s).await == .ifs then t1Repeat s else t1SendR s err) d

/-- BWT in cycles of the 80 MHz reference (R331). -/
def bwtCycles (x : SlotS) : Nat := (11 * (x.etuM1 + 1) + 2 ^ x.info.bwi * 357120) * x.div

/-- An S(WTX request): the waits of an exchange total at most CRD_WTX_MAX, beyond which it counts as a BWT expiry (R333). -/
def t1Wtx (s : Nat) (m : Nat) (d : Dev) : Dev :=
  let x := slotOf d s
  let total := x.wtxTotal + m * bwtCycles x
  if x.wtxMax * 80000000 < total then t1Invalid s 2 d
  else onSlot s (fun x => { x with wtxTotal := total, wtxNext := m }) d |> t1Send s 0xE3 [byte m] false

/-- An S-block from the card. -/
def t1S (s pcb : Nat) (inf : Bytes) (d : Dev) : Dev :=
  let x := slotOf d s
  let v := (inf.headD 0).toNat
  if pcb = 0xC1 ∧ inf.length = 1 ∧ 1 ≤ v ∧ v ≤ 254 then onSlot s (fun x => { x with ifsc := v }) d |> t1Send s 0xE1 inf false
  else if pcb = 0xC3 ∧ inf.length = 1 ∧ 1 ≤ v then t1Wtx s v d
  else if pcb = 0xC2 ∧ inf = [] then t1Send s 0xE2 [] false d |> authAgain s |> sendSelect s
  else if pcb = 0xE1 ∧ x.await = .ifs ∧ inf = [254] then sendSelect s d
  else if pcb = 0xE0 ∧ x.await = .resynch ∧ inf = [] then
    authAgain s d |> onSlot s (fun x => { x with nsOut := false, nsIn := false, ifsc := x.info.ifsc }) |> sendIfs s
  else t1Invalid s 2 d

/-- An R-block: it asks for the next I-block of the chain, or rejects the NK8's block. -/
def t1R (s pcb : Nat) (d : Dev) : Dev :=
  let x := slotOf d s
  let first := (x.sent.getD 2 0).toNat
  if isApdu x.await && pcb.testBit 4 != x.nsOut && decide (first < x.out.length) && x.chainIn.isEmpty then
    onSlot s (fun x => { x with nsOut := !x.nsOut, out := x.out.drop first }) d |> t1SendI s
  else t1Failed s (t1Repeat s) d

/-- An I-block with the number expected: it answers the whole command, so the command's last block is acknowledged. -/
def t1I (s pcb : Nat) (inf : Bytes) (d : Dev) : Dev :=
  let x := slotOf d s
  let whole := x.chainIn ++ inf
  if !isApdu x.await || pcb.testBit 6 != x.nsIn || decide (x.out.length > (x.sent.getD 2 0).toNat) || decide (1024 < whole.length) then
    t1Invalid s 2 d
  else
    let d := onSlot s (fun x => { x with
      nsIn := !x.nsIn, nsOut := if x.chainIn.isEmpty && !x.out.isEmpty then !x.nsOut else x.nsOut, out := [], chainIn := whole, wtxNext := 0 }) d
    if pcb.testBit 5 then t1SendR s 0 d
    else
      let n := whole.length
      if n < 2 then apduResponse s [] 0 d else apduResponse s (whole.take (n - 2)) (beNat (whole.drop (n - 2))) d

/-- T1_BLOCK_RECEIVED: prologue, EDC and PCB are judged, then the block by its kind (R331). -/
def t1Block (s : Nat) (b : Bytes) (charOk : Bool) (d : Dev) : Dev :=
  let x := slotOf d s
  if !t1Waits x then d
  else
    let e := if x.info.crc then 2 else 1
    let n := b.length - 3 - e
    let body := b.take (b.length - e)
    let pcb := (b.getD 1 0).toNat
    let inf := slice b 3 n
    if !charOk || decide (b.length < 3 + e) || t1Edc x.info.crc body != b.drop (b.length - e) then t1Invalid s 1 d
    else if b.getD 0 0 != 0 || (b.getD 2 0).toNat != n || n == 255 then t1Invalid s 2 d
    else
      let d := onSlot s (fun x => { x with blocks := x.blocks + 1 }) d
      if pcb < 128 then (if pcb % 32 = 0 then t1I s pcb inf d else t1Invalid s 2 d)
      else if pcb < 192 then (if !pcb.testBit 5 && pcb % 16 ≤ 2 && inf.isEmpty then t1R s pcb d else t1Invalid s 2 d)
      else t1S s pcb inf d

def t1Expire (s : Nat) (d : Dev) : Dev := if t1Waits (slotOf d s) then t1Invalid s 2 d else d

/-- CARD_BUSY_LIMIT: the busy limit in Mboelle mode, the WTX total, the line held low outside Mboelle mode (R333). -/
def busyLimit (s : Nat) (c : BusyCause) (d : Dev) : Dev :=
  let x := slotOf d s
  if !t1Waits x then d
  else match c with
    | .busyLimit => if x.path = 1 then linkFail s 2 d else d
    | .wtxLimit => linkFail s 3 d
    | .lineLow => if x.path = 1 then d else linkFail s 4 d

/-- The card clock stops where XI allows it and the NK8 has nothing to send, at the level that XI gives (R334). -/
def clockStop (s : Nat) : Dev → Dev :=
  onSlot s (fun x => if !x.vccEnN && x.path != 0 && x.info.xi != 0 && x.await == .none && x.clkOn then
    { x with clkStopped := true, clkHigh := x.info.xi == 2 } else x)

/-- A row that names one message of the protocol: the whole response to it arrives, by T=1 blocks that all were valid. -/
def apduRow (a : CardAwait) (s : Nat) (data : Bytes) (sw : Nat) (d : Dev) : Dev :=
  let x := slotOf d s
  if x.await == a then
    let n := (data.length + 2 + 253) / 254
    let sentBlocks := (x.out.length + max 1 x.ifsc - 1) / max 1 x.ifsc
    onSlot s (fun x => { x with
      nsIn := if n % 2 = 1 then !x.nsIn else x.nsIn, nsOut := if sentBlocks % 2 = 1 then !x.nsOut else x.nsOut
      out := [], chainIn := [], blocks := x.blocks + BitVec.ofNat 64 n }) d
      |> apduResponse s data sw
  else d

/-! ## Commands of ceremonies (R340) -/

def cerFields (c : Cmd) (hr : HostRead) : Run Unit := do
  let _ := hr
  need (c.hb == 0) stParam 0x0901
  need (decide (2 ≤ par c 73 1) && decide (par c 73 1 ≤ 8)) stParam 0x0901
  let w := par c 74 2
  need (w == 0 || (decide (60 ≤ w) && decide (w ≤ 1800))) stParam 0x0901

def cerNoneOpen (c : Cmd) : Run Unit := do
  if (← get).crd.cer.isSome then wrongState c 1

def cerOpen (c : Ceremony) : Dev → Dev := onCrd (fun x => { x with cer := some c })

def bodyCombine (c : Cmd) (hr : HostRead) : Run Res := do
  need (zeroPar c 95 128) stParam 0
  needDest c
  need (c.ha == 0) stParam 0x0901
  cerFields c hr
  let alg := par c 64 1
  let usage := BitVec.ofNat 16 (par c 68 2)
  need (isSym alg && (par c 65 1 == 1 || par c 65 1 == 2) && decide (par c 66 1 ≤ 2) && decide (par c 67 1 < 2)) stParam 0x0901
  need (usage.getLsbD uCeremony && decide (32 ≤ c.outCap)) stParam 0x0901
  need (usageOk alg .C usage) stParam 0x0002
  cerNoneOpen c
  let len := (algLen alg).getD 0
  eff (cerOpen {
    cid := c.cid, kind := 1, alg, keyIndex := 0, k := par c 73 1, taken := 0, refused := 0, mask := 0, keyId := parB c 76 16, kcv := parB c 92 3
    lenBytes := len, acc := zeros len, comps := [], turns := [] })
  throw .running

/-- Components 1 to k - 1 are drawn; the last is the key XOR the others (R341). -/
def splitParts (mat : Bytes) : Nat → Run (List Bytes)
  | 0 => pure [mat]
  | n + 1 => do
    let r ← needDraw (ksDraw mat.length)
    let rest ← splitParts (xorB mat r) n
    pure (r :: rest)

def bodySplit (c : Cmd) (hr : HostRead) : Run Res := do
  need (zeroPar c 64 73 && zeroPar c 92 128) stParam 0
  cerFields c hr
  cerNoneOpen c
  let k ← fetch (useOf c .wrap (some uCeremony) isSym) (hA c)
  if k.export_ = 0 then failLog stKeyAttr 5 (log2310 (cmdFn c) (hA c) 5)
  let comps ← splitParts k.mat (par c 73 1 - 1)
  eff (cerOpen {
    cid := c.cid, kind := 2, alg := k.alg, keyIndex := k.index, k := par c 73 1, taken := 0, refused := 0, mask := 0, keyId := parB c 76 16, kcv := zeros 3
    lenBytes := k.lenBytes, acc := [], comps := comps, turns := [] })
  throw .running

def bodyAbandon (c : Cmd) (_ : HostRead) : Run Res := do
  need (zeroPar c 64 128) stParam 0
  need (c.ha == 0 && c.hb == 0) stParam 0x0901
  if (← get).crd.cer.isNone then wrongState c 1
  eff (cerCut stAborted 0x0903)
  pure resOk

/-! ## Rows -/

def execCardDetect (sl : Slot) (s : State) : Ans := nextD (cardDetect sl) s
def execCardDebounceEnd (sl : Slot) (s : State) : Ans := nextD (debounceEnd sl) s
def execCardAtrTimeout (sl : Slot) (s : State) : Ans := nextD (atrTimeout sl) s
def execAtrReceived (sl : Slot) (bytes : List Byte) (charOk : Bool) (s : State) : Ans := nextD (atrReceived sl bytes charOk) s
def execSwitchReply (sl : Slot) (bytes : List Byte) (charOk : Bool) (s : State) : Ans := nextD (switchReply sl bytes charOk) s
def execCheckEcho (sl : Slot) (bytes : List Byte) (charOk : Bool) (s : State) : Ans := nextD (checkEcho sl bytes charOk) s
def execSwitchTimeout (sl : Slot) (s : State) : Ans := nextD (switchTimeout sl) s
def execCardReactivate (sl : Slot) (s : State) : Ans := nextD (cardReactivate sl) s
def execPpsResponse (sl : Slot) (bytes : List Byte) (s : State) : Ans := nextD (ppsResponse sl bytes) s
def execPpsTimeout (sl : Slot) (s : State) : Ans := nextD (ppsTimeout sl) s
def execT1BlockReceived (sl : Slot) (bytes : List Byte) (charOk : Bool) (s : State) : Ans := nextD (t1Block sl bytes charOk) s
def execT1WaitExpire (sl : Slot) (s : State) : Ans := nextD (t1Expire sl) s
def execCardBusyLimit (sl : Slot) (cause : BusyCause) (s : State) : Ans := nextD (busyLimit sl cause) s
def execCardClockStop (sl : Slot) (s : State) : Ans := nextD (clockStop sl) s
def execCardRemoval (sl : Slot) (s : State) : Ans := nextD (cardRemoval sl) s
def execCardDeactivationDone (sl : Slot) (s : State) : Ans := nextD (deactivationDone sl) s
def execSelect (sl : Slot) (data : List Byte) (sw : BitVec 16) (s : State) : Ans := nextD (apduRow .select sl data sw.toNat) s
def execBind (sl : Slot) (data : List Byte) (sw : BitVec 16) (s : State) : Ans := nextD (apduRow .bindResp sl data sw.toNat) s
def execAuthInit (sl : Slot) (data : List Byte) (sw : BitVec 16) (s : State) : Ans := nextD (apduRow .authInit sl data sw.toNat) s
def execAuthFinish (sl : Slot) (data : List Byte) (sw : BitVec 16) (s : State) : Ans := nextD (apduRow .authFinish sl data sw.toNat) s
def execGetComponent (sl : Slot) (data : List Byte) (sw : BitVec 16) (s : State) : Ans :=
  nextD (apduRow .getComponent sl data sw.toNat) s
def execPutComponent (sl : Slot) (data : List Byte) (sw : BitVec 16) (s : State) : Ans :=
  nextD (apduRow .putComponent sl data sw.toNat) s
def execCardDone (sl : Slot) (data : List Byte) (sw : BitVec 16) (s : State) : Ans := nextD (apduRow .cardDone sl data sw.toNat) s
/-- The combined key of the command `cid` waits to be created. -/
def cerDue (cid : Nat) (d : Dev) : Option Ceremony :=
  d.crd.cer.filter (fun c => c.cid == cid && c.kind == 1 && decide (c.k ≤ c.taken))

def execCerCombine (cid : Nat) (hr : HostRead) (s : State) : Ans :=
  match cerDue cid s.toDev with
  | some c => nextD (cerCombine c) s
  | none => hasp 0x0180 cid hr bodyCombine s
def execCerSplit (cid : Nat) (hr : HostRead) (s : State) : Ans := hasp 0x0181 cid hr bodySplit s
def execCerAbandon (cid : Nat) (hr : HostRead) (s : State) : Ans := hasp 0x0182 cid hr bodyAbandon s
def execCeremonyWindowExpire (s : State) : Ans := nextD (cerEnd stAborted 0x0902) s

/-- SPILL_WAIT_TIMEOUT: a ceremony whose key waits for ward slots ends with its command (R95, R344). -/
def execSpillWaitTimeout (cid : Nat) (s : State) : Ans :=
  nextD (fun d => match cerDue cid d, cmdOf? d cid with
    | some _, some c => if c.waitOn.contains waitP63 then cerEnd stRetry 0x0013 d else d
    | _, _ => spillWaitTimeout cid d) s

/-! ## CRD_CTRL (R351) -/

/-- A card in a slot without power, or one that is to be activated again, is not activated: the slot awaits its removal. -/
def cardDeactivate (s : Nat) (d : Dev) : Dev :=
  let x := slotOf d s
  if x.state == .stopping then onSlot s (fun x => { x with deactivating := true, andThen := .refused, held := false }) d
  else if x.vccEnN then
    onSlot s (fun x => if x.state == .debounce || x.state == .activating then { x with state := .refused, andThen := .settle } else x) d
  else onSlot s (fun x => { x with deactivating := true }) d |> turnBreak s 2 |> slotStop s .refused

def cardEnable (s : Nat) (d : Dev) : Dev :=
  onSlot s (fun x =>
    if x.state == .stopping then { x with enable := true, held := true }
    else if x.enable then x
    else if x.detLow then slotFresh { x with enable := true } else { x with enable := true, state := .empty }) d

def cardDisable (s : Nat) (d : Dev) : Dev :=
  if (slotOf d s).enable then
    let binding := isBinding d s
    turnBreak s 2 d |> onSlot s (fun x => { x with enable := false, held := false }) |> slotStop s .settle
      |> doIf binding (enrolAbort stRetry 0)
  else d

def slotPage (s : Nat) : Nat := 182 + s

def execCardDeactivate (acc : Access) (sl : Slot) (s : State) : Ans :=
  nextD (regAction acc (slotPage sl) 0x008 [.K, .C] (cardDeactivate sl)) s
def execCardEnable (acc : Access) (sl : Slot) (s : State) : Ans := nextD (regAction acc (slotPage sl) 0x008 [.K, .C] (cardEnable sl)) s
def execCardDisable (acc : Access) (sl : Slot) (s : State) : Ans := nextD (regAction acc (slotPage sl) 0x008 [.K, .C] (cardDisable sl)) s

/-! ## Resets and tamper responses (R335, R345) -/

/-- Both cards are deactivated, as after a tamper response. -/
def slotsStop (d : Dev) : Dev := forAll [0, 1] (fun s d => if (slotOf d s).vccEnN then d else slotStop s .refused d) d

/-- A reset of the slots: their registers take their reset values, a card present is served from its insertion on, and one with
power is deactivated first (R335). No ceremony is open. -/
def slotsReset (d : Dev) : Dev :=
  onCrd (fun c => { cer := none, slots := c.slots.map (fun p =>
    (p.1, let x : SlotS := { detLow := p.2.detLow }
          if !p.2.vccEnN then
            { x with state := .stopping, vccEnN := false, vccSel := p.2.vccSel, clkOn := p.2.clkOn, clkStopped := p.2.clkStopped
                     clkHigh := p.2.clkHigh, ioLow := p.2.ioLow, held := x.detLow }
          else if x.detLow then slotFresh x else x)) }) d

/-- Deactivations that no row has ended are over: the main supply is gone, or start-up has taken longer (R335). -/
def slotsOff : Dev → Dev := forAll [0, 1] deactivationDone

end Sys2Proof.Machine
end

