-- ==== Sys2Proof/Machine/Regions.lean ====
section
/-! DEFINITION. Containment below the die (R10 to R12, R528, R529): block resets and their self-tests, relocation of
rows; the drain, halt, reset and reinstatement of a region (R487 to R489, R464); the known-answer tests' ends (R215). -/

namespace Sys2Proof.Machine

/-! ## What a region is running -/

def startedIn (r : Nat) (c : Cmd) : Bool :=
  match c.loc with
  | .boltCtx r' _ _ => r'.val == r
  | .digCtx r' _ _ _ => r'.val == r
  | _ => false

def waitingIn (r : Nat) (c : Cmd) : Bool :=
  isHost c && isWaiting c && (match c.loc with
    | .boltQ r' _ => r'.val == r
    | .digQ r' _ _ => r'.val == r
    | _ => false)

/-- Work that a drain waits for: bolt and digest steps, descriptor lists, tasks (R487 step 4). -/
def regionBusy (d : Dev) (r : Nat) : Bool :=
  d.hif.cmds.any (startedIn r) || (dmaOf d r).chans.any (fun p => chBusy p.2) || !(tasksOf d r).isEmpty

/-- Places a command ahead of every later one of its queue. -/
def cmdInsert (c : Cmd) (l : List Cmd) : List Cmd :=
  let later := fun (x : Cmd) => x.loc == c.loc && decide (c.cid < x.cid)
  l.takeWhile (fun x => !later x) ++ c :: l.dropWhile (fun x => !later x)

/-- A waiting command goes to the pipeline or engine of its session's present home, in its order of acceptance and at
its own priority; where that is not in service, as R72 and R192 route an overflow. With none in service it ends. -/
def moveCmd (c : Cmd) (d : Dev) : Dev :=
  let home := ((sessNamed d c.fn c.session).map (·.home)).getD 0
  let loc := if isTxn c.code then
      (if boltOpen d home then some (.boltQ home c.prio) else boltRoute d home c.prio)
    else (if digOpen d home then some (.digQ home (pickLane d home) c.prio) else digRoute d home c.prio)
  match loc with
  | some l => onHif (fun h => { h with cmds := cmdInsert { c with loc := l } (h.cmds.filter (fun x => x.cid != c.cid)) }) d
  | none => finish c.cid resRetry d

/-- A waiting bolt command goes to the pipeline with the fewest waiting commands, at its own priority (R129). -/
def moveFewest (c : Cmd) (d : Dev) : Dev :=
  match boltFewest d c.prio with
  | some l => onHif (fun h => { h with cmds := cmdInsert { c with loc := l } (h.cmds.filter (fun x => x.cid != c.cid)) }) d
  | none => finish c.cid resRetry d

def moveWaiting (r : Nat) (d : Dev) : Dev := forAll (d.hif.cmds.filter (waitingIn r)) moveCmd d

/-- Sessions homed on a region take new homes one after another (R64, R73). DESIGN CHOICE (log entry 73): no hint is
kept from SESSION_OPEN, so the region with the fewest sessions is chosen. -/
def rehomeSessions (r : Nat) (d : Dev) : Dev :=
  forAll ((openSess d).filter (fun p => p.2.home.val == r)) (fun p d =>
    match homeRegion d 255 with
    | some h => onHif (fun x => { x with sess := tmod x.sess p.1 {} (fun s => { s with home := h }) }) d
    | none => d) d

def homedSessions (d : Dev) (r : Nat) : Nat := count (openSess d) (fun p => p.2.home.val == r)

/-- Blocks of a region leave a block reset: an action of the region or above supersedes it (R12). -/
def resettingDrop (r : Nat) : Dev → Dev :=
  onDie (fun x => { x with resetting := x.resetting.filter (fun b => blkRegion b.1 != some r) })

/-- Software reads of a region's random bytes end with `res`; the bytes they took are gone (R217). -/
def endReads (r : Nat) (res : Res) (d : Dev) : Dev :=
  let reads := d.hif.cmds.filter (fun c => isRead r false c || isRead r true c)
  forAll reads (fun c d => onCmd c.cid (fun c => { c with taskOut := [] }) d |> finish c.cid res) d
    |> onDrbg r (fun g => { g with swRetries := g.swRetries + BitVec.ofNat 64 (if res.status == stRetry then reads.length else 0) })

/-! ## Drain and halt (R317, R376, R487) -/

/-- The sessions that a region's leaving re-homes: none where no other region is in service. -/
def rehomedBy (d : Dev) (r : Nat) : Nat :=
  if (List.range 4).any (fun q => q != r && regionUp d q) then homedSessions d r else 0

/-- Steps 2 and 3 of a drain, for its cause of R528; nothing in tamper hold (R12). -/
def regionDrain (r cause : Nat) (d : Dev) : Dev :=
  if !regionUp d r || d.tmp.hold then d
  else
    let n := rehomedBy d r
    d |> onRegion r (fun x => { x with phase := .draining, cause := cause, startTb := nowTb d, rehomed := n })
      |> rehomeSessions r |> moveWaiting r |> drainTasks r
      |> onDrbg r (fun g => { g with queue := [], stopping := true }) |> endReads r resRetry
      |> onDig r (fun g => { g with stopping := true })
      |> onDma r (fun x => { x with chans := x.chans.map (fun p =>
          (p.1, if p.2.state == .running && p.2.ownerTask.isNone then { p.2 with state := .stopping } else p.2)) })
      |> resettingDrop r |> logEv 0x7101 keeperSrc r cause n

/-- Started commands of some contexts end with ST_RETRY and no effect. -/
def endStarted (p : Cmd → Bool) : Dev → Dev := endAll p resRetry


/-- A service action ends (R486). -/
def svcEnd (a : SvcAction) : Res → Dev → Dev := svcDone a.cid

/-- The action of 1 to 4 that works on a region. -/
def regionAction (d : Dev) (r : Nat) : Option SvcAction := d.svc.actions.find? (fun a => a.region == r && decide (a.action ≤ 4))

/-- The actions of a region end with ST_RETRY, detail 0x0C03 (R489). -/
def svcSupersede (p : SvcAction → Bool) (d : Dev) : Dev :=
  forAll (d.svc.actions.filter p) (fun a => svcEnd a (resErr stRetry 0x0C03)) d

/-- A region that works or is on its way to work again. -/
def regionActive (d : Dev) (r : Nat) : Bool := [RegionPhase.up, .draining, .resetting].contains (regionOf d r).phase

/-- The started work of a region ends at once, with ST_RETRY and no effect (R13, R418). -/
def regionStill (r : Nat) (d : Dev) : Dev :=
  d |> endStarted (startedIn r) |> drainTasks r |> haltTasks r (fun _ => resRetry)
    |> dmaHaltAll r |> onDrbg r (fun g => { g with queue := [], stopping := true }) |> endReads r resRetry |> resettingDrop r
    |> onBolt r (fun b => { b with dkPend := [] }) |> onDig r (fun g => { g with stopping := true })
    |> onTmb r (fun t => { t with stopping := true })

/-- The G1 halt of a region (R418): started work ends with ST_RETRY and no effect, and what waits moves on. -/
def regionHalt (r : Nat) (d : Dev) : Dev :=
  if regionActive d r then
    d |> onRegion r (fun x => { x with phase := .halted, cause := 6, startTb := nowTb d, rehomed := rehomedBy d r })
      |> rehomeSessions r |> moveWaiting r |> regionStill r |> svcSupersede (fun a => a.region == r && decide (a.action ≤ 6))
  else d

/-! ## Die safe state (R13) -/

/-- Die safe state: the regions halt, DMA lists and barrel jobs end, every accepted command that is not completed ends
with ST_RETRY and no effect, and EV_8101 is logged. A lifecycle transition whose intent is written is left for start-up
(R33); a commit of the vault is left undone (R249). Tamper hold supersedes it (R12). -/
def dieSafe (cause blk : Nat) (d : Dev) : Dev :=
  if d.die.safe || d.tmp.hold then d
  else
    d |> onDie (fun x => { x with safe := true, resetting := [] })
      |> forAll ((List.range 4).filter (regionActive d)) (fun r d =>
          onRegion r (fun x => { x with phase := .halted, startTb := nowTb d }) d |> regionStill r)
      |> dmaHaltAll 4 |> polRevert (fun _ => true)
      |> endStarted (fun c => c.accepted && isAccepted c && !isDone c)
      |> forAll ((List.range 18).filter (fun e => (engOf d e).running.isSome)) (fun e => engAbort e resRetry)
      |> onLc (fun l => { l with transition := none, enrol := none }) |> onCrd (fun c => { c with cer := none })
      |> onSvc (fun s => { s with actions := [] }) |> onTmp (fun t => { t with calCid := none })
      |> onBrl (fun b => { b with
          rollCid := none, roles := b.roles.map (fun p => (p.1, { p.2 with handover := p.2.handover.map (fun h => (h.1, 0)) })) })
      |> onVlt (fun v => { v with commit := none, pending := [], pendingReg := false })
      |> logEv 0x8101 0x84 cause blk 0

/-! ## Spine links (R357) -/

/-- A transfer that fails its third resend; three on one link within 1 s put the die in safe state. -/
def spineFailure (st : Nat) (tr : Traffic) (master : Byte) (d : Dev) : Dev :=
  let fs := (d.spn.failures.filter (fun f => f.1 != st || nowTb d - f.2 < ticksPerS)) ++ [(st, nowTb d)]
  d |> onSpn (fun x => { x with failures := fs })
    |> logEv 0x4030 0x83 st (qosRank (qosOf tr)) master.toNat
    |> doIf (decide (3 ≤ (fs.filter (fun f => f.1 == st)).length)) (dieSafe 2 0x83)

/-- A beat fails on a link: the transfer is sent again, or its master receives an error response (R357). What the master
makes of it comes with the access itself: a hinge DMA's descriptor, a host's read, a command's end (log entry 357). -/
def beatError (st : Nat) (tr : Traffic) (master : Byte) (resend : Nat) (d : Dev) : Dev :=
  if resend < 3 then onSpn (fun x => { x with linkRetries := x.linkRetries + 1 }) d
  else spineFailure st tr master d

def execSpineBeatError (st : Station) (tr : Traffic) (master : Byte) (resend : Nat) (s : State) : Ans :=
  nextD (beatError st tr master resend) s

/-! ## Reset and reinstatement (R468, R487) -/

def unitsOf (r : Nat) : List KwUnit := allUnits.filter (fun u => unitRegion u == some r)

/-- The test of a DRBG that its region's reset makes stands for one that was to run: its outcome (R214). -/
def katByReset (r : Nat) (failed : Bool) (d : Dev) : Dev :=
  let t := KatTarget.drbg (Fin.ofNat 4 r)
  if d.ent.kats.contains t then onEnt (fun e => { e with kats := e.kats.filter (· != t) }) d |> katCollect t failed else d

/-- The region reset: everything in the region is at its reset value, and only members out of service stay out. -/
def regionReset (r : Nat) (d : Dev) : Dev :=
  let x := regionOf d r
  d |> onRegion r (fun _ => {
        phase := .resetting, cause := x.cause, startTb := x.startTb, rehomed := x.rehomed
        bolt := polInstallOne d { out := x.bolt.out }
        dig := { lane0Out := x.dig.lane0Out, lane1Out := x.dig.lane1Out, stopping := true }
        drbg := { stopping := true }
        tmb := { standIn := x.tmb.standIn, stopping := true }
        cores := (List.range 7).foldl (fun t p => if (tget x.cores p {}).out then tput t p { out := true } else t) [] })
    |> kwReset (unitsOf r) |> onDma r (fun _ => {}) |> resettingDrop r
    |> onPg (fun p => { p with pages := p.pages.filter (fun q => !(isRegionPage q.1 && pageRegion q.1 == r)) })
    |> onEnt (fun e => { e with reseedQ := e.reseedQ.filter (fun q => q.val != r) }) |> polCheck

/-- A DRBG is seeded from two blocks of the reservoir; where it has not two, it waits for the next ones (R204, R207). -/
def drbgSeed (r : Nat) (d : Dev) : Dev :=
  match d.ent.reservoir with
  | a :: b :: rest => drbgInst r a b (onEnt (fun e => { e with reservoir := rest }) d)
  | l => onDrbg r (fun g => { g with seedHalf := l.flatten }) d
      |> onEnt (fun e => { e with reservoir := [], reseedQ := e.reseedQ.filter (fun q => q.val != r) ++ [Fin.ofNat 4 r] })

/-- DRBG test and instantiation, keyway rules, applets: the region is in service. The test has passed; one that fails
is stage 3 of the bring-up's report (`bringFail`). -/
def regionStart (r : Nat) (d : Dev) : Dev :=
  onRegion r (fun x => { x with
      dig := { x.dig with stopping := false }
      drbg := { x.drbg with stopping := false, katPassed := true }, tmb := { x.tmb with stopping := false } }) d
    |> katByReset r false |> drbgSeed r
    |> kwInstall (unitsOf r) |> onRegion r (fun x => { x with phase := .up }) |> placeRecorded r

/-- A region's bring-up fails at a stage of EV_7103 (R11, R528): it is left out. Stage 3 is the DRBG's test (R215), of
which the report names no stage of its own (log entry 214). -/
def bringFail (r cause stage : Nat) (d : Dev) : Dev :=
  onRegion r (fun x => { x with phase := .out }) d
    |> doIf (stage == 3) (fun d => onDrbg r (fun g => { g with stopped := true }) d
        |> logEv 0x4240 (0x74 + r) r (1 + Config.implValue 214 (80 + r) % 3) 0)
    |> katByReset r true |> logEv 0x7103 keeperSrc r cause stage

def log8102 (r action : Nat) : Dev → Dev := logEv 0x8102 0x84 r action 0

/-- A drained region whose power is removed (R464); a request that reversed it meanwhile ungates it again (R470). -/
def regionGated (r : Nat) (d : Dev) : Dev :=
  let d := onRegion r (fun x => { x with phase := .gated, cause := 4 }) d |> katByReset r true |> log8102 r 1
  if d.cpm.pwrReq.getLsbD r then d else onRegion r (fun x => { x with startTb := nowTb d }) d |> regionReset r

/-! ## Keeper image switch: the regions (R492) -/

def log7140 (reason old new : Nat) : Dev → Dev := logEv 0x7140 keeperSrc reason old new

def fwOf (d : Dev) (b : Bool) : Option ImageRec := if b then d.svc.fwB else d.svc.fwA
def fwVersion (d : Dev) (b : Bool) : Nat := ((fwOf d b).map (·.version.toNat)).getD 0

/-- The Keeper images in the package are recorded, one empty or not. -/
def fwErase (b : Bool) (d : Dev) : Dev :=
  onSvc (fun s => if b then { s with fwB := none } else { s with fwA := none }) d |> doIf (!keepOnly d) (recErase (fwRec (b2n b)))

/-- Record 0x31 names the new image and raises the minimum svn. -/
def fwCommit (toB : Bool) (d : Dev) : Dev :=
  let svn := ((fwOf d toB).map (·.svn)).getD 0
  onSvc (fun s => { s with fwSelB := toB, fwMinsv := if s.fwMinsv.toNat < svn.toNat then svn else s.fwMinsv }) d |> keepWrite 0x31

/-- The switch of the next region, or its end (R492 steps 3 and 4). -/
def fwNext (w : FwSwitch) (start : Nat) (d : Dev) : Dev :=
  match (List.range 4).find? (fun r => decide (start ≤ r) && regionUp d r) with
  | some r => onSvc (fun s => { s with fw := some { w with region := r } }) d |> regionDrain r 5
  | none =>
    let old := fwVersion d (!w.toB)
    onSvc (fun s => { s with fw := none }) d |> onCpm (fun c => { c with imageB := w.toB }) |> fwCommit w.toB
      |> finishRunning w.cid resOk |> log7140 2 old (fwVersion d w.toB)

/-- The regions already switched are cycled back, the last first; then the new record is erased. -/
def fwBack (w : FwSwitch) (d : Dev) : Dev :=
  match ((List.range w.region).filter (regionUp d)).getLast? with
  | some r => onSvc (fun s => { s with fw := some { w with region := r, reversing := true } }) d |> regionDrain r 5
  | none =>
    let ev := log7140 3 (fwVersion d (!w.toB)) (fwVersion d w.toB)
    onSvc (fun s => { s with fw := none }) d |> fwErase w.toB
      |> finishRunning w.cid (if w.retry then resRetry else resErr stFault 0x0C08) |> ev

def fwRegionEnd (r : Nat) (ok : Bool) (d : Dev) : Dev :=
  match d.svc.fw with
  | none => d
  | some w => if w.region != r then d else if w.reversing || !ok then fwBack w d else fwNext w (r + 1) d

/-- A tamper response ends the quorum of a switch that runs: it goes back, and FW_SELECT ends with ST_RETRY (R26). -/
def fwRetry : Dev → Dev := onSvc (fun s => { s with fw := s.fw.map (fun w => { w with reversing := true, retry := true }) })

/-- A response halts the region that a switch cycles: the switch goes back (DESIGN CHOICE, log entry 26). -/
def fwHalted (r : Nat) (d : Dev) : Dev := doIf ((regionOf d r).phase == .halted) (fwRegionEnd r false) d

/-! ## The end of a drain, and reinstatement -/

/-- PLL_RETUNE between reset and self-test (R487 step 6). -/
def pllRetune (r : Nat) (d : Dev) : Dev :=
  onPg (fun p => { p with pllRelocks := p.pllRelocks + 1 }) d |> logEv 0x7150 keeperSrc r (Config.implValue 497 r) 0

/-- REGION_DRAIN_END: the last started work has ended (R487 steps 4 to 6). -/
def drainEnd (r : Nat) (d : Dev) : Dev :=
  if (regionOf d r).phase != .draining || regionBusy d r then d
  else
    match regionAction d r with
    | some a =>
      if a.action = 2 then onRegion r (fun x => { x with phase := .held }) d |> svcEnd a resOk
      else regionReset r d |> doIf (a.action == 4) (pllRetune r)
    | none => if (regionOf d r).cause = 4 then regionGated r d else regionReset r d

/-- DRAIN_TIMEOUT: drain_ms has passed, and the tasks still running are cancelled (R487). -/
def drainTimeout (r : Nat) (d : Dev) : Dev :=
  match regionAction d r with
  | some a =>
    if (regionOf d r).phase == .draining && decide (a.drainMs ≠ 0) then
      forAll (tasksOf d r) (fun x => cancelTask r x.1 .cancel) d
    else d
  | none => d

/-- REGION_REINSTATE: the self-test and bring-up of a reset region pass, or fail at a stage (R11, R487 step 7). -/
def regionReinstate (r : Nat) (failed : Option Nat) (d : Dev) : Dev :=
  let x := regionOf d r
  if x.phase != .resetting then d
  else
    match failed with
    | none =>
      let d1 := regionStart r d |> logEv 0x7102 keeperSrc r x.cause (msSince d x.startTb) |> doIf (x.cause == 4) (log8102 r 2)
      let d2 := match regionAction d r with
        | some a => svcEnd a resOk d1
        | none => d1
      fwRegionEnd r true d2 |> doIf (d.cpm.pwrReq.getLsbD r) (regionDrain r 4)
    | some stage =>
      let d1 := bringFail r x.cause stage d
      let d2 := match regionAction d r with
        | some a => svcEnd a (resErr stFault 0x0C02) d1
        | none => d1
      fwRegionEnd r false d2

/-! ## Memory of the regions -/

/-- A region that has just been reset or has lost its power holds zeros (R474, R464). -/
def memRegions (old new : Dev) (m : List Host.Cell) : List Host.Cell :=
  (List.range 4).foldl (fun m r =>
    let p := (regionOf new r).phase
    if (p == .resetting || p == .gated) && (regionOf old r).phase != p then memZero m (regionBase r) 0xC0000000 else m) m

/-- A device function that may also reset regions. -/
def withRegions (f : Dev → Dev) (s : State) : State :=
  let d := f s.toDev
  { s with toDev := d, mem := memRegions s.toDev d (syncMem s.toDev d s.mem) }

def nextR (f : Dev → Dev) (s : State) : Ans := .next (withRegions f s)

def execRegionDrainEnd (r : Region) (s : State) : Ans := nextR (drainEnd r) s
def execDrainTimeout (r : Region) (s : State) : Ans := nextR (drainTimeout r) s
def execRegionReinstate (r : Region) (failed : Option Nat) (s : State) : Ans := nextR (regionReinstate r failed) s

/-! ## CPM_PWR_REQ (R464, R481) -/

def cpmPage : Nat := 186

/-- World K, or world D through the management SPI. -/
def pwrWriter (acc : Access) : Bool := acc.world == .K || (acc.world == .D && acc.master == 0x5D)

def setPwrReq (r : Nat) (on : Bool) : Dev → Dev :=
  onCpm (fun c => { c with pwrReq := if on then c.pwrReq ||| BitVec.ofNat 4 (2 ^ r) else c.pwrReq &&& ~~~ BitVec.ofNat 4 (2 ^ r) })

/-- A request to gate a region: at once where nothing runs there, after a drain where it is in service; held while the
region is still in transition (R470). -/
def regionGate (r : Nat) (d : Dev) : Dev :=
  let p := (regionOf d r).phase
  let d1 := setPwrReq r true d
  if d.die.safe then d1
  else if p == .up then regionDrain r 4 d1
  else if p == .held || p == .out then regionGated r d1
  else d1

/-- A request to ungate; in die safe state it waits for the warm reset that alone ends that state (R13). -/
def regionUngate (r : Nat) (d : Dev) : Dev :=
  let d1 := setPwrReq r false d
  if (regionOf d r).phase == .gated && !d.die.safe then onRegion r (fun x => { x with cause := 4, startTb := nowTb d }) d1 |> regionReset r
  else d1

/-- A write of CPM_PWR_REQ: one that would gate all four regions is refused. -/
def pwrReqWrite (acc : Access) (v : BitVec 4) (d : Dev) : Dev :=
  if !pwrWriter acc then logRefused acc cpmPage (pageBase cpmPage + 0x40) 3 d
  else if v == 15 then logRefused acc cpmPage (pageBase cpmPage + 0x40) 5 d
  else forAll (List.range 4) (fun r d =>
    if v.getLsbD r == d.cpm.pwrReq.getLsbD r then d
    else if v.getLsbD r then regionGate r d else regionUngate r d) d

def execRegionGate (acc : Access) (r : Region) (s : State) : Ans :=
  nextR (pagePass acc cpmPage 0x40 .write (fun d => pwrReqWrite acc (d.cpm.pwrReq ||| BitVec.ofNat 4 (2 ^ r.val)) d)) s
def execRegionUngate (acc : Access) (r : Region) (s : State) : Ans :=
  nextR (pagePass acc cpmPage 0x40 .write (fun d => pwrReqWrite acc (d.cpm.pwrReq &&& ~~~ BitVec.ofNat 4 (2 ^ r.val)) d)) s

/-! ## Blocks (R10, R11, R129, R194) -/

/-- EV_4120. DESIGN CHOICE (log entry 10): the quiesce of a cluster changes nothing else; the manual says of it only
that it is the cluster's containment action. -/
def log4120 (b : Blk) : Dev → Dev :=
  let r := (blkRegion b).getD 0
  logEv 0x4120 (blkSource b) (r * 256 + blkCluster b) (blkParam b) 0

/-- A block with neither spare nor substitute fails its region (R11). -/
def escalateRegion (b : Blk) (d : Dev) : Dev :=
  match blkRegion b with
  | some r => log4120 b d |> regionDrain r 2
  | none => dieSafe 1 (blkParam b) d

/-- A core leaves service; where the region has none left the fault passes on (R11), and what a draining region still
runs ends. -/
def coreFail (c : CoreId) (d : Dev) : Dev :=
  let d1 := coreLeave c d
  if (slotsUp d1 c.region).isEmpty then
    escalateRegion (.core c) d1 |> (fun d => doIf ((regionOf d c.region).phase == .draining) (haltTasks c.region (fun _ => resRetry)) d)
  else d1

def laneIs (r : Region) (l : Lane) (c : Cmd) : Bool := match c.loc with | .digCtx r' l' _ _ => r' == r && l' == l | _ => false

/-- Waiting commands of a lane pass to the other lane. With both lanes out a host command goes to another engine (R192); a
task's command, which no other engine may take (R193), waits while a lane may yet return and else ends with ST_RETRY
(DESIGN CHOICE, log entry 194). -/
def moveLane (r : Region) (l : Lane) (d : Dev) : Dev :=
  forAll (d.hif.cmds.filter (fun c => isWaiting c && (match c.loc with | .digQ r' l' _ => r' == r && l' == l | _ => false)))
    (fun c d =>
      let lvl := match c.loc with | .digQ _ _ v => v | _ => c.prio
      if laneUp d r (1 - l) || blkResetting d (.digestLane r (1 - l)) && !isHost c then
        onCmd c.cid (fun c => { c with loc := .digQ r (1 - l) lvl }) d
      else if isHost c then moveCmd c d
      else if blkResetting d (.digestLane r l) then d
      else finish c.cid resRetry d) d

def boltWaits (r : Region) (c : Cmd) : Bool := isWaiting c && (match c.loc with | .boltQ r' _ => r' == r | _ => false)

/-- What a block reset ends at once. DESIGN CHOICE (log entry 129): the core commands that wait at a bolt pipeline, which no other
pipeline may take, wait through its reset and end with ST_RETRY where its self-test fails. -/
def blockStop (b : Blk) (d : Dev) : Dev :=
  match b with
  | .core c => onCore c (fun x => { x with stopping := true }) d
  | .bolt r =>
    endStarted (fun c => match c.loc with | .boltCtx r' _ _ => r' == r | _ => false) d
      |> forAll (d.hif.cmds.filter (fun c => isHost c && boltWaits r c)) moveFewest
      |> onBolt r (fun x => { polInstallOne d x with dk := [], dkPend := [], dkFlush := false }) |> polCheck
  | .digestLane r l =>
    endStarted (laneIs r l) d |> onDig r (fun g => { setStep l none g with stopping := true }) |> moveLane r l
  | .dma i => dmaHaltAll i d
  | .barrel e => engAbort e resRetry d
  | .vault => vaultReset d
  | .conditioner => onEnt (fun e => { e with reservoir := [] }) d
  | _ => d

/-- The counts of a block's page are at their reset value, zero, after a block reset (R468, R501); the page of a digest
engine serves both its lanes and keeps them (DESIGN CHOICE, log entry 509). -/
def countsZero (b : Blk) : Dev → Dev :=
  match b with
  | .core c => onCore c (fun x => { x with insns := 0, cycles := 0, traps := 0, spills := 0, waits := 0 })
  | .bolt r => onBolt r (fun x => { x with cmds := 0, hits := 0, misses := 0, verifyFails := 0, policyDenies := 0 })
  | .dma i => onDma i (fun x => { x with bytes := 0, descs := 0, retries := 0 })
  | .barrel e => onEng e (fun x => { x with jobs := 0, busy := 0, mismatches := 0 })
  | .vault => onVlt (fun v => { v with
      reads := 0, writes := 0, rekeys := 0, nodeFetches := 0, nodeStores := 0, integrity := 0, commits := 0
      hits := 0, misses := 0, evictions := 0 })
  | .conditioner => onEnt (fun e => { e with blocks := 0 })
  | _ => id

/-- A block that has a reset and self-test of its own (R529); an NVM bank is tested alone. -/
def selfTests : Blk → Bool
  | .core _ | .bolt _ | .digestLane _ _ | .dma _ | .barrel _ | .conditioner | .vault | .nvmBank _ => true
  | .drbg _ | .tumbler _ | .keyStore | .nvm | .hostInterface | .spine | .alwaysOn => false

/-- A block is in service. -/
def blkServes (d : Dev) (b : Blk) : Bool :=
  !d.die.out.contains b && (match b with
    | .core c => regionRuns d c.region && coreUp d c.region c.pos
    | .bolt r => boltUp d r
    | .digestLane r l => laneUp d r l
    | .barrel e => engInService d e
    | .nvmBank n => !(bankOf d n).out
    | .dma i => decide (4 ≤ i.val) || regionRuns d i.val
    | .drbg r => regionRuns d r
    | .tumbler r => regionRuns d r
    | _ => true)

/-- The register pages that a block's reset covers (R468, R511). -/
def blkPages : Blk → List Nat
  | .core c => [corePage c]
  | .bolt r => [1 + 17 * r.val]
  | .dma i => [if i.val = 4 then 189 else 5 + 17 * i.val]
  | .barrel e => [70 + e.val]
  | .vault => [89, 90]
  | .conditioner => [180]
  | .nvmBank n => [96 + n.val]
  | _ => []

/-- A block reset begins: reason 1 uncorrectable data, 2 a fault, 3 a self-test ordered (R528). The common part of its pages
goes to its reset values, LOCK with it (R501, R503). -/
def blockReset (b : Blk) (reason : Nat) (d : Dev) : Dev :=
  onDie (fun x => { x with resetting := x.resetting ++ [(b, reason)] }) d |> blockStop b |> countsZero b
    |> onPg (fun p => { p with pages := p.pages.filter (fun q => !(blkPages b).contains q.1) })

/-- A fault that the block level detects or is passed (R10, R11). In a draining region the drain supersedes a block
reset, and only a core is still replaced (R12, R489). -/
def blockFault (b : Blk) (reason : Nat) (d : Dev) : Dev :=
  if d.die.safe || d.tmp.hold || blkResetting d b || !blkServes d b then d
  else if !selfTests b then escalateRegion b d
  else if ((blkRegion b).map (fun r => (regionOf d r).phase == .draining)).getD false then
    (match b with
     | .core c => coreFail c d
     | _ => blockStop b d)
  else blockReset b reason d

def execBlockFault (b : Blk) (reason : Nat) (s : State) : Ans := nextR (blockFault b reason) s

/-- Rows of a tile replaced already. -/
def rowsUsed (d : Dev) (b : Blk) (tile : Nat) : Nat :=
  ((d.die.spareRows.find? (fun x => x.1 == b && x.2.1 == tile)).map (·.2.2)).getD 0

/-- The task whose memory a core's tile holds: the one that it runs (R293 cause 8). DEDUCED (log entry 293). -/
def memoryOf (d : Dev) (b : Blk) : Option (CoreId × Nat) :=
  match b with
  | .core c => if blkServes d b then (coreOf d c).task.map (fun t => (c, t)) else none
  | _ => none

/-- UNCORRECTABLE_ERROR: re-read once; then the line goes to a spare row. With none left, the task whose memory it is traps with
cause 8, reported at tile level too (R293, R294), and elsewhere the block is told (R10). -/
def uncorrectable (b : Blk) (tile row : Nat) (rereadOk : Bool) (d : Dev) : Dev :=
  if rereadOk then d
  else
    match b with
    | .nvmBank n => if (bankOf d n).out then d else nvmRelocate n row d
    | _ =>
      let n := rowsUsed d b tile
      if n < 32 then
        onDie (fun x => { x with
          spareRows := x.spareRows.filter (fun y => !(y.1 == b && y.2.1 == tile)) ++ [(b, tile, n + 1)] }) d
          |> logEv 0x4020 (blkSource b) (blkSource b + 256 * tile) row 0
      else
        match memoryOf d b with
        | some (c, t) => logEv 0x4020 (blkSource b) (blkSource b + 256 * tile) row 0 d |> trapTask c t 8 0 0 0
        | none => blockFault b 1 d

def execUncorrectableError (b : Blk) (tile row : Nat) (rereadOk : Bool) (s : State) : Ans :=
  nextR (uncorrectable b tile row rereadOk) s

/-! ## Self-tests (R11, R529) -/

/-- CORE_RELEASE: the core of the position that the spare holds is under test. -/
def releaseOf (d : Dev) (c : CoreId) : Option SvcAction :=
  d.svc.actions.find? (fun a => a.action == 6 && a.region == c.region.val && (regionOf d c.region).tmb.standIn == some c.pos.val)

/-- The position's own core takes its tasks back (R486, EV_7111); one whose instruction is in progress follows (`takeOver`). -/
def coreBack (c : CoreId) (a : SvcAction) (d : Dev) : Dev :=
  let r := c.region.val
  let t := ((tget (regionOf d r).cores 6 {}).task).filter (fun t => !taskHeld d r t)
  d |> onCore c (fun x => { x with out := false, stopping := false, task := t })
    |> doIf t.isSome (onCoreP r 6 (fun x => { x with task := none }))
    |> onTmb r (fun x => { x with standIn := none, migrations := x.migrations + (if t.isSome then 1 else 0) })
    |> logEv 0x7111 (0x70 + r) r c.pos.val (homedAt d r c.pos.val).length |> svcEnd a resOk

/-- A block whose self-test has passed serves again from full initialisation. -/
def blockPass (b : Blk) (d : Dev) : Dev :=
  match b with
  | .core c =>
    match releaseOf d c with
    | some a => coreBack c a d
    | none => onCore c (fun x => { x with stopping := false }) d
  | .barrel e => engAbortDone e d
  | .bolt _ => d
  | .digestLane r l => onDig r (fun g => { g with stopping := blkResetting d (.digestLane r (1 - l)) }) d
  | .conditioner => onEnt (fun e => { e with katFailed := false }) d |> supplyResume
  | .vault => vaultStart d |> p63Create
  | _ => d

/-- A block whose self-test has failed leaves service: its spare takes over, or the fault goes to its cluster (R11). -/
def blockFail (b : Blk) (d : Dev) : Dev :=
  match b with
  | .core c =>
    match releaseOf d c with
    | some a => onCore c (fun x => { x with stopping := false, out := true }) d |> svcEnd a (resErr stFault 0x0C02)
    | none => coreFail c d
  | .bolt r => onBolt r (fun x => { x with out := true }) d |> endStarted (boltWaits r) |> log4120 b
  | .digestLane r l =>
    let other := blkResetting d (.digestLane r (1 - l))
    onDig r (fun x => if l = 0 then { x with lane0Out := true, stopping := other } else { x with lane1Out := true, stopping := other }) d
      |> moveLane r l |> logEv 0x4220 (0x2C + r) r l 1 |> log4120 b
  | .dma _ => onDie (fun x => { x with out := x.out ++ [b] }) d |> escalateRegion b
  | .barrel e => engRemove e 3 resRetry d
  | .conditioner => onDie (fun x => { x with out := x.out ++ [b] }) d
      |> onEnt (fun e => { e with katFailed := true, katFailedTwice := true }) |> supplyStop 2
  | .nvmBank n => bankLeave n 4 d
  | _ => dieSafe 1 (blkParam b) d

/-- BLOCK_SELF_TEST_END: EV_4110 with the reason and the result. -/
def selfTestEnd (b : Blk) (pass : Bool) (d : Dev) : Dev :=
  match d.die.resetting.find? (fun x => x.1 == b) with
  | none => d
  | some (_, reason) =>
    onDie (fun x => { x with resetting := x.resetting.filter (fun y => y.1 != b) }) d
      |> logEv 0x4110 (blkSource b) (blkParam b) reason (b2n (!pass))
      |> (if pass then blockPass b else blockFail b)

def execBlockSelfTestEnd (b : Blk) (pass : Bool) (s : State) : Ans := nextR (selfTestEnd b pass) s

/-! ## Known-answer tests of the entropy functions (R214, R215) -/

/-- A failed DRBG test: the region's random functions stop at once, and the region drains. -/
def drbgKatFail (r : Region) (stage : Nat) (d : Dev) : Dev :=
  d |> onDrbg r (fun g => { g with stopped := true }) |> endReads r (resErr stEntropy 0)
    |> logEv 0x4240 (0x74 + r) r stage 0 |> regionDrain r 3

/-- A failed conditioner test: the seed supply stops, and the conditioner takes a block reset and is retested. -/
def condKatFail (stage : Nat) (d : Dev) : Dev :=
  d |> onEnt (fun e => { e with katFailed := true }) |> logEv 0x4240 0x82 0xFF stage 0 |> supplyStop 2
    |> doIf (!blkResetting d .conditioner && !d.ent.katFailedTwice) (blockReset .conditioner 2)

/-- A DRBG's test runs while its region works and no read of a higher level waits (R209). -/
def katCanEnd (d : Dev) (t : KatTarget) : Bool :=
  match t with
  | .conditioner => true
  | .drbg r => regionRuns d r && !d.hif.cmds.any (isRead r true)

/-- What start-up could not draw is drawn as soon as a DRBG serves: the volatile handle key, and what P63 needs (R79, R96,
R208). -/
def dueDraws (d : Dev) : Dev :=
  if d.ks.keyDue then
    match ksDraw 32 d with
    | (some k, d1) => onKs (fun s => { s with volKey := k, keyDue := false }) d1 |> doIf d.vlt.ready p63Create
    | (none, _) => d
  else d

def execConditionerBlock (s : State) : Ans := nextR (fun d => dueDraws (conditionerBlock d)) s

/-- KAT_END: a shadow test ends, with stage 0 for a pass. -/
def katEnd (t : KatTarget) (stage : Nat) (d : Dev) : Dev :=
  if !d.ent.kats.contains t || !katCanEnd d t then d
  else
    let d1 := onEnt (fun e => { e with kats := e.kats.filter (· != t) }) d
    let d2 := match t with
      | .conditioner => onEnt (fun e => { e with katRunning := false, katByCtrl := false }) d1
      | .drbg r => onDrbg r (fun g => { g with katRunning := false, katByCtrl := false, katPassed := g.katPassed || stage == 0 }) d1
    let d3 := if stage = 0 then d2 else (match t with
      | .conditioner => condKatFail stage d2
      | .drbg r => drbgKatFail r stage d2)
    katCollect t (stage != 0) d3 |> dueDraws

def execKatEnd (t : KatTarget) (stage : Nat) (s : State) : Ans := nextR (katEnd t stage) s

/-- A write of 1 to ENT_CTRL.kat_run or RNG_CTRL.kat_run (R221, R223). -/
def entKatWrite (d : Dev) : Dev := onEnt (fun e => { e with katByCtrl := true }) d |> katStart .conditioner
def rngKatWrite (r : Region) (d : Dev) : Dev :=
  if regionRuns d r then onDrbg r (fun g => { g with katByCtrl := true }) d |> katStart (.drbg r) else d

def execEntKatRun (acc : Access) (s : State) : Ans := nextD (regAction acc 180 8 [.K, .C] entKatWrite) s

def execRngKatRun (acc : Access) (r : Region) (s : State) : Ans :=
  nextD (regAction acc (3 + 17 * r.val) 8 [.K, .C] (rngKatWrite r)) s

/-- DK_FLUSH: every entry at the next step boundary, at once where no step is in progress (R119, R135). -/
def dkFlush (r : Region) (d : Dev) : Dev :=
  if (List.range 4).any (fun l => (boltContext d r l).isSome) then onBolt r (fun b => { b with dkFlush := true }) d
  else onBolt r (fun b => { b with dk := [] }) d

def execDkFlush (acc : Access) (r : Region) (s : State) : Ans :=
  nextD (regAction acc (1 + 17 * r.val) 8 [.K, .C] (dkFlush r)) s

end Sys2Proof.Machine
end

