-- ==== Sys2Proof/Machine/Events.lean ====
section
/-! DEFINITION. The event recorder's rows (R446 to R455): closing and flushing, verification of the chains, reading,
the catalogue and clearing. -/

namespace Sys2Proof.Machine

def evrPage : Nat := 179

/-! ## Closing and flushing (R447 to R449) -/

/-- COALESCE_CLOSE: the open record with this number has been open for 1 s. -/
def coalesceClose (seq : Nat) : Dev → Dev :=
  onEvr (fun e => { e with buf := lmod e.buf (fun r => r.seq == seq) evClose })

def execCoalesceClose (seq : BitVec 40) (s : State) : Ans := nextD (coalesceClose seq.toNat) s

/-- A trigger of R449 while the recorder runs and holds something to report. -/
def eventFlush (d : Dev) : Dev :=
  if d.evr.ready && (!d.evr.buf.isEmpty || d.evr.flushDue || decide (0 < d.evr.supNon + d.evr.supRet)) then evrFlush d else d

def execEventFlush (s : State) : Ans := nextD eventFlush s

/-- A write of 1 to EVR_CTRL.flush; the bit reads 1 until the flush is done. -/
def evrFlushWrite (d : Dev) : Dev := onEvr (fun e => { e with flushCtl := true }) d |> evrFlush

def execEvrFlush (acc : Access) (s : State) : Ans := nextD (regAction acc evrPage 8 [.K, .C] evrFlushWrite) s

/-! ## Verification (R452) -/

/-- A verification begins, unless one runs. -/
def verifyStart (byCtrl : Bool) (d : Dev) : Dev :=
  if d.evr.verifying then d else onEvr (fun e => { e with verifying := true, verifyCtl := byCtrl, verifyNew := false }) d

def execEvrVerify (acc : Access) (s : State) : Ans := nextD (regAction acc evrPage 8 [.K, .C] (verifyStart true)) s
def execLogVerifyDaily (s : State) : Ans := nextD (fun d => doIf d.evr.ready (verifyStart false) d) s

/-- What is wrong with a record after its predecessor in an area: 1 gap, 2 chain, 3 order. -/
def verifyPair (key : Bytes) (area : Nat) (a b : EvRec) : Option Nat :=
  if area = 0 && b.seq != (a.seq + 1) % seqMod then some 1
  else if area = 1 && !evSeqBelow a.seq b.seq then some 3
  else if b.chain != evChain key b a.chain then some 2
  else none

/-- The first failure of an area: the number affected and the kind. -/
def verifyArea (key : Bytes) (area : Nat) (l : List EvRec) : Option (Nat × Nat) :=
  (l.zip (l.drop 1)).findSome? (fun p => (verifyPair key area p.1 p.2).map (fun k => (p.2.seq, k)))

def logChain (area : Nat) (f : Option (Nat × Nat)) (d : Dev) : Dev :=
  match f with
  | some (n, k) => onEvr (fun e => { e with chainBroken := true }) d |> logEv 0x1F01 0x87 area (n % 2 ^ 32) k
  | none => d

/-- LOG_VERIFY_END: both areas have been checked; at start-up the newest 65,536 records of the general ring (R452). -/
def verifyEnd (d : Dev) : Dev :=
  if !d.evr.verifying then d
  else
    let key := logKey d
    let gen := if d.evr.verifyNew then d.evr.gen.drop (d.evr.gen.length - 65536) else d.evr.gen
    d |> logChain 0 (verifyArea key 0 gen) |> logChain 1 (verifyArea key 1 d.evr.ret)
      |> onEvr (fun e => { e with verifying := false, verifyCtl := false })

def execLogVerifyEnd (s : State) : Ans := nextD verifyEnd s

/-- OP_TIME_SAVE: every 60 s the operating seconds are committed (R446). -/
def execOpTimeSave (s : State) : Ans := nextD (fun d => doIf d.evr.ready (rwpWrite rwpOpTime d.evr.opTime) d) s

/-! ## Reading (R453) -/

def areaOf (d : Dev) (area : Nat) : List EvRec :=
  if area = 0 then readable d.evr.clearGen d.evr.gen else readable d.evr.clearRet d.evr.ret

/-- The records of an area with numbers at or above `start`, 0 for the oldest held. -/
def recordsFrom (d : Dev) (area start : Nat) : List EvRec :=
  (areaOf d area).filter (fun r => start == 0 || !evSeqBelow r.seq start)

/-- Records at or above `start` have been overwritten or cleared. -/
def startLost (d : Dev) (area start : Nat) : Bool :=
  let gone := fun (l : List EvRec) (cap : Nat) (clear : Option Nat) =>
    (clear.map (evSeqBelow start)).getD false
      || (decide (cap ≤ l.length) && (l.head?.map (fun r => evSeqBelow start r.seq)).getD false)
  start != 0 && (if area = 0 then gone d.evr.gen genCap d.evr.clearGen else gone d.evr.ret retCap d.evr.clearRet)

/-- The records that a function reads: the PF all, a VF those of its own number. -/
def recVisible (fn : Nat) (r : EvRec) : Bool := fn == 0 || evFunction r == some fn

def bodyLogRead (c : Cmd) (_ : HostRead) : Run Res := do
  let area := par c 64 1
  let start := par c 72 8
  need (area ≤ 1) stParam 0x0A01
  need (32 ≤ c.outCap && c.outCap % 32 == 0) stParam 0x0A02
  need (start < 2 ^ 40) stParam 0x0A03
  need (par c 65 1 < 2 && zeroPar c 66 72 && zeroPar c 80 128) stParam 0
  eff (doIf (par c 65 1 == 1) evrFlush)
  let d ← get
  let l := ((recordsFrom d area start).filter (recVisible c.fn)).take (min (c.outCap / 32) 8192)
  pure { resOut (l.flatMap evBytes) with
         detail := BitVec.ofNat 16 (b2n (startLost d area start)), result := BitVec.ofNat 32 l.length }

def execLogRead (cid : Nat) (hr : HostRead) (s : State) : Ans := hasp 0x0A01 cid hr bodyLogRead s

def bodyLogCatalog (c : Cmd) (_ : HostRead) : Run Res := do
  need (zeroPar c 64 128 && c.inPtr == 0 && c.inLen == 0) stParam 0
  let n := BitVec.ofNat 32 evCodes.length
  if c.outCap < catalogBytes.length then throw (.res { resErr stParam 0x0A02 with result := n })
  pure { resOut catalogBytes with result := n }

def execLogCatalog (cid : Nat) (hr : HostRead) (s : State) : Ans := hasp 0x0A02 cid hr bodyLogCatalog s

/-! ## LOG_CLEAR (R454) -/

def logClear (scope : Nat) (mask : BitVec 16) (d : Dev) : Dev :=
  let d := evrFlush d
  let n := d.evr.nextSeq % seqMod
  let ret := if scope = 1 then (areaOf d 1).length + 2 ^ 31 else 0
  logEv 0x0F01 0x87 mask.toNat (areaOf d 0).length ret d |> evrFlush
    |> onEvr (fun e => { e with clearGen := some n, clearRet := if scope = 1 then some n else e.clearRet })

def bodyLogClear (c : Cmd) (_ : HostRead) : Run Res := do
  let scope := par c 64 1
  need (scope ≤ 1) stParam 0x0A01
  need (zeroPar c 65 128) stParam 0
  need (!keepOnly (← get)) stDegraded 0
  eff (logClear scope c.qmask)
  pure resOk

def execLogClear (cid : Nat) (hr : HostRead) (s : State) : Ans := hasp 0x01A0 cid hr bodyLogClear s

/-! ## Resumption at start-up (R446, R450) -/

/-- The number resumes above what NVM holds and what record 0x00 keeps. -/
def evrResume (d : Dev) : Dev :=
  let next := fun (l : List EvRec) => (l.getLast?.map (fun r => (r.seq + 1) % seqMod)).getD 0
  let above := if evSeqBelow (next d.evr.gen) (next d.evr.ret) then next d.evr.ret else next d.evr.gen
  onEvr (fun e => { e with nextSeq := if evSeqBelow above d.lc.keptSeq then d.lc.keptSeq else above }) d

/-- The recorder runs (R472 step 7): EV_0F03 with the last number found, and the verification that follows it. -/
def evrStart (d : Dev) : Dev :=
  let last := (d.evr.gen.getLast?.map (·.seq)).getD (Config.implValue 456 0)
  onEvr (fun e => { e with verifying := true, verifyNew := true, ready := true }) d
    |> logEv 0x0F03 0x87 (rwpVal d rwpPowerCycles).toNat (last % 2 ^ 32) 0

/-- The log is erased: both areas are empty, and the chains start from the value 0 (R31, R451). -/
def logErase : Dev → Dev := onEvr (fun e => { e with
  gen := [], ret := [], retCount := 0, clearGen := none, clearRet := none, lastChain := 0, lastRetChain := 0 })

end Sys2Proof.Machine
end

