-- ==== Sys2Proof/Machine/Service.lean ====
section
/-! DEFINITION. Service actions (R486), the selection of a Keeper image (R490 to R492), and the request of a warm
reset (R469). -/

namespace Sys2Proof.Machine

/-! ## The request of a warm reset (R469) -/

/-- The master that requests a reset where no register write names one. -/
def resetMaster (cause : Nat) : Nat := Config.implValue 480 cause

/-- Step 1 of R469: every port stops accepting, and commands not completed get no completion. A response of grade G2 or
G3 gives its cause to a reset requested before it (R12). -/
def warmRequest (cause master : Nat) (d : Dev) : Dev :=
  if (d.cpm.power == .ready || d.cpm.power == .noImage || d.cpm.power == .booting) && d.cpm.warmPending.isNone then
    let done := (d.hif.cmds.filter (fun c => isHost c && isDone c && !c.silent)).map (·.cid)
    cerInterrupt d |> onCpm (fun c => { c with warmPending := some (cause, master), power := .closing })
      |> onHif (fun h => { h with cmds := h.cmds.filter (fun c => done.contains c.cid) })
      |> onLc (fun l => { l with enrol := none })
  else if d.cpm.power == .closing && (cause == 3 || cause == 4) then
    onCpm (fun c => { c with warmPending := some (cause, master) }) d
  else d

/-- CPM_WARM (R482): the exit from die safe state has a cause of its own (R13, R484). -/
def cpmWarm (acc : Access) (d : Dev) : Dev := warmRequest (if d.die.safe then 5 else 1) acc.master.toNat d

def execCpmWarm (acc : Access) (s : State) : Ans := nextD (regAction acc cpmPage 8 [.K] (cpmWarm acc)) s

/-! ## Service actions (R486) -/

def svcAct (c : Cmd) : Nat := par c 64 1
def svcOperand (c : Cmd) : Nat := par c 65 1

/-- Action and operands in range, and the reserved bytes zero. -/
def svcInRange (c : Cmd) : Bool :=
  let o := svcOperand c
  let v := par c 66 2
  zeroPar c 68 128 && (match svcAct c with
    | 1 | 2 | 4 => decide (o ≤ 3) && decide (v ≤ 60000)
    | 3 | 6 => decide (o ≤ 3) && v == 0
    | 5 => decide (o ≤ 3) && decide (par c 66 1 ≤ 5) && par c 67 1 == 0
    | 7 => decide (o ≤ 15) && v == 0
    | 8 => o == 0 && v == 0
    | _ => false)

/-- Another action works in the region. -/
def svcBusy (d : Dev) (r : Nat) : Bool := d.svc.actions.any (fun a => a.region == r && decide (a.action ≤ 6))

/-- A REGION_HOLD drains the region: a REGION_RESTORE is held until it has shut down (R489). -/
def svcHolding (d : Dev) (r : Nat) : Bool := d.svc.actions.any (fun a => a.region == r && a.action == 2)

/-- The refusals of R486 in the present state. -/
def svcRefused (d : Dev) (c : Cmd) : Bool :=
  let o := svcOperand c
  let up := regionUp d o && !svcBusy d o
  let rolling := d.svc.fw.isSome || decide (d.brl.rollPhase ≠ 0)
  match svcAct c with
  | 1 | 2 | 4 => rolling || !up || regionsUp d == [o]
  | 3 => rolling || !(svcHolding d o || ((regionOf d o).phase == .held && !svcBusy d o))
  | 5 => !up || (regionOf d o).tmb.standIn.isSome || !coreUp d o 6
  | 6 => !up || (regionOf d o).tmb.standIn.isNone
  | 7 => rolling || (sparesFree d).isEmpty || (roleOf d o).engine.isNone || (roleOf d o).handover.isSome
  | _ => false

/-- The limits on actions that run at a time: a second one waits. -/
def svcWaits (d : Dev) (c : Cmd) : Bool :=
  if svcAct c ≤ 4 then d.svc.actions.any (fun a => decide (a.action ≤ 4))
  else svcAct c == 8 && d.tmp.calCid.isSome

def svcNew (c : Cmd) : SvcAction := {
  action := svcAct c, region := svcOperand c, operand := svcOperand c, cid := c.cid
  drainMs := if [1, 2, 4].contains (svcAct c) then par c 66 2 else 0 }

def svcLog (c : Cmd) : Dev → Dev := logEv 0x7104 keeperSrc (svcAct c) (svcOperand c) c.fn

/-- The checks that every action shares; `body` is the action accepted. -/
def bodySvc (body : Cmd → Run Res) (c : Cmd) (_ : HostRead) : Run Res := do
  need (svcInRange c) stParam 0x0C01
  if svcRefused (← get) c then wrongState c 4
  if svcWaits (← get) c then throw (.wait [])
  eff (svcLog c)
  body c

/-- An action that ends later. -/
def svcRuns (act : SvcAction → Dev → Dev) (c : Cmd) : Run Res := do
  eff (onSvc (fun s => { s with actions := s.actions ++ [svcNew c] }))
  eff (act (svcNew c))
  throw .running

/-- The row of one action runs a command that names it; a command whose action is out of range is refused by any. -/
def svcRow (act cid : Nat) (hr : HostRead) (body : Cmd → Run Res) (d : Dev) : Dev :=
  match cmdOf? d cid with
  | some c => if svcAct c = act ∨ svcInRange c = false then runCmd 0x01B0 cid hr false (bodySvc body) d else d
  | none => d

def execRegionCycle (cid : Nat) (hr : HostRead) (s : State) : Ans :=
  nextR (svcRow 1 cid hr (svcRuns (fun a => regionDrain a.region 1))) s
def execRegionHold (cid : Nat) (hr : HostRead) (s : State) : Ans :=
  nextR (svcRow 2 cid hr (svcRuns (fun a => regionDrain a.region 1))) s
def execRegionRestore (cid : Nat) (hr : HostRead) (s : State) : Ans :=
  nextR (svcRow 3 cid hr (svcRuns (fun a d =>
    onRegion a.region (fun x => { x with cause := 1, startTb := nowTb d }) d |> regionReset a.region))) s
def execPllRetune (cid : Nat) (hr : HostRead) (s : State) : Ans :=
  nextR (svcRow 4 cid hr (svcRuns (fun a => regionDrain a.region 1))) s

/-- An action complete at its acceptance. -/
def svcAtOnce (act : Dev → Dev) (_ : Cmd) : Run Res := do
  eff act
  eff (onSvc (fun s => { s with count := s.count + 1 }))
  pure resOk

def execCoreSubst (cid : Nat) (hr : HostRead) (s : State) : Ans :=
  nextR (svcRow 5 cid hr (fun c => svcAtOnce (standIn (svcOperand c) (par c 66 1)) c)) s

/-- The stood-in core is tested; the spare keeps standing in until it passes. -/
def coreRelease (a : SvcAction) (d : Dev) : Dev :=
  match (regionOf d a.region).tmb.standIn with
  | some p => if h : p < 7 then blockReset (.core ⟨Fin.ofNat 4 a.region, ⟨p, h⟩⟩) 3 d else d
  | none => d

def execCoreRelease (cid : Nat) (hr : HostRead) (s : State) : Ans := nextR (svcRow 6 cid hr (svcRuns coreRelease)) s

def execEngineHandover (cid : Nat) (hr : HostRead) (s : State) : Ans :=
  nextD (svcRow 7 cid hr (svcRuns (fun a d => handoverStart a.operand a.cid d |> dispatch))) s

/-- Sixteen calibrations in index order, those held out apart (R417). -/
def sensorCal (cid : Nat) (d : Dev) : Dev :=
  onTmp (fun t => { t with calCid := some cid, calPending := (List.range 16).filter (fun k => !t.heldOut.contains k) }) d

def execSensorCal (cid : Nat) (hr : HostRead) (s : State) : Ans :=
  nextD (svcRow 8 cid hr (fun c => do
    let held := (← get).tmp.heldOut
    if (List.range 16).all held.contains then svcAtOnce id c else svcRuns (fun a => sensorCal a.cid) c)) s

/-! ## Keeper images (R490 to R492) -/

def fwBody (b : Bytes) : Nat := fieldLE b 12 4

/-- The header of an image of the right length, magic and reserved fields. -/
def fwParse (b : Bytes) : Option ImageRec :=
  if b.length = 64 + fwBody b + 4736 ∧ b.length ≤ 8388608 ∧ b.take 4 = ascii "ZKFW" ∧ fieldLE b 16 1 < 2
      ∧ (slice b 17 47).all (· = 0) ∧ (b.drop (b.length - 13)).all (· = 0) ∧ 1 ≤ fieldLE b 8 4 then
    some ⟨BitVec.ofNat 32 (fieldLE b 4 4), BitVec.ofNat 32 (fieldLE b 8 4), fieldLE b 16 1 == 1, [], []⟩
  else none

def fwSigned (b : Bytes) : Bool :=
  let n := 64 + fwBody b
  verifyMldsa Config.zilxiaMldsaKey (b.take n) (slice b n 4627)
    && ecdsa384 Config.zilxiaEcKey (b.take n) (slice b (n + 4627) 96)

/-- Writes an image to the record that is not current (R492 step 1). -/
def fwWrite (toB : Bool) (img : ImageRec) (len : Nat) (d : Dev) : Dev :=
  let old := fwVersion d d.cpm.imageB
  onSvc (fun s => if toB then { s with fwB := some img } else { s with fwA := some img }) d
    |> recWrite (fwRec (b2n toB)) (pagesOf len) |> log7140 1 old img.version.toNat

/-- The image that FW_SELECT names, checked. -/
def fwSource (c : Cmd) (hr : HostRead) : Run (ImageRec × Bool) := do
  let d ← get
  let toB := !d.cpm.imageB
  let refused := fun (v : Nat) => log7140 5 (fwVersion d d.cpm.imageB) v
  let chosen ← (if par c 64 1 == 0 then do
      match fwParse (inData c hr) with
      | none => fail stParam 0x0C04
      | some img =>
        needLog (fwSigned (inData c hr)) stParam 0x0C05 (refused img.version.toNat)
        pure img
    else do
      need (c.inLen == 0) stParam 0x0C04
      match fwOf d toB with
      | none => fail stParam 0x0C04
      | some img => pure img)
  needLog (d.svc.fwMinsv ≤ chosen.svn) stParam 0x0C06 (refused chosen.version.toNat)
  pure (chosen, toB)

def bodyFwSelect (c : Cmd) (hr : HostRead) : Run Res := do
  need (par c 64 1 ≤ 1 && par c 65 1 ≤ 1 && zeroPar c 66 128) stParam 0x0C04
  let p ← fwSource c hr
  let d ← get
  let current := ((fwOf d d.cpm.imageB).map (·.resetRequired)).getD false
  let live := par c 65 1 == 0
  need (!(live && (p.1.resetRequired || current))) stParam 0x0C07
  if d.svc.fw.isSome || decide (d.brl.rollPhase ≠ 0) || d.svc.actions.any (fun a => decide (a.action ≤ 4)) then wrongState c 1
  need (!keepOnly d) stDegraded 0
  if par c 64 1 == 0 then eff (fwWrite p.2 p.1 c.inLen)
  let w : FwSwitch := { cid := c.cid, toB := p.2, live, region := 0, reversing := false }
  if live && !(regionsUp d).isEmpty then
    eff (fwNext w 0)
    throw .running
  else
    eff (fwCommit p.2)
    pure resOk

/-- FW_SELECT; with mode 1 the warm reset of cause 7 follows its completion. -/
def fwSelect (cid : Nat) (hr : HostRead) (d : Dev) : Dev :=
  let d1 := runCmd 0x0153 cid hr false bodyFwSelect d
  match cmdOf? d cid, cmdOf? d1 cid with
  | some a, some b =>
    if isWaiting a && a.code == 0x0153 && par a 65 1 == 1 && (match b.stage with | .done r => r.status == stOk | _ => false) then
      completionPost cid d1 |> warmRequest 7 (resetMaster 7)
    else d1
  | _, _ => d1

def execFwSelect (cid : Nat) (hr : HostRead) (s : State) : Ans := nextR (fwSelect cid hr) s

end Sys2Proof.Machine
end

