-- ==== Sys2Proof/Machine/Pages.lean ====
section
/-! DEFINITION. What every register of the 196 pages reads as (R35, R46 to R49, R99, R100, R134 to R136, R175 to R179, R198,
R199, R220 to R224, R263 to R266, R298 to R300, R321, R322, R348 to R352, R379 to R387, R412, R413, R437 to R441, R457 to
R459, R481 to R484, R498 to R502, R505, R512, R530): the words by page and offset. -/

namespace Sys2Proof.Machine

/-! ## Packing -/

/-- The mask of the numbers below `n` that meet `p`. -/
def bitsIf (n : Nat) (p : Nat → Bool) : Nat := (List.range n).foldl (fun a i => if p i then a + 2 ^ i else a) 0

/-- Queue depths by level, 8 bits each, saturating. -/
def depths (f : Nat → Nat) : Nat := (List.range 4).foldl (fun a l => a + min 255 (f l) * 2 ^ (8 * l)) 0

/-- The half of a value held at `base` and `base + 4`. -/
def pairAt (base v off : Nat) : Nat := if off = base then v % 2 ^ 32 else v / 2 ^ 32

/-- The counts at 0xF00 and up, low word first (R501). -/
def countAt (l : List Nat) (off : Nat) : Nat :=
  let v := l.getD ((off - 0xF00) / 8) 0
  if off % 8 = 0 then v % 2 ^ 32 else v / 2 ^ 32 % 2 ^ 32

/-- The logic die runs: no reset covers every block. -/
def dieRuns (d : Dev) : Bool := !(d.cpm.power == .mainOff || d.cpm.power == .porLow || d.cpm.power == .heldAfterFlush)

/-- A block of a page without a status of its own is in service (R512). -/
def blkReady (d : Dev) (b : Blk) : Bool := dieRuns d && !blkResetting d b && !d.die.out.contains b

/-! ## The regions' pages -/

def rg (r : Nat) : Region := Fin.ofNat 4 r

def boltReg (d : Dev) (r off : Nat) : Nat :=
  let b := (regionOf d r).bolt
  if off = 0x008 then b2n b.dkFlush
  else if off = 0x00C then
    b2n (boltUp d (rg r) && !b.policyPending) + 2 * b2n (boltStopping d (rg r)) + 4 * b2n b.policyLost + 8 * b2n b.dkFlush
  else if off = 0x040 then depths (fun l => (boltQueue d (rg r) l).length)
  else if off = 0x044 then bitsIf 4 (fun l => (boltContext d (rg r) l).isSome)
  else if off = 0x048 then b.dk.length
  else if off = 0x04C then b.policyVer.toNat
  else if 0x100 ≤ off ∧ off < 0x200 then fieldLE (polTable b) (off - 0x100) 4
  else if 0xF00 ≤ off then countAt [b.cmds.toNat, b.hits.toNat, b.misses.toNat, b.verifyFails.toNat, b.policyDenies.toNat] off
  else 0

def digReg (d : Dev) (r off : Nat) : Nat :=
  let g := (regionOf d r).dig
  let ctx := fun (l : Lane) => bitsIf 4 (fun v => (digContext d (rg r) l v).isSome)
  if off = 0x00C then b2n (digUp d (rg r)) + 2 * b2n g.stopping + 4 * b2n g.lane0Out + 8 * b2n g.lane1Out
  else if off = 0x040 then depths (fun v => (digQueue d (rg r) 0 v).length + (digQueue d (rg r) 1 v).length)
  else if off = 0x044 then 16 * ctx 1 + ctx 0
  else if 0xF00 ≤ off then countAt [g.cmds.toNat, g.bytes.toNat, g.keysMade.toNat, g.verifyFails.toNat] off
  else 0

def rngReg (d : Dev) (r off : Nat) : Nat :=
  let g := (regionOf d r).drbg
  if off = 0x008 then b2n g.katByCtrl
  else if off = 0x00C then
    b2n (drbgServes d r) + 2 * b2n g.stopped + 4 * b2n g.noSeed + 8 * b2n g.katRunning + 16 * b2n g.stopping
  else if off = 0x040 then g.queue.length
  else if off = 0x044 then g.reqsLeft
  else if off = 0x048 then (if g.instantiated then min 1023 (msSince d g.lastReseed) else 0)
  else if 0xF00 ≤ off then countAt [g.generates.toNat, g.reseeds.toNat, g.swBytes.toNat, g.swRetries.toNat] off
  else 0

def taskCode : TaskState → Nat
  | .free => 0
  | .ready => 1
  | .running => 2
  | .waiting => 3
  | .done => 4
  | .cancelled => 5

/-- A task descriptor's 64 bytes (R302). -/
def taskBytes (d : Dev) (r n : Nat) : Bytes :=
  let t := taskOf d r n
  natLE n 2 ++ [byte (taskCode t.state), byte t.priority, byte t.home,
      byte (b2n t.latch + 2 * b2n t.started + 4 * b2n t.cancel), byte t.dmaGrant, 0]
    ++ natLE t.appletId 4 ++ natLE t.inst 2 ++ natLE t.entry 2 ++ natLE t.session.toNat 4 ++ natLE t.seq.toNat 4
    ++ natLE (worldCode t.owner.world * 2 ^ 14 + t.owner.tenant % 64 * 2 ^ 8) 2 ++ zeros 2 ++ natLE t.seen.toNat 4
    ++ natLE t.limit 8 ++ natLE (if t.state == .waiting then t.wake else 0) 8 ++ zeros 16

def tmbReg (d : Dev) (r off : Nat) : Nat :=
  let t := (regionOf d r).tmb
  let inState := fun s => count (tasksOf d r) (fun x => x.2.state == s)
  if off = 0x00C then
    b2n (tmbAdmits d r) + 2 * b2n (t.stopping || (regionOf d r).phase == .draining) + 4 * b2n t.draining + 8 * b2n t.standIn.isSome
      + 16 * b2n ((instsOf d r).any (fun i => ((appletOf d i.inst).map (·.old)).getD false))
  else if off = 0x040 then t.tdSel
  else if off = 0x044 then inState .ready
  else if off = 0x048 then inState .waiting
  else if off = 0x04C then 4096 - (tasksOf d r).length
  else if off = 0x050 then areaFree d r
  else if off = 0x054 then (instsOf d r).length
  else if 0x080 ≤ off ∧ off < 0x0C0 then fieldLE (taskBytes d r t.tdSel) (off - 0x080) 4
  else if 0xF00 ≤ off then countAt [t.dispatches.toNat, t.preempts.toNat, t.cancels.toNat, t.migrations.toNat] off
  else 0

/-- DMA_CHn_OWNER; a channel never started shows zero (log entry 379). -/
def chOwner (i : Nat) (c : ChS) : Nat :=
  if c.state == .idle then 0
  else (c.ownerTask.getD 0xFFF) * 2 ^ 16 + worldCode c.owner.world * 2 ^ 14 + c.owner.tenant % 64 * 2 ^ 8 + 0x20 + i

def dmaReg (d : Dev) (i off : Nat) : Nat :=
  let x := dmaOf d i
  if off = 0x00C then
    b2n (dieRuns d && (decide (4 ≤ i) || regionRuns d i) && !blkResetting d (.dma (Fin.ofNat 5 i)) && !d.die.out.contains (.dma (Fin.ofNat 5 i)))
  else if 0x100 ≤ off ∧ off < 0x200 then
    let c := chOf d i ((off - 0x100) / 32)
    let o := (off - 0x100) % 32
    if o = 0 ∨ o = 4 then pairAt 0 c.list o
    else if o = 8 then
      2048 * b2n c.irqEn + 256 * c.priority + 32 * b2n c.skipBad + 4 * c.retry + 2 * b2n c.stop + b2n c.startHeld
    else if o = 0x0C then chStatus c
    else if o = 0x10 ∨ o = 0x14 then pairAt 0x10 c.cur o
    else if o = 0x18 then c.offset
    else chOwner i c
  else if 0xF00 ≤ off then countAt [x.bytes.toNat, x.descs.toNat, x.retries.toNat] off
  else 0

/-- The rule registers of R363. -/
def ruleWord (r : KwRule) (k : Nat) : Nat :=
  if k = 0 then b2n r.valid * 2 ^ 31 + r.priority * 2 ^ 28 + r.base
  else if k = 1 then r.limit
  else if k = 2 then r.rights.toNat
  else r.midValue.toNat * 2 ^ 24 + r.midMask.toNat * 2 ^ 16 + b2n r.tenantAny * 64 + r.tenant

def kwReg (d : Dev) (u : KwUnit) (off : Nat) : Nat :=
  let k := kwOf d u
  if off = 0x008 then b2n k.updating
  else if off = 0x00C then
    b2n (dieRuns d && !k.updating && (match unitRegion u with | some r => regionRuns d r | none => true)) + 2 * b2n k.updating + 4 * b2n (!k.stalled.isEmpty) + 8 * b2n (pageOf d (kwPage u)).lock
  else if off = 0x040 then k.viol.toNat
  else if off = 0x044 then k.stallDenials.toNat
  else if off = 0x048 then count (List.range 64) (fun n => (kwRuleOf u k.rules n).valid)
  else if 0x100 ≤ off ∧ off < 0x500 then
    ruleWord (kwRuleOf u (if k.updating then k.shadow else k.rules) ((off - 0x100) / 16)) ((off - 0x100) % 16 / 4)
  else if 0xF00 ≤ off then countAt [k.checks.toNat, k.denials.toNat] off
  else 0

def ocdReg (d : Dev) (c : CoreId) (off : Nat) : Nat :=
  let x := coreOf d c
  let standing := decide (c.pos.val = 6) && (regionOf d c.region).tmb.standIn.isSome
  if off = 0x008 then b2n x.halt + 2 * b2n x.step
  else if off = 0x00C then
    b2n (regionRuns d c.region && coreUp d c.region c.pos && !blkResetting d (.core c)) + 2 * b2n x.task.isSome + 4 * b2n x.halted
      + 8 * b2n x.stopping + 16 * b2n (decide (c.pos.val = 6)) + 32 * b2n x.out + 64 * b2n standing
  else if off = 0x040 then (match x.task with | some t => 2 ^ 31 + t | none => 0)
  else if off = 0x044 then
    (match x.task with | some t => (taskOf d c.region t).ds.length * 2 ^ 16 + (taskOf d c.region t).rs.length * 2 ^ 8 | none => 0)
  else if off = 0x048 then x.sev.toNat
  else if off = 0x04C then (if standing then 2 ^ 31 + (regionOf d c.region).tmb.standIn.getD 0 else 0)
  else if off = 0x050 then x.p1.toNat
  else if off = 0x054 then x.p2.toNat
  else if off = 0x058 then x.p3.toNat
  else if 0xF00 ≤ off then countAt [x.insns.toNat, x.cycles.toNat, x.traps.toNat, x.spills.toNat, x.waits.toNat] off
  else 0

/-! ## Barrel array, vault, key store -/

def braReg (d : Dev) (off : Nat) : Nat :=
  let b := d.brl
  let queued := fun (p : Nat → Loc) (l : Nat) => count d.hif.cmds (fun c => isWaiting c && c.loc == p l)
  if off = 0x00C then b2n (dieRuns d)
  else if off = 0x040 then b2n b.longPool
  else if off = 0x044 then bitsIf 18 (isSpare d)
  else if off = 0x048 then bitsIf 18 (fun e => (engOf d e).out)
  else if off = 0x04C then depths (queued .shortQ)
  else if off = 0x050 then depths (queued .longQ)
  else if off = 0x054 then (if b.rollPhase = 0 then 0 else count (List.range 18) (fun e => !(engOf d e).out && (engOf d e).image != b.selectB)) * 2 ^ 24 + b.rollPhase * 2 ^ 16 + b.rollRole
  else if off = 0x058 then (b.ucodeA.map (·.version.toNat)).getD 0
  else if off = 0x05C then (b.ucodeB.map (·.version.toNat)).getD 0
  else if off = 0x060 then (rwpVal d rwpUcodeMinsv).toNat
  else if 0x080 ≤ off ∧ off < 0x0C0 then
    let r := roleOf d ((off - 0x080) / 4)
    r.lenNext * 2 ^ 16 + r.len * 2 ^ 8 + ((r.engine.map (·.val)).getD 31)
  else if 0xF00 ≤ off then countAt [b.jobs.toNat, b.faults.toNat, b.aborts.toNat, b.kats.toNat] off
  else 0

def brlReg (d : Dev) (e off : Nat) : Nat :=
  let g := engOf d e
  if off = 0x008 then b2n g.aborting
  else if off = 0x00C then
    b2n (blkReady d (.barrel (Fin.ofNat 18 e)) && engInService d e && (roleServed d e).isSome && d.brl.rollHold != some e
        && (imageOf d g.image).isSome && d.cpm.power != .noImage) + 2 * b2n g.stopping + 4 * b2n g.running.isSome + 8 * b2n g.out
      + 16 * b2n (isSpare d e) + 32 * b2n g.image + 64 * min 3 (faultTimes d e).length
  else if off = 0x040 then slotCount g.len * 2 ^ 16 + wsArea g.len * 2 ^ 8 + g.len
  else if off = 0x044 then (wsOn d e).length * 2 ^ 16 + wsUsed d e
  else if off = 0x048 then (g.running.bind (cmdOf? d)).elim 0 jobProg
  else if off = 0x04C then (roleHeld d e).getD 31
  else if 0xF00 ≤ off then countAt [g.jobs.toNat, g.busy.toNat, g.mismatches.toNat] off
  else 0

/-- VLT_PART_nn (R266). -/
def partWord (p : Part) : Nat :=
  p.gen % 2 ^ 16 * 2 ^ 13 + 4096 * b2n (decide (p.committed < p.label)) + 2048 * b2n (!p.suspect.isEmpty) + p.state * 256 + p.owner

def vltReg (d : Dev) (off : Nat) : Nat :=
  let v := d.vlt
  let online := bitsIf 64 (fun p => (partOf d p).state == 3)
  let suspect := bitsIf 64 (fun p => !(partOf d p).suspect.isEmpty)
  if off = 0x00C then
    b2n (v.ready && !blkResetting d .vault) + 2 * b2n v.stopping + 4 * b2n v.commit.isSome
      + 8 * b2n (d.hif.cmds.any (fun c => c.code == 0x0702 && isWaiting c && (c.waitOn.contains waitCommit || c.waitOn.contains waitStall)))
      + 16 * b2n ((List.range 64).any (fun f => !(starving d f).isEmpty)) + 32 * b2n v.rollback
  else if off = 0x040 then b2n (v.pendingReg || (v.commit.map (·.byReg)).getD false)
  else if off = 0x048 ∨ off = 0x04C then pairAt 0x048 v.lastEpoch off
  else if off = 0x050 ∨ off = 0x054 then pairAt 0x050 v.openEpoch off
  else if off = 0x058 then dirtyLines d
  else if off = 0x05C then count v.reqs (·.supply.isNone)
  else if off = 0x060 ∨ off = 0x064 then pairAt 0x060 online off
  else if off = 0x068 ∨ off = 0x06C then pairAt 0x068 suspect off
  else if off = 0x070 then v.ringSlot
  else if 0x100 ≤ off ∧ off < 0x200 then partWord (partOf d ((off - 0x100) / 4))
  else if 0xF00 ≤ off then
    countAt [v.reads.toNat, v.writes.toNat, v.rekeys.toNat, v.nodeFetches.toNat, v.nodeStores.toNat, v.integrity.toNat, v.commits.toNat] off
  else 0

def vkcReg (d : Dev) (off : Nat) : Nat :=
  if off = 0x00C then b2n (d.vlt.ready && !blkResetting d .vault)
  else if off = 0x040 then count d.vlt.cache isPinned
  else if 0xF00 ≤ off then countAt [d.vlt.hits.toNat, d.vlt.misses.toNat, d.vlt.evictions.toNat] off
  else 0

def ksReg (d : Dev) (off : Nat) : Nat :=
  let k := d.ks
  if off = 0x00C then
    b2n (k.ready && !blkResetting d .keyStore) + 2 * b2n (decide (262144 ≤ dirUsed d))
      + 4 * b2n (d.hif.cmds.any (fun c => isWaiting c && c.waitOn.contains waitBuffer)) + 8 * b2n k.spillReady
  else if off = 0x040 then slotsFree d
  else if off = 0x044 then wardsPinned d
  else if off = 0x048 then dirUsed d
  else if off = 0x04C then count k.keys (·.spilled)
  else if off = 0x050 then count k.keys (·.lost)
  else if off = 0x054 then k.spillBuf.length
  else if off = 0x058 then persUsed d
  else if 0xF00 ≤ off then countAt [k.fetches.toNat, k.spills.toNat, k.refills.toNat, k.drops.toNat] off
  else 0

def kswReg (d : Dev) (off : Nat) : Nat :=
  if off = 0x00C then b2n (d.ks.ready && !blkResetting d .keyStore)
  else if 0xF00 ≤ off then countAt [d.ks.unwraps.toNat, d.ks.wraps.toNat, d.ks.combines.toNat] off
  else 0

/-! ## Persistent store -/

/-- NVM_BANK_STATE of a bank. -/
def bankCode (n : NvmS) (b : Nat) : Nat :=
  if (tget n.banks b {}).out then 3 else if isRebuildTarget n b then 2 else if n.positions.contains (some b) then 1 else 0

def nvmReg (d : Dev) (off : Nat) : Nat :=
  let n := d.nvm
  let pend := fun id => n.rwpQueue.any (fun q => q.1 == id)
  let posNib := fun (p : Nat) => (n.positions.getD p none).getD 15
  if off = 0x00C then
    b2n (n.ready && !blkResetting d .nvm) + 2 * b2n (d.cpm.power == .closing) + 4 * b2n (!n.rebuilds.isEmpty)
      + 8 * b2n (decide (parities n < 2) || (freeSpares n).isEmpty) + 16 * b2n (keepOnly d) + 32 * b2n n.scrubUrgent
      + 64 * b2n (!n.rwpQueue.isEmpty || !n.rwpWaiting.isEmpty) + 128 * b2n n.flushing
  else if off = 0x040 then (freeSpares n).length * 16 + parities n
  else if off = 0x044 then (List.range 12).foldl (fun a b => a + bankCode n b * 4 ^ b) 0
  else if off = 0x048 then (List.range 8).foldl (fun a p => a + posNib p * 16 ^ p) 0
  else if off = 0x04C then posNib 8 + 16 * posNib 9
  else if off = 0x050 ∨ off = 0x054 then
    match n.rebuilds[(off - 0x050) / 4]? with
    | some r => 2 ^ 31 + r.position * 2 ^ 24 + r.target * 2 ^ 20 + r.done
    | none => 0
  else if off = 0x058 then n.scrubPos
  else if off = 0x05C then min n.scrubLag 65535
  else if off = 0x060 then pagesFree d
  else if off = 0x064 then n.stripeWrites.foldl (fun a p => max a p.2) 0 / 1000
  else if off = 0x068 then n.lostStripes.length
  else if 0x200 ≤ off ∧ off < 0x230 then bitsIf 32 (fun k => pend (32 * ((off - 0x200) / 4) + k))
  else if 0x400 ≤ off ∧ off < 0xA00 then (rwpOf d ((off - 0x400) / 4)).count
  else if 0xF00 ≤ off then
    countAt [n.fgWrites.toNat, n.bgChunks.toNat, n.corrected.toNat, n.rewrites.toNat, n.uncorrectable.toNat, n.commits.toNat] off
  else 0

def nvbReg (d : Dev) (b off : Nat) : Nat :=
  let k := bankOf d b
  if off = 0x00C then b2n (dieRuns d && !k.out)
  else if off = 0x040 then k.spareRows % 64 * 2 ^ 26 + count k.uncorrTimes (fun t => decide (d.evr.opTime.toNat - t < 24 * 3600))
  else if 0xF00 ≤ off then countAt [k.chunks.toNat] off
  else 0

/-! ## Host interface -/

def hifReg (d : Dev) (off : Nat) : Nat :=
  if off = 0x00C then b2n (blkReady d .hostInterface && d.cpm.power == .ready)
  else if off = 0x040 then d.hif.bound.length * 256 + d.hif.numVfs
  else if off = 0x044 then (openSess d).length
  else if 0xF00 ≤ off then countAt [d.hif.duplicates.toNat] off
  else 0

/-- Commands of a function accepted and not yet completed (INFLIGHT). -/
def fnInflight (d : Dev) (f : Nat) : Nat :=
  count d.hif.cmds (fun c => isHost c && c.fn == f && c.accepted && isAccepted c && c.dupOf.isNone && !c.silent)

def fnReg (d : Dev) (f off : Nat) : Nat :=
  let x := fnOf d f
  let errs := bitsIf 64 (fun q => (qpOf d f q).err)
  if off = 0x008 then b2n (x.enable || x.enableHeld)
  else if off = 0x00C then
    b2n (qpOf d f 0).live + 2 * b2n x.cfgError + 4 * b2n (errs != 0) + 8 * b2n (fnBound d f) + 16 * b2n x.stopping
  else if off = 0x040 then x.aqCfg.toNat
  else if off = 0x048 ∨ off = 0x04C then pairAt 0x048 x.sqBase.toNat off
  else if off = 0x050 ∨ off = 0x054 then pairAt 0x050 x.cqBase.toNat off
  else if off = 0x058 then qpMax f * 2 ^ 16 + (if isVf f then 0 else d.hif.numVfs) * 256 + b2n (isVf f) * 128 + f
  else if off = 0x060 then sessCount d f
  else if off = 0x064 then x.sessQuota
  else if off = 0x068 ∨ off = 0x06C then pairAt 0x068 errs off
  else if off = 0x070 then fnInflight d f
  else if 0xF00 ≤ off then countAt [x.accepted.toNat, x.completed.toNat] off
  else 0

def phyReg (d : Dev) (off : Nat) : Nat :=
  if off = 0x00C then b2n (dieRuns d && d.hif.linkUp)
  else if off = 0x040 then d.pg.phyLink.toNat
  else if 0xF00 ≤ off then countAt [d.pg.phyRetrains.toNat, d.pg.phyErrors.toNat] off
  else 0

/-! ## Always-on blocks -/

def aonReg (d : Dev) (off : Nat) : Nat :=
  let m := (quorumMask d).toNat
  if off = 0x00C then b2n (dieRuns d)
  else if off = 0x040 then
    m % 256 * 2 ^ 24 + m / 256 * 2 ^ 16 + min 1023 (quorumLeft d) * 64 + 32 * b2n (quorumLive d)
      + 16 * b2n (d.lc.transition.isSome || d.lc.intent.isSome) + lcCode d.lc.state
  else if off = 0x044 then (rwpVal d rwpQuorumLife).toNat
  else 0

def tmpReg (d : Dev) (off : Nat) : Nat :=
  let t := d.tmp
  if off = 0x00C then b2n (dieRuns d) + 2 * b2n t.dieSafe + 4 * b2n t.hold + 8 * b2n t.calibrating.isSome
  else if off = 0x040 then (rwpVal d rwpGrades).toNat
  else if off = 0x044 then (rwpVal d rwpLoopCfg).toNat
  else if off = 0x048 then bitsIf 16 (fun c => t.trips.any (fun x => x.1 == c))
  else if off = 0x04C then t.last.toNat
  else if off = 0x050 then (t.calibrating.getD 31) * 2 ^ 16 + bitsIf 16 (fun k => t.heldOut.contains k)
  else if 0x080 ≤ off ∧ off < 0x0C0 then (tget t.temps ((off - 0x080) / 4) 0).toNat
  else if 0xF00 ≤ off then countAt [t.tripCount.toNat, t.responses.toNat] off
  else 0

/-- The trip summary of the battery domain (R424). -/
def batSummary (b : BatS) : Nat :=
  b.mask.toNat * 2 ^ 48 + b.grade * 2 ^ 46 + b2n b.g3Done * 2 ^ 45 + b2n b.onBattery * 2 ^ 44 + b.firstTime % 2 ^ 40

def batReg (d : Dev) (off : Nat) : Nat :=
  let b := d.bat
  if off = 0x00C then
    1 + 2 * b2n (decide (b.vbatMv < 2400)) + 4 * b2n (decide (b.vbatMv < 2200) || decide (3600 < b.vbatMv))
      + 8 * b2n b.keyErased
  else if off = 0x040 ∨ off = 0x044 then pairAt 0x040 b.rtc.toNat off
  else if off = 0x048 ∨ off = 0x04C then pairAt 0x048 b.hint off
  else if off = 0x050 ∨ off = 0x054 then pairAt 0x050 (batSummary b) off
  else if off = 0x058 then b.vbatMv % 8192
  else 0

/-- The oldest readable number of an area; the manual gives none for an empty area (log entry 457). -/
def oldestOf (d : Dev) (area : Nat) : Nat := ((areaOf d area).head?.map (·.seq)).getD (Config.implValue 457 area)

def evrReg (d : Dev) (off : Nat) : Nat :=
  let e := d.evr
  if off = 0x008 then b2n e.flushCtl + 2 * b2n e.verifyCtl
  else if off = 0x00C then
    b2n e.ready + 2 * b2n (d.cpm.power == .closing) + 4 * b2n e.flushCtl + 8 * b2n e.verifying + 16 * b2n (e.flushDue && keepOnly d) + 32 * b2n e.chainBroken
  else if off = 0x040 then e.buf.length
  else if off = 0x048 ∨ off = 0x04C then pairAt 0x048 (e.nextSeq % seqMod) off
  else if off = 0x050 ∨ off = 0x054 then pairAt 0x050 (e.flushedSeq % seqMod) off
  else if off = 0x058 ∨ off = 0x05C then pairAt 0x058 (oldestOf d 0) off
  else if off = 0x060 ∨ off = 0x064 then pairAt 0x060 (oldestOf d 1) off
  else if off = 0x068 then (areaOf d 0).length
  else if off = 0x06C then (areaOf d 1).length
  else if off = 0x070 then (rwpVal d rwpRetainLost).toNat
  else if off = 0x074 then (rwpVal d rwpPowerCycles).toNat % 2 ^ 24
  else if off = 0x078 then (rwpVal d rwpOpTime).toNat
  else if off = 0x07C then e.opTime.toNat
  else if off = 0x080 ∨ off = 0x084 then pairAt 0x080 e.spiPtr.toNat off
  else if 0xF00 ≤ off then countAt [e.records.toNat, e.coalescedN.toNat, e.suppressed.toNat, e.flushes.toNat] off
  else 0

def entReg (d : Dev) (off : Nat) : Nat :=
  let e := d.ent
  if off = 0x008 then b2n e.katByCtrl
  else if off = 0x00C then
    b2n (blkReady d .conditioner && !e.stopped && !e.katFailed) + 2 * b2n e.stopped + 4 * b2n e.katFailed
      + 8 * b2n (e.injectCid.isSome || (List.range 8).any (fun n => (srcOf d n).injecting))
  else if off = 0x040 then
    bitsIf 8 (fun n => (srcOf d n).injecting) * 2 ^ 16 + bitsIf 8 (fun n => (srcOf d n).heldOut) * 2 ^ 8 + bitsIf 8 (fun n => (srcOf d n).isolated)
  else if off = 0x044 then e.reservoir.length
  else if off = 0x048 then 781 * 2 ^ 16 + 68
  else if 0x080 ≤ off ∧ off < 0x0A0 then
    let s := srcOf d ((off - 0x080) / 4)
    min 65535 s.apFails * 2 ^ 16 + min 65535 s.rcFails
  else if 0xF00 ≤ off then countAt [e.blocks.toNat] off
  else 0

/-- LGT_TRIP_i: the light cells over their threshold now. -/
def lgtReg (d : Dev) (off : Nat) : Nat :=
  if off = 0x00C then b2n (dieRuns d)
  else if 0x040 ≤ off ∧ off < 0x060 then bitsIf 32 (fun k => d.tmp.trips.contains (5, 32 * ((off - 0x040) / 4) + k))
  else 0

def cardCode : CardState → Nat
  | .empty => 0
  | .debounce => 1
  | .activating => 2
  | .atr => 3
  | .speed => 4
  | .auth => 5
  | .ready => 6
  | .turn => 7
  | .done => 8
  | .refused => 9
  | .stopping => 10
  | .disabled => 11
  | .bind => 12

def crdReg (d : Dev) (s off : Nat) : Nat :=
  let x := slotOf d s
  if off = 0x008 then b2n x.enable + 2 * b2n x.deactivating
  else if off = 0x00C then
    cardCode x.state * 16 + 8 * b2n x.detLow + 4 * b2n d.crd.cer.isSome + 2 * b2n (x.state == .stopping)
      + b2n (dieRuns d && x.enable && x.state != .stopping)
  else if off = 0x040 then x.cfg.toNat
  else if off = 0x044 then x.clkTail
  else if off = 0x048 then x.vccSettle
  else if off = 0x04C then x.wtxMax
  else if off = 0x050 then
    if x.vccEnN || x.state == .stopping then 0
    else x.div * 2 ^ 25 + x.etuM1 * 2 ^ 14 + x.path * 2 ^ 12 + x.cls * 2 ^ 10 + x.ifsc * 4 + 2 * b2n x.info.crc + b2n x.clkStopped
  else if off = 0x054 then
    match (if x.authed then registeredAs d x.cardKey else none) with
    | some i => 16 + i
    | none => 0
  else if off = 0x058 then
    match d.crd.cer with
    | some c => c.mask.toNat * 2 ^ 16 + c.k * 2 ^ 8 + c.taken * 16 + min 3 c.refused * 4 + c.kind
    | none => 0
  else if off = 0x05C then x.atr.length
  else if 0x080 ≤ off ∧ off < 0x0A4 then fieldLE x.atr (off - 0x080) 4
  else if 0xF00 ≤ off then countAt [x.activations.toNat, x.blocks.toNat, x.retransN.toNat, x.resynchN.toNat, x.fallbacks.toNat] off
  else 0

def kprReg (d : Dev) (off : Nat) : Nat :=
  if off = 0x00C then b2n d.nvm.ready
  else if 0x040 ≤ off ∧ off < 0x61C then (rwpVal d (9 + (off - 0x040) / 4)).toNat
  else 0

/-! ## Clocks, service, monitor -/

def inTransition (d : Dev) (r : Nat) : Bool :=
  let x := regionOf d r
  x.cause == 4 && (x.phase == .draining || x.phase == .resetting)

def cpmReg (d : Dev) (off : Nat) : Nat :=
  let c := d.cpm
  if off = 0x008 then b2n ((c.warmPending.map (fun w => w.1 == 1 || w.1 == 5)).getD false)
  else if off = 0x00C then
    b2n (c.power == .ready || c.power == .closing) + 2 * b2n (!(c.power == .ready || c.power == .closing)) + 4 * b2n c.pfFlushing + 8 * b2n ((List.range 4).any (inTransition d)) + 16 * b2n c.imageB
  else if off = 0x040 then c.pwrReq.toNat
  else if off = 0x044 then bitsIf 4 (fun r => (regionOf d r).phase == .gated) + 16 * bitsIf 4 (inTransition d)
  else if off = 0x048 then b2n c.flushClean * 2 ^ 16 + c.cause * 2 ^ 8 + c.causeKind
  else if off = 0x04C then (rwpVal d rwpResetCount).toNat
  else if off = 0x050 then min 8191 c.bootMs
  else if off = 0x054 then (rwpVal d rwpFlushMark).toNat % 2
  else if off = 0x058 then c.telemSeq.toNat
  else if off = 0x060 ∨ off = 0x064 then pairAt 0x060 (c.timebase % 2 ^ 64) off
  else if 0x080 ≤ off ∧ off < 0x0C8 then tget c.freqs ((off - 0x080) / 4) 0 % 2 ^ 21
  else 0

/-- PLL_LOCK: a class 2 trip stands for as long as a PLL is out of lock. -/
def pllReg (d : Dev) (off : Nat) : Nat :=
  if off = 0x00C then b2n (dieRuns d)
  else if off = 0x040 then (if dieRuns d then bitsIf 14 (fun n => decide (3 ≤ n) && !d.tmp.trips.contains (2, n)) else 0)
  else if 0xF00 ≤ off then countAt [d.pg.pllRelocks.toNat] off
  else 0

def spnReg (d : Dev) (off : Nat) : Nat :=
  let x := d.spn
  if off = 0x00C then b2n (blkReady d .spine) + 2 * b2n d.die.safe
  else if off = 0x040 then x.maxWait % 1024
  else if 0xF00 ≤ off then
    countAt [x.xferCtrl.toNat, x.xferRt.toNat, x.xferBulk.toNat, x.xferBg.toNat, x.xrefusals.toNat, x.linkRetries.toNat, x.corrected.toNat] off
  else 0

/-- The action shown: the last accepted of those that run. -/
def svcShown (d : Dev) : Nat × Nat := (d.svc.actions.getLast?.map (fun a => (a.action, a.operand))).getD (0, 0)

def fwPhase (d : Dev) : Nat := match d.svc.fw with | some w => if w.reversing then 3 else 2 | none => 0

def svcReg (d : Dev) (off : Nat) : Nat :=
  if off = 0x00C then
    b2n (d.cpm.power == .ready) + 2 * b2n (!d.svc.actions.isEmpty || d.svc.fw.isSome) + 4 * ((d.svc.fw.map (·.region)).getD 0) + 16 * fwPhase d
  else if off = 0x040 then (svcShown d).2 * 256 + (svcShown d).1
  else if off = 0x044 then fwVersion d false
  else if off = 0x048 then fwVersion d true
  else if off = 0x04C then d.svc.fwMinsv.toNat
  else if off = 0x050 then bitsIf 4 (fun r => (regionOf d r).phase == .held)
  else if 0xF00 ≤ off then countAt [d.svc.count.toNat] off
  else 0

def monReg (d : Dev) (off : Nat) : Nat :=
  if off = 0x00C then b2n (dieRuns d) + 2 * b2n (debugAdmitted d) + 4 * b2n d.svc.bootRom
  else if off = 0x040 then d.svc.baud
  else 0

def spiReg (d : Dev) (off : Nat) : Nat :=
  if off = 0x00C then b2n (dieRuns d)
  else if off = 0x040 then 2 * b2n d.spi.mode3 + b2n d.spi.inFrame
  else if 0xF00 ≤ off then countAt [d.spi.frames.toNat, d.spi.errs.toNat] off
  else 0

def tstReg (d : Dev) (off : Nat) : Nat :=
  if off = 0x00C then b2n (dieRuns d) else if off = 0x040 then d.pg.tstTap.toNat % 256 else 0

/-! ## The unit or core of a page -/

def pageKw (m : Nat) : KwUnit :=
  if isRegionPage m then
    .region (rg (pageRegion m)) (match pagePlace m - 5 with | 0 => .k0 | 1 => .k1 | 2 => .k2 | 3 => .k3 | _ => .bridge)
  else .central (Fin.ofNat 9 ([0, 88, 91, 94, 108, 175, 185, 191, 195].idxOf m))

def pageCore (m : Nat) : CoreId := ⟨rg (pageRegion m), Fin.ofNat 7 (pagePlace m - 10)⟩

/-- CTRL, STATUS and the block's own registers. -/
def blockReg (d : Dev) (m off : Nat) : Nat :=
  if isKwPage m then kwReg d (pageKw m) off
  else if isRegionPage m then
    let n := pageRegion m
    let p := pagePlace m
    if p = 0 then boltReg d n off else if p = 1 then digReg d n off else if p = 2 then rngReg d n off
    else if p = 3 then tmbReg d n off else if p = 4 then dmaReg d n off else ocdReg d (pageCore m) off
  else if m = 69 then braReg d off
  else if m ≤ 87 then brlReg d (m - 70) off
  else if m = 89 then vltReg d off
  else if m = 90 then vkcReg d off
  else if m = 92 then ksReg d off
  else if m = 93 then kswReg d off
  else if m = 95 then nvmReg d off
  else if m ≤ 107 then nvbReg d (m - 96) off
  else if m = 109 then hifReg d off
  else if m ≤ 173 then fnReg d (m - 110) off
  else if m = 174 then phyReg d off
  else if m = 176 then aonReg d off
  else if m = 177 then tmpReg d off
  else if m = 178 then batReg d off
  else if m = 179 then evrReg d off
  else if m = 180 then entReg d off
  else if m = 181 then lgtReg d off
  else if m ≤ 183 then crdReg d (m - 182) off
  else if m = 184 then kprReg d off
  else if m = 186 then cpmReg d off
  else if m = 187 then pllReg d off
  else if m = 188 then spnReg d off
  else if m = 189 then dmaReg d 4 off
  else if m = 190 then svcReg d off
  else if m = 192 then monReg d off
  else if m = 193 then spiReg d off
  else tstReg d off

/-! ## Who writes (R505, R531) -/

/-- The registers that a chapter names as written by world C. -/
def writtenByC (m off : Nat) : Bool :=
  if isRegionPage m then (pagePlace m == 0 || pagePlace m == 2) && off == 8
  else if 70 ≤ m && m ≤ 87 then off == 8
  else if m = 89 then off == 0x040
  else if m = 179 || m = 180 then off == 8
  else if m = 182 || m = 183 then off == 8 || (decide (0x040 ≤ off) && decide (off ≤ 0x04C))
  else false

/-- The registers that a chapter names as written by world D: by the Slano monitor, or by the management SPI alone. -/
def writtenByD (m off : Nat) : Bool :=
  (isRegionPage m && ((decide (10 ≤ pagePlace m) && off == 8) || (pagePlace m == 3 && off == 0x040)))
    || (m == 186 && off == 0x040) || (m == 179 && (off == 0x080 || off == 0x084))

/-- World C may write some register of the page. -/
def pageByC (m : Nat) : Bool := fnPage m == some 0 || (!isKwPage m && [8, 0x040].any (writtenByC m))
def pageByD (d : Dev) (m : Nat) : Bool := debugAdmitted d && [8, 0x040, 0x080].any (writtenByD m)

/-- OWNER_WORLD (R505). -/
def ownerWorld (d : Dev) (m : Nat) : Nat :=
  let v := (fnPage m).getD 0
  v * 256 + 16 + 32 * b2n (pageReads d m .C 0) + 64 * b2n (v != 0) + 128 * b2n (pageReads d m .D 0)
    + 1 + 2 * b2n (pageByC m) + 4 * b2n (v != 0) + 8 * b2n (pageByD d m)

def pageId (m : Nat) : Nat := (pageType m).1 * 2 ^ 16 + (pageType m).2 * 256 + 1

/-- The reset value of IRQ_MASK (R501). -/
def irqMaskReset (m : Nat) : Nat := if (fnPage m).isSome then 7 else 0

/-- The reset of a block covers the page: its own registers read as at reset (R509). -/
def pageInReset (d : Dev) (m : Nat) : Bool :=
  if isRegionPage m then
    let r := rg (pageRegion m)
    let p := pagePlace m
    if p = 0 then blkResetting d (.bolt r)
    else if p = 1 then blkResetting d (.digestLane r 0) && blkResetting d (.digestLane r 1)
    else if p = 4 then blkResetting d (.dma (Fin.ofNat 5 r.val))
    else decide (10 ≤ p) && blkResetting d (.core (pageCore m))
  else if 70 ≤ m ∧ m ≤ 87 then blkResetting d (.barrel (Fin.ofNat 18 (m - 70)))
  else if m = 89 ∨ m = 90 then blkResetting d .vault
  else if 96 ≤ m ∧ m ≤ 107 then blkResetting d (.nvmBank (Fin.ofNat 12 (m - 96)))
  else if m = 180 then blkResetting d .conditioner
  else m == 189 && blkResetting d (.dma 4)

/-- The word at a 4-byte aligned offset of page `m`, as a read finds it (R501). -/
def regVal (d : Dev) (m off : Nat) : Word32 :=
  let p := pageOf d m
  if off = 0x000 then BitVec.ofNat 32 (pageId m)
  else if off = 0x004 then 1
  else if off = 0x010 then p.irqRaw
  else if off = 0x014 then p.irqMask.getD (BitVec.ofNat 32 (irqMaskReset m))
  else if off = 0x018 then 0
  else if off = 0x01C then p.err0
  else if off = 0x020 then p.err1
  else if off = 0x024 then BitVec.ofNat 32 p.errAddr
  else if off = 0x028 then BitVec.ofNat 32 (p.errAddr / 2 ^ 32)
  else if off = 0x02C then BitVec.ofNat 32 (b2n p.lock)
  else if off = 0x030 then BitVec.ofNat 32 (ownerWorld d m)
  else if 0x040 ≤ off ∧ pageInReset d m = true then BitVec.ofNat 32 (blockReg State.reset.toDev m off)
  else BitVec.ofNat 32 (blockReg d m off)

end Sys2Proof.Machine
end

