-- ==== Sys2Proof/Machine/Registers.lean ====
section
/-! DEFINITION. Access to the registers (R7, R44, R501, R503, R506 to R509, R531): who may read and write, what a refusal is,
latches and held low words, what a write does, and the rows of chapter 19. -/

namespace Sys2Proof.Machine

/-! ## Requesters and 64-bit values (R508) -/

/-- A requester: its master ID, and for the host interface its function. -/
def reqKey (acc : Access) : Nat := if acc.master == 0x50 then 256 + acc.fn else acc.master.toNat

/-- Offsets of the low words of 64-bit values. -/
def isLow (m off : Nat) : Bool :=
  off == 0x024 || (decide (0xF00 ≤ off) && off % 8 == 0) ||
  (if (fnPage m).isSome then off == 0x048 || off == 0x050 || off == 0x068
   else if m = 89 then off == 0x048 || off == 0x050 || off == 0x060 || off == 0x068
   else if m = 95 then off == 0x048
   else if m = 178 then off == 0x040 || off == 0x048 || off == 0x050
   else if m = 179 then [0x048, 0x050, 0x058, 0x060, 0x080].contains off
   else if m = 186 then off == 0x060
   else if m = 189 || (isRegionPage m && pagePlace m == 4) then
     decide (0x100 ≤ off) && decide (off < 0x200) && (off % 32 == 0 || off % 32 == 0x10)
   else false)

/-- Any access of a requester to a page ends what it had latched there. -/
def unlatch (acc : Access) (m : Nat) : Dev → Dev :=
  onPg (fun p => { p with latches := p.latches.filter (fun l =>
    !(l.1 == reqKey acc && decide (pageBase m ≤ l.2.1) && decide (l.2.1 < pageBase m + 0x1000))) })

/-! ## Reading -/

def sizeBytes : AccSize → Nat
  | .b1 => 1
  | .b2 => 2
  | .b4 => 4
  | .b8 => 8

/-- The kind of refusal of a read, none where it is admitted (R321, R506, R531). -/
def readKind (acc : Access) (m off len : Nat) (d : Dev) : Option Nat :=
  if off % len ≠ 0 then some 2
  else if !pageReads d m acc.world acc.tenant then some 3
  else if isRegionPage m && pagePlace m == 3 && decide (0x080 ≤ off) && decide (off < 0x0C0) && acc.world == .C then some 3
  else none

/-- A read of a register: its value and its side effects: a low word latches its high word, an RC register clears (R7, R508). -/
def regRead (acc : Access) (m off : Nat) (d : Dev) : Word32 × Dev :=
  let a := pageBase m + off
  let held := (d.pg.latches.find? (fun l => l.1 == reqKey acc && l.2.1 == a)).map (·.2.2)
  let v := held.getD (regVal d m off)
  let d := unlatch acc m d
    |> doIf (isLow m off) (onPg (fun p => { p with latches := p.latches ++ [(reqKey acc, a + 4, regVal d m (off + 4))] }))
    |> doIf (m == 188 && off == 0x040) (onSpn (fun x => { x with maxWait := 0 }))
  (v, d)

/-! ## Who may write, and the registers' own rules -/

/-- The management SPI's own registers: power requests and its log pointer (R21, R457, R464). -/
def spiWritten (m off : Nat) : Bool := (m == 186 && off == 0x040) || (m == 179 && (off == 0x080 || off == 0x084))

/-- The world is admitted to write the register (R503, R531). -/
def mayWrite (acc : Access) (m off : Nat) (d : Dev) : Bool :=
  if off == 0x010 || off == 0x014 || off == 0x018 || off == 0x01C then irqWriter acc m
  else if off == 0x02C then acc.world == .K
  else if acc.world == .D && acc.master == 0x5D then spiWritten m off
  else match acc.world with
    | .K => !(m == 179 && (off == 0x080 || off == 0x084))
    | .C => fnPage m == some 0 || writtenByC m off
    | .T => (match fnPage m with | some v => v != 0 && v == acc.tenant | none => false)
    | .D => debugAdmitted d && writtenByD m off && !spiWritten m off

/-- Persistent registers that only their commands write (R37, R175, R437, R457, R481). -/
def commandOnly (m off : Nat) : Bool :=
  (m == 176 && off == 0x044) || (m == 69 && off == 0x060) || (m == 177 && (off == 0x040 || off == 0x044))
    || (m == 179 && (off == 0x070 || off == 0x074 || off == 0x078)) || (m == 186 && (off == 0x04C || off == 0x054))

/-- The ranges of the card slot registers (R348, R349). -/
def cardRange (off : Nat) (v : Word32) : Bool :=
  if off = 0x040 then
    let mb := v.toNat / 2 ^ 16 % 256
    decide (1 ≤ mb) && decide (mb ≤ 20) && decide (1 ≤ v.toNat / 256 % 256) && decide (v.toNat % 8 ≠ 0)
  else if off = 0x048 then decide (100 ≤ v.toNat % 8192) && decide (v.toNat % 8192 ≤ 5000)
  else if off = 0x04C then decide (1 ≤ v.toNat % 1024) && decide (v.toNat % 1024 ≤ 600)
  else true

/-- A rule register: outside UPDATE, or frozen by LOCK, or raised to the frozen priority (R365, R366). -/
def ruleKind (d : Dev) (u : KwUnit) (off : Nat) (v : Word32) : Option Nat :=
  let k := kwOf d u
  let r := kwRuleOf u k.shadow ((off - 0x100) / 16)
  let live := kwRuleOf u k.rules ((off - 0x100) / 16)
  if !k.updating then some 5
  else if !(pageOf d (kwPage u)).lock then none
  else if r.priority == 7 || live.priority == 7 || (off % 16 == 0 && v.toNat / 2 ^ 28 % 8 == 7) then some 4
  else none

/-- The registers of a DMA channel while it runs (R379). -/
def chKind (d : Dev) (i off : Nat) (v : Word32) : Option Nat :=
  let o := (off - 0x100) % 32
  if (chOf d i ((off - 0x100) / 32)).state == .running && (o == 0 || o == 4 || (o == 8 && !v.getLsbD 1)) then some 5 else none

/-- The refusals of the register's own rule. -/
def ownKind (m off : Nat) (v : Word32) (d : Dev) : Option Nat :=
  if off = 0x018 then (if d.lc.state == .develop then none else some 6)
  else if commandOnly m off then some 5
  else if isKwPage m && decide (0x100 ≤ off) && decide (off < 0x500) then ruleKind d (pageKw m) off v
  else if m = 189 && decide (0x100 ≤ off) && decide (off < 0x200) then chKind d 4 off v
  else if isRegionPage m && pagePlace m == 4 && decide (0x100 ≤ off) && decide (off < 0x200) then chKind d (pageRegion m) off v
  else match fnPage m with
    | some f =>
      let x := fnOf d f
      if [0x040, 0x048, 0x04C, 0x050, 0x054].contains off && (x.enable || x.stopping) then some 5 else none
    | none =>
      if (m = 182 || m = 183) && !cardRange off v then some 5
      else if m = 184 && decide (0x040 ≤ off) && decide (off < 0x61C) && (rwpRefused d (9 + (off - 0x040) / 4)).isSome then some 5
      else if m = 186 && off == 0x040 && v.toNat % 16 == 15 then some 5
      else none

/-- The kind of refusal of a 32-bit or narrower write, none where it is admitted (R506, R507). -/
def writeKind (acc : Access) (m off len : Nat) (v : Word32) (d : Dev) : Option Nat :=
  if len < 4 then some 1
  else if off % 4 ≠ 0 then some 2
  else if !mayWrite acc m off d then some 3
  else ownKind m off v d

/-! ## What a write does -/

/-- A low word of an RW pair is held for its requester (R508). -/
def lowHold (acc : Access) (m off : Nat) (v : Word32) : Dev → Dev :=
  onPg (fun p => { p with lows := p.lows.filter (fun l => !(l.1 == reqKey acc && l.2.1 == pageBase m + off)) ++ [(reqKey acc, pageBase m + off, v)] })

/-- A write of the high word: both words, with the low word in force where none is held. -/
def pairCommit (acc : Access) (m off : Nat) (v : Word32) (act : Word64 → Dev → Dev) (d : Dev) : Dev :=
  let a := pageBase m + off - 4
  let mine := fun (l : Nat × Nat × Word32) => l.1 == reqKey acc && l.2.1 == a
  let low := ((d.pg.lows.find? mine).map (·.2.2)).getD (regVal d m (off - 4))
  onPg (fun p => { p with lows := p.lows.filter (fun l => !mine l) }) d |> act (v ++ low)

/-- IRQ_FORCE sets causes; a function's cause may raise its vector 0 (R501). -/
def irqForce (m : Nat) (v : Word32) (d : Dev) : Dev :=
  match fnPage m with
  | some f => forAll ((List.range 32).filter (fun b => v.getLsbD b)) (fnIrq f) d
  | none => onPage m (fun p => { p with irqRaw := p.irqRaw ||| v }) d

def kwCtrl (u : KwUnit) (v : Word32) : Dev → Dev :=
  if v.getLsbD 1 then kwAbort u else if v.getLsbD 0 then kwEnter u else kwCommit u

/-- A rule register of the shadow set (R363, R366). -/
def ruleSet (r : KwRule) (k : Nat) (v : Word32) : KwRule :=
  let n := v.toNat
  if k = 0 then { r with valid := v.getLsbD 31, priority := n / 2 ^ 28 % 8, base := n % 2 ^ 28 }
  else if k = 1 then { r with limit := n % 2 ^ 28 }
  else if k = 2 then { r with rights := v.extractLsb' 0 12 }
  else { r with midValue := byte (n / 2 ^ 24), midMask := byte (n / 2 ^ 16), tenantAny := v.getLsbD 6, tenant := n % 64 }

def ruleWrite (u : KwUnit) (off : Nat) (v : Word32) : Dev → Dev :=
  let n := (off - 0x100) / 16
  onKw u (fun k => { k with shadow := tput k.shadow n (ruleSet (kwRuleOf u k.shadow n) ((off - 0x100) % 16 / 4) v) })

/-- DMA_CHn_CTL (R380): the fields, then stop, then start. -/
def chCtl (acc : Access) (i ch : Nat) (v : Word32) (d : Dev) : Dev :=
  let n := v.toNat
  if (chOf d i ch).state == .running then chStopWrite i ch d
  else
    onCh i ch (fun c => { c with
      irqEn := v.getLsbD 11, priority := n / 256 % 8, skipBad := v.getLsbD 5, retry := n / 4 % 8 }) d
      |> doIf (v.getLsbD 0) (chStartWrite acc i ch)

def dmaWrite (acc : Access) (m i off : Nat) (v : Word32) (d : Dev) : Dev :=
  if off < 0x100 ∨ 0x200 ≤ off then d
  else
    let ch := (off - 0x100) / 32
    let o := (off - 0x100) % 32
    if o = 0 then lowHold acc m off v d
    else if o = 4 then pairCommit acc m off v (fun x => onCh i ch (fun c => { c with list := x.toNat % 2 ^ 40 / 64 * 64 })) d
    else if o = 8 then chCtl acc i ch v d
    else d

def ocdCtrl (c : CoreId) (v : Word32) (d : Dev) : Dev :=
  d |> (if v.getLsbD 0 then (if (coreOf d c).halt then id else coreHalt c) else (if (coreOf d c).halt then coreResume c else id))
    |> doIf (v.getLsbD 1) (coreStep c)

def fnWrite (acc : Access) (m f off : Nat) (v : Word32) (d : Dev) : Dev :=
  if off = 0x008 then (if v.getLsbD 0 then fnEnable f d else fnDisable f d)
  else if off = 0x040 then onFn f (fun x => { x with aqCfg := v }) d
  else if off = 0x048 ∨ off = 0x050 then lowHold acc m off v d
  else if off = 0x04C then pairCommit acc m off v (fun x => onFn f (fun y => { y with sqBase := x &&& ~~~ 0xFFF })) d
  else if off = 0x054 then pairCommit acc m off v (fun x => onFn f (fun y => { y with cqBase := x &&& ~~~ 0xFFF })) d
  else d

def crdWrite (s off : Nat) (v : Word32) (d : Dev) : Dev :=
  if off = 0x008 then
    d |> (if v.getLsbD 0 then cardEnable s else cardDisable s) |> doIf (v.getLsbD 1) (cardDeactivate s)
  else if off = 0x040 then onSlot s (fun x => { x with cfg := v &&& 0x00FFFF37 }) d
  else if off = 0x044 then onSlot s (fun x => { x with clkTail := v.toNat % 65536 }) d
  else if off = 0x048 then onSlot s (fun x => { x with vccSettle := v.toNat % 8192 }) d
  else if off = 0x04C then onSlot s (fun x => { x with wtxMax := v.toNat % 1024 }) d
  else d

def evrWrite (acc : Access) (m off : Nat) (v : Word32) (d : Dev) : Dev :=
  if off = 0x008 then d |> doIf (v.getLsbD 0) evrFlushWrite |> doIf (v.getLsbD 1) (verifyStart true)
  else if off = 0x080 then lowHold acc m off v d
  else if off = 0x084 then pairCommit acc m off v (fun x => onEvr (fun e => { e with spiPtr := x &&& 0xFFFFFFFFFF })) d
  else d

def cpmWrite (acc : Access) (off : Nat) (v : Word32) (d : Dev) : Dev :=
  if off = 0x008 then doIf (v.getLsbD 0) (cpmWarm acc) d
  else if off = 0x040 then pwrReqWrite acc (v.extractLsb' 0 4) d
  else d

/-- A write to CTRL or to a register of the block's own. -/
def blockWrite (acc : Access) (m off : Nat) (v : Word32) (d : Dev) : Dev :=
  if isKwPage m then
    (if off = 0x008 then kwCtrl (pageKw m) v d else if 0x100 ≤ off ∧ off < 0x500 then ruleWrite (pageKw m) off v d else d)
  else if isRegionPage m then
    let n := pageRegion m
    let p := pagePlace m
    if p = 0 then doIf (off == 8 && v.getLsbD 0) (dkFlush (rg n)) d
    else if p = 2 then doIf (off == 8 && v.getLsbD 0) (rngKatWrite (rg n)) d
    else if p = 3 then doIf (off == 0x040) (onTmb n (fun t => { t with tdSel := v.toNat % 4096 })) d
    else if p = 4 then dmaWrite acc m n off v d
    else doIf (decide (10 ≤ p) && off == 8) (ocdCtrl (pageCore m) v) d
  else if 70 ≤ m ∧ m ≤ 87 then doIf (off == 8 && v.getLsbD 0) (engAbort (m - 70) resRetry) d
  else if m = 89 then doIf (off == 0x040 && v.getLsbD 0) (onVlt (fun x => { x with pendingReg := true })) d
  else if m = 179 then evrWrite acc m off v d
  else if m = 180 then doIf (off == 8 && v.getLsbD 0) entKatWrite d
  else if m = 182 ∨ m = 183 then crdWrite (m - 182) off v d
  else if m = 184 then doIf (decide (0x040 ≤ off) && decide (off < 0x61C)) (rwpWrite (9 + (off - 0x040) / 4) v) d
  else if m = 186 then cpmWrite acc off v d
  else if m = 189 then dmaWrite acc m 4 off v d
  else match fnPage m with
    | some f => fnWrite acc m f off v d
    | none => d

/-- The effect of an admitted write (R7, R501, R503). -/
def regWrite (acc : Access) (m off : Nat) (v : Word32) (d : Dev) : Dev :=
  let d := unlatch acc m d
  if off = 0x010 then onPage m (fun p => { p with irqRaw := p.irqRaw &&& ~~~ v }) d
  else if off = 0x014 then onPage m (fun p => { p with irqMask := some v }) d
  else if off = 0x018 then irqForce m v d
  else if off = 0x01C then doIf (v.getLsbD 31) (errInfoClear m) d
  else if off = 0x02C then doIf (v.getLsbD 0) (onPage m (fun p => { p with lock := true })) d
  else blockWrite acc m off v d

/-- A write that has reached the page: refused with its kind, or made. -/
def pageWriteAt (acc : Access) (m off len : Nat) (v : Word32) (d : Dev) : Dev :=
  match writeKind acc m off len v d with
  | some k => logRefused acc m (pageBase m + off) k (unlatch acc m d)
  | none => regWrite acc m off v d

/-! ## The bus: keyways, then the page or the RAM behind the address -/

/-- How an access on the bus ends. -/
inductive BusEnd where
  | done
  | denied
  | refused
  | stalled
  deriving DecidableEq, Repr

/-- What the boot ROM holds is the part's own (log entry 358). -/
def romByte (a : Nat) : Byte := byte (Config.implValue 358 a)

/-- The passage of an access: a refusal by a keyway page's fixed check is a bus error, any other denial the unit's (R367). -/
def busPass (acc : Access) (a len : Nat) (kind : AccKind) (s : State) : BusEnd × State :=
  let own := match pageAt a with | some m => acc.master == 0x50 && fnPage m == some acc.fn | none => false
  if own then (.done, s)
  else
    let r := kwAccess acc a kind (Nat.log2 len) s.toDev
    match r.1 with
    | .allowed => (.done, { s with toDev := r.2 })
    | .denied => (if (pageAt a).any isKwPage then .refused else .denied, { s with toDev := r.2 })
    | .stalled => (.stalled, { s with toDev := r.2 })

/-- The 32-bit accesses that one access to a page is split into; a narrow one stays whole (R506). -/
def regPieces (len : Nat) : List (Nat × Nat) :=
  if len < 4 then [(0, len)] else (List.range (len / 4)).map (fun i => (4 * i, 4))

/-- Writes the pieces of an access to a page, to the first that is refused. -/
def wordsOut (acc : Access) (m off : Nat) (b : Bytes) : List (Nat × Nat) → State → BusEnd × State
  | [], s => (.done, s)
  | p :: ps, s =>
    let v := BitVec.ofNat 32 (leNat (slice b p.1 p.2))
    if (writeKind acc m (off + p.1) p.2 v s.toDev).isSome then (.refused, onDev (pageWriteAt acc m (off + p.1) p.2 v) s)
    else wordsOut acc m off b ps (withRegions (pageWriteAt acc m (off + p.1) p.2 v) s)

/-- Reads the pieces of an access to a page; a narrow read has the side effects of the whole register (R506). -/
def wordsIn (acc : Access) (m off : Nat) : List (Nat × Nat) → State → BusEnd × Bytes × State
  | [], s => (.done, [], s)
  | p :: ps, s =>
    let x := off + p.1
    match readKind acc m x p.2 s.toDev with
    | some k => (.refused, [], onDev (fun d => logRefused acc m (pageBase m + x) k (unlatch acc m d)) s)
    | none =>
      let r := regRead acc m (x / 4 * 4) s.toDev
      let rest := wordsIn acc m off ps { s with toDev := r.2 }
      (rest.1, slice (natLE r.1.toNat 4) (x % 4) p.2 ++ rest.2.1, rest.2.2)

/-- A write on the bus: RAM bytes, registers, or the boot ROM, which keeps its content. -/
def busWrite (acc : Access) (a : Nat) (b : Bytes) (s : State) : BusEnd × State :=
  match busPass acc a b.length .write s with
  | (.done, s1) =>
    match pageAt a with
    | some m => wordsOut acc m (a - pageBase m) b (regPieces b.length) s1
    | none => (.done, if isRam a then onMem (fun x => memSetN x a b) s1 else s1)
  | e => e

/-- A read on the bus. -/
def busRead (acc : Access) (a len : Nat) (s : State) : BusEnd × Bytes × State :=
  match busPass acc a len .read s with
  | (.done, s1) =>
    match pageAt a with
    | some m => wordsIn acc m (a - pageBase m) (regPieces len) s1
    | none => (.done, if isRam a then memGetN s1.mem a len else (List.range len).map (fun i => romByte (a + i)), s1)
  | (e, s1) => (e, [], s1)

/-! ## The rows of chapter 19 -/

/-- What the host sees of a write: nothing, or an error report (R507). -/
def hostWritten (acc : Access) (e : BusEnd) (s : State) : State :=
  if acc.master == 0x50 && (e == .denied || e == .refused) then onDev (fun d => aerSet acc.fn 15 d |> emit (.aer acc.fn)) s else s

/-- What the host sees of a read. -/
def hostRead (acc : Access) (e : BusEnd) (b : Bytes) (s : State) : State :=
  if acc.master != 0x50 then s
  else match e with
    | .done => onDev (emit (.readData (BitVec.ofNat 32 (leNat b)))) s
    | .stalled => s
    | _ => onDev (fun d => aerSet acc.fn 15 d |> emit .completerAbort) s

/-- EV_2201 of a refusal with no internal address (R507). -/
def logBar (acc : Access) (off kind : Nat) (d : Dev) : Dev :=
  logEv 0x2201 0x50 (kind * 2 ^ 24 + tagOf acc) off (2 ^ 31 + acc.fn) d |> aerSet acc.fn 15 |> emit (.aer acc.fn)

/-- The authority of a host access (R20). -/
def hostAcc (f : Nat) : Access := ⟨(fnOwner f).world, f, 0x50, f⟩

/-- The MSI-X table (R44, R62): word 3 of an entry is its control word, bit 0 its mask. -/
def msixWrite (f w : Nat) (v : Word32) (d : Dev) : Dev :=
  let e := w / 4
  if vecMax f < e then d
  else if w % 4 = 3 then
    if v.getLsbD 0 then onFn f (fun x => { x with vecMasked := tput x.vecMasked e true }) d
    else msixUnmask f (.unmaskVector e) d
  else onFn f (fun x => { x with msixTab := tput x.msixTab w v }) d

/-- A 32-bit or narrower write below the mirror: doorbells, the function page, MSI-X, reserved areas (R44, R45). -/
def barWrite (f off len : Nat) (v : Word32) (s : State) : State :=
  let acc := hostAcc f
  if 0x1000 ≤ off ∧ off < 0x2000 then
    let r := busWrite acc (pageBase (110 + f) + (off - 0x1000)) (natLE v.toNat len) s
    hostWritten acc r.1 r.2
  else if 0x10000 ≤ off then
    let m := (off - 0x10000) / 0x1000
    if f ≠ 0 then s
    else if m < 196 then
      let r := busWrite acc (pageBase m + off % 0x1000) (natLE v.toNat len) s
      hostWritten acc r.1 r.2
    else onDev (logBar acc off 7) s
  else if len < 4 then onDev (logBar acc off 1) s
  else if off % 4 ≠ 0 then onDev (logBar acc off 2) s
  else if off < 0x1000 then
    let q := off / 16
    if qpMax f < q then s
    else if off % 16 = 0 then onDev (sqTail f q v.toNat) s
    else if off % 16 = 4 then onDev (cqHead f q v.toNat) s
    else s
  else if off < 0x3000 then onDev (msixWrite f ((off - 0x2000) / 4) v) s
  else s

/-- Splits an access of 64 bits into words, each judged alone; an access that cannot be split is refused (R506). -/
def splitWrite (size : AccSize) (value : Word64) (aligned : Bool) (one : Nat → Nat → Word32 → State → State) (s : State) : State :=
  match size with
  | .b8 => if aligned then one 4 4 (value.extractLsb' 32 32) (one 0 4 (value.extractLsb' 0 32) s) else one 0 4 (value.extractLsb' 0 32) s
  | z => one 0 (sizeBytes z) (value.extractLsb' 0 32) s

def execRegisterWrite (acc : Access) (tgt : RegTarget) (size : AccSize) (value : BitVec 64) (s : State) : Ans :=
  match tgt with
  | .internal a =>
    if 2 ^ 40 ≤ a then .fault .addressBeyondMap
    else if dieRuns s.toDev then
      .next (splitWrite size value (a % 4 == 0) (fun i len v s =>
        let r := busWrite acc (a + i) (natLE v.toNat len) s
        hostWritten acc r.1 r.2) s)
    else .next s
  | .bar fn off =>
    if fnUp s.toDev fn then .next (splitWrite size value (off % 4 == 0) (fun i len v s => barWrite fn (off + i) len v s) s)
    else .next s

/-- A row that writes one register of a page. -/
def pageRow (acc : Access) (m off : Nat) (v : Word32) (s : State) : Ans :=
  if dieRuns s.toDev then
    let r := busWrite acc (pageBase m + off) (natLE v.toNat 4) s
    .next (hostWritten acc r.1 r.2)
  else .next s

def execIrqRawClear (acc : Access) (page : PageNo) (value : BitVec 32) (s : State) : Ans := pageRow acc page 0x010 value s
def execIrqForce (acc : Access) (page : PageNo) (value : BitVec 32) (s : State) : Ans := pageRow acc page 0x018 value s
def execPageLock (acc : Access) (page : PageNo) (s : State) : Ans := pageRow acc page 0x02C 1 s

/-- A read of a register. -/
def readRow (acc : Access) (addr : Nat) (s : State) : Ans :=
  if 2 ^ 40 ≤ addr then .fault .addressBeyondMap
  else if dieRuns s.toDev then
    let r := busRead acc addr 4 s
    .next (hostRead acc r.1 r.2.1 r.2.2)
  else .next s

def execLowWordRead (acc : Access) (addr : Addr) (s : State) : Ans := readRow acc addr s
def execRcRegisterRead (acc : Access) (addr : Addr) (s : State) : Ans := readRow acc addr s

/-- The page and offset of a persistent register (R513). -/
def rwpPlace (id : Nat) : Nat × Nat :=
  if 9 ≤ id then (184, 0x040 + 4 * (id - 9))
  else lget [(176, 0x044), (69, 0x060), (177, 0x040), (177, 0x044), (179, 0x070), (179, 0x074), (179, 0x078), (186, 0x04C), (186, 0x054)] id (176, 0x044)

def execRwpRegisterWrite (acc : Access) (id : Nat) (value : BitVec 32) (s : State) : Ans :=
  if id < 384 then pageRow acc (rwpPlace id).1 (rwpPlace id).2 value s else .next s

end Sys2Proof.Machine
end

