-- ==== Sys2Proof/Machine/Ocord.lean ====
section
/-! DEFINITION. How an Ocord core runs one instruction (R267 to R272, R281, R282, R292 to R295): the fetch and its checks, the
stacks with their spills and fills, loads and stores, and traps. An instruction takes effect whole, or traps with none, or
waits on a keyway unit in UPDATE. -/

namespace Sys2Proof.Machine


/-! ## The shape of an instruction -/

/-- What an instruction works on: the device (accesses count at the keyways), its task, the bytes that the host gives for
reads of MS, the stores it makes at its end, the groups spilled or filled, and the most cycles that it takes, none where R270 names
no bound. -/
structure OcdS where
  s : State
  core : CoreId
  no : Nat
  k : Task
  host : Bytes
  post : List (State → State)
  groups : Nat
  bound : Option Nat := some 1

/-- Why an instruction does not complete: a trap, a stall at a keyway unit, or a wait for random bytes. -/
inductive OcdEnd where
  | trap (cause kind seg off : Nat)
  | stall (x : Stalled)
  | reads (n : Nat)

abbrev Ocd := ExceptT OcdEnd (StateM OcdS)

def ocdTrap {α : Type} (cause : Nat) : Ocd α := throw (.trap cause 0 0 0)
def segFault {α : Type} (kind seg off : Nat) : Ocd α := throw (.trap 3 kind seg off)
def onK (f : Task → Task) : Ocd Unit := modify (fun o => { o with k := f o.k })
/-- An effect at the end of the instruction, after the task's own state is written. -/
def after (f : State → State) : Ocd Unit := modify (fun o => { o with post := o.post ++ [f] })
def afterD (f : Dev → Dev) : Ocd Unit := after (onDev f)

/-- The authority that a task's accesses carry (R20). -/
def taskAcc (o : OcdS) : Access := ⟨o.k.owner.world, o.k.owner.tenant, byte (coreMaster o.core), ownerFn o.k.owner⟩

/-- A transfer of the task's own. -/
def ownAccess (o : OcdS) (sg off a : Nat) (kind : AccKind) (size : Nat) : Stalled :=
  ⟨taskAcc o, a, kind, size, some (sg, off), true, some o.core⟩

def passAll (sg off : Nat) (kind : AccKind) : List (Nat × Nat) → Ocd Unit
  | [] => pure ()
  | p :: ps => do
    let o ← get
    let x := ownAccess o sg off p.1 kind (Nat.log2 p.2)
    let r := kwMeet x o.s.toDev
    match r.1 with
    | .allowed =>
      set { o with s := { o.s with toDev := r.2 } }
      passAll sg off kind ps
    | .denied =>
      set { o with s := { o.s with toDev := r.2 } }
      segFault 9 sg off
    | .stalled => throw (.stall x)

/-- The instruction takes at most `n` cycles, where nothing of it takes longer (R270). -/
def takes (n : Nat) : Ocd Unit := modify (fun o => { o with bound := o.bound.map (max n) })

/-- An address in the local memory of a core. -/
def isLocal (c : CoreId) (a : Nat) : Bool := decide (localBase c.region c.pos ≤ a) && decide (a < localBase c.region c.pos + localSize)

/-- Two cycles in the core's local memory; elsewhere an access takes what its path takes (R270). -/
def accessTakes (ms : Bool) (a : Nat) (kind : AccKind) : Ocd Unit :=
  modify (fun o => { o with bound := if kind == .execute then o.bound else if !ms && isLocal o.core a then o.bound.map (max 2) else none })

/-- One access: the checks of R282, then the keyways; MS goes to the host. -/
def access (sg : Nat) (right : Right) (off len align : Nat) (kind : AccKind) : Ocd Unit := do
  let o ← get
  match segCheck o.k sg right off len align with
  | some kd => segFault kd sg off
  | none =>
    accessTakes (segOf o.k sg).ms ((segOf o.k sg).base + off) kind
    if (segOf o.k sg).ms then pure () else passAll sg off kind (splitAt ((segOf o.k sg).base + off) len)

/-- Reads registers one by one. -/
def regsTake (m at_ : Nat) : List (Nat × Nat) → Ocd Bytes
  | [] => pure []
  | p :: ps => do
    let o ← get
    let x := at_ + p.1
    let r := regRead (taskAcc o) m (x / 4 * 4) o.s.toDev
    set { o with s := { o.s with toDev := r.2 } }
    pure (slice (natLE r.1.toNat 4) (x % 4) p.2 ++ (← regsTake m at_ ps))

/-- A load from a page: a refusal of one of its registers is a segment fault of kind 9 with no other effect (R294, R507). -/
def regsLoad (sg off m at_ : Nat) (ps : List (Nat × Nat)) : Ocd Bytes := do
  let o ← get
  let acc := taskAcc o
  match ps.findSome? (fun p => (readKind acc m (at_ + p.1) p.2 o.s.toDev).map (fun k => (at_ + p.1, k))) with
  | some (x, k) =>
    set { o with s := onDev (logRefused acc m (pageBase m + x) k) o.s }
    segFault 9 sg off
  | none => regsTake m at_ ps

/-- A store to a page, at the instruction's end: a refusal of one of its registers is a segment fault of kind 9, and then none
is written (R294, R506, R507). -/
def regsStore (sg off m at_ : Nat) (b : Bytes) : Ocd Unit := do
  let o ← get
  let acc := taskAcc o
  let one := fun (p : Nat × Nat) => pageWriteAt acc m (at_ + p.1) p.2 (BitVec.ofNat 32 (leNat (slice b p.1 p.2)))
  let bad := fun (p : Nat × Nat) => (writeKind acc m (at_ + p.1) p.2 (BitVec.ofNat 32 (leNat (slice b p.1 p.2))) o.s.toDev).isSome
  let ps := regPieces b.length
  match ps.find? bad with
  | some p =>
    set { o with s := withRegions (one p) o.s }
    segFault 9 sg off
  | none => after (withRegions (forAll ps one))

/-- The bytes behind a checked range: RAM, registers, the boot ROM, or what the host gives for MS. -/
def fetchBytes (sg off len : Nat) : Ocd Bytes := do
  let o ← get
  let a := (segOf o.k sg).base + off
  if (segOf o.k sg).ms then
    set { o with host := o.host.drop len }
    pure (fit o.host len)
  else if isRam a then pure (segLoad o.k sg off len o.s)
  else match pageAt a with
    | some m => regsLoad sg off m (a - pageBase m) (regPieces len)
    | none => pure ((List.range len).map (fun i => romByte (a + i)))

def loadBytes (sg off len align : Nat) : Ocd Bytes := do
  access sg .r off len align .read
  fetchBytes sg off len

def storeBytes (sg off align : Nat) (b : Bytes) : Ocd Unit := do
  access sg .w off b.length align .write
  let k := (← get).k
  let a := (segOf k sg).base + off
  if (segOf k sg).ms || isRam a then after (segStore k sg off b)
  else match pageAt a with
    | some m => regsStore sg off m (a - pageBase m) b
    | none => pure ()

/-! ## Stacks (R268, R269) -/

def wordsLE (b : Bytes) : List Word32 := (chunks 4 b).map (fun x => BitVec.ofNat 32 (leNat x))
def cellBytes (w : Word32) : Bytes := natLE w.toNat 4

def dsDepth (k : Task) : Nat := k.ds.length + k.dsp / 4
def rsDepth (k : Task) : Nat := k.rs.length + (segSize (segOf k sgSS) - k.rsp) / 4

/-- A group spilled or filled takes at most 12 cycles with SS in local memory (R270). -/
def countGroup : Ocd Unit := modify (fun o => { o with groups := o.groups + 1, bound := o.bound.map (· + 12) })

/-- Reads back groups of 8 data entries, deepest at the lowest address, until `n` are held. -/
def fillDs (n : Nat) : Nat → Ocd Unit
  | 0 => pure ()
  | f + 1 => do
    let k := (← get).k
    if n ≤ k.ds.length ∨ k.dsp = 0 then pure ()
    else
      let b ← loadBytes sgSS (k.dsp - 32) 32 4
      onK (fun x => { x with ds := x.ds ++ (wordsLE b).reverse, dsp := x.dsp - 32 })
      countGroup
      fillDs n f

/-- Reads back groups of 4 return entries, deepest at the highest address, until `n` are held. -/
def fillRs (n : Nat) : Nat → Ocd Unit
  | 0 => pure ()
  | f + 1 => do
    let k := (← get).k
    if n ≤ k.rs.length ∨ segSize (segOf k sgSS) ≤ k.rsp then pure ()
    else
      let b ← loadBytes sgSS k.rsp 16 4
      onK (fun x => { x with rs := x.rs ++ wordsLE b, rsp := x.rsp + 16 })
      countGroup
      fillRs n f

/-- `n` data entries are needed: cause 5 where the stack holds fewer. -/
def needDs (n : Nat) : Ocd Unit := do
  if dsDepth (← get).k < n then ocdTrap 5 else fillDs n 5

def needRs (n : Nat) : Ocd Unit := do
  if rsDepth (← get).k < n then ocdTrap 5 else fillRs n 5

def pop : Ocd Word32 := do
  let k := (← get).k
  onK (fun x => { x with ds := x.ds.drop 1 })
  pure (k.ds.headD 0)

def popR : Ocd Word32 := do
  let k := (← get).k
  onK (fun x => { x with rs := x.rs.drop 1 })
  pure (k.rs.headD 0)

/-- A double cell: the high cell on top. -/
def popD : Ocd Word64 := do
  let hi ← pop
  let lo ← pop
  pure (dbl lo hi)

/-- A push that finds 32 entries held spills the 8 deepest: cause 4 where the spill areas would meet. -/
def push (v : Word32) : Ocd Unit := do
  let k := (← get).k
  if 32 ≤ k.ds.length then
    let keep := k.ds.length - 8
    if k.rsp < k.dsp + 32 then ocdTrap 4
    storeBytes sgSS k.dsp 4 ((k.ds.drop keep).reverse.flatMap cellBytes)
    onK (fun x => { x with ds := x.ds.take keep, dsp := x.dsp + 32 })
    countGroup
  onK (fun x => { x with ds := v :: x.ds })

def pushR (v : Word32) : Ocd Unit := do
  let k := (← get).k
  if 16 ≤ k.rs.length then
    let keep := k.rs.length - 4
    if k.rsp < k.dsp + 16 then ocdTrap 4
    storeBytes sgSS (k.rsp - 16) 4 ((k.rs.drop keep).flatMap cellBytes)
    onK (fun x => { x with rs := x.rs.take keep, rsp := x.rsp - 16 })
    countGroup
  onK (fun x => { x with rs := v :: x.rs })

def pushD (d : Word64) : Ocd Unit := do
  push (dlo d)
  push (dhi d)

/-! ## Running one instruction -/

/-- The task that a core may run an instruction of: RUNNING, its end not decided, the core in service and not halted. Where the
task is to be cancelled or to move to another core, only the instruction in progress goes on (R304, R310). -/
def coreTask (d : Dev) (c : CoreId) : Option Nat :=
  let k := coreOf d c
  match k.task with
  | none => none
  | some t =>
    let x := taskOf d c.region t
    let free := x.stop.isNone && homeOf d c == some x.home
    if x.state == .running && x.ending.isNone && !k.out && !k.stopping && (!k.halt || k.step) && tmbRuns d c.region && (free || insHeld d c)
    then some t else none

/-- Fetch of an instruction of `len` bytes: the whole of it lies in CS (R282). -/
def fetchIns (len : Nat) : Ocd Unit := do
  let pc := (← get).k.pc
  access sgCS .x pc.toNat len 2 .execute
  onK (fun x => { x with pc := x.pc + BitVec.ofNat 32 len })

/-- Cycles that an instruction takes: within the bound of R270 and otherwise open (log entry 270). -/
def insCycles (n : Word64) (bound : Option Nat) : BitVec 48 :=
  let v := Config.implValue 270 n.toNat
  BitVec.ofNat 48 (1 + (match bound with | some m => v % m | none => v))

/-- A completed instruction: the task's state, then its stores and other effects. -/
def ocdDone (c : CoreId) (t : Nat) (o : OcdS) : State :=
  let s := onDev (fun d => kwForget (fun x => x.by_ == some c) d |> onTask c.region t (fun _ => { o.k with started := true })
    |> onCore c (fun x => { x with
        insns := x.insns + 1, cycles := x.cycles + insCycles x.insns o.bound, spills := x.spills + BitVec.ofNat 64 o.groups
        step := false, halted := x.halt })) o.s
  o.post.foldl (fun s f => f s) s

/-- A software read of `n` random bytes begins: it waits at its region's queue (R210). -/
def cpReadBegin (c : CoreId) (t n : Nat) (d : Dev) : Dev :=
  if (cpRead? d c).isSome then d
  else
    let cid := d.hif.nextCid
    let k : TaskRef := { region := c.region, task := t, cp := 5, resSeg := 0, resOff := 0, hs := none, number := coreMaster c, issue := 0 }
    onHif (fun h => { h with nextCid := h.nextCid + 1 }) d
      |> cmdEnter { cid := cid, code := 0xFF05, origin := .task k, stage := .running, scratch := [c.region.val, n, 0] }
      |> serveReads c.region |> endStarved c.region

def ocdRun (c : CoreId) (len : Nat) (host : Bytes) (body : Ocd Unit) (s : State) : State :=
  match coreTask s.toDev c with
  | none => s
  | some t =>
    let o : OcdS := { s := s, core := c, no := t, k := taskOf s.toDev c.region t, host := host, post := [], groups := 0 }
    let r : Except OcdEnd Unit × OcdS := (do fetchIns len; body : Ocd Unit) o
    match r.1 with
    | .ok _ => ocdDone c t r.2
    | .error (.trap cause kind sg off) => onDev (trapTask c t cause kind sg off) r.2.s
    | .error (.stall x) => onDev (stallAgain x) s
    | .error (.reads n) => onDev (cpReadBegin c t n) s

/-- A short form whose imm8 must be zero (R272). -/
def short0 (c : CoreId) (imm : BitVec 8) (body : Ocd Unit) (s : State) : Ans :=
  .next (ocdRun c 2 [] (if imm = 0 then body else ocdTrap 1) s)

/-- A short form that uses imm8. -/
def shortI (c : CoreId) (body : Ocd Unit) (s : State) : Ans := .next (ocdRun c 2 [] body s)
def shortH (c : CoreId) (host : Bytes) (body : Ocd Unit) (s : State) : Ans := .next (ocdRun c 2 host body s)
/-- A long form. -/
def longI (c : CoreId) (body : Ocd Unit) (s : State) : Ans := .next (ocdRun c 4 [] body s)
def longH (c : CoreId) (host : Bytes) (body : Ocd Unit) (s : State) : Ans := .next (ocdRun c 4 host body s)

/-! ## Shapes of the tables (R273 to R278) -/

/-- ( a -- r ) -/
def unary (f : Word32 → Word32) : Ocd Unit := do
  needDs 1
  let a ← pop
  push (f a)

/-- ( a b -- r ) -/
def binary (f : Word32 → Word32 → Word32) : Ocd Unit := do
  needDs 2
  let b ← pop
  let a ← pop
  push (f a b)

/-- Division and remainder: cause 6 by zero (R280). -/
def divide (f : Word32 → Word32 → Word32) : Ocd Unit := do
  takes 34
  needDs 2
  let b ← pop
  let a ← pop
  if b = 0 then ocdTrap 6
  push (f a b)

/-- ( d -- d ) -/
def unaryD (f : Word64 → Word64) : Ocd Unit := do
  needDs 2
  let a ← popD
  pushD (f a)

/-- ( d1 d2 -- d ) -/
def binaryD (f : Word64 → Word64 → Word64) : Ocd Unit := do
  needDs 4
  let b ← popD
  let a ← popD
  pushD (f a b)

/-- ( d1 d2 -- f ) -/
def compareD (f : Word64 → Word64 → Bool) : Ocd Unit := do
  needDs 4
  let b ← popD
  let a ← popD
  push (flag (f a b))

/-- ( d n -- d ) -/
def shiftD (f : Word64 → Nat → Word64) : Ocd Unit := do
  needDs 3
  let n ← pop
  let a ← popD
  pushD (f a (sh64 n))

/-- The program counter plus halfwords, from the next instruction (R271). -/
def branchBy (off : Word32) : Ocd Unit := do
  takes 2
  onK (fun x => { x with pc := x.pc + 2 * off })

/-- An offset taken from the stack with bit 0 set fails its execute check (R278). -/
def jumpTo (o : Word32) : Ocd Unit := do
  takes 2
  if o.getLsbD 0 then segFault 7 sgCS o.toNat
  onK (fun x => { x with pc := o })

/-- Pushes the next instruction's offset on the return stack. -/
def pushNext : Ocd Unit := do
  let k := (← get).k
  pushR k.pc

/-- Short loads: ( o -- x ), with the segment and scaled offset of imm8 (R277). -/
def effOff (o : Word32) (imm : BitVec 8) (w : Nat) : Nat := o.toNat + imm.toNat / 8 * w
def immSeg (imm : BitVec 8) : Nat := imm.toNat % 8

def loadOp (imm : BitVec 8) (w : Nat) (f : Nat → Word32) : Ocd Unit := do
  needDs 1
  let o ← pop
  let b ← loadBytes (immSeg imm) (effOff o imm w) w w
  push (f (leNat b))

def storeOp (imm : BitVec 8) (w : Nat) : Ocd Unit := do
  needDs 2
  let o ← pop
  let x ← pop
  storeBytes (immSeg imm) (effOff o imm w) w (natLE x.toNat w)

end Sys2Proof.Machine
end

