-- ==== Sys2Proof/Machine/Instrs.lean ====
section
/-! DEFINITION. The instructions of the Ocord cores, one meaning each (R272 to R280, R289 to R291, R296). -/

namespace Sys2Proof.Machine

/-! ## Stack instructions (R273) -/

def execNop (c : CoreId) (imm : BitVec 8) (s : State) : Ans := short0 c imm (pure ()) s
def execDrop (c : CoreId) (imm : BitVec 8) (s : State) : Ans :=
  short0 c imm (do
    needDs 1
    let _ ← pop) s
def execDup (c : CoreId) (imm : BitVec 8) (s : State) : Ans :=
  short0 c imm (do
    needDs 1
    let a ← pop
    push a
    push a) s
def execSwap (c : CoreId) (imm : BitVec 8) (s : State) : Ans :=
  short0 c imm (do
    needDs 2
    let b ← pop
    let a ← pop
    push b
    push a) s
def execOver (c : CoreId) (imm : BitVec 8) (s : State) : Ans :=
  short0 c imm (do
    needDs 2
    let b ← pop
    let a ← pop
    push a
    push b
    push a) s
def execRot (c : CoreId) (imm : BitVec 8) (s : State) : Ans :=
  short0 c imm (do
    needDs 3
    let z ← pop
    let y ← pop
    let x ← pop
    push y
    push z
    push x) s
def execNip (c : CoreId) (imm : BitVec 8) (s : State) : Ans :=
  short0 c imm (do
    needDs 2
    let b ← pop
    let _ ← pop
    push b) s
def execTuck (c : CoreId) (imm : BitVec 8) (s : State) : Ans :=
  short0 c imm (do
    needDs 2
    let b ← pop
    let a ← pop
    push b
    push a
    push b) s
/-- Copies entry imm8, 0 to 31. -/
def execPick (c : CoreId) (imm : BitVec 8) (s : State) : Ans :=
  shortI c (do
    if 32 ≤ imm.toNat then ocdTrap 1
    needDs (imm.toNat + 1)
    let k := (← get).k
    push (k.ds.getD imm.toNat 0)) s
def execDepth (c : CoreId) (imm : BitVec 8) (s : State) : Ans :=
  short0 c imm (do
    let k := (← get).k
    push (BitVec.ofNat 32 (dsDepth k))) s
def execTwoDrop (c : CoreId) (imm : BitVec 8) (s : State) : Ans :=
  short0 c imm (do
    needDs 2
    let _ ← popD) s
def execTwoDup (c : CoreId) (imm : BitVec 8) (s : State) : Ans :=
  short0 c imm (do
    needDs 2
    let d ← popD
    pushD d
    pushD d) s
def execTwoSwap (c : CoreId) (imm : BitVec 8) (s : State) : Ans :=
  short0 c imm (do
    needDs 4
    let b ← popD
    let a ← popD
    pushD b
    pushD a) s
def execTwoOver (c : CoreId) (imm : BitVec 8) (s : State) : Ans :=
  short0 c imm (do
    needDs 4
    let b ← popD
    let a ← popD
    pushD a
    pushD b
    pushD a) s
def execToR (c : CoreId) (imm : BitVec 8) (s : State) : Ans :=
  short0 c imm (do
    needDs 1
    let a ← pop
    pushR a) s
def execRFrom (c : CoreId) (imm : BitVec 8) (s : State) : Ans :=
  short0 c imm (do
    needRs 1
    let a ← popR
    push a) s
def execRFetch (c : CoreId) (imm : BitVec 8) (s : State) : Ans :=
  short0 c imm (do
    needRs 1
    let k := (← get).k
    push (k.rs.headD 0)) s
def execTwoToR (c : CoreId) (imm : BitVec 8) (s : State) : Ans :=
  short0 c imm (do
    needDs 2
    let hi ← pop
    let lo ← pop
    pushR lo
    pushR hi) s
def execTwoRFrom (c : CoreId) (imm : BitVec 8) (s : State) : Ans :=
  short0 c imm (do
    needRs 2
    let hi ← popR
    let lo ← popR
    push lo
    push hi) s
def execRdrop (c : CoreId) (imm : BitVec 8) (s : State) : Ans :=
  short0 c imm (do
    needRs 1
    let _ ← popR) s

/-! ## Single cells (R274) -/

def execAdd (c : CoreId) (imm : BitVec 8) (s : State) : Ans := short0 c imm (binary (fun a b => a + b)) s
def execSub (c : CoreId) (imm : BitVec 8) (s : State) : Ans := short0 c imm (binary (fun a b => a - b)) s
def execMul (c : CoreId) (imm : BitVec 8) (s : State) : Ans := short0 c imm (do takes 2; binary (fun a b => a * b)) s
def execMulhu (c : CoreId) (imm : BitVec 8) (s : State) : Ans := short0 c imm (do takes 2; binary mulHu) s
def execMulhs (c : CoreId) (imm : BitVec 8) (s : State) : Ans := short0 c imm (do takes 2; binary mulHs) s
def execDivu (c : CoreId) (imm : BitVec 8) (s : State) : Ans := short0 c imm (divide (fun a b => a.udiv b)) s
def execDivs (c : CoreId) (imm : BitVec 8) (s : State) : Ans := short0 c imm (divide (fun a b => a.sdiv b)) s
def execModu (c : CoreId) (imm : BitVec 8) (s : State) : Ans := short0 c imm (divide (fun a b => a.umod b)) s
def execMods (c : CoreId) (imm : BitVec 8) (s : State) : Ans := short0 c imm (divide (fun a b => a.srem b)) s
def execAnd (c : CoreId) (imm : BitVec 8) (s : State) : Ans := short0 c imm (binary (fun a b => a &&& b)) s
def execOr (c : CoreId) (imm : BitVec 8) (s : State) : Ans := short0 c imm (binary (fun a b => a ||| b)) s
def execXor (c : CoreId) (imm : BitVec 8) (s : State) : Ans := short0 c imm (binary (fun a b => a ^^^ b)) s
def execNot (c : CoreId) (imm : BitVec 8) (s : State) : Ans := short0 c imm (unary (fun a => ~~~a)) s
def execNeg (c : CoreId) (imm : BitVec 8) (s : State) : Ans := short0 c imm (unary (fun a => 0 - a)) s
def execShl (c : CoreId) (imm : BitVec 8) (s : State) : Ans := short0 c imm (binary (fun a n => a <<< sh32 n)) s
def execShru (c : CoreId) (imm : BitVec 8) (s : State) : Ans := short0 c imm (binary (fun a n => a >>> sh32 n)) s
def execShrs (c : CoreId) (imm : BitVec 8) (s : State) : Ans := short0 c imm (binary (fun a n => a.sshiftRight (sh32 n))) s
def execRotl (c : CoreId) (imm : BitVec 8) (s : State) : Ans := short0 c imm (binary (fun a n => a.rotateLeft (sh32 n))) s
def execEq (c : CoreId) (imm : BitVec 8) (s : State) : Ans := short0 c imm (binary (fun a b => flag (a == b))) s
def execNe (c : CoreId) (imm : BitVec 8) (s : State) : Ans := short0 c imm (binary (fun a b => flag (a != b))) s
def execLtu (c : CoreId) (imm : BitVec 8) (s : State) : Ans := short0 c imm (binary (fun a b => flag (a.ult b))) s
def execLts (c : CoreId) (imm : BitVec 8) (s : State) : Ans := short0 c imm (binary (fun a b => flag (a.slt b))) s
def execGtu (c : CoreId) (imm : BitVec 8) (s : State) : Ans := short0 c imm (binary (fun a b => flag (b.ult a))) s
def execGts (c : CoreId) (imm : BitVec 8) (s : State) : Ans := short0 c imm (binary (fun a b => flag (b.slt a))) s
def execEqz (c : CoreId) (imm : BitVec 8) (s : State) : Ans := short0 c imm (unary (fun a => flag (a == 0))) s
def execClz (c : CoreId) (imm : BitVec 8) (s : State) : Ans := short0 c imm (unary clz) s
def execPopc (c : CoreId) (imm : BitVec 8) (s : State) : Ans := short0 c imm (unary popc) s
def execBswap (c : CoreId) (imm : BitVec 8) (s : State) : Ans := short0 c imm (unary bswap) s
def execSel (c : CoreId) (imm : BitVec 8) (s : State) : Ans :=
  short0 c imm (do
    needDs 3
    let f ← pop
    let b ← pop
    let a ← pop
    push (if f = 0 then b else a)) s
def execAddc (c : CoreId) (imm : BitVec 8) (s : State) : Ans :=
  short0 c imm (do
    needDs 2
    let b ← pop
    let a ← pop
    push (a + b)
    push (carry a b)) s
def execSubb (c : CoreId) (imm : BitVec 8) (s : State) : Ans :=
  short0 c imm (do
    needDs 2
    let b ← pop
    let a ← pop
    push (a - b)
    push (borrow a b)) s

/-! ## Double cells (R275) -/

def execDadd (c : CoreId) (imm : BitVec 8) (s : State) : Ans := short0 c imm (binaryD (fun a b => a + b)) s
def execDsub (c : CoreId) (imm : BitVec 8) (s : State) : Ans := short0 c imm (binaryD (fun a b => a - b)) s
def execDmul (c : CoreId) (imm : BitVec 8) (s : State) : Ans := short0 c imm (do takes 4; binaryD (fun a b => a * b)) s
def execUmul (c : CoreId) (imm : BitVec 8) (s : State) : Ans :=
  short0 c imm (do
    takes 2
    needDs 2
    let b ← pop
    let a ← pop
    pushD (a.zeroExtend 64 * b.zeroExtend 64)) s
def execDneg (c : CoreId) (imm : BitVec 8) (s : State) : Ans := short0 c imm (unaryD (fun a => 0 - a)) s
def execDand (c : CoreId) (imm : BitVec 8) (s : State) : Ans := short0 c imm (binaryD (fun a b => a &&& b)) s
def execDor (c : CoreId) (imm : BitVec 8) (s : State) : Ans := short0 c imm (binaryD (fun a b => a ||| b)) s
def execDxor (c : CoreId) (imm : BitVec 8) (s : State) : Ans := short0 c imm (binaryD (fun a b => a ^^^ b)) s
def execDshl (c : CoreId) (imm : BitVec 8) (s : State) : Ans := short0 c imm (shiftD (fun a n => a <<< n)) s
def execDshru (c : CoreId) (imm : BitVec 8) (s : State) : Ans := short0 c imm (shiftD (fun a n => a >>> n)) s
def execDshrs (c : CoreId) (imm : BitVec 8) (s : State) : Ans := short0 c imm (shiftD (fun a n => a.sshiftRight n)) s
def execDeq (c : CoreId) (imm : BitVec 8) (s : State) : Ans := short0 c imm (compareD (fun a b => a == b)) s
def execDltu (c : CoreId) (imm : BitVec 8) (s : State) : Ans := short0 c imm (compareD (fun a b => a.ult b)) s
def execDlts (c : CoreId) (imm : BitVec 8) (s : State) : Ans := short0 c imm (compareD (fun a b => a.slt b)) s
def execDeqz (c : CoreId) (imm : BitVec 8) (s : State) : Ans :=
  short0 c imm (do
    needDs 2
    let a ← popD
    push (flag (a == 0))) s
def execUext (c : CoreId) (imm : BitVec 8) (s : State) : Ans :=
  short0 c imm (do
    needDs 1
    let a ← pop
    pushD (a.zeroExtend 64)) s
def execSext (c : CoreId) (imm : BitVec 8) (s : State) : Ans :=
  short0 c imm (do
    needDs 1
    let a ← pop
    pushD (a.signExtend 64)) s
def execDlow (c : CoreId) (imm : BitVec 8) (s : State) : Ans :=
  short0 c imm (do
    needDs 2
    let a ← popD
    push (dlo a)) s
def execDsel (c : CoreId) (imm : BitVec 8) (s : State) : Ans :=
  short0 c imm (do
    needDs 5
    let f ← pop
    let b ← popD
    let a ← popD
    pushD (if f = 0 then b else a)) s

/-! ## Immediates (R276) -/

def execLit (c : CoreId) (imm : BitVec 8) (s : State) : Ans := shortI c (push (sx8 imm)) s
def execLitu (c : CoreId) (imm : BitVec 8) (s : State) : Ans := shortI c (push (zx8 imm)) s
def execAddi (c : CoreId) (imm : BitVec 8) (s : State) : Ans := shortI c (unary (fun a => a + sx8 imm)) s
def execAndi (c : CoreId) (imm : BitVec 8) (s : State) : Ans := shortI c (unary (fun a => a &&& zx8 imm)) s
/-- A shift by imm8, 0 to 31 (R272). -/
def shiftImm (imm : BitVec 8) (f : Word32 → Nat → Word32) : Ocd Unit :=
  if 32 ≤ imm.toNat then ocdTrap 1 else unary (fun a => f a imm.toNat)
def execShli (c : CoreId) (imm : BitVec 8) (s : State) : Ans := shortI c (shiftImm imm (fun a n => a <<< n)) s
def execShrui (c : CoreId) (imm : BitVec 8) (s : State) : Ans := shortI c (shiftImm imm (fun a n => a >>> n)) s
def execShrsi (c : CoreId) (imm : BitVec 8) (s : State) : Ans := shortI c (shiftImm imm (fun a n => a.sshiftRight n)) s
def execEqi (c : CoreId) (imm : BitVec 8) (s : State) : Ans := shortI c (unary (fun a => flag (a == sx8 imm))) s

/-! ## Loads and stores (R277) -/

def execLdb (c : CoreId) (imm : BitVec 8) (host : List Byte) (s : State) : Ans := shortH c host (loadOp imm 1 (fun n => BitVec.ofNat 32 n)) s
def execLdbs (c : CoreId) (imm : BitVec 8) (host : List Byte) (s : State) : Ans := shortH c host (loadOp imm 1 (fun n => (BitVec.ofNat 8 n).signExtend 32)) s
def execLdh (c : CoreId) (imm : BitVec 8) (host : List Byte) (s : State) : Ans := shortH c host (loadOp imm 2 (fun n => BitVec.ofNat 32 n)) s
def execLdhs (c : CoreId) (imm : BitVec 8) (host : List Byte) (s : State) : Ans := shortH c host (loadOp imm 2 (fun n => (BitVec.ofNat 16 n).signExtend 32)) s
def execLdw (c : CoreId) (imm : BitVec 8) (host : List Byte) (s : State) : Ans := shortH c host (loadOp imm 4 (fun n => BitVec.ofNat 32 n)) s
def execLdd (c : CoreId) (imm : BitVec 8) (host : List Byte) (s : State) : Ans :=
  shortH c host (do
    needDs 1
    let o ← pop
    let b ← loadBytes (immSeg imm) (effOff o imm 8) 8 8
    pushD (BitVec.ofNat 64 (leNat b))) s
def execStb (c : CoreId) (imm : BitVec 8) (s : State) : Ans := shortI c (storeOp imm 1) s
def execSth (c : CoreId) (imm : BitVec 8) (s : State) : Ans := shortI c (storeOp imm 2) s
def execStw (c : CoreId) (imm : BitVec 8) (s : State) : Ans := shortI c (storeOp imm 4) s
def execStd (c : CoreId) (imm : BitVec 8) (s : State) : Ans :=
  shortI c (do
    needDs 3
    let o ← pop
    let d ← popD
    storeBytes (immSeg imm) (effOff o imm 8) 8 (natLE d.toNat 8)) s

/-! ## Branches and control (R278) -/

def execBr (c : CoreId) (imm : BitVec 8) (s : State) : Ans := shortI c (branchBy (sx8 imm)) s
/-- ( f -- ) and a branch where `c` holds of f. -/
def branchIf (p : Word32 → Bool) (off : Word32) : Ocd Unit := do
  needDs 1
  let f ← pop
  if p f then branchBy off
def execBz (c : CoreId) (imm : BitVec 8) (s : State) : Ans := shortI c (branchIf (fun f => f == 0) (sx8 imm)) s
def execBnz (c : CoreId) (imm : BitVec 8) (s : State) : Ans := shortI c (branchIf (fun f => f != 0) (sx8 imm)) s
def callBy (off : Word32) : Ocd Unit := do
  pushNext
  branchBy off
def execCalls (c : CoreId) (imm : BitVec 8) (s : State) : Ans := shortI c (callBy (sx8 imm)) s
def execRet (c : CoreId) (imm : BitVec 8) (s : State) : Ans :=
  short0 c imm (do
    needRs 1
    let o ← popR
    jumpTo o) s
def execCallx (c : CoreId) (imm : BitVec 8) (s : State) : Ans :=
  short0 c imm (do
    needDs 1
    let o ← pop
    if o.getLsbD 0 then segFault 7 sgCS o.toNat
    pushNext
    jumpTo o) s
def execJmpx (c : CoreId) (imm : BitVec 8) (s : State) : Ans :=
  short0 c imm (do
    needDs 1
    let o ← pop
    jumpTo o) s
/-- Cause 7, with imm8 as its code. -/
def execTrap (c : CoreId) (imm : BitVec 8) (s : State) : Ans := shortI c (throw (.trap 7 0 0 imm.toNat)) s

/-! ## Events and waiting (R288 to R291) -/

def homeCount (o : OcdS) : Word32 := (tget (regionOf o.s.toDev o.core.region).cores o.k.home {}).sev
def pendingNow (o : OcdS) : Bool := o.k.latch || o.k.seen != homeCount o

/-- The task clears its latch and copies its home slot's count. -/
def takeEvent : Ocd Unit := modify (fun o => { o with k := { o.k with latch := false, seen := homeCount o } })

/-- The task becomes WAITING and gives up the core. -/
def startWait (w : WaitKind) (wake : Nat) : Ocd Unit := do
  let o ← get
  onK (fun x => { x with state := .waiting, wait := w, wake := wake })
  afterD (fun d => onCore o.core (fun x => { x with task := none, waits := x.waits + 1 }) d)

def execWfe (c : CoreId) (imm : BitVec 8) (s : State) : Ans :=
  short0 c imm (do
    if pendingNow (← get) then takeEvent else startWait .event 0) s
def execSev (c : CoreId) (imm : BitVec 8) (s : State) : Ans :=
  short0 c imm (do
    needDs 1
    let m ← pop
    let o ← get
    afterD (fun d => forAll ((List.range 7).filter (fun p => m.getLsbD p))
          (fun p => onCoreP o.core.region p (fun x => { x with sev := x.sev + 1 })) d |> wakeTasks o.core.region)) s
def execWuntil (c : CoreId) (imm : BitVec 8) (s : State) : Ans :=
  short0 c imm (do
    needDs 2
    let d ← popD
    let o ← get
    if d.toNat ≤ nowTb o.s.toDev then pure () else startWait .until_ d.toNat) s
def execWfeu (c : CoreId) (imm : BitVec 8) (s : State) : Ans :=
  short0 c imm (do
    needDs 2
    let d ← popD
    let o ← get
    if pendingNow o then
      takeEvent
      push 1
    else if d.toNat ≤ nowTb o.s.toDev then push 0
    else startWait .eventUntil d.toNat) s
def execTime (c : CoreId) (imm : BitVec 8) (s : State) : Ans :=
  short0 c imm (do
    let o ← get
    pushD (BitVec.ofNat 64 (nowTb o.s.toDev))) s
/-- The task stays READY behind the tasks of its priority. -/
def execYield (c : CoreId) (imm : BitVec 8) (s : State) : Ans :=
  short0 c imm (do
    let o ← get
    afterD (fun d => onCore o.core (fun x => { x with task := none }) d |> makeReady o.core.region o.no)) s
/-- The task ends once nothing of it is outstanding (R296). -/
def execExit (c : CoreId) (imm : BitVec 8) (s : State) : Ans :=
  short0 c imm (do
    let o ← get
    afterD (taskEnding o.core.region o.no .exit)) s
/-- Every store is visible once it is made (R283). -/
def execFence (c : CoreId) (imm : BitVec 8) (s : State) : Ans := short0 c imm (pure ()) s

/-! ## Long forms (R279) -/

def execLit24 (c : CoreId) (imm : BitVec 24) (s : State) : Ans := longI c (push (sx24 imm)) s
def execLit24u (c : CoreId) (imm : BitVec 24) (s : State) : Ans := longI c (push (zx24 imm)) s
def execHi8 (c : CoreId) (imm : BitVec 24) (s : State) : Ans :=
  longI c (if 256 ≤ imm.toNat then ocdTrap 1 else unary (fun a => (a &&& 0x00FFFFFF) ||| (zx24 imm <<< 24))) s
def execAddi24 (c : CoreId) (imm : BitVec 24) (s : State) : Ans := longI c (unary (fun a => a + sx24 imm)) s
def execBrl (c : CoreId) (imm : BitVec 24) (s : State) : Ans := longI c (branchBy (sx24 imm)) s
def execBzl (c : CoreId) (imm : BitVec 24) (s : State) : Ans := longI c (branchIf (fun f => f == 0) (sx24 imm)) s
def execBnzl (c : CoreId) (imm : BitVec 24) (s : State) : Ans := longI c (branchIf (fun f => f != 0) (sx24 imm)) s
def execCall (c : CoreId) (imm : BitVec 24) (s : State) : Ans := longI c (callBy (sx24 imm)) s

/-- Segment, width and offset of LDA and STA. -/
def ldaSeg (imm : BitVec 24) : Nat := imm.toNat / 2 ^ 21
def ldaWidth (imm : BitVec 24) : Nat := 2 ^ (imm.toNat / 2 ^ 19 % 4)
def ldaOff (imm : BitVec 24) : Nat := imm.toNat % 2 ^ 19

def execLda (c : CoreId) (imm : BitVec 24) (host : List Byte) (s : State) : Ans :=
  longH c host (do
    let b ← loadBytes (ldaSeg imm) (ldaOff imm) (ldaWidth imm) (ldaWidth imm)
    if ldaWidth imm = 8 then pushD (BitVec.ofNat 64 (leNat b)) else push (BitVec.ofNat 32 (leNat b))) s

def execSta (c : CoreId) (imm : BitVec 24) (s : State) : Ans :=
  longI c (do
    needDs (if ldaWidth imm = 8 then 2 else 1)
    if ldaWidth imm = 8 then
      let d ← popD
      storeBytes (ldaSeg imm) (ldaOff imm) 8 (natLE d.toNat 8)
    else
      let x ← pop
      storeBytes (ldaSeg imm) (ldaOff imm) (ldaWidth imm) (natLE x.toNat (ldaWidth imm))) s

def execSeginfo (c : CoreId) (imm : BitVec 24) (s : State) : Ans :=
  longI c (do
    if 8 ≤ imm.toNat then ocdTrap 1
    let g := segOf (← get).k imm.toNat
    push (BitVec.ofNat 32 g.limit)
    push (g.rights.zeroExtend 32)) s

/-- The task constants (R279). -/
def taskConst (o : OcdS) (i : Nat) : Nat :=
  match i with
  | 0 => o.no
  | 1 => coreMaster o.core
  | 2 => tagOf (taskAcc o)
  | 3 => o.k.session.toNat
  | 4 => o.k.priority
  | 5 => o.k.home
  | 6 => rsDepth o.k
  | _ => o.core.region.val

def execGetc (c : CoreId) (imm : BitVec 24) (s : State) : Ans :=
  longI c (do
    if 8 ≤ imm.toNat then ocdTrap 1
    push (BitVec.ofNat 32 (taskConst (← get) imm.toNat))) s

/-! ## Undefined opcodes (R272, R284) -/

/-- The opcodes that the tables define; a coprocessor instruction also names an operation of R286. -/
def opDefined (op : Nat) (imm : BitVec 24) : Bool :=
  let o := imm.toNat % 256
  op ≤ 0x13 || (0x20 ≤ op && op ≤ 0x3E) || (0x40 ≤ op && op ≤ 0x52) || (0x60 ≤ op && op ≤ 0x67) || (0x70 ≤ op && op ≤ 0x75)
    || (0x78 ≤ op && op ≤ 0x7B) || (0x80 ≤ op && op ≤ 0x83) || (0x90 ≤ op && op ≤ 0x9B)
    || (op == 0xE0 && 1 ≤ o && o ≤ 6) || (0xE1 ≤ op && op ≤ 0xE4 && o == 1) || (0xE5 ≤ op && op ≤ 0xE7 && 1 ≤ o && o ≤ 2)
    || (0xE8 ≤ op && op ≤ 0xEF) || (0xF0 ≤ op && op ≤ 0xFB)

def execUndefinedOpcode (c : CoreId) (opcode : Byte) (imm : BitVec 24) (s : State) : Ans :=
  if opDefined opcode.toNat imm then .next s
  else .next (ocdRun c (if opcode.toNat < 0xE0 then 2 else 4) [] (ocdTrap 1) s)

/-- Coprocessors 8 to 15 of a part without the mask option: cause 2. -/
def execUndefCp (c : CoreId) (cp : BitVec 4) (_imm : BitVec 24) (s : State) : Ans :=
  if cp.toNat < 8 then .next s else longI c (ocdTrap 2) s

end Sys2Proof.Machine
end

