-- ==== Sys2Proof/Machine/Coproc.lean ====
section
/-! DEFINITION. The coprocessors of the Ocord cores (R284 to R287, R126, R156, R193, R210, R373). -/

namespace Sys2Proof.Machine

/-! ## Handle slots (R286) -/

/-- The checks of an HS slot that is read or written. -/
def slotCheck (n : Word32) (kind : AccKind) : Ocd Unit := access sgHS .h (8 * n.toNat) 8 8 kind

/-- The segment's checks alone, of an access that the instruction makes later. -/
def segOnly (sg : Nat) (right : Right) (off len align : Nat) : Ocd Unit := do
  match segCheck (← get).k sg right off len align with
  | some kd => segFault kd sg off
  | none => pure ()

def slotBytes (n : Word32) : Ocd Bytes := do
  let o ← get
  pure (segLoad o.k sgHS (8 * n.toNat) 8 o.s)

/-- The handle of a slot operand: 0xFFFF_FFFF gives 0. -/
def slotHandle (n : Word32) : Ocd Word64 := do
  if n = 0xFFFFFFFF then pure 0
  else
    slotCheck n .read
    pure (BitVec.ofNat 64 (leNat (← slotBytes n)))

def slotWrite (n : Word32) (b : Bytes) : Ocd Unit := do
  let k := (← get).k
  after (segStore k sgHS (8 * n.toNat) b)

def pushSt (st : BitVec 16) : Ocd Unit := push (st.zeroExtend 32)

/-! ## Issue (R285) -/

/-- Segments that a command block may name. -/
def cpSeg (n : Nat) : Bool := n == sgDS || n == sgMS || n == sgXS

/-- A command for the engine of a coprocessor. -/
def cpTakes (cp : Nat) (code : Nat) : Bool :=
  if cp = 0 then classOf code == 2
  else if cp = 1 then classOf code == 5
  else if cp = 2 then classOf code == 3
  else if cp = 3 then classOf code == 4
  else [0x0701, 0x0702, 0x0705].contains code

def cpLimit (cp : Nat) : Nat := if cp = 1 ∨ cp = 2 then 8 else 4

/-- Outstanding commands of a task at a coprocessor (R287). -/
def cpOutstanding (d : Dev) (r t cp : Nat) : Nat :=
  count (taskCmds d r t) (fun c => match c.origin with | .task k => k.cp == cp | .host => false)

/-- What a core command's checks of R22 answer before its own. -/
def cpGate (d : Dev) (c : Cmd) : Option (Res × (Dev → Dev)) :=
  if !portOk d c then some (resErr stWorld 0, logEv 0x2101 0x50 c.fn (classOf c.code) c.code)
  else if !lifecycleOk d c then some (resErr stState 0, log5104 c.code c.fn 3)
  else if isSensitive d c && !quorumLive d then some (resErr stWorld 0, logEv 0x2102 0x50 c.code 0 0)
  else if !codeKnown c.code then some (resErr stParam (unknownDetail c.code), id)
  else none

/-- Where a core command waits: its own region's pipeline or digest engine. -/
def cpLoc (d : Dev) (r : Region) (c : Cmd) : Option Loc :=
  if isTxn c.code then (if boltUp d r then some (.boltQ r c.prio) else none)
  else if isDig c.code then (if digUp d r then some (.digQ r (pickLane d r) c.prio) else none)
  else some .none

/-- Forwards a command to its engine. -/
def cpForward (r : Region) (c0 : Cmd) (d : Dev) : Dev :=
  let c := { c0 with cid := d.hif.nextCid }
  let d := onHif (fun h => { h with nextCid := h.nextCid + 1 }) d
  match cpGate d c with
  | some (res, log) => cmdEnter { c with stage := .done res } (log d)
  | none =>
    match cpLoc d r c with
    | some l => cmdEnter { c with loc := l, qmask := if isSensitive d c then quorumMask d else 0 } d
    | none => cmdEnter { c with stage := .done (resErr stState 0) } (log5104 c.code c.fn 4 d)

/-- The authority of an engine that serves a task's command (R20). -/
def engAcc (o : OcdS) (master : Nat) : Access := { taskAcc o with master := byte master }

/-- An engine's accesses meet the keyways: false where a unit denies one (R367). -/
def engPass (acc : Access) (kind : AccKind) : List (Nat × Nat) → Ocd Bool
  | [] => pure true
  | p :: ps => do
    let o ← get
    let x : Stalled := ⟨acc, p.1, kind, Nat.log2 p.2, none, true, some o.core⟩
    let r := kwMeet x o.s.toDev
    match r.1 with
    | .allowed =>
      set { o with s := { o.s with toDev := r.2 } }
      engPass acc kind ps
    | .denied =>
      set { o with s := { o.s with toDev := r.2 } }
      pure false
    | .stalled => throw (.stall x)

def segWord (sg off : Nat) : Word64 := BitVec.ofNat 64 (sg * 2 ^ 40 + off)

/-- The digest engine's read of a descriptor, a fragment or a slot: its bytes, or what the failure is reported by (R186). -/
def fragLoad (sg : Nat) (right : Right) (off len align : Nat) : Ocd (Except Word64 Bytes) := do
  let o ← get
  let g := segOf o.k sg
  match segCheck o.k sg right off len align with
  | some _ => pure (.error (segWord sg off))
  | none =>
    if !g.ms && !(← engPass (engAcc o (0x2C + o.core.region.val)) .read (splitAt (g.base + off) len)) then pure (.error fragDenied)
    else tryCatch (do pure (.ok (← fetchBytes sg off len))) (fun e => match e with
      | .trap .. => pure (.error (segWord sg off))
      | e => throw e)

/-- What a fragment of a core command gives: its data, its key's handle, or the address of a failed check. -/
def takeFrag (b : Bytes) : Ocd Frag := do
  let f : Frag := ⟨b, [], none⟩
  if fragKind f = 1 then
    match segRel (fragSource f), fragLenOk f with
    | some (sg, off), true =>
      match ← fragLoad sg .r off (fragLen f) 1 with
      | .ok x => pure { f with data := x }
      | .error a => pure { f with err := some a }
    | _, _ => pure f
  else if fragKind f = 2 then
    match ← fragLoad sgHS .h (8 * fragSource f) 8 8 with
    | .ok x => pure { f with bytes := x ++ b.drop 8 }
    | .error a => pure { f with bytes := [], err := some a }
  else pure f

/-- The fragment list of a core command, to the first that cannot be read (R184, R186). -/
def gather : Nat → Nat → Ocd (List Frag)
  | 0, _ => pure []
  | n + 1, a =>
    match segRel a with
    | none => pure [⟨zeros 32, [], none⟩]
    | some (sg, off) => do
      match ← fragLoad sg .r off 32 1 with
      | .error a => pure [⟨[], [], some a⟩]
      | .ok b =>
        let f ← takeFrag b
        if f.err.isSome || fragLast ⟨b, [], none⟩ || !fragNextOk false ⟨b, [], none⟩ then pure [f]
        else
          let fs ← gather n (fragNext ⟨b, [], none⟩)
          pure (f :: fs)

/-- The command that a block spells, issued by the running task. -/
def blockCmd (o : OcdS) (cp : Nat) (b : Bytes) (ha hb : Word64) (res : Word32) (hs : Option Nat) : Cmd :=
  let k : TaskRef := { region := o.core.region, task := o.no, cp := cp, resSeg := ptrSeg res, resOff := ptrOff res, hs := hs
                       number := coreMaster o.core, issue := o.k.issued }
  { entryCmd o.s.toDev (ownerFn o.k.owner) 0 (o.k.priority / 4) b with
    origin := .task k, ha := ha, hb := hb, owner := o.k.owner, accepted := true, stage := .waiting, crc := 0 }

/-- A refused issue: the status on the stack and in `res`, and nothing else. -/
def refuseIssue (res : Word32) (st : BitVec 16) : Ocd Unit := do
  if cpSeg (ptrSeg res) then storeBytes (ptrSeg res) (ptrOff res) 1 (natLE st.toNat 2)
  pushSt st

/-- The pointer of a block names one of the task's segments DS, MS, XS; of a DIG command any segment (R126, R193). -/
def relOk (code : Nat) (p : Word64) : Bool :=
  match segRel p.toNat with | some (sg, _) => isDig code || cpSeg sg | none => false

/-- The form of a core command that its issue checks (R126, R285). -/
def issueOk (o : OcdS) (cp imm : Nat) (b : Bytes) (c : Cmd) : Bool :=
  let makes := createsKey o.s.toDev c
  entryClean b && (isDig c.code || !c.flags.getLsbD 0) && !c.flags.getLsbD 1
    && c.session == o.k.session
    && cpTakes cp c.code && (if makes then imm != 0xFFFF else cp == 0 || imm == 0xFFFF)
    && (c.inLen == 0 || isDig c.code || relOk c.code c.inPtr) && (c.outCap == 0 || relOk c.code c.outPtr)

def relSeg (p : Word64) : Nat := ((segRel p.toNat).map (·.1)).getD 0
def relOff (p : Word64) : Nat := ((segRel p.toNat).map (·.2)).getD 0

/-- Bytes of an expected MAC at out_ptr (R188). -/
def macLen (c : Cmd) : Nat := if c.code = 0x0503 then par c 68 4 else 0

/-- The barrel engine that serves a command: its workspace's, or one that its program may run on. DESIGN CHOICE (log entry 367):
the lowest of those. -/
def cpEngine (d : Dev) (c : Cmd) : Nat :=
  match (if 0x0410 ≤ c.code then wsOf d c.session else none), progFind d (par c 64 2) with
  | some w, _ => w.engine.val
  | none, some p => ((List.range 18).find? (eligible d p)).getD 0
  | none, none => 0

/-- The master ID of the engine that serves a coprocessor's command (R20). DESIGN CHOICE (log entry 367): the key store has
none, and its accesses carry the core's. -/
def cpMaster (o : OcdS) (cp : Nat) (c : Cmd) : Nat :=
  let r := o.core.region.val
  if cp = 1 then 0x2C + r else if cp = 2 then 0x28 + r else if cp = 3 then 0x30 + cpEngine o.s.toDev c
  else if cp = 4 then 0x48 else coreMaster o.core

/-- An engine's access behind a pointer of the block: the segment's checks trap, the keyways' denial does not. -/
def engAccess (master : Nat) (p : Word64) (right : Right) (len : Nat) (kind : AccKind) : Ocd Bool := do
  let o ← get
  let g := segOf o.k (relSeg p)
  match segCheck o.k (relSeg p) right (relOff p) len 1 with
  | some kd => segFault kd (relSeg p) (relOff p)
  | none =>
    if len = 0 ∨ g.ms then pure true else engPass (engAcc o master) kind (splitAt (g.base + relOff p) len)

def engLoad (master : Nat) (p : Word64) (len : Nat) : Ocd (Option Bytes) := do
  if len = 0 then pure (some [])
  else if ← engAccess master p .r len .read then pure (some (← fetchBytes (relSeg p) (relOff p) len))
  else pure none

/-- A command whose engine a keyway unit denies: ST_WORLD and no other effect; where the denial was not the output's, the
output buffer's content is free (R367). -/
def engDenied (c : Cmd) (outOk : Bool) (k : Task) (s : State) : State :=
  let s := if !outOk || c.outCap = 0 then s else
    let f := takeFree c.outCap s.toDev
    segStore k (relSeg c.outPtr) (relOff c.outPtr) f.1 { s with toDev := f.2 }
  onDev (fun d => onHif (fun h => { h with nextCid := h.nextCid + 1 }) d
    |> cmdEnter { c with cid := d.hif.nextCid, stage := .done (resErr stWorld 0) }) s

/-- An issue operation: checks, the block, the handles, `res` pending, and the command on its way. -/
def issue (cp imm : Nat) (blk res hsa hsb : Word32) : Ocd Unit := do
  if !(cpSeg (ptrSeg blk) && cpSeg (ptrSeg res)) then refuseIssue res stParam
  else
    segOnly (ptrSeg blk) .r (ptrOff blk) 128 1
    segOnly (ptrSeg res) .w (ptrOff res) 32 1
    let b ← loadBytes (ptrSeg blk) (ptrOff blk) 128 1
    if !(slice b 16 16).all (· = 0) then refuseIssue res stParam
    else
    let ha ← slotHandle hsa
    let hb ← slotHandle hsb
    let o ← get
    let c := blockCmd o cp b ha hb res (if imm = 0xFFFF then none else some imm)
    if !issueOk o cp imm b c then refuseIssue res stParam
    else if cpLimit cp ≤ cpOutstanding o.s.toDev o.core.region o.no cp then refuseIssue res stRetry
    else
      let eng := cpMaster o cp c
      if createsKey o.s.toDev c then slotCheck (BitVec.ofNat 32 imm) .write
      let inp ← engLoad eng c.inPtr (if isDig c.code then 0 else c.inLen)
      let frags ← (if classOf c.code = 5 ∧ par c 72 8 ≠ 0 then gather 65536 c.inPtr.toNat else pure [])
      let mac ← engLoad eng c.outPtr (if macLen c ≤ 64 ∧ macLen c ≤ c.outCap then macLen c else 0)
      let outOk ← (if c.outCap = 0 ∨ c.code = 0x0503 then pure true else engAccess eng c.outPtr .w c.outCap .write)
      let hs := if createsKey o.s.toDev c then some imm else none
      let c := { c with taskIn := inp.getD [], taskFrags := frags, taskOut := mac.getD []
                        origin := match c.origin with | .task k => .task { k with hs := hs } | x => x }
      onK (fun x => { x with issued := x.issued + 1 })
      storeBytes (ptrSeg res) (ptrOff res) 1 (natLE 0xFFFF 2 ++ zeros 30)
      if inp.isNone || mac.isNone || !outOk then after (engDenied c outOk o.k)
      else afterD (cpForward o.core.region c)
      pushSt stOk

/-- A coprocessor instruction. -/
def cpOp (c : CoreId) (host : Bytes) (body : Ocd Unit) (s : State) : Ans := longH c host body s

/-- An operation whose imm16 must be a given value (R272, R286). -/
def needImm (imm v : BitVec 16) (body : Ocd Unit) : Ocd Unit := if imm = v then body else ocdTrap 1

/-! ## The operations (R286) -/

/-- KS_CMD ( blk res hsa hsb -- st ) -/
def execKsCmd (c : CoreId) (imm16 : BitVec 16) (host : List Byte) (s : State) : Ans :=
  cpOp c host (do
    needDs 4
    let hsb ← pop
    let hsa ← pop
    let res ← pop
    let blk ← pop
    issue 0 imm16.toNat blk res hsa hsb) s

/-- DG_CMD ( blk res hsa -- st ) -/
def execDgCmd (c : CoreId) (imm16 : BitVec 16) (host : List Byte) (s : State) : Ans :=
  cpOp c host (do
    needDs 3
    let hsa ← pop
    let res ← pop
    let blk ← pop
    issue 1 imm16.toNat blk res hsa 0xFFFFFFFF) s

/-- BL_CMD ( blk res hsa hsb -- st ) -/
def execBlCmd (c : CoreId) (imm16 : BitVec 16) (host : List Byte) (s : State) : Ans :=
  cpOp c host (needImm imm16 0xFFFF (do
    needDs 4
    let hsb ← pop
    let hsa ← pop
    let res ← pop
    let blk ← pop
    issue 2 imm16.toNat blk res hsa hsb)) s

/-- BR_CMD ( blk res hsa -- st ) -/
def execBrCmd (c : CoreId) (imm16 : BitVec 16) (host : List Byte) (s : State) : Ans :=
  cpOp c host (do
    needDs 3
    let hsa ← pop
    let res ← pop
    let blk ← pop
    issue 3 imm16.toNat blk res hsa 0xFFFFFFFF) s

/-- VL_CMD ( blk res -- st ) -/
def execVlCmd (c : CoreId) (imm16 : BitVec 16) (host : List Byte) (s : State) : Ans :=
  cpOp c host (needImm imm16 0xFFFF (do
    needDs 2
    let res ← pop
    let blk ← pop
    issue 4 imm16.toNat blk res 0xFFFFFFFF 0xFFFFFFFF)) s

/-- KS_HCOPY ( src dst -- st ) -/
def execKsHcopy (c : CoreId) (imm16 : BitVec 16) (s : State) : Ans :=
  cpOp c [] (needImm imm16 0 (do
    needDs 2
    let dst ← pop
    let src ← pop
    slotCheck src .read
    slotCheck dst .write
    slotWrite dst (← slotBytes src)
    pushSt stOk)) s

/-- KS_HCLR ( n -- st ) -/
def execKsHclr (c : CoreId) (imm16 : BitVec 16) (s : State) : Ans :=
  cpOp c [] (needImm imm16 0 (do
    needDs 1
    let n ← pop
    slotCheck n .write
    slotWrite n (zeros 8)
    pushSt stOk)) s

/-- KS_HEQ ( a b -- f ) -/
def execKsHeq (c : CoreId) (imm16 : BitVec 16) (s : State) : Ans :=
  cpOp c [] (needImm imm16 0 (do
    needDs 2
    let b ← pop
    let a ← pop
    slotCheck a .read
    slotCheck b .read
    let x ← slotBytes a
    let y ← slotBytes b
    push (flag (x == y)))) s

/-- A pointer that must lie in MS: kind 5 elsewhere. -/
def needMs (p : Word32) : Ocd Unit := if ptrSeg p = sgMS then pure () else segFault 5 (ptrSeg p) (ptrOff p)

/-- KS_HIN ( p n -- st ) -/
def execKsHin (c : CoreId) (imm16 : BitVec 16) (host : List Byte) (s : State) : Ans :=
  cpOp c host (needImm imm16 0 (do
    needDs 2
    let n ← pop
    let p ← pop
    needMs p
    access sgMS .r (ptrOff p) 8 8 .read
    slotCheck n .write
    slotWrite n (← fetchBytes sgMS (ptrOff p) 8)
    pushSt stOk)) s

/-- KS_HOUT ( n p -- st ) -/
def execKsHout (c : CoreId) (imm16 : BitVec 16) (s : State) : Ans :=
  cpOp c [] (needImm imm16 0 (do
    needDs 2
    let p ← pop
    let n ← pop
    needMs p
    slotCheck n .read
    storeBytes sgMS (ptrOff p) 8 (← slotBytes n)
    pushSt stOk)) s

/-- A software read of coprocessor 5 that the queue of region `r` can answer at once (R210). -/
def cpRandom (r : Region) (n : Nat) (d : Dev) : Option ((BitVec 16 × Bytes) × Dev) :=
  let q := (regionOf d r).drbg.queue
  if (regionOf d r).drbg.stopped then some ((stEntropy, []), d)
  else if n ≤ q.length then
    some ((stOk, q.take n), onDrbg r (fun g => { g with queue := q.drop n, swBytes := g.swBytes + BitVec.ofNat 64 n }) d)
  else if drbgRefuses d r then some ((stEntropy, []), onDrbg r (fun g => { g with queue := [] }) d)
  else none

/-- Random bytes for an instruction: it takes them at once, or waits at the queue until its read ends (R210). -/
def takeRandom (n : Nat) : Ocd (BitVec 16 × Bytes) := do
  let o ← get
  match cpRead? o.s.toDev o.core with
  | some c =>
    match c.stage with
    | .done r =>
      set { o with s := onDev (cmdDrop c.cid) o.s }
      pure (r.status, r.out)
    | _ => throw (.reads n)
  | none =>
    match cpRandom o.core.region n o.s.toDev with
    | some x =>
      set { o with s := { o.s with toDev := x.2 } }
      pure x.1
    | none => throw (.reads n)

/-- RN_READ ( p len -- st ) -/
def execRnRead (c : CoreId) (imm16 : BitVec 16) (s : State) : Ans :=
  cpOp c [] (needImm imm16 0 (do
    needDs 2
    let len ← pop
    let p ← pop
    if len.toNat < 4 ∨ 256 < len.toNat then pushSt stParam
    else
      segOnly (ptrSeg p) .w (ptrOff p) len.toNat 1
      let x ← takeRandom len.toNat
      if x.1 = stOk then storeBytes (ptrSeg p) (ptrOff p) 1 x.2
      pushSt x.1)) s

/-- RN_WORD ( -- x st ) -/
def execRnWord (c : CoreId) (imm16 : BitVec 16) (s : State) : Ans :=
  cpOp c [] (needImm imm16 0 (do
    push 0
    push 0
    let x ← takeRandom 4
    onK (fun k => { k with ds := x.1.zeroExtend 32 :: BitVec.ofNat 32 (leNat x.2) :: k.ds.drop 2 }))) s

/-- DM_START ( p ch -- st ) (R373) -/
def execDmStart (c : CoreId) (imm16 : BitVec 16) (s : State) : Ans :=
  cpOp c [] (needImm imm16 0 (do
    needDs 2
    let ch ← pop
    let p ← pop
    let o ← get
    let i := o.core.region.val
    if 8 ≤ ch.toNat ∨ ptrOff p % 64 ≠ 0 then pushSt stParam
    else if !o.k.dmaGrant.testBit ch.toNat then pushSt stWorld
    else if chBusy (chOf o.s.toDev i ch.toNat) then pushSt stRetry
    else
      afterD (fun d => chStartTask i ch.toNat o.no (taskOf d i o.no) (ptrSeg p * 2 ^ 56 + ptrOff p) d)
      pushSt stOk)) s

/-- DM_STATUS ( ch -- x ): the channel's status word; beyond channel 7 the manual gives none. -/
def execDmStatus (c : CoreId) (imm16 : BitVec 16) (s : State) : Ans :=
  cpOp c [] (needImm imm16 0 (do
    needDs 1
    let ch ← pop
    let o ← get
    push (BitVec.ofNat 32 (if ch.toNat < 8 then chStatus (chOf o.s.toDev o.core.region.val ch.toNat) else Config.implValue 286 ch.toNat)))) s

/-- EV_WRITE ( a b c code -- st ) -/
def execEvWrite (c : CoreId) (imm16 : BitVec 16) (s : State) : Ans :=
  cpOp c [] (if 8 ≤ imm16.toNat then ocdTrap 1 else do
    needDs 4
    let code ← pop
    let p3 ← pop
    let p2 ← pop
    let p1 ← pop
    let o ← get
    if code.toNat < 0x9000 ∨ 0x9FFF < code.toNat then pushSt stParam
    else
      afterD (logSev (BitVec.ofNat 3 imm16.toNat) code.toNat (coreMaster o.core) p1.toNat p2.toNat p3.toNat)
      pushSt stOk) s

/-- EV_SEQ ( -- d ) -/
def execEvSeq (c : CoreId) (imm16 : BitVec 16) (s : State) : Ans :=
  cpOp c [] (needImm imm16 0 (do
    let o ← get
    pushD (BitVec.ofNat 64 (o.s.evr.nextSeq % 2 ^ 40)))) s

end Sys2Proof.Machine
end

