-- ==== Sys2Proof/Machine/Sessions.lean ====
section
/-! DEFINITION. The end of sessions and of functions: SESSION_CLOSE (R66), the number of VFs (R42, R43), and the resets of
the link and of functions (R74). -/

namespace Sys2Proof.Machine

/-! ## Closing a session (R66) -/

/-- Hooks still registered complete with ST_ABORTED (R240). -/
def hooksAbort (p : Cmd → Bool) (d : Dev) : Dev :=
  forAll (d.hif.cmds.filter (fun c => isRunning c && c.code == 0x0703 && p c)) (fun c => finish c.cid (resErr stAborted 0)) d

/-- The session with pool index `i` ends: its workspace, its volatile keys and its replay cache go, and its index is free. -/
def closeSess (i : Nat) (d : Dev) : Dev :=
  let s := sessOf d i
  let id := sessId i s
  d |> wsDrop id |> deleteSessionKeys id
    |> onHif (fun h => { h with
        sess := tput h.sess i { gen := s.gen, fn := s.fn }
        freed := if s.isOpen then h.freed ++ [i] else h.freed })

/-- SESSION_CLOSE: the target was marked at acceptance; it closes once its accepted commands have completed. -/
def bodySessionClose (c : Cmd) (_ : HostRead) : Run Res := do
  let id := BitVec.ofNat 32 (par c 64 4)
  if c.session != 0 || id == 0 then wrongState c 1
  need (zeroPar c 68 128) stParam 0
  let d ← get
  match sessNamed d c.fn id with
  | none => wrongState c 1
  | some s =>
    if s.closing != some c.cid then wrongState c 1
    eff (hooksAbort (fun x => isHost x && x.fn == c.fn && x.session == id))
    let d ← get
    if (sessLive d c.fn id).isEmpty then
      eff (closeSess (id.toNat % 65536))
      pure resOk
    else throw (.wait [])

def execSessionClose (cid : Nat) (hr : HostRead) (s : State) : Ans :=
  nextT (fun d => instanceCheck (runCmd 0x0011 cid hr false bodySessionClose d)) s

/-! ## Resets of functions (R74) -/

/-- The commands of a function: those not running are gone, and with them a QUEUE_DELETE, whose pair goes now; other
running ones complete unposted. -/
def cmdsReset (f : Nat) : Dev → Dev :=
  onHif (fun h => { h with
    cmds := (h.cmds.filter (fun c => !(isHost c && c.fn == f && (!isRunning c || c.code == 0x0002)))).map (fun c =>
      if isHost c && c.fn == f then { c with silent := true, accepted := true, dupOf := none } else c) })

/-- The sessions of a function close, and its control session starts again. -/
def closeAll (f : Nat) (d : Dev) : Dev :=
  forAll ((openSess d).filter (fun p => p.2.fn == f)) (fun p => closeSess p.1) d
    |> onHif (fun h => { h with ctl := tdel h.ctl f })

/-- Steps 1 to 5 of R74. -/
def fnReset (f : Nat) (d : Dev) : Dev :=
  d |> forAll (qpsOf d f) (qpStop f)
    |> resetTasks f
    |> hooksAbort (fun x => isHost x && x.fn == f)
    |> doIf (f == 0) cerDrop |> cmdsReset f |> closeAll f |> fnClear f |> instanceCheck

/-- The functions that exist. -/
def fnsThere (d : Dev) : List Nat := (List.range 64).filter (fnThere d)

/-- VF Enable is cleared (R74); NumVFs stays as host software set it. -/
def vfsOff : Dev → Dev := onHif (fun h => { h with vfEnable := false })

def flrVf (f : Nat) (d : Dev) : Dev :=
  if isVf f && fnConfig d f then fnReset f d |> logEv 0x5120 0x50 f 0 0 else d

def flrPf (d : Dev) : Dev :=
  if fnConfig d 0 then
    let fs := fnsThere d
    forAll fs fnReset d |> vfsOff |> forAll fs (fun f => logEv 0x5120 0x50 f 0 0)
  else d

/-- A hot reset or a link down; `up` is the link's state before it, which the command brings. DESIGN CHOICE (log entry 76):
EV_5121 gives that state as 1 for up and 0 for down, an encoding the manual does not state. -/
def linkReset (up stays : Bool) (d : Dev) : Dev :=
  forAll (fnsThere d) fnReset d |> vfsOff |> onHif (fun h => { h with linkUp := stays })
    |> logEv 0x5121 0x50 (b2n up) 0 0

def execFlrVf (fn : Fn) (s : State) : Ans := nextT (flrVf fn) s
def execFlrPf (s : State) : Ans := nextT flrPf s
def execHotReset (linkUp : Bool) (s : State) : Ans :=
  nextT (fun d => doIf (d.cpm.power == .ready) (linkReset linkUp true) d) s
def execLinkDown (linkUp : Bool) (s : State) : Ans :=
  nextT (fun d => doIf (d.cpm.power == .ready) (linkReset linkUp false) d) s
/-- Assertion of pcie_perst_n acts as a link down (R517). -/
def execPciePerst (linkUp : Bool) (s : State) : Ans :=
  nextT (fun d => doIf (d.cpm.power == .ready) (linkReset linkUp false) d) s

/-! ## Configuration requests (R42, R43) -/

/-- NumVFs or VF Enable takes a new value; VFs that so cease to exist go as by a function level reset, with no event.
DESIGN CHOICE (log entry 42): the manual says nothing of a VF removed so. -/
def setVfs (n : Nat) (on : Bool) (d : Dev) : Dev :=
  forAll ((fnsThere d).filter (fun f => decide (1 ≤ f) && (!on || decide (n < f)))) fnReset d
    |> onHif (fun h => { h with numVfs := n, vfEnable := on })

/-- What a function's configuration space reads (R41, R42, R62): a BAR reads as after all ones were written, its size
above the attributes of a 64-bit memory BAR without prefetch; BAR1 is the high half of BAR0. -/
def cfgValue (d : Dev) (f : Nat) (item : CfgItem) : Nat :=
  let x := fnOf d f
  match item with
  | .totalVfs => if isVf f then 0 else 63
  | .firstVfOffset => if isVf f then 0 else 1
  | .vfStride => if isVf f then 0 else 1
  | .numVfs => if isVf f then 0 else d.hif.numVfs
  | .vfEnable => if isVf f then 0 else b2n d.hif.vfEnable
  | .bar n =>
    if n = 0 then 2 ^ 32 - (if isVf f then 0x10000 else 0x1000000) + 4 else if n = 1 then 0xFFFFFFFF else 0
  | .maxPayload => x.maxPayload
  | .maxReadRequest => x.maxReadRequest
  | .ecrc => b2n x.ecrcGen + 2 * b2n x.ecrcCheck
  | .aer => x.aer.toNat
  | .power => if x.d3hot then 3 else 0
  | .msix => b2n x.msixEnable * 2 + b2n x.funcMask

/-- The effect of a configuration write (R41, R42, R62); a value out of its range has none. -/
def configWrite (fn : Nat) (req : ConfigReq) (d : Dev) : Dev :=
  match req with
  | .setNumVfs n => if fn = 0 ∧ n ≤ 63 then setVfs n d.hif.vfEnable d else d
  | .setVfEnable on => if fn = 0 then setVfs d.hif.numVfs on d else d
  | .setMsix enable mask => onFn fn (fun x => { x with msixEnable := enable, funcMask := mask }) d |> sendPending fn
  | .setMaxPayload b => if b = 128 ∨ b = 256 then onFn fn (fun x => { x with maxPayload := b }) d else d
  | .setMaxReadRequest b =>
    if [128, 256, 512, 1024, 2048, 4096].contains b then onFn fn (fun x => { x with maxReadRequest := b }) d else d
  | .setEcrc gen check => onFn fn (fun x => { x with ecrcGen := gen, ecrcCheck := check }) d
  | .setPower d3 => onFn fn (fun x => { x with d3hot := d3 }) d |> sendPending fn
  | .clearAer bits => onFn fn (fun x => { x with aer := x.aer &&& ~~~ bits }) d
  | .read _ => d
  | .other => d

def configRequest (fn : Nat) (req : ConfigReq) (d : Dev) : Dev :=
  if d.cpm.power == .mainOff || d.cpm.power == .porLow then d
  else if d.cpm.power != .ready then emit (.configRetry fn) d
  else
    let d := onHif (fun h => { h with linkUp := true }) d
    if !fnThere d fn then d
    else match req with
    | .read item => emit (.configData fn (BitVec.ofNat 64 (cfgValue d fn item))) d
    | _ => configWrite fn req d |> emit (.configDone fn)

def execConfigRequest (fn : Fn) (req : ConfigReq) (s : State) : Ans := nextT (configRequest fn req) s

end Sys2Proof.Machine
end

