-- ==== Sys2Proof/Machine/Envelope.lean ====
section
/-! DEFINITION. The tamper envelope and the battery domain (chapter 15): trips and their grades, the responses, tamper
hold, mesh sampling, calibration, the strike file. -/

namespace Sys2Proof.Machine

/-! ## Grades and scopes (R414, R438) -/

/-- Two bits per class. -/
def gradeIn (w : Word32) (cls : Nat) : Nat := w.toNat / 4 ^ cls % 4

def gradeFloor (cls : Nat) : Nat :=
  if [8, 9, 14].contains cls then 3 else if cls = 5 then 2 else if [0, 2, 3, 4, 6].contains cls then 1 else 0

/-- The region of a G1 response, none for the die. -/
def tripScope (cls inst : Nat) : Option Nat :=
  if [2, 3, 4].contains cls then (if 5 ≤ inst ∧ inst ≤ 8 then some (inst - 5) else none)
  else if cls = 5 then (if inst < 192 then some (inst / 48) else none)
  else if cls = 6 ∨ cls = 7 then (if inst < 12 then some (inst / 3) else none)
  else none

/-- Instances that R414 gives a class; the main rails are those of the electrical characteristics (R514). -/
def tripInstance (cls inst : Nat) : Bool :=
  if cls = 2 then 3 ≤ inst && inst ≤ 11
  else if cls = 3 then (3 ≤ inst && inst ≤ 13) || inst == 17
  else if cls = 4 then 3 ≤ inst && inst ≤ 13
  else if cls = 5 then inst ≤ 255
  else if cls = 6 ∨ cls = 7 then inst ≤ 15
  else if cls = 8 then inst ≤ 3
  else if cls = 0 then inst ≤ 6
  else inst == 0

/-- The next sensor of the same group (R417). -/
def neighbour (k : Nat) : Nat := if k < 12 then k / 3 * 3 + (k % 3 + 1) % 3 else 12 + (k - 12 + 1) % 4

def loopOn (mask cls : Nat) : Bool := !(10 ≤ cls && cls ≤ 13) || mask.testBit (cls - 10)

/-- The tamper sequencer is live (R431). -/
def seqLive (d : Dev) : Bool := !(d.cpm.power == .mainOff || d.cpm.power == .porLow || d.cpm.power == .heldAfterFlush)

/-- A sensor that the sequencer watches: a loop enabled, a temperature sensor neither held out nor calibrating. -/
def seqWatches (d : Dev) (cls inst : Nat) : Bool :=
  seqLive d && tripInstance cls inst && loopOn (rwpVal d rwpLoopCfg).toNat cls
    && !((cls == 6 || cls == 7) && (d.tmp.heldOut.contains inst || d.tmp.calibrating == some inst))

/-- The grade in force (R425, R516, R438). -/
def tripGrade (d : Dev) (cls reading : Nat) : Nat :=
  if cls = 1 then (if d.bat.onVbat && (decide (reading < 2020) || decide (3890 < reading)) then 3 else 0)
  else if cls = 0 && d.cpm.pfFlushing then 0
  else gradeIn (rwpVal d rwpGrades) cls

/-! ## The strike file (R426, R430) -/

/-- The first 32 bits of KMAC128 under the envelope key over ZXEK. -/
def envCheck (key : Bytes) : Word32 := BitVec.ofNat 32 (leNat (kmac128 key (ascii "ZXEK") 4 []))

def envErase : Dev → Dev := onBat (fun b => { b with envelope := zeros 32, keyErased := true, g3Done := true })

/-- A trip is latched in the summary (R420 step 2, R426). -/
def summaryLatch (cls grade : Nat) (onBattery : Bool) (d : Dev) : Dev :=
  onBat (fun b => { b with
    mask := b.mask ||| BitVec.ofNat 16 (2 ^ cls), grade := max b.grade grade, onBattery := b.onBattery || onBattery
    firstTime := if b.mask == 0 then b.rtc.toNat % 2 ^ 40 else b.firstTime }) d

def histWrite (f : HistS → HistS) (d : Dev) : Dev := onTmp (fun t => { t with hist := f t.hist }) d |> keepWrite 0x32

/-! ## Zeroisation (R421) -/

/-- Commands that end with ST_RETRY and no effect. -/
def endCmds (p : Cmd → Bool) : Dev → Dev := endAll p resRetry

/-- Accepted and uncompleted commands other than LOG, IDN and TEL end with ST_RETRY; a lifecycle command in its
transition goes its own way (R34). -/
def retryInFlight (d : Dev) : Dev :=
  let lc := (d.lc.transition.map (·.cid)).getD 0
  let open_ := fun (c : Cmd) =>
    isHost c && c.accepted && isAccepted c && !isDone c && c.dupOf.isNone && !classFree c.code && c.cid != lc
  endCmds open_ d

/-- The barrel array: jobs end and operand memories are zeroed; a roll is left for start-up to abandon (R170, R171). -/
def brlHalt (d : Dev) : Dev :=
  let p := d.brl.rollPhase
  onBrl (fun b => { b with rollPhase := 0 }) d |> brlReset 4 |> onBrl (fun b => { b with rollPhase := p, rollCid := none })

/-- Every volatile secret is zeroised; the RAM is zeroed with it (`nextZ`). -/
def zeroise (d : Dev) : Dev :=
  d |> forAll (List.range 4) (fun r d =>
        haltTasks r (fun t => if t.started then resErr stTaskEnded 0 else resRetry) (endReads r resRetry d)
          |> onRegion r (fun x => { x with
              bolt := { x.bolt with dk := [], dkPend := [], dkFlush := false, stepLvl := none }
              dig := { x.dig with step0 := none, step1 := none }
              drbg := { x.drbg with
                instantiated := false, katPassed := false, key := [], v := [], queue := [], shadow := [], katRunning := false
                katByCtrl := false, seedHalf := [] }
              cores := x.cores.map (fun p => (p.1, { p.2 with task := none, sev := 0 }))
              phase := if x.phase == .draining || x.phase == .resetting then .halted else x.phase })
          |> onTmb r (fun t => { t with insts := [] }))
    |> onDie (fun x => { x with resetting := [] })
    |> onEnt (fun e => { e with
        reservoir := [], reseedQ := (List.finRange 4).filter (fun r => regionRuns d r.val), shadow := [], injectCid := none
        kats := [], katCid := none, katFails := 0, katRunning := false, katByCtrl := false
        srcs := e.srcs.map (fun p => (p.1, if p.2.injecting then { p.2 with injecting := false, startup := true } else p.2)) })
    |> forAll (List.range 5) dmaHaltAll
    |> zeroiseKeys |> vaultReset |> brlHalt |> cerInterrupt |> slotsStop |> retryInFlight

/-! ## Responses (R418 to R423) -/

/-- The source byte of the boot ROM (R20, R443). -/
def bootSrc : Nat := 0x60

/-- EV_0110, as the block `src` logs it. -/
def log01xx (src : Nat) (old new : LcState) (mask : Nat) : Dev → Dev := logEv 0x0110 src (lcCode old) (lcCode new) mask

/-- A transition to RETIRED whose intent is still to be written writes it, so that start-up completes it (R33, R34). -/
def retireIntent (d : Dev) : Dev :=
  onLc (fun l => { l with
    keptSeq := if l.intent.isSome then l.keptSeq else d.evr.nextSeq % 2 ^ 40
    intent := some (l.intent.getD (l.state, .retired, BitVec.ofNat 40 d.evr.nextSeq)) }) d |> keepWrite 0x00

/-- QUARANTINE is entered, but from QUARANTINE or RETIRED (R31, R423); a transition to RETIRED goes on (R34). -/
def quarantine (src : Nat) (d : Dev) : Dev :=
  let old := d.lc.state
  let toRetired := (d.lc.transition.map (fun t => t.to_ == .retired)).getD false || (d.lc.intent.map (fun t => t.2.1 == .retired)).getD false
  if toRetired then retireIntent d
  else if old == .quarantine || old == .retired then d
  else
    onLc (fun l => { l with state := .quarantine, intent := none, transition := none }) d
      |> keepWrite 0x00 |> log01xx src old .quarantine 0

/-- A sensitive command accepted under the quorum that is live. -/
def underLive (c : Cmd) : Bool := c.qmask != 0 && !c.qPast

def cidUnderLive (d : Dev) (cid : Nat) : Bool := ((cmdOf? d cid).map underLive).getD false

/-- A roll whose UCODE_INSTALL is still open is reversed, and the command ends with ST_RETRY. -/
def rollRetry (d : Dev) : Dev :=
  doIf ((d.brl.rollCid.map (cidUnderLive d)).getD false && decide (d.brl.rollPhase ≠ 0) && decide (d.brl.rollPhase ≠ 3)) (rollReverse resRetry) d

/-- Sensitive commands accepted under the live quorum complete with ST_RETRY and no effect, a task's among them: those not
started at once, and a registration, a policy write, a roll and a Keeper switch by going back (R26). A lifecycle command's quorum
has ended with its acceptance, for reason 6. -/
def sensitiveRetry (d : Dev) : Dev :=
  if d.lc.quorum.isNone then d
  else
    endCmds (fun c => c.accepted && isWaiting c && underLive c && c.dupOf.isNone) d
      |> doIf ((d.lc.enrol.map (fun e => cidUnderLive d e.cid)).getD false) (enrolAbort stRetry 0)
      |> polRevert (cidUnderLive d) |> rollRetry |> doIf ((d.svc.fw.map (fun w => cidUnderLive d w.cid)).getD false) fwRetry

/-- What every response of grade G1 or higher does besides its own action (R418). -/
def responseShared (cls inst grade : Nat) (d : Dev) : Dev :=
  let rtc := d.bat.rtc.toNat
  d |> sensitiveRetry |> quorumEnd 5
    |> onTmp (fun t => { t with
        last := BitVec.ofNat 32 (cls * 65536 + inst % 256 * 256 + grade), responses := t.responses + 1 })
    |> histWrite (fun h => { h with
        g1 := if grade = 1 then h.g1 + 1 else h.g1, g2 := if grade = 2 then h.g2 + 1 else h.g2
        g3 := if grade = 3 then h.g3 + 1 else h.g3
        lastTime := if 2 ≤ grade then rtc else h.lastTime, lastClass := if 2 ≤ grade then cls else h.lastClass
        lastGrade := if 2 ≤ grade then grade else h.lastGrade })

/-- G1: an open ceremony ends (R344), and the region halts, or the die goes to its safe state. -/
def respondG1 (cls inst : Nat) (d0 : Dev) : Dev :=
  let d := cerInterrupt d0
  match tripScope cls inst with
  | some r => regionHalt r d |> fwHalted r
  | none => onTmp (fun t => { t with dieSafe := true }) d |> svcSupersede (fun _ => true) |> dieSafe 3 0

/-- G2: zeroisation and tamper hold. -/
def respondG2 (d : Dev) : Dev :=
  svcSupersede (fun _ => true) d |> zeroise |> onTmp (fun t => { t with hold := true })

/-- G3: zeroisation, erasure of the envelope key, QUARANTINE, and a warm reset at once. -/
def respondG3 (d : Dev) : Dev :=
  svcSupersede (fun _ => true) d |> zeroise |> envErase |> quarantine keeperSrc |> histWrite (fun h => { h with envCheck := 0 })

/-- The response of a grade, with its record of R436 and the flush. -/
def respond (cls inst reading grade : Nat) (d : Dev) : Dev :=
  let d1 := logEv (0x1101 + grade) 0x85 cls inst reading d
  if grade = 0 then d1
  else
    let d2 := responseShared cls inst grade d1
    let d3 := if grade = 1 then respondG1 cls inst d2 else if grade = 2 then respondG2 d2 else respondG3 d2
    evrFlush d3 |> doIf (grade == 3) (warmRequest 4 (resetMaster 4))

def vbatOut (mv : Nat) : Bool := decide (mv < 2200) || decide (3600 < mv)

/-- VBAT on leaving its limits while main power is in range (R425). -/
def vbatReport (mv : Nat) (d : Dev) : Dev :=
  let old := d.bat.vbatMv
  onBat (fun b => { b with vbatMv := mv }) d
    |> doIf (vbatOut mv && !vbatOut old) (logEv 0x1231 0x86 mv 0 0)
    |> doIf (decide (mv < 2400) && decide (2400 ≤ old)) (logEv 0x1230 0x86 mv 0 0)

/-- A neighbour's trip while a sensor calibrates abandons the calibration, which is resumed later (R434). -/
def calAbandon (cls inst : Nat) (d : Dev) : Dev :=
  match d.tmp.calibrating with
  | some k =>
    if (cls = 6 ∨ cls = 7) ∧ neighbour k = inst then
      onTmp (fun t => { t with calibrating := none, calPending := k :: t.calPending }) d
    else d
  | none => d

/-- TAMPER_TRIP: a class responds once for each trip (R415). -/
def tamperTrip (cls inst reading : Nat) (d : Dev) : Dev :=
  let g := tripGrade d cls reading
  if !seqWatches d cls inst then d
  else if d.tmp.trips.contains (cls, inst) then doIf (cls == 1 && g == 0) (vbatReport reading) d
  else
    let d1 := onTmp (fun t => { t with trips := t.trips ++ [(cls, inst)], tripCount := t.tripCount + 1 }) d
      |> summaryLatch cls g false |> calAbandon cls inst
      |> onTmp (fun t => { t with g1Trips := if g = 1 then t.g1Trips ++ [(cls, inst)] else t.g1Trips })
    if cls = 1 ∧ g = 0 then vbatReport reading d1 else respond cls inst reading g d1

/-- The RAM is zeroed where a response of grade G2 or G3 ran (R421). -/
def withZero (f : Dev → Dev) (s : State) : State :=
  let d := f s.toDev
  if s.tmp.responses != d.tmp.responses && decide (2 ≤ d.tmp.last.toNat % 4) then { s with toDev := d, mem := [] }
  else { s with toDev := d, mem := memRegions s.toDev d (syncMem s.toDev d s.mem) }

def nextZ (f : Dev → Dev) (s : State) : Ans := .next (withZero f s)

def execTamperTrip (cls : TamperClass) (inst : Nat) (reading : BitVec 32) (s : State) : Ans :=
  nextZ (tamperTrip cls inst reading.toNat) s

/-! ## Re-arming, hold and reinstatement (R415, R418, R422) -/

def neverClears (cls : Nat) : Bool := [8, 9, 14].contains cls

/-- TAMPER_CONDITION_CLEAR: EV_1105; the last condition to clear in tamper hold requests the warm reset. -/
def conditionClear (cls inst durationMs : Nat) (d : Dev) : Dev :=
  if !d.tmp.trips.contains (cls, inst) || neverClears cls then d
  else
    let d1 := onTmp (fun t => { t with
        trips := t.trips.filter (· != (cls, inst)), g1Trips := t.g1Trips.filter (· != (cls, inst)) }) d
      |> doIf (cls == 1) (onBat (fun b => { b with vbatMv := 2400 + Config.implValue 415 d.free % 1201 }))
      |> doIf (cls == 1) (fun d => { d with free := d.free + 1 })
      |> logEv 0x1105 0x85 cls inst durationMs
    doIf (d1.tmp.hold && d1.tmp.trips.all (fun t => neverClears t.1)) (warmRequest 3 (resetMaster 3)) d1

def execTamperConditionClear (cls : TamperClass) (inst : Nat) (durationMs : BitVec 32) (s : State) : Ans :=
  nextD (conditionClear cls inst durationMs.toNat) s

/-- A trip of a scope answered with G1 still stands: the grade is the one in force at its qualification (R419). -/
def scopeTripped (d : Dev) (sc : Option Nat) : Bool := d.tmp.g1Trips.any (fun t => tripScope t.1 t.2 == sc)

/-- G1_REINSTATE_TIMER: 1 s after the condition has cleared. -/
def g1Timer (sc : G1Scope) (d : Dev) : Dev :=
  match sc with
  | .region r =>
    if (regionOf d r).phase == .halted && (regionOf d r).cause == 6 && !d.die.safe && !d.tmp.hold && !scopeTripped d (some r.val) then
      regionReset r d
    else d
  | .die => if d.tmp.dieSafe && !d.tmp.hold && !scopeTripped d none then warmRequest 6 (resetMaster 6) d else d

def execG1ReinstateTimer (scope : G1Scope) (s : State) : Ans := nextR (g1Timer scope) s

/-! ## The battery domain (R424, R425, R427) -/

def batWatches (d : Dev) (cls inst : Nat) : Bool :=
  tripInstance cls inst && ([1, 8, 9, 14].contains cls || (10 ≤ cls && cls ≤ 13 && d.bat.loops.testBit (cls - 10)))

/-- The battery domain watches alone: on VBAT, or before the sequencer is live (R431). -/
def batAlone (d : Dev) : Bool := d.bat.onVbat || !seqLive d

/-- BATTERY_TAMPER_TRIP: latched in the summary; a G3 erases the envelope key. -/
def batteryTrip (cls inst : Nat) (d : Dev) : Dev :=
  if !batAlone d || !batWatches d cls inst then d
  else
    let g := if cls = 1 then (if d.bat.onVbat then 3 else 0) else gradeIn d.bat.grades cls
    summaryLatch cls g d.bat.onVbat d |> doIf (g == 3) envErase

def execBatteryTamperTrip (cls : TamperClass) (inst : Nat) (s : State) : Ans := nextD (batteryTrip cls inst) s

/-! ## Mesh nets and enclosure loops (R416) -/

def isMesh (cls : Nat) : Bool := 8 ≤ cls && cls ≤ 13

def meshWatched (d : Dev) (cls inst : Nat) : Bool :=
  isMesh cls && !d.tmp.trips.contains (cls, inst) && (if batAlone d then batWatches d cls inst else seqWatches d cls inst)

def meshSample (cls inst : Nat) (fails : Bool) (d : Dev) : Dev :=
  if fails && meshWatched d cls inst && !d.tmp.suspects.contains (cls, inst) then
    onTmp (fun t => { t with suspects := t.suspects ++ [(cls, inst)] }) d
  else d

/-- The confirming sample: a second failure qualifies the trip, with the level missed as its reading (R436). -/
def meshConfirm (cls inst : Nat) (fails : Bool) (level : Nat) (d : Dev) : Dev :=
  if !d.tmp.suspects.contains (cls, inst) then d
  else
    let d1 := onTmp (fun t => { t with suspects := t.suspects.filter (· != (cls, inst)) }) d
    if !fails then d1
    else if batAlone d then batteryTrip cls inst d1
    else tamperTrip cls inst level d1

def execMeshSample (cls : TamperClass) (inst : Nat) (fails : Bool) (_level : Nat) (s : State) : Ans := nextD (meshSample cls inst fails) s
def execMeshConfirmSample (cls : TamperClass) (inst : Nat) (fails : Bool) (level : Nat) (s : State) : Ans :=
  nextZ (meshConfirm cls inst fails level) s

/-! ## Calibration (R417) -/

/-- TEMP_CALIBRATION: one sensor at a time; an ordered pass goes in index order. -/
def tempCal (k : Nat) (d : Dev) : Dev :=
  if !seqLive d || d.tmp.calibrating.isSome || d.tmp.heldOut.contains k then d
  else if d.tmp.calCid.isSome && d.tmp.calPending.head? != some k then d
  else onTmp (fun t => { t with calibrating := some k, calPending := t.calPending.filter (· != k) }) d

def execTempCalibration (sensor : Sensor) (s : State) : Ans := nextD (tempCal sensor) s

/-- TEMP_CALIBRATION_END: `offset` in units of 0.25 °C; above 3 °C the sensor is held out. -/
def tempCalEnd (k : Nat) (offset : Int) (d : Dev) : Dev :=
  if d.tmp.calibrating != some k then d
  else
    let d1 := onTmp (fun t => { t with calibrating := none }) d
      |> doIf (decide (12 < offset.natAbs)) (fun d =>
          onTmp (fun t => { t with heldOut := t.heldOut ++ [k] }) d |> logEv 0x1250 0x85 k (BitVec.ofInt 32 offset).toNat 0)
    match d1.tmp.calCid with
    | some cid =>
      if d1.tmp.calPending.isEmpty then
        svcDone cid resOk d1
      else d1
    | none => d1

def execTempCalibrationEnd (sensor : Sensor) (offset : Int) (s : State) : Ans := nextD (tempCalEnd sensor offset) s

/-! ## TMP_GRADE_SET and RTC_SET (R419, R428) -/

def bodyGradeSet (c : Cmd) (_ : HostRead) : Run Res := do
  let g := par c 64 4
  let loops := par c 68 1
  let w := BitVec.ofNat 32 g
  let classes := [0, 2, 3, 4, 5, 6, 7, 8, 9, 10, 11, 12, 13, 14]
  need (g / 2 ^ 30 == 0 && g / 4 % 4 == 0 && loops < 16 && classes.all (fun k => decide (gradeFloor k ≤ gradeIn w k))) stParam 0x1002
  need (zeroPar c 69 128) stParam 0
  let d ← get
  let old := rwpVal d rwpGrades
  let was := (rwpVal d rwpLoopCfg).toNat
  if d.lc.state == .operational && (classes.any (fun k => decide (gradeIn w k < gradeIn old k))
      || (List.range 4).any (fun n => was.testBit n && !loops.testBit n)) then wrongState c 3
  match [rwpGrades, rwpLoopCfg].findSome? (rwpRefused d) with
  | some st => fail st 0
  | none => pure ()
  eff (rwpWrite rwpGrades w)
  eff (rwpWrite rwpLoopCfg (BitVec.ofNat 32 loops))
  eff (onBat (fun b => { b with grades := w, loops := loops }))
  eff (logEv 0x1241 0x85 old.toNat g loops)
  pure resOk

def execTmpGradeSet (cid : Nat) (hr : HostRead) (s : State) : Ans := hasp 0x0190 cid hr bodyGradeSet s

def bodyRtcSet (c : Cmd) (_ : HostRead) : Run Res := do
  need (zeroPar c 70 128) stParam 0
  let new := par c 64 6
  let old := (← get).bat.rtc.toNat
  eff (onBat (fun b => { b with rtc := BitVec.ofNat 48 new }))
  eff (logEv 0x1240 0x86 (old % 2 ^ 32) (new % 2 ^ 32) 0)
  pure resOk

def execRtcSet (cid : Nat) (hr : HostRead) (s : State) : Ans := hasp 0x0191 cid hr bodyRtcSet s

end Sys2Proof.Machine
end

