-- ==== Sys2Proof/Machine/Hinge.lean ====
section
/-! DEFINITION. The descriptors of the hinge DMAs (R368 to R377): their form, the accesses of each side, copy, fill and
compare, and how a descriptor ends. -/

namespace Sys2Proof.Machine

/-! ## A descriptor (R369, R370) -/

/-- A descriptor's fields. -/
structure Desc where
  src : Nat
  dst : Nat
  len : Nat
  ctrl : Nat
  next : Nat
  tailZero : Bool
  deriving DecidableEq, Repr

def descOf (b : Bytes) : Desc :=
  ⟨fieldLE b 0 8, fieldLE b 8 8, fieldLE b 16 4, fieldLE b 20 4, fieldLE b 24 8, (slice b 36 28).all (· = 0)⟩

def dOp (x : Desc) : Nat := x.ctrl % 4
def dSrcW (x : Desc) : Nat := x.ctrl / 16 % 8
def dDstW (x : Desc) : Nat := x.ctrl / 128 % 8
def dSrcK (x : Desc) : Nat := x.ctrl / 1024 % 4
def dDstK (x : Desc) : Nat := x.ctrl / 4096 % 4
def dLast (x : Desc) : Bool := x.ctrl.testBit 14
def dIrq (x : Desc) : Bool := x.ctrl.testBit 15

/-- An address that the list's owner may use: kind 1 for a task, kind 0 for world K (R370, R373). -/
def addrOk (seg : Bool) (kind a : Nat) : Bool :=
  if seg then kind == 1 && (segRel a).isSome else kind == 0 && decide (a < 2 ^ 40)

def nextOk (seg : Bool) (x : Desc) : Bool :=
  if dLast x then x.next == 0
  else x.next != 0 && x.next % 64 == 0 && (if seg then (segRel x.next).isSome else decide (x.next < 2 ^ 40))

/-- Source and destination overlap forwards in one memory. -/
def overlaps (x : Desc) : Bool := decide (x.src < x.dst) && decide (x.dst < x.src + x.len)

def descOk (i : Nat) (seg : Bool) (x : Desc) : Bool :=
  let fill := dOp x == 1
  x.ctrl / 2 ^ 16 == 0 && x.ctrl / 4 % 4 == 0 && dOp x != 3 && x.tailZero
    && decide (1 ≤ x.len) && decide (x.len ≤ (if i < 4 then 65536 else 40960)) && nextOk seg x
    && decide (dDstW x ≤ 5) && addrOk seg (dDstK x) x.dst
    && (if fill then dSrcK x == 0 && dSrcW x == 0 else decide (dSrcW x ≤ 5) && addrOk seg (dSrcK x) x.src && !overlaps x)

/-! ## The accesses of one side (R371) -/

/-- The accesses that cover a range: its width where aligned and enough remains, else the largest smaller aligned. -/
def accList (w : Nat) : Nat → Nat → Nat → Nat → List (Nat × Nat)
  | 0, _, _, _ => []
  | f + 1, a, off, len =>
    if len = 0 then []
    else
      let n := (([32, 16, 8, 4, 2, 1] : List Nat).find? (fun n => n ≤ w && a % n == 0 && n ≤ len)).getD 1
      (off, n) :: accList w f (a + n) (off + n) (len - n)

/-- The channel that makes an access, and where its list's addresses lead: internal addresses, or the segments of a task. -/
structure Side where
  inst : Nat
  ch : Nat
  acc : Access
  task : Option Task

/-- One read of the channel: a kind of R374 on failure, 0 for an access that stalls. -/
def sideRead1 (x : Side) (a len : Nat) (host : Bytes) (s : State) : Option Nat × Bytes × State :=
  let bus := fun (p : Nat) =>
    let r := busRead x.acc p len s
    match r.1 with
    | .done => (none, r.2.1, r.2.2)
    | .denied => (some 3, [], r.2.2)
    | .refused => (some 1, [], r.2.2)
    | .stalled => (some 0, [], r.2.2)
  match x.task with
  | none => bus a
  | some t =>
    match segRel a with
    | none => (some 4, [], s)
    | some (sg, off) =>
      if (segCheck t sg .r off len 1).isSome then (some 4, [], s)
      else if (segOf t sg).ms then (none, fit host len, s)
      else bus ((segOf t sg).base + off)

/-- One write of the channel. -/
def sideWrite1 (x : Side) (a : Nat) (b : Bytes) (s : State) : Option Nat × State :=
  let bus := fun (p : Nat) =>
    let r := busWrite x.acc p b s
    match r.1 with
    | .done => (none, r.2)
    | .denied => (some 3, r.2)
    | .refused => (some 2, r.2)
    | .stalled => (some 0, r.2)
  match x.task with
  | none => bus a
  | some t =>
    match segRel a with
    | none => (some 4, s)
    | some (sg, off) =>
      if (segCheck t sg .w off b.length 1).isSome then (some 4, s)
      else if (segOf t sg).ms then (none, segStore t sg off b s)
      else bus ((segOf t sg).base + off)

/-- One more retry of the access (R374, R379). -/
def countRetry (x : Side) : State → State :=
  onDev (fun d => onCh x.inst x.ch (fun c => { c with retries := c.retries + 1 }) d
    |> onDma x.inst (fun y => { y with retries := y.retries + 1 }))

/-- An access ends with no retry of its own counted any more. -/
def accessDone (x : Side) : State → State := onDev (onCh x.inst x.ch (fun c => { c with retries := 0 }))

def isRetried (k : Nat) : Bool := k == 1 || k == 2

/-- A read, reissued at once on a read error as often as the channel's retry count says (R374). -/
def sideRead (x : Side) (a len : Nat) (host : Bytes) : Nat → State → Option Nat × Bytes × State
  | n, s =>
    let r := sideRead1 x a len host s
    match r.1, n with
    | none, _ => (none, r.2.1, accessDone x r.2.2)
    | some k, m + 1 => if isRetried k then sideRead x a len host m (countRetry x r.2.2) else r
    | some _, 0 => r

/-- A write, reissued likewise. -/
def sideWrite (x : Side) (a : Nat) (b : Bytes) : Nat → State → Option Nat × State
  | n, s =>
    let r := sideWrite1 x a b s
    match r.1, n with
    | none, _ => (none, accessDone x r.2)
    | some k, m + 1 => if isRetried k then sideWrite x a b m (countRetry x r.2) else r
    | some _, 0 => r

/-- The retry count in force. -/
def sideTries (x : Side) (s : State) : Nat := (chOf s.toDev x.inst x.ch).useRetry

/-- An address of the side lies in host memory. -/
def sideHost (x : Side) (a : Nat) : Bool :=
  match x.task, segRel a with
  | some t, some (sg, _) => (segOf t sg).ms
  | _, _ => false

/-- The accesses of a range of which `n` bytes are made. -/
def accRange (w a n : Nat) : List (Nat × Nat) := accList (2 ^ w) n a 0 n

/-! ## What a descriptor does -/

/-- How the data movement ends: whole, with a kind, at a difference, or held at a keyway unit. -/
inductive Moved where
  | whole
  | failed (kind : Nat)
  | differs (off : Nat)
  | stalled
  deriving DecidableEq, Repr

/-- An error that the fabric reports of an access: a read or a write error, with the bytes before it (R357, R374). -/
def fabricStop (f : Option (Nat × Nat)) (len : Nat) : Option (Nat × Nat) :=
  match f with
  | some (k, b) => if 1 ≤ k ∧ k ≤ 2 ∧ b < len then some (k, b) else none
  | none => none

def failKind (kind : Nat) : Moved := if kind = 0 then .stalled else .failed kind

/-- Where a movement stands: how it has ended, the bytes moved or compared, what the holding register holds behind them. -/
structure MoveAt where
  how : Moved
  moved : Nat
  held : Bytes
  s : State

def firstDiff (a b : Bytes) : Option Nat := (List.range (min a.length b.length)).find? (fun i => a[i]? != b[i]?)

/-- The accesses still to be made on each side, one after another: what has been read goes out of the holding register 64 bytes
at a time, and a comparison reads its second range in place of a write (R371, R372, R376). -/
def moveRun (x : Side) (z : Desc) (host host2 : Bytes) : Nat → List (Nat × Nat) → List (Nat × Nat) → Nat → Bytes → State → MoveAt
  | 0, _, _, m, h, s => ⟨.whole, m, h, s⟩
  | f + 1, rs, ws, m, h, s =>
    match ws with
    | [] => ⟨.whole, m, h, s⟩
    | w :: ws' =>
      if w.1 + w.2 ≤ (if rs.isEmpty then m + h.length else (m + h.length) / 64 * 64) then
        if dOp z = 2 then
          let r := sideRead x (z.dst + w.1) w.2 (host2.drop w.1) (sideTries x s) s
          match r.1, firstDiff (h.take w.2) r.2.1 with
          | some k, _ => ⟨failKind k, m, h, r.2.2⟩
          | none, some i => ⟨.differs (m + i), m, h, r.2.2⟩
          | none, none => moveRun x z host host2 f rs ws' (m + w.2) (h.drop w.2) r.2.2
        else
          let r := sideWrite x (z.dst + w.1) (h.take w.2) (sideTries x s) s
          match r.1 with
          | some k => ⟨failKind k, m, h, r.2⟩
          | none => moveRun x z host host2 f rs ws' (m + w.2) (h.drop w.2) r.2
      else
        match rs with
        | [] => ⟨.whole, m, h, s⟩
        | p :: rs' =>
          let r := sideRead x (z.src + p.1) p.2 (host.drop p.1) (sideTries x s) s
          match r.1 with
          | some k => ⟨failKind k, m, h, r.2.2⟩
          | none => moveRun x z host host2 f rs' ws m (h ++ r.2.1) r.2.2

/-- The 64-bit constant of a fill over `n` bytes. -/
def fillBytes (z : Desc) (n : Nat) : Bytes := (List.range n).map (fun i => byte (z.src >>> (8 * (i % 8))))

/-- A descriptor's movement from where it stands: `n` bytes are read and `w` of them go out. -/
def move (x : Side) (z : Desc) (host : Bytes) (n w : Nat) (s : State) : MoveAt :=
  let c := chOf s.toDev x.inst x.ch
  let h := if dOp z = 1 then (fillBytes z n).drop c.moved else c.held
  let rs := if dOp z = 1 then [] else (accRange (dSrcW z) z.src n).filter (fun p => c.moved + c.held.length ≤ p.1)
  let ws := (accRange (dDstW z) z.dst w).filter (fun p => c.moved ≤ p.1)
  let host2 := if sideHost x z.src then host.drop z.len else host
  moveRun x z host host2 (rs.length + ws.length + 1) rs ws c.moved h s


/-! ## How a descriptor ends (R369, R374, R375) -/

def statusWord (result kind off : Nat) : Bytes := natLE (result * 2 ^ 30 + kind * 2 ^ 24 + off % 65536) 4

def log43 (code i ch kind addr : Nat) : Dev → Dev := logEv code (0x20 + i) (i * 8 + ch) kind (addr % 2 ^ 32)

/-- The channel halts; EV_4302 but for a stop. -/
def chFail (i ch kind off : Nat) (d : Dev) : Dev :=
  let a := (chOf d i ch).cur
  doIf (kind != 9) (log43 0x4302 i ch kind a) d |> chHalt i ch kind off

/-- The list goes on at the next descriptor, or is over; the owner of one with irq = 1 is signalled (R373). -/
def chNext (i ch : Nat) (z : Desc) (d : Dev) : Dev :=
  if dLast z then onCh i ch (fun c => { c with state := .done }) d |> chOver i ch
  else doIf (dIrq z) (chSignal i ch) d |> onCh i ch (fun c => { chClear c with cur := z.next, offset := 0, retries := 0 })

/-- What the status word says is done, once it is written. -/
def statusDone (i ch : Nat) (z : Desc) (result kind off : Nat) (d : Dev) : Dev :=
  if result = 3 then onCh i ch (fun c => { c with state := .diff, offset := off }) d |> chOver i ch
  else if result = 2 then
    log43 0x4301 i ch kind (chOf d i ch).cur d |> onCh i ch (fun c => { c with skipped := c.skipped + 1 }) |> chNext i ch z
  else
    onDma i (fun y => { y with descs := y.descs + 1 }) d |> onCh i ch (fun c => { c with done := c.done + 1 }) |> chNext i ch z

/-- A descriptor's status word is written back: held while a keyway unit stalls it, and a failure halts the channel with kind 6
(R369, R374, R375). -/
def statusBack (x : Side) (z : Desc) (result kind off : Nat) (ok : Bool) (s : State) : State :=
  let i := x.inst
  let ch := x.ch
  if !ok then onDev (chFail i ch 6 off) s
  else
    let r := sideWrite x ((chOf s.toDev i ch).cur + 32) (statusWord result kind off) 0 s
    match r.1 with
    | none => onDev (statusDone i ch z result kind off) r.2
    | some 0 => onDev (onCh i ch (fun c => { c with back := some (result, kind, off) })) r.2
    | some _ => onDev (chFail i ch 6 off) r.2

/-- A failed descriptor: skipped by the supervisor, or the channel halts. -/
def descFail (x : Side) (z : Desc) (kind bytes : Nat) (ok : Bool) (s : State) : State :=
  let c := chOf s.toDev x.inst x.ch
  if c.useSkip && decide (kind ≤ 5) && nextOk c.curSeg z then
    if 8 ≤ c.skipped then onDev (chFail x.inst x.ch 8 bytes) s else statusBack x z 2 kind bytes ok s
  else onDev (chFail x.inst x.ch kind bytes) s

/-- The retries that the fabric made before a read or write error stands (R374). -/
def countFailed (i ch : Nat) (d : Dev) : Dev :=
  let n := (chOf d i ch).useRetry
  onCh i ch (fun c => { c with retries := n }) d |> onDma i (fun x => { x with retries := x.retries + BitVec.ofNat 64 n })

/-- Retries after which an access went well (R374, R379). -/
def countRetried (i n : Nat) : Dev → Dev := onDma i (fun x => { x with retries := x.retries + BitVec.ofNat 64 n })

def listLimit (c : ChS) : Nat := if c.ownerTask.isSome then 1024 else 65535

def sideOf (d : Dev) (i ch : Nat) : Side :=
  let c := chOf d i ch
  ⟨i, ch, ⟨c.owner.world, c.owner.tenant, byte (0x20 + i), ownerFn c.owner⟩, c.ownerTask.map (taskOf d i)⟩

/-- The movement as far as it came: what it moved is counted (R374, R379), and a channel that stalls keeps its place. -/
def moveKeep (x : Side) (z : Desc) (r : MoveAt) : State :=
  let was := (chOf r.s.toDev x.inst x.ch).moved
  onDev (fun d => onCh x.inst x.ch (fun c => { c with moved := r.moved, held := if dOp z = 1 then [] else r.held }) d
    |> onDma x.inst (fun y => { y with bytes := if dOp z = 2 then y.bytes else y.bytes + BitVec.ofNat 64 (r.moved - was) })) r.s

/-- A descriptor whose form is right runs to its end, or to a stall, or to an error that the fabric reports: behind a read error
nothing that the holding register still holds goes out. -/
def descMove (x : Side) (z : Desc) (host : Bytes) (desc : DescRead) (s0 : State) : State :=
  let stop := fabricStop desc.fail z.len
  let s := onDev (countRetried x.inst desc.retried) s0
  let r := match stop with
    | none => move x z host z.len z.len s
    | some (k, b) => move x z host b (if k = 1 ∧ dOp z ≠ 2 then b / 64 * 64 else b) s
  let s1 := moveKeep x z r
  match r.how, stop with
  | .stalled, _ => s1
  | .whole, none => statusBack x z 1 0 0 desc.statusOk s1
  | .whole, some (k, _) => descFail x z k r.moved desc.statusOk (onDev (countFailed x.inst x.ch) s1)
  | .differs off, _ => statusBack x z 3 0 off desc.statusOk s1
  | .failed kind, _ => descFail x z kind r.moved desc.statusOk s1

/-- Reads the 64 bytes of a descriptor, from where its fetch stands: what failed, if anything. -/
def descFetch (x : Side) (at_ : Nat) (host : Bytes) : List (Nat × Nat) → State → Option Nat × State
  | [], s => (none, s)
  | p :: ps, s =>
    if p.1 + p.2 ≤ (chOf s.toDev x.inst x.ch).desc.length then descFetch x at_ host ps s
    else
      let r := sideRead x (at_ + p.1) p.2 (host.drop p.1) 0 s
      match r.1 with
      | some k => (some k, r.2.2)
      | none => descFetch x at_ host ps (onDev (onCh x.inst x.ch (fun c => { c with desc := c.desc ++ r.2.1 })) r.2.2)

/-- What the host gives behind the descriptor. -/
def hostBehind (x : Side) (c : ChS) (desc : DescRead) : Bytes := if sideHost x c.cur then desc.host.drop 64 else desc.host

/-- The active channel's descriptor runs on: its fetch, its movement, its status word. -/
def descRun (i ch : Nat) (desc : DescRead) (s : State) : State :=
  let c := chOf s.toDev i ch
  let x := sideOf s.toDev i ch
  if listLimit c ≤ c.done + c.skipped then onDev (chFail i ch 7 0) s
  else if !desc.fetched then onDev (chFail i ch 6 0) s
  else
    let f := descFetch x c.cur desc.host [(0, 32), (32, 32)] s
    match f.1 with
    | some 0 => f.2
    | some _ => onDev (chFail i ch 6 0) f.2
    | none =>
      let z := descOf (chOf f.2.toDev i ch).desc
      match c.back with
      | some (result, kind, off) => statusBack x z result kind off desc.statusOk f.2
      | none =>
        if !descOk i c.curSeg z then descFail x z 5 0 desc.statusOk f.2
        else descMove x z (hostBehind x c desc) desc f.2

/-- A channel that stops: at a 64-byte boundary of its descriptor where it holds the datapath, else at once (R376). The row's
operand says how far the descriptor had come. -/
def stopRun (i ch : Nat) (desc : DescRead) (s : State) : State :=
  let c := chOf s.toDev i ch
  let x := sideOf s.toDev i ch
  match desc.fail with
  | none => onDev (chHalt i ch 9 c.moved) s
  | some (_, b) =>
    let f := descFetch x c.cur desc.host [(0, 32), (32, 32)] s
    let z := descOf (chOf f.2.toDev i ch).desc
    let n := b / 64 * 64
    if f.1.isNone && descOk i c.curSeg z && dOp z != 2 && decide (n < z.len) then
      let r := move x z (hostBehind x c desc) n n f.2
      onDev (chHalt i ch 9 r.moved) (moveKeep x z r)
    else onDev (chHalt i ch 9 c.moved) s

/-- The channel's descriptor is still under way: it waits at a keyway unit. -/
def chHeld (d : Dev) (i ch : Nat) : Bool :=
  let c := chOf d i ch
  chBusy c && d.kw.any (fun q => q.2.stalled.any (fun x => x.again && x.acc.master == byte (0x20 + i)) || q.2.verdicts.any (fun v => v.1.again && v.1.acc.master == byte (0x20 + i)))

/-- DMA_DESCRIPTOR_END: the channel that holds the datapath runs its descriptor. A list started by world K that a drain stops
runs its descriptor to the end first (R376), and the datapath then goes to the next channel (R368). -/
def descriptorEnd (i : Nat) (desc : DescRead) (s : State) : State :=
  match (dmaOf s.toDev i).active with
  | none => s
  | some ch =>
    let c := chOf s.toDev i ch
    if !chBusy c then onDev (dmaPick i) s
    else
      let s1 :=
        if c.state == .stopping && c.stop then stopRun i ch desc s
        else
          let t := descRun i ch desc s
          if (chOf t.toDev i ch).state == .stopping && !chHeld t.toDev i ch then onDev (chHalt i ch 9 0) t else t
      let idle := (List.range 8).filter (fun k => k != ch && (chOf s1.toDev i k).state == .stopping)
      onDev (fun d => forAll idle (fun k => chHalt i k 9 0) d
        |> doIf (!chHeld d i ch) (onDma i dmaTake)) s1

def execDmaDescriptorEnd (i : DmaInst) (desc : DescRead) (s : State) : Ans :=
  if dieRuns s.toDev then .next (descriptorEnd i desc s) else .next s

end Sys2Proof.Machine
end

