-- ==== Sys2Proof/Machine/Lifecycle.lean ====
section
/-! DEFINITION. Lifecycle transitions with their tokens and erasures (R31 to R34, R39), the custodian set (R24 to R27,
R38), tenant binding and quotas (R23, R65), and IDENT (R40). -/

namespace Sys2Proof.Machine

/-! ## Tokens (R39) -/

def tokenLen : Nat := 4800
def tokenKind (code : Nat) : Nat := if code = 0x0101 then 1 else 2

/-- Why a token is refused: 1 form, 2 signature, 3 serial, 5 kind, 4 lifecycle state; none where it is accepted. -/
def tokenRefused (d : Dev) (code : Nat) (b : Bytes) : Option Nat :=
  let signed := b.take 64
  if b.take 4 != ascii "ZTOK" || !((slice b 5 3 ++ slice b 20 44 ++ slice b 4787 13).all (· = 0)) then some 1
  else if !(verifyMldsa Config.zilxiaMldsaKey signed (slice b 64 4627) && ecdsa384 Config.zilxiaEcKey signed (slice b 4691 96)) then
    some 2
  else if fieldLE b 8 8 != Config.serial.toNat then some 3
  else if fieldLE b 4 1 != tokenKind code then some 5
  else if !(fieldLE b 16 4).testBit (lcCode d.lc.state) then some 4
  else none

/-! ## Erasures (R31) -/

/-- A draw of the key store's random bytes; where no DRBG serves, as at start-up before the regions run, free bytes.
DESIGN CHOICE (log entry 208): the manual draws them then too, and names no other source. -/
def lcDraw (n : Nat) (d : Dev) : Bytes × Dev :=
  match ksDraw n d with
  | (some b, d1) => (b, d1)
  | (none, d1) => takeFree n d1

/-- The NK8 custodian key: a persistent P-384 key of world K (R338). -/
def custodianNew (mat : Bytes) : NewKey := {
  owner := ⟨.K, 0⟩, hint := 255, alg := 0x31, life := 2, usage := bitMask [uSign], export_ := 0, pinned := false
  ancGenerated := true, dest := BitVec.ofNat 16 (destBit .wrap), session := 0, mat }

/-- The vault without partitions; the epochs of the keep area go on (R251). -/
def vaultErase : Dev → Dev := onVlt (fun v => {
  openEpoch := v.openEpoch, lastEpoch := v.lastEpoch, ringSlot := v.ringSlot, ringBase := v.ringBase, nextReq := v.nextReq })

/-- Applet images and their data: nothing is placed any more. -/
def appletsErase (d : Dev) : Dev :=
  forAll (List.range 4) (fun r => onTmb r (fun t => { t with insts := [] })) d
    |> onApl (fun a => { nextInst := a.nextInst, chain := a.chain })
    |> recsErase (fun id => recClass id == 2)

/-- The whole general area: every record is gone, those of the Keeper images too (R31, R390; log entry 31). -/
def generalErase (d : Dev) : Dev :=
  appletsErase d
    |> recsErase (fun _ => true) |> onSvc (fun s => { s with fwA := none, fwB := none })
    |> onApl (fun a => { a with chain := none })
    |> onKs (fun _ => {})
    |> onHif (fun h => { h with bound := [], fns := h.fns.map (fun p => (p.1, { p.2 with sessQuota := 1024 })) })
    |> vaultErase |> logErase |> polReset 3

/-- Positions and engines as a new part has them, where all its members serve (R388, R137, R138). -/
def membersFresh (d : Dev) : Dev :=
  let banks := (List.range 10).all (fun b => !(bankOf d b).out) && d.nvm.rebuilds.isEmpty
  let engs := (List.range 18).all (fun e => !(engOf d e).out)
  d |> doIf banks (onNvm (fun n => { n with positions := (List.range 10).map some }))
    |> onBrl (fun b => {
        engs := if engs then (List.range 18).map (fun n => (n, {})) else b.engs.map (fun p => (p.1, { p.2 with len := 3 }))
        roles := if engs then ({} : BrlS).roles else b.roles.map (fun p => (p.1, { p.2 with len := 3, lenNext := 3 }))
        ucodeA := some shippedUcode, ws := [] })

/-- MANUFACTURE to PROVISIONED: the device secret and the envelope key are drawn anew (R31, R396, R426). -/
def provisionErase (d : Dev) : Dev :=
  let sec := lcDraw 32 d
  let env := lcDraw 32 sec.2
  let cus := lcDraw 48 env.2
  let d1 := zeroiseKeys cus.2 |> generalErase |> membersFresh
    |> onNvm (fun n => { n with secret := sec.1 }) |> keepWrite 0x3F
    |> onBat (fun b => { b with envelope := env.1, keyErased := false, g3Done := false, hint := 0, grades := rwpReset rwpGrades, loops := 0 })
    |> histWrite (fun h => { h with envCheck := envCheck env.1, g1 := 0, g2 := 0, g3 := 0 })
    |> rwpWrite rwpGrades (rwpReset rwpGrades) |> rwpWrite rwpLoopCfg 0
  (makeKey (custodianNew (natBE (ecScalar p384 cus.1) 48)) d1).2 |> recWrite (ucodeRec 0) 1

/-- DEVELOP to PROVISIONED. -/
def backErase (d : Dev) : Dev :=
  d |> deleteKeys (fun k => k.life == 2 && (k.owner.world == .C || k.owner.world == .T || k.usage == bitMask [uVault]))
    |> recsErase (fun id => recClass id == 5 || id == settingRec 0)
    |> zeroiseKeys |> vaultErase |> appletsErase |> polReset 3

/-- The G3 erasure of chapter 15. -/
def g3Erase (d : Dev) : Dev := zeroise d |> envErase |> histWrite (fun h => { h with envCheck := 0 })

/-- Entry to RETIRED: every tier-0 record but 0x00 and 0x32. -/
def retireErase (d : Dev) : Dev :=
  g3Erase d |> onLc (fun l => { l with cards := [], m := 0, setVersion := 0, counted := [] })
    |> onNvm (fun n => { n with
        keep := n.keep.filter (fun p => [0x00, 0x32, 0x3F].contains p.1)
        rebuilds := n.rebuilds.map (fun r => { r with done := 0, checkpoint := 0 }) })
    |> onVlt (fun _ => {}) |> onSvc (fun s => { s with fwSelB := false, fwMinsv := 0 })

def lcErase (old new : LcState) (d : Dev) : Dev :=
  match old, new with
  | .manufacture, .provisioned => provisionErase d
  | .develop, .provisioned => backErase d
  | .provisioned, .operational => zeroiseKeys d
  | _, .quarantine => g3Erase d
  | _, .retired => retireErase d
  | _, _ => d

/-- Steps 5 and 6 of R32: the erasures, then record 0x00 with the new state and no intent. -/
def lcErased (old new : LcState) (d : Dev) : Dev :=
  lcErase old new d |> onLc (fun l => { l with state := new, intent := none }) |> keepWrite 0x00

/-! ## Transitions (R32) -/

/-- Commands that a transition has to see completed, of every class (R32 step 3). -/
def lcOpen (d : Dev) (cid : Nat) (c : Cmd) : Bool :=
  isHost c && c.accepted && isAccepted c && !isDone c && c.dupOf.isNone && !c.silent && c.cid != cid && !d.tmp.hold

/-- A command of the LC command's own session behind it: it cannot start before the transition has ended (R32, R72). -/
def lcBehind (d : Dev) (cid : Nat) (x : Cmd) : Bool :=
  lcOpen d cid x && isWaiting x && ((cmdOf? d cid).map (fun c => sameSession x c && seqBelow c.seq x.seq)).getD false

/-- Step 4, once every accepted command has ended; one behind the LC command is returned with ST_RETRY (R32 step 3). -/
def lcIntent (d0 : Dev) : Dev :=
  match d0.lc.transition with
  | some t =>
    let d := doIf (!t.intent) (endCmds (lcBehind d0 t.cid)) d0
    if t.intent || d.hif.cmds.any (lcOpen d t.cid) then d
    else
      onLc (fun l => { l with
        transition := some { t with intent := true }, keptSeq := d.evr.nextSeq % seqMod
        intent := some (t.from_, t.to_, BitVec.ofNat 40 (d.evr.nextSeq % seqMod)) }) d |> keepWrite 0x00
  | none => d0

/-- Steps 1 to 3: the quorum ends, and what has not started ends with ST_RETRY. -/
def lcAccept (c : Cmd) (target : LcState) (d : Dev) : Dev :=
  let t : Transition := { from_ := d.lc.state, to_ := target, cid := c.cid, mask := c.qmask, intent := false }
  let idle := fun (x : Cmd) => lcOpen d c.cid x && !classFree x.code && (isWaiting x || (isRunning x && x.code == 0x0703))
  quorumEnd 6 d |> onLc (fun l => { l with transition := some t, counted := [] }) |> cerInterrupt |> enrolAbort stRetry 0
    |> endCmds idle |> lcIntent

/-- A lifecycle command: in_len and token, then what R38 asks of LC_OPERATE. -/
def bodyLc (token : Dev → Bool) (c : Cmd) (hr : HostRead) : Run Res := do
  need (zeroPar c 64 128) stParam 0
  let d ← get
  if token d then
    need (c.inLen == tokenLen) stParam 0x0D01
    let b := inData c hr
    match tokenRefused d c.code b with
    | some reason => failLog stParam 0x0D02 (logEv 0x0121 keeperSrc c.code (fieldLE b 4 1) reason)
    | none => pure ()
  else need (c.inLen == 0) stParam 0x0D01
  if c.code == 0x0104 && (decide (d.lc.cards.length < d.lc.m) || d.lc.cards.isEmpty || d.apl.chain.isNone) then wrongState c 3
  if d.lc.transition.isSome then wrongState c 3
  match lcTarget d.lc.state c.code with
  | none => wrongState c 3
  | some target =>
    -- the secrets of LC_PROVISION are draws of the key store (R208)
    need (c.code != 0x0101 || (List.finRange 4).any (fun r => drbgServes d r.val)) stEntropy 0
    eff (lcAccept c target)
    throw .running

def execLcProvision (cid : Nat) (hr : HostRead) (s : State) : Ans := hasp 0x0101 cid hr (bodyLc (fun _ => true)) s
def execLcDevelop (cid : Nat) (hr : HostRead) (s : State) : Ans := hasp 0x0102 cid hr (bodyLc (fun _ => false)) s
def execLcProvisionBack (cid : Nat) (hr : HostRead) (s : State) : Ans := hasp 0x0103 cid hr (bodyLc (fun _ => false)) s
def execLcOperate (cid : Nat) (hr : HostRead) (s : State) : Ans := hasp 0x0104 cid hr (bodyLc (fun _ => false)) s
def execLcQuarantine (cid : Nat) (hr : HostRead) (s : State) : Ans := hasp 0x0105 cid hr (bodyLc (fun _ => false)) s
def execLcRetire (cid : Nat) (hr : HostRead) (s : State) : Ans := hasp 0x0106 cid hr (bodyLc tokenRetires) s

/-- Posts every completion that its session's order lets go. -/
def postAll (d : Dev) : Dev := forAll ((d.hif.cmds.filter isDone).map (·.cid)) completionPost d

/-- LC_TRANSITION: steps 4 to 8, and the request of step 9. -/
def lcTransition (d0 : Dev) : Dev :=
  let d := lcIntent d0
  match d.lc.transition with
  | some t =>
    if !t.intent then d
    else
      let old := d.lc.state
      lcErased old t.to_ d |> log01xx keeperSrc old t.to_ t.mask.toNat
        |> onLc (fun l => { l with transition := none })
        |> finishRunning t.cid resOk |> postAll |> warmRequest 2 (resetMaster 2)
  | none => d

/-- The RAM is zeroed with the volatile secrets of the G3 erasure. -/
def withErase (f : Dev → Dev) (s : State) : State :=
  let d := f s.toDev
  if s.lc.state != d.lc.state && (d.lc.state == .quarantine || d.lc.state == .retired) then { s with toDev := d, mem := [] }
  else { s with toDev := d, mem := syncMem s.toDev d s.mem }

def execLcTransition (s : State) : Ans := .next (withErase lcTransition s)

/-! ## The custodian set (R27, R38) -/

/-- window_s: 0 stands for 600. -/
def windowOk (w : Nat) : Bool := w == 0 || (60 ≤ w && w ≤ 1800)

def noInput (c : Cmd) : Run Unit := need (c.inLen == 0) stParam 0x0D01

/-- The enrolment begins. DESIGN CHOICE (log entry 38): one that comes while another runs gets ST_STATE with EV_5104
kind 1; the manual says nothing of it. -/
def enrolStart (c : Cmd) (enrol : Bool) (m n base : Nat) : Run Res := do
  if (← get).lc.enrol.isSome then wrongState c 1
  eff (onLc (fun l => { l with enrol := some { cid := c.cid, enrol, m, n, base, cards := [] } }))
  throw .running

/-- CUS_ENROL. DESIGN CHOICE (log entry 38): while a custodian card is registered it gets ST_STATE with EV_5104 kind 1;
the manual names no status for it. -/
def bodyEnrol (c : Cmd) (_ : HostRead) : Run Res := do
  need (zeroPar c 68 128) stParam 0
  noInput c
  let m := par c 64 1
  let n := par c 65 1
  need (2 ≤ m && m ≤ 8 && m ≤ n && n ≤ 16 && windowOk (par c 66 2)) stParam 0x0D01
  if !(← get).lc.cards.isEmpty then wrongState c 1
  enrolStart c true m n 0

def execCusEnrol (cid : Nat) (hr : HostRead) (s : State) : Ans := hasp 0x0110 cid hr bodyEnrol s

def isRegistered (d : Dev) (i : Nat) : Bool := d.lc.cards.any (fun p => p.1 == i)

def bodyRegister (c : Cmd) (_ : HostRead) : Run Res := do
  need (zeroPar c 65 66 && zeroPar c 68 128) stParam 0
  noInput c
  let i := par c 64 1
  need (i ≤ 15 && !isRegistered (← get) i && windowOk (par c 66 2)) stParam 0x0D01
  enrolStart c false 0 1 i

def execCusRegister (cid : Nat) (hr : HostRead) (s : State) : Ans := hasp 0x0111 cid hr bodyRegister s

/-- The reason with which a changed set ends the live quorum (R25). -/
def revokeReason (d : Dev) (i : Nat) : Nat := if (quorumMask d).getLsbD i then 7 else 8

def bodyRevoke (c : Cmd) (_ : HostRead) : Run Res := do
  need (zeroPar c 65 128) stParam 0
  noInput c
  let i := par c 64 1
  let d ← get
  need (isRegistered d i && decide (d.lc.m < d.lc.cards.length)) stParam 0x0D01
  eff (custodianCommit (tdel d.lc.cards i) d.lc.m)
  eff (quorumEnd (revokeReason d i))
  pure resOk

def execCusRevoke (cid : Nat) (hr : HostRead) (s : State) : Ans := hasp 0x0112 cid hr bodyRevoke s

def bodySetM (c : Cmd) (_ : HostRead) : Run Res := do
  need (zeroPar c 65 128) stParam 0
  noInput c
  let m := par c 64 1
  let d ← get
  need (2 ≤ m && m ≤ 8 && decide (m ≤ d.lc.cards.length)) stParam 0x0D01
  eff (custodianCommit d.lc.cards m)
  eff (doIf (m != d.lc.m) (quorumEnd 8))
  pure resOk

def execCusSetM (cid : Nat) (hr : HostRead) (s : State) : Ans := hasp 0x0113 cid hr bodySetM s

def bodySetLife (c : Cmd) (_ : HostRead) : Run Res := do
  need (zeroPar c 66 128) stParam 0
  noInput c
  let v := par c 64 2
  need (30 ≤ v && v ≤ 900) stParam 0x0D01
  match rwpRefused (← get) rwpQuorumLife with
  | some st => fail st 0
  | none => pure ()
  eff (rwpWrite rwpQuorumLife (BitVec.ofNat 32 v))
  pure resOk

def execCusSetLife (cid : Nat) (hr : HostRead) (s : State) : Ans := hasp 0x0114 cid hr bodySetLife s

/-- ENROL_WINDOW_EXPIRE: window_s passes before the cards are complete. -/
def execEnrolWindowExpire (s : State) : Ans := nextD (enrolAbort stAborted 0x0D03) s

def bodyQuorumEnd (c : Cmd) (_ : HostRead) : Run Res := do
  need (zeroPar c 64 128) stParam 0
  noInput c
  if !quorumLive (← get) then wrongState c 1
  eff (quorumEnd 3)
  pure resOk

def execQuorumEnd (cid : Nat) (hr : HostRead) (s : State) : Ans := hasp 0x0115 cid hr bodyQuorumEnd s

/-- QUORUM_WINDOW_EXPIRE: 600 s pass before M cards have counted (R24). -/
def quorumWindow (d : Dev) : Dev :=
  if d.lc.counted.isEmpty then d
  else onLc (fun l => { l with counted := [] }) d |> logEv 0x6111 keeperSrc 1 (bitsMask d.lc.counted) 0

def execQuorumWindowExpire (s : State) : Ans := nextD quorumWindow s
def execQuorumLifetimeExpire (s : State) : Ans := nextD (quorumEnd 2) s

/-! ## Tenants (R23, R38, R65) -/

/-- A change of a VF's binding: STATUS.bound with its interrupt cause (R62). -/
def setBound (vf : Nat) (on : Bool) (d : Dev) : Dev :=
  onHif (fun h => { h with bound := if on then h.bound ++ [vf] else h.bound.filter (· != vf) }) d |> fnIrq vf 2

def tenantsCommit : Dev → Dev := recWrite (settingRec 4) 1

def bodyVfBind (c : Cmd) (_ : HostRead) : Run Res := do
  need (zeroPar c 65 128) stParam 0
  noInput c
  let vf := par c 64 1
  let d ← get
  need (1 ≤ vf && decide (vf ≤ d.hif.numVfs)) stParam 0x0D01
  if d.hif.bound.contains vf then wrongState c 1
  need (!keepOnly d) stDegraded 0
  eff tenantsCommit
  eff (setBound vf true)
  eff (logEv 0x0122 keeperSrc vf 0 0)
  pure resOk

def execVfBind (cid : Nat) (hr : HostRead) (s : State) : Ans := hasp 0x0120 cid hr bodyVfBind s

/-- Accepted commands of a function that have not completed, and those of them that no engine has started. -/
def fnOpen (f : Nat) (c : Cmd) : Bool := isHost c && c.fn == f && c.accepted && isAccepted c && !isDone c && c.dupOf.isNone && !c.silent
def fnIdle (f : Nat) (c : Cmd) : Bool := fnOpen f c && isWaiting c

/-- Steps 2 to 6 of VF_UNBIND. DESIGN CHOICE (log entry 26): EV_0120 carries the quorum mask of R26 after the VF number. -/
def vfUnbound (vf : Nat) (mask : BitVec 16) (d : Dev) : Dev :=
  let ss := (openSess d).filter (fun p => p.2.fn == vf)
  forAll ss (fun p => closeSess p.1) d |> instanceCheck
    |> deleteKeys (fun k => k.owner == ⟨.T, vf⟩)
    |> forAll (partsOf d vf) partDestroyed
    |> tenantsCommit |> setBound vf false |> logEv 0x0120 keeperSrc vf mask.toNat 0

def bodyVfUnbind (c : Cmd) (_ : HostRead) : Run Res := do
  need (zeroPar c 65 128) stParam 0
  noInput c
  let vf := par c 64 1
  let d ← get
  need (1 ≤ vf && vf ≤ 63) stParam 0x0D01
  if !d.hif.bound.contains vf then wrongState c 1
  need (!keepOnly d) stDegraded 0
  eff (commitWithdraw vf)
  if (← get).vlt.commit.isSome && !(partsOf d vf).isEmpty then throw (.wait [])
  eff (hooksAbort (fun x => isHost x && x.fn == vf))
  eff (endCmds (fnIdle vf))
  if (← get).hif.cmds.any (fnOpen vf) then throw (.wait [])
  eff (vfUnbound vf c.qmask)
  pure resOk

def execVfUnbind (cid : Nat) (hr : HostRead) (s : State) : Ans := nextT (runCmd 0x0121 cid hr false bodyVfUnbind) s

def bodySessionQuota (c : Cmd) (_ : HostRead) : Run Res := do
  need (zeroPar c 65 68 && zeroPar c 72 128) stParam 0
  noInput c
  let f := par c 64 1
  let n := par c 68 4
  need (f ≤ 63 && n ≤ 65536) stParam 0x0D01
  need (!keepOnly (← get)) stDegraded 0
  eff tenantsCommit
  eff (onFn f (fun x => { x with sessQuota := n }))
  pure resOk

def execSessionQuotaSet (cid : Nat) (hr : HostRead) (s : State) : Ans := hasp 0x0122 cid hr bodySessionQuota s

/-! ## IDENT (R40) -/

/-- The version of the current microcode image; a part that has none shows a value of its own. -/
def ucodeVersion (d : Dev) : Nat :=
  match imageOf d d.brl.selectB with
  | some i => i.version.toNat
  | none => Config.implValue 40 0

/-- The identity block, as a function reads it. -/
def identBytes (d : Dev) (fn : Nat) : Bytes :=
  fit Config.ordering 16 ++ natLE Config.serial.toNat 8 ++ [byte (lcCode d.lc.state), 0, 0, 0]
    ++ natLE (fwVersion d d.cpm.imageB) 4 ++ natLE (ucodeVersion d) 4 ++ natLE Config.bootRomRev.toNat 4 ++ [byte fn] ++ zeros 23

/-- The fields that the commands of R40 leave zero. -/
def needPlain (c : Cmd) : Run Unit := do
  need (hA c == 0 && hB c == 0 && c.inPtr == 0) stParam 0
  noInput c

def bodyIdent (c : Cmd) (_ : HostRead) : Run Res := do
  need (zeroPar c 64 128) stParam 0
  needPlain c
  need (64 ≤ c.outCap) stParam 0x0D01
  pure (resOut (identBytes (← get) c.fn))

def execIdent (cid : Nat) (hr : HostRead) (s : State) : Ans := hasp 0x0C01 cid hr bodyIdent s

end Sys2Proof.Machine
end

