-- ==== Sys2Proof/Machine/Power.lean ====
section
/-! DEFINITION. Clocks, power, reset and start-up (chapter 17): what survives a reset (R468), the start-up sequence with
its failures (R472, R473, R431, R33), the warm reset (R469), power-fail and loss of power (R465 to R467). -/

namespace Sys2Proof.Machine

/-! ## What a reset leaves (R468, R474, R475) -/

/-- The barrel array: roles keep their engines and lengths, and every engine that holds no role is a spare (R165). -/
def brlAfter (d : Dev) : BrlS := {
  roles := (rollGive d).brl.roles.map (fun p => (p.1, { p.2 with handover := none, removed := 31, image := d.brl.selectB }))
  engs := (List.range 18).map (fun e => (e, {
    image := d.brl.selectB, len := ((roleHeld (rollGive d) e).map (fun r => (roleOf d r).len)).getD 3 }))
  longPool := d.brl.longPool, ucodeA := d.brl.ucodeA, ucodeB := d.brl.ucodeB, selectB := d.brl.selectB
  rollPhase := d.brl.rollPhase }

/-- The vault: the ring, the partitions bound and their keys; P63 is void (R96, R253). -/
def vltAfter (v : VltS) : VltS := {
  parts := (v.parts.filter (fun p => p.1 != 63)).map (fun p => (p.1, { p.2 with state := if p.2.state = 4 then 4 else 1, suspect := [] }))
  ring := v.ring, ringBase := v.ringBase, openEpoch := v.openEpoch, lastEpoch := v.lastEpoch, ringSlot := v.ringSlot }

/-- The store: banks, records whose last page is written, and the committed value of each persistent register. A rebuild
goes back to its checkpoint (R393, R398, R407). -/
def nvmAfter (n : NvmS) : NvmS := {
  banks := n.banks.map (fun p => (p.1, { p.2 with chunks := 0 }))
  positions := n.positions
  rebuilds := n.rebuilds.map (fun r => { r with done := r.checkpoint })
  lostStripes := n.lostStripes
  recs := n.recs.map (fun p => (p.1, { p.2 with writing := [] }))
  stripeWrites := n.stripeWrites, keep := n.keep
  rwp := n.rwp.map (fun p => (p.1, { p.2 with value := p.2.committed }))
  secret := n.secret, scrubPos := n.scrubPos, scrubStart := n.scrubStart, scrubRewritten := n.scrubRewritten
  scrubUncorr := n.scrubUncorr, reported := n.reported }

/-- The log and its numbers; the operating seconds stand in the always-on block (R446). -/
def evrAfter (e : EvrS) : EvrS := {
  nextSeq := e.nextSeq, gen := e.gen, ret := e.ret, retCount := e.retCount, clearGen := e.clearGen, clearRet := e.clearRet
  flushedSeq := e.flushedSeq, lastChain := e.lastChain, lastRetChain := e.lastRetChain, opTime := e.opTime }

/-- The key store: persistent keys with their directory entries, and the quotas. -/
def ksAfter (d : Dev) : KsS :=
  let k := (zeroiseKeys d).ks
  { keys := k.keys, gens := k.gens, entryFresh := k.entryFresh, entryFreed := k.entryFreed, slotFresh := k.slotFresh, slotFreed := k.slotFreed
    dirQuota := k.dirQuota, persQuota := k.persQuota }

/-- The logic die in reset. What start-up has yet to report stays: a live quorum, a roll and a Keeper switch under way. -/
def dieReset (d : Dev) : Dev := {
  die := { spareRows := d.die.spareRows }
  lc := { state := d.lc.state, intent := d.lc.intent, keptSeq := d.lc.keptSeq, cards := d.lc.cards, m := d.lc.m
          setVersion := d.lc.setVersion, quorum := d.lc.quorum }
  hif := { fns := d.hif.fns.map (fun p => (p.1, { sessQuota := p.2.sessQuota })), bound := d.hif.bound, tx := d.hif.tx
           nextCid := d.hif.nextCid }
  ks := ksAfter d
  pol := { rec_ := d.pol.rec_, ver := d.pol.ver, defaultAfterLoss := d.pol.defaultAfterLoss }
  brl := brlAfter d
  vlt := vltAfter d.vlt
  apl := { d.apl with applets := d.apl.applets.filter (fun a => !a.old) }
  crd := (slotsReset d).crd
  nvm := nvmAfter d.nvm
  bat := d.bat
  tmp := { hist := d.tmp.hist }
  evr := evrAfter d.evr
  cpm := { power := d.cpm.power, timebase := d.cpm.timebase, everPowered := d.cpm.everPowered }
  svc := { fwA := d.svc.fwA, fwB := d.svc.fwB, fwSelB := d.svc.fwSelB, fwMinsv := d.svc.fwMinsv, fw := d.svc.fw
           recovered := d.svc.recovered }
  spi := { mode3 := d.spi.mode3 }
  free := d.free }

/-! ## Start-up: the keep area and the tamper latches (R431, R33) -/

/-- Bits 63:32 of the latch summary (R426). -/
def summaryHigh (b : BatS) : Nat :=
  b.mask.toNat * 65536 + b.grade * 2 ^ 14 + b2n b.g3Done * 2 ^ 13 + b2n b.onBattery * 2 ^ 12 + b.firstTime / 2 ^ 32 % 256

/-- The strike file or the device secret is lost (R431 step 1, R396). -/
def strikeLost (secretOk : Bool) (d : Dev) : Bool :=
  let s := d.lc.state
  s != .manufacture && s != .quarantine && s != .retired
    && (!secretOk || (!d.bat.g3Done && (d.bat.keyErased || envCheck d.bat.envelope != d.tmp.hist.envCheck)))

/-- The class that EV_1104 names at start-up: the lowest that the summary holds; none is known of a lost strike file. -/
def bootClass (lost : Bool) (d : Dev) : Nat :=
  if lost then Config.implValue 431 2
  else ((List.range 16).find? (fun c => d.bat.mask.getLsbD c)).getD (Config.implValue 431 2)

/-- Step 3 of R431: the key is erased and QUARANTINE written; a transition to RETIRED goes on (R34). -/
def bootG3 (lost : Bool) (d : Dev) : Dev :=
  let cls := bootClass lost d
  let rtc := d.bat.rtc.toNat
  let retiring := (d.lc.intent.map (fun i => i.2.1 == .retired)).getD false
  envErase d |> histWrite (fun h => { h with envCheck := 0, g3 := h.g3 + 1, lastTime := rtc, lastClass := cls, lastGrade := 3 })
    |> logEv 0x1104 bootSrc cls (Config.implValue 431 0) (Config.implValue 431 1)
    |> doIf (!retiring) (quarantine bootSrc)

/-- R431 at step 4 of start-up. -/
def bootTamper (secretOk : Bool) (d : Dev) : Dev :=
  let lost := strikeLost secretOk d
  let g3 := (d.bat.grade == 3 || lost) && d.lc.state != .quarantine && d.lc.state != .retired
  let found := d.bat.onBattery || d.bat.mask != 0
  d |> doIf lost (logEv 0x1220 bootSrc (lcCode d.lc.state) (summaryHigh d.bat) 0)
    |> forAll ((List.range 16).filter (fun c => d.bat.mask.getLsbD c)) (fun c => logEv 0x1110 bootSrc c d.bat.grade (d.bat.firstTime % 2 ^ 32))
    |> doIf g3 (bootG3 lost)
    |> doIf found (histWrite id)
    |> onBat (fun b => { b with mask := 0, grade := 0, g3Done := false, onBattery := false, firstTime := 0 })

/-- A transition that a reset cut after its intent was written is completed (R33). DESIGN CHOICE (log entry 33): its
EV_0110 carries the quorum mask 0, which the intent record does not hold. -/
def bootPending (d : Dev) : Dev :=
  match d.lc.intent with
  | none => d
  | some (old, new, _) =>
    lcErased old new d |> logEv 0x0111 bootSrc (lcCode old) (lcCode new) 0 |> log01xx bootSrc old new 0

/-! ## Start-up: banks, images, members (R397, R473, R11) -/

/-- A bank out of service returns at a power-on reset where it passes its self-test, but never after cause 3. -/
def bankReturn (powerOn : Bool) (fails : List Bank) (b : Nat) (d : Dev) : Dev :=
  let k := bankOf d b
  let bad := fails.any (fun x => x.val == b)
  if k.out then
    doIf (powerOn && !bad && k.cause != 3) (onBank b (fun k => { k with out := false, cause := 0, uncorrTimes := [] })) d
  else doIf bad (bankLeave b 4) d

def bootBanks (powerOn : Bool) (fails : List Bank) (d : Dev) : Dev := forAll (List.range 12) (bankReturn powerOn fails) d

/-- The store is up; a missing position with a spare free starts its rebuild (R398). -/
def bootRebuild (d : Dev) : Dev :=
  onNvm (fun n => { n with rebuilds := n.rebuilds.map (fun r => { r with startTb := d.cpm.timebase }), ready := true }) d
    |> rebuildStart |> parityReport

/-- A rebuild of before the reset whose target has passed its self-test resumes from its checkpoint: EV_3202 (R398). -/
def bootResume (was : List Rebuild) (d : Dev) : Dev :=
  forAll (d.nvm.rebuilds.filter (fun r => was.any (fun q => q.position == r.position && q.target == r.target)))
    (fun r => logEv 0x3202 0x81 r.position r.target r.checkpoint) d

/-- A Keeper image fails verification: its record is empty or lost, or a signature fails (R473, EV_0102). -/
def fwFails (d : Dev) (boot : BootReport) (b : Bool) : Bool :=
  (fwOf d b).isNone || recLost d (fwRec (b2n b)) || (if b then boot.imageBFails else boot.imageAFails)

def fwStage (d : Dev) (b : Bool) : Nat := if (fwOf d b).isNone || recLost d (fwRec (b2n b)) then 2 else 1

/-- Region bring-up, step 8; a region that fails its self-test is left out. -/
def bootRegion (boot : BootReport) (r : Nat) (d : Dev) : Dev :=
  let d := onRegion r (fun x => { polR d x with cause := 7, startTb := nowTb d }) d
  match boot.regionsFail.find? (fun x => x.1.val == r) with
  | some x => bringFail r 7 x.2 d
  | none =>
    regionStart r d
      |> forAll (boot.coresFail.filter (fun c => c.region.val == r)) coreFail
      |> forAll (boot.boltsFail.filter (fun x => x.val == r)) (fun x => blockFail (.bolt x))
      |> forAll (boot.lanesFail.filter (fun x => x.1.val == r)) (fun x => blockFail (.digestLane x.1 x.2))
where
  /-- The policy record goes into the region's pipeline (R112). -/
  polR (d : Dev) (x : RegionS) : RegionS := { x with bolt := polInstallOne d x.bolt }

/-- The seed blocks that the conditioner makes while start-up runs, two for each region (R204, R472): SHA3-256 of the
sources' bits, which no command carries (log entry 206). -/
def bootSeeds (d : Dev) : Dev :=
  let f := takeFree 1024 d
  onEnt (fun e => { e with reservoir := (chunks 128 f.1).map sha3_256, blocks := e.blocks + 8 }) f.2

/-- The conditioner is tested before its first use; where it fails, the seed supply stops and the regions' DRBGs wait for its
retest (R214, R215). -/
def bootConditioner (boot : BootReport) (d : Dev) : Dev := if boot.conditionerFails then condKatFail 4 d else bootSeeds d

/-- Step 9: microcode and known-answer tests; a roll that the reset cut is abandoned (R170, R165). -/
def bootBarrel (boot : BootReport) (d : Dev) : Dev :=
  d |> doIf (d.brl.rollPhase != 0) (rollAbandon 4 none)
    |> forAll (List.range 18) guardDraw
    |> forAll boot.enginesFail (fun e => katRemove e (katProg e))
    |> forAll (List.range 16) roleLenApply |> poolCheck

/-- Step 10: a new volatile handle key (R79, R100). -/
def bootKeys (d : Dev) : Dev :=
  match ksDraw 32 d with
  | (some k, d1) => onKs (fun s => { s with volKey := k, ready := true }) d1
  | (none, d1) => onKs (fun s => { s with keyDue := true, ready := true }) d1

/-- What the Keeper reports of itself: a switch cut short, an image that the monitor recovered (R492, R496). -/
def bootKeeper (d : Dev) : Dev :=
  let a := d.cpm.imageB
  d |> doIf d.svc.fw.isSome (log7140 4 (fwVersion d a) (fwVersion d (!a)))
    |> doIf d.svc.recovered (log7140 6 (fwVersion d (!a)) (fwVersion d a))
    |> onSvc (fun s => { s with fw := none, recovered := false })

/-- Steps 6 to 11 with the image that runs. -/
def bootRun (boot : BootReport) (b : Bool) (d : Dev) : Dev :=
  d |> onCpm (fun c => { c with imageB := b }) |> evrStart
    |> doIf boot.logBroken (fun d => onEvr (fun e => { e with chainBroken := true }) d
        |> logEv 0x1F01 0x87 (Config.implValue 452 0) (Config.implValue 452 1) (Config.implValue 452 2))
    |> bootKeeper |> bootConditioner boot
    |> forAll (List.range 4) (bootRegion boot)
    |> bootBarrel boot |> bootKeys |> kwInstall allUnits |> vaultStart |> p63Create |> bootRebuild
    |> (match boot.centralFails with | some b => dieSafe 4 (blkParam b) | none => id)

/-- Neither image verifies: the boot ROM alone answers (R473, R496). -/
def bootNone (d : Dev) : Dev :=
  logEv 0x0103 0x84 0 0 0 d |> onSvc (fun s => { s with bootRom := true }) |> onCpm (fun c => { c with power := .noImage })

/-- A register whose ring is found lost shows its reset value and takes no more writes (R408). -/
def ringLost (id : Nat) (d : Dev) : Dev :=
  if (rwpOf d id).lost then d
  else
    onNvm (fun n => { n with rwp := tmod n.rwp id (rwpNew id) (fun r => { r with lost := true }) }) d
      |> logEv 0x3205 0x81 (0xFF000000 + id) 0xFFFFFFFF 0xFFFFFFFF

/-- Steps 3 to 11 of R472. -/
def bootSequence (powerOn : Bool) (boot : BootReport) (d : Dev) : Dev :=
  let d1 := forAll boot.ringsLost (fun i => ringLost i.val) (bootBanks powerOn boot.banksFail d |> bootResume d.nvm.rebuilds)
    |> bootTamper boot.deviceSecretReadable |> bootPending |> slotsOff
  let sel := d1.svc.fwSelB
  if !fwFails d1 boot sel then bootRun boot sel d1
  else
    let d2 := logEv 0x0102 0x84 (b2n sel) (fwStage d1 sel) 0 d1
    if !fwFails d1 boot (!sel) then bootRun boot (!sel) d2 else bootNone d2

/-- The counts of a reset (R468, R446), and the mark of the last power-fail (R467). -/
def bootCounts (powerOn : Bool) (d : Dev) : Dev :=
  let raise := fun (id m : Nat) (d : Dev) => rwpWrite id (BitVec.ofNat 32 (((rwpVal d id).toNat + 1) % m)) d
  let mark := (rwpVal d rwpFlushMark).getLsbD 0
  raise rwpResetCount (2 ^ 32) d |> doIf powerOn (raise rwpPowerCycles (2 ^ 24)) |> rwpWrite rwpFlushMark 0
    |> onCpm (fun c => { c with flushClean := mark })

/-- Start-up from a power-on reset. -/
def bootPower (boot : BootReport) (d0 : Dev) : Dev :=
  let d := dieReset d0
  let d := onCpm (fun c => { c with power := .booting, timebase := 0, causeKind := 1, cause := 0, everPowered := true }) d
    |> onBat (fun b => { b with onVbat := false })
    |> onEvr (fun e => { e with opTime := rwpVal d rwpOpTime })
    |> onPg (fun p => { p with pllRelocks := 11 })
    |> evrResume |> bootCounts true
  logEv 0x8104 0x84 (if d.cpm.flushClean then 1 else 2) (rwpVal d rwpPowerCycles).toNat 0 d
    |> quorumEnd 4 |> bootSequence true boot

/-- Start-up from a warm reset: EV_8105 is the first record. -/
def bootWarm (cause master : Nat) (boot : BootReport) (d0 : Dev) : Dev :=
  dieReset d0 |> onCpm (fun c => { c with power := .booting, causeKind := 2, cause := cause })
    |> evrResume |> bootCounts false |> logEv 0x8105 0x84 cause master 0
    |> quorumEnd 4 |> bootSequence false boot

/-- Memory after a reset: zeros, and the applets that start-up placed (R474). -/
def memBoot (d : Dev) : List Host.Cell := syncMem {} d []

def withBoot (f : Dev → Dev) (s : State) : State := let d := f s.toDev; { s with toDev := d, mem := memBoot d }

/-! ## Rows of start-up -/

/-- POR_RELEASE: nothing happens unless por_n was low with main power in range. -/
def execPorRelease (boot : BootReport) (s : State) : Ans :=
  if s.cpm.power == .porLow then .next (withBoot (bootPower boot) s) else .next s

/-- BOOT_READY: step 12. -/
def bootReady (ms : Nat) (d : Dev) : Dev :=
  if d.cpm.power == .booting then
    onCpm (fun c => { c with power := .ready, devReady := true, bootMs := min ms 8191 }) d
      |> logEv 0x0101 0x84 ms d.cpm.causeKind (regionMask d)
  else d

def execBootReady (ms : Nat) (s : State) : Ans := nextD (bootReady ms) s

/-- A start-up at which everything passes. -/
def bootClean : BootReport := {
  imageAFails := false, imageBFails := false, regionsFail := [], coresFail := [], enginesFail := [], banksFail := []
  lanesFail := [], boltsFail := [], conditionerFails := false, centralFails := none, deviceSecretReadable := true, logBroken := false, ringsLost := [] }

/-- WARM_RESET: the flush, the commits, and the reset takes effect (R469 steps 2 to 5). -/
def warmReset (d : Dev) : Dev :=
  match d.cpm.warmPending with
  | some (cause, master) => evrFlush d |> rwpCommitAll |> bootWarm cause master bootClean
  | none => d

def execWarmReset (s : State) : Ans :=
  if s.cpm.warmPending.isSome && s.cpm.power == .closing then .next (withBoot warmReset s) else .next s

/-! ## Loss of power (R465 to R467, R424) -/

/-- The die has power and is out of reset. -/
def running (d : Dev) : Bool := d.cpm.power == .booting || d.cpm.power == .ready || d.cpm.power == .noImage || d.cpm.power == .closing

/-- Steps 2 to 6 of R466. -/
def powerFail (d : Dev) : Dev :=
  let d1 := onCpm (fun c => { c with pfFlushing := true, devReady := false, warmPending := none }) d
    |> onBat (fun b => { b with onVbat := true })
    |> onNvm (fun n => { n with flushing := true, bgBusy := false })
    |> vaultPowerFail |> rwpWrite rwpOpTime d.evr.opTime |> evrFlush |> rwpWrite rwpFlushMark 1 |> rwpCommitAll
  dieReset d1 |> onCpm (fun c => { c with power := .heldAfterFlush, pfFlushing := true })

def withPowerFail (s : State) : State := { s with toDev := powerFail s.toDev, mem := [] }

/-- PWR_FAIL: a pulse below 1 µs is ignored. -/
def execPwrFail (width : PulseWidth) (s : State) : Ans :=
  match width with
  | .below1us => .next s
  | .qualified => if running s.toDev then .next (withPowerFail s) else .next s

/-- The die goes to reset at once: what was not flushed or committed is lost. -/
def abrupt (p : Power) (d : Dev) : Dev := dieReset d |> onCpm (fun c => { c with power := p, pfFlushing := false })

/-- POR_ASSERT: abrupt, unless the power-fail sequence has run to its end. -/
def execPorAssert (s : State) : Ans :=
  if s.cpm.power == .mainOff || s.cpm.power == .porLow then .next s
  else .next { s with toDev := abrupt .porLow s.toDev, mem := [] }

/-- MAIN_POWER_LOSS: the battery domain goes on VBAT. -/
def execMainPowerLoss (s : State) : Ans :=
  if s.cpm.power == .mainOff then .next s
  else .next { s with toDev := abrupt .mainOff s.toDev |> slotsOff |> onBat (fun b => { b with onVbat := true }), mem := [] }

/-- MAIN_POWER_RESTORE: por_n is still low. -/
def execMainPowerRestore (s : State) : Ans :=
  if s.cpm.power == .mainOff then
    nextD (fun d => onCpm (fun c => { c with power := .porLow }) d |> onBat (fun b => { b with onVbat := false })) s
  else .next s

/-! ## Clock gating (R463) -/

/-- Blocks that gate themselves: barrel engines, the vault engine and cores, without work. -/
def blkIdle (d : Dev) (b : Blk) : Bool :=
  match b with
  | .core c => (coreOf d c).task.isNone
  | .barrel e => (engOf d e).running.isNone
  | .vault => d.vlt.commit.isNone && d.vlt.reqs.isEmpty && !d.hif.cmds.any (fun c => classOf c.code == 0x07 && isWaiting c)
  | _ => false

/-- CLOCK_GATE_IDLE: a block stays gated for as long as it has no work. -/
def clockGate (b : Blk) (d : Dev) : Dev :=
  let keep := d.die.gatedBlocks.filter (fun x => blkIdle d x && x != b)
  onDie (fun x => { x with gatedBlocks := if blkIdle d b then keep ++ [b] else keep }) d

def execClockGateIdle (blk : Blk) (s : State) : Ans := nextD (fun d => doIf (running d) (clockGate blk) d) s

end Sys2Proof.Machine
end

