-- ==== Sys2Proof/Machine/Telemetry.lean ====
section
/-! DEFINITION. The telemetry snapshot (R477) and the TEL commands of PCIe (R40). -/

namespace Sys2Proof.Machine

/-- The number of counts that a page holds at 0xF00 (R501). -/
def countsOf (m : Nat) : Nat :=
  if isKwPage m then 2
  else if isRegionPage m then (let p := pagePlace m; if p = 0 then 5 else if p < 4 then 4 else if p = 4 then 3 else 5)
  else if m = 69 then 4
  else if m ≤ 87 then 3
  else if m = 89 then 7
  else if m = 90 then 3
  else if m = 92 then 4
  else if m = 93 then 3
  else if m = 95 then 6
  else if m ≤ 107 then 1
  else if m = 109 then 1
  else if m ≤ 174 then 2
  else if m = 177 then 2
  else if m = 179 then 4
  else if m = 180 then 1
  else if m = 182 ∨ m = 183 then 5
  else if m = 187 then 1
  else if m = 188 then 7
  else if m = 189 then 3
  else if m = 190 then 1
  else if m = 193 then 2
  else 0

/-- Every STATUS register and every count, with its address. -/
def snapshotOf (d : Dev) : Tab Word32 :=
  (List.range 196).flatMap (fun m =>
    (0x00C :: (List.range (2 * countsOf m)).map (fun k => 0xF00 + 4 * k)).map (fun off => (pageBase m + off, regVal d m off)))

/-- TELEMETRY_SNAPSHOT: refreshed every 10 ms. -/
def telemetrySnapshot (d : Dev) : Dev :=
  if dieRuns d then onCpm (fun c => { c with snapshot := snapshotOf d, telemSeq := c.telemSeq + 1 }) d else d

def execTelemetrySnapshot (s : State) : Ans := nextD telemetrySnapshot s

/-- The snapshot holds the word at an address. -/
def inSnapshot (a : Nat) : Bool :=
  match pageAt a with
  | some m => let off := a - pageBase m; off == 0x00C || (decide (0xF00 ≤ off) && decide (off < 0xF00 + 8 * countsOf m) && off % 4 == 0)
  | none => false

/-- A word of the snapshot; a register that it does not hold has no value there (log entry 477). -/
def snapWord (d : Dev) (a : Nat) : Word32 :=
  if inSnapshot a then tget d.cpm.snapshot a 0 else BitVec.ofNat 32 (Config.implValue 477 (a + 2 ^ 40 * d.cpm.telemSeq.toNat))

/-- The status block of R40. -/
def telStatusBytes (d : Dev) (fn : Nat) : Bytes :=
  let w := fun (m off : Nat) => natLE (regVal d m off).toNat 4
  let own := w (110 + fn) 0x00C
  if isVf fn then zeros 32 ++ own ++ zeros 28
  else
    w 186 0x00C ++ natLE (regionMask d) 4 ++ w 95 0x040 ++ w 177 0x00C ++ w 89 0x00C ++ w 92 0x00C ++ w 69 0x048 ++ w 69 0x044
      ++ own ++ zeros 28

def bodyTelStatus (c : Cmd) (_ : HostRead) : Run Res := do
  needPlain c
  need (zeroPar c 64 128) stParam 0
  need (decide (64 ≤ c.outCap)) stParam 0x0D01
  pure (resOut (telStatusBytes (← get) c.fn))

def execTelStatus (cid : Nat) (hr : HostRead) (s : State) : Ans := hasp 0x0B01 cid hr bodyTelStatus s

/-- An address that TEL_READ takes from a function: its own page for a VF, a page that the mirror shows to world C for the PF. -/
def telAddrOk (fn a : Nat) : Bool :=
  match pageAt a with
  | some m => if isVf fn then m == 110 + fn else !isKwPage m && m != 184
  | none => false

def bodyTelRead (c : Cmd) (_ : HostRead) : Run Res := do
  needPlain c
  need (zeroPar c 74 128) stParam 0
  let a := par c 64 8
  let n := par c 72 2
  let as := (List.range n).map (fun i => a + 4 * i)
  need (a % 4 == 0 && decide (a < 2 ^ 40) && decide (1 ≤ n) && decide (n ≤ 64) && as.all (telAddrOk c.fn) && decide (4 * n ≤ c.outCap)) stParam 0x0D01
  let d ← get
  pure (resOut (as.flatMap (fun x => natLE (snapWord d x).toNat 4)))

def execTelRead (cid : Nat) (hr : HostRead) (s : State) : Ans := hasp 0x0B02 cid hr bodyTelRead s

end Sys2Proof.Machine
end

