-- ==== Sys2Proof/Machine/Monitor.lean ====
section
/-! DEFINITION. The Slano monitor on the UART (R494 to R496): admission, replies and effects of its commands. -/

namespace Sys2Proof.Machine

/-! ## Admission (R13, R21, R30, R32, R495) -/

/-- The monitor is master 0x5C in world D (R20). -/
def monAcc : Access := ⟨.D, 0, 0x5C, 0⟩

/-- A port of the logic die takes commands: not in reset, and not while a reset closes the ports (R469). -/
def portServes (d : Dev) : Bool := d.cpm.power == .booting || d.cpm.power == .ready || d.cpm.power == .noImage

/-- The monitor commands by what admits them. -/
inductive MonCmd where
  | ident | status | log | debug | baud | recover
  deriving DecidableEq, Repr

/-- The columns of R495, the boot ROM's own three commands, and the states in which a port takes only some classes. -/
def monAdmits (d : Dev) (k : MonCmd) : Bool :=
  if d.die.safe then false
  else if d.svc.bootRom then
    match k with
    | .ident | .log => true
    | .recover => d.lc.state != .retired
    | _ => false
  else match k with
    | .ident | .log | .baud => true
    | .status => d.lc.state != .quarantine && d.lc.state != .retired
    | .debug => debugAdmitted d && d.lc.transition.isNone && !d.tmp.hold
    | .recover => false

/-- The final lines of a reply. -/
def monEr (code : Nat) : Dev → Dev := emit (.monitorEr code)
def monOk (w : List Word32) : Dev → Dev := emit (.monitorOk w)

/-- ER 02: kind 3, or kind 4 in die safe state; the function that a port without one names is the part's own. -/
def monRefuse (d : Dev) : Dev :=
  logEv 0x5104 0x5C 0 (Config.implValue 495 0) (if d.die.safe then 4 else 3) d |> monEr 2

/-- A command of the monitor: what it does where its syntax and the state admit it. -/
def monRun (k : MonCmd) (good : Bool) (act : State → State) (s : State) : Ans :=
  if !portServes s.toDev then .next s
  else if !good then .next (onDev (monEr 3) s)
  else if !monAdmits s.toDev k then .next (onDev monRefuse s)
  else .next (act s)

/-! ## Lines, identity, telemetry and the log -/

def execMonLineError (s : State) : Ans := nextD (fun d => doIf (portServes d) (monEr 3) d) s

/-- Bytes as the 32-bit words of a reply, the first byte lowest. -/
def wordsOfBytes (b : Bytes) : List Word32 :=
  (List.range ((b.length + 3) / 4)).map (fun i => BitVec.ofNat 32 (leNat (slice b (4 * i) 4)))

/-- Ordering code, serial number, lifecycle state, Keeper and microcode versions. -/
def execMonIdent (s : State) : Ans :=
  monRun .ident true (onDev (fun d => monOk (wordsOfBytes ((identBytes d 0).take 36)) d)) s

/-- The pages whose STATUS register the STATUS command shows: regions, engines, banks, core slots and card slots. -/
def monPages : List Nat :=
  (List.range 4).map (fun r => 17 * r + 4) ++ (List.range 18).map (· + 70) ++ (List.range 12).map (· + 96)
    ++ (List.range 28).map (fun c => 17 * (c / 7) + 11 + c % 7) ++ [182, 183]

/-- STATUS reads from the snapshot (R531). -/
def execMonStatus (s : State) : Ans :=
  monRun .status true (onDev (fun d => monOk (monPages.map (fun m => snapWord d (pageBase m + 0x00C))) d)) s

def execMonLogRead (area : Nat) (start : BitVec 40) (count : Nat) (s : State) : Ans :=
  monRun .log (decide (area ≤ 1) && decide (count ≤ 256)) (onDev (fun d =>
    monOk (wordsOfBytes (((recordsFrom d area start.toNat).take count).flatMap evBytes)) d)) s

/-! ## Memory and cores -/

/-- The reply to an access that did not complete; a stalled one has none yet. -/
def monBusEnd (e : BusEnd) (ok : Dev → Dev) : Dev → Dev :=
  match e with
  | .done => ok
  | .denied => monEr 4
  | .refused => monEr 5
  | .stalled => id

/-- Reads words in rising order of address, to the first that is not given. -/
def monWords (a : Nat) : Nat → State → BusEnd × List Word32 × State
  | 0, s => (.done, [], s)
  | n + 1, s =>
    match busRead monAcc a 4 s with
    | (.done, b, s1) =>
      let r := monWords (a + 4) n s1
      (r.1, BitVec.ofNat 32 (leNat b) :: r.2.1, r.2.2)
    | (e, _, s1) => (e, [], s1)

def execMonMr (addr : Addr) (n : Nat) (s : State) : Ans :=
  monRun .debug (decide (1 ≤ n) && decide (n ≤ 64) && decide (addr + 4 * n ≤ 2 ^ 40)) (fun s =>
    let r := monWords addr n s
    onDev (monBusEnd r.1 (monOk r.2.1)) r.2.2) s

/-- One write of a word, with its reply. -/
def monWrite (a : Nat) (v : Word32) (s : State) : State :=
  let r := busWrite monAcc a (natLE v.toNat 4) s
  onDev (monBusEnd r.1 (monOk [])) r.2

def execMonMw (addr : Addr) (value : BitVec 32) (s : State) : Ans :=
  monRun .debug (decide (addr + 4 ≤ 2 ^ 40)) (monWrite addr value) s

/-- A write of OCD_CTRL of a slot (R299). -/
def monOcd (c : CoreId) (v : Word32) : State → State := monWrite (pageBase (corePage c) + 0x008) v

def execMonHalt (c : CoreId) (s : State) : Ans := monRun .debug true (monOcd c 1) s
def execMonStep (c : CoreId) (s : State) : Ans := monRun .debug true (fun s => monOcd c (if (coreOf s.toDev c).halt then 3 else 2) s) s
def execMonResume (c : CoreId) (s : State) : Ans := monRun .debug true (monOcd c 0) s

/-! ## Events, rate and recovery -/

/-- INJECT: the catalogue's severity, and never a retain record. -/
def execMonInject (code : BitVec 16) (p1 : BitVec 32) (p2 : BitVec 32) (p3 : BitVec 32) (s : State) : Ans :=
  monRun .debug (decide (code.toNat ≤ 0x8FFF)) (onDev (fun d =>
    logAs false (evSeverity code.toNat) code.toNat 0x5C p1.toNat p2.toNat p3.toNat d |> monOk [])) s

/-- BAUD: the new rate holds after the OK line. -/
def execMonBaudCmd (rate : Nat) (s : State) : Ans :=
  monRun .baud (decide (9600 ≤ rate) && decide (rate ≤ 3000000)) (onDev (fun d =>
    monOk [] d |> onSvc (fun x => { x with baud := rate }))) s

/-- An image that the monitor received: verified as R491 verifies one, and with room in the store for it. -/
def recoverImage (d : Dev) (image : Bytes) : Option ImageRec × (Dev → Dev) :=
  match fwParse image with
  | none => (none, id)
  | some img =>
    let refused := log7140 5 (fwVersion d d.cpm.imageB) img.version.toNat
    if !fwSigned image || decide (img.svn < d.svc.fwMinsv) then (none, refused)
    else if keepOnly d then (none, id)
    else (some img, id)

/-- FWRECOVER (R496): the image goes to record A, record 0x31 names A, and a warm reset of cause 7 follows. -/
def recover (image : Bytes) (linesOk : Bool) (d : Dev) : Dev :=
  if !linesOk then monEr 6 d
  else match recoverImage d image with
    | (none, log) => log d |> monEr 6
    | (some img, _) =>
      onSvc (fun x => { x with fwA := some img, fwSelB := false, recovered := true }) d
        |> recWrite (fwRec 0) (pagesOf image.length) |> keepWrite 0x31 |> monOk []
        |> warmRequest 7 (resetMaster 7)

def execFwrecover (image : List Byte) (linesOk : Bool) (s : State) : Ans :=
  monRun .recover true (onDev (recover image linesOk)) s

end Sys2Proof.Machine
end

