-- ==== Sys2Proof/Machine/Spi.lean ====
section
/-! DEFINITION. The management SPI (R520 to R522): frames, their checks in order, responses and the six ops. -/

namespace Sys2Proof.Machine

/-! ## Frames -/

/-- The management SPI is master 0x5D in world D (R20). -/
def spiAcc : Access := ⟨.D, 0, 0x5D, 0⟩

/-- The bytes of words in the order in which they move. -/
def spiBytes (w : List Word32) : Bytes := w.flatMap (fun x => natBE x.toNat 4)

/-- The final word over the words before it. -/
def spiFinal (w : List Word32) : Word32 := BitVec.ofNat 32 (crc8 (spiBytes w ++ zeros 3)).toNat

def spiWord (f : List Word32) (i : Nat) : Word32 := lget f i 0
def spiOp (f : List Word32) : Nat := (spiWord f 0).toNat / 2 ^ 24
def spiN (f : List Word32) : Nat := (spiWord f 0).toNat / 2 ^ 16 % 256
/-- The address that a frame carries. -/
def spiAddr (f : List Word32) : Nat := (spiWord f 0).toNat % 256 * 2 ^ 32 + (spiWord f 1).toNat

/-- The length that word 0 implies; the pad words of a NOP stand before its final word. -/
def spiLen (f : List Word32) : Nat := if [0, 2, 3].contains (spiOp f) then 3 + spiN f else 3

/-- The zero fields are zero and n is in range. -/
def spiForm (f : List Word32) : Bool :=
  let n := spiN f
  let plain := spiAddr f == 0
  (spiWord f 0).toNat / 256 % 256 == 0 && decide ((spiWord f (spiLen f - 1)).toNat < 256) &&
    (match spiOp f with
    | 0 => decide (n ≤ 72) && plain
    | 1 => decide (1 ≤ n) && decide (n ≤ 64)
    | 2 => n == 1
    | 3 => n == 1 && plain
    | 5 => decide (1 ≤ n) && decide (n ≤ 8) && plain
    | 6 => plain
    | _ => false)

/-! ## Responses (R521) -/

/-- The words that a frame of `len` words clocks out of the response waiting; the rest of it is lost. -/
def spiOut (len : Nat) (d : Dev) : Dev :=
  match d.spi.pend with
  | some (code, w) => emit (.spi code (w.take len)) d |> onSpi (fun x => { x with pend := none })
  | none => d

/-- Ends a frame: its response waits for the next one, and an error or ignored edges are counted and logged. -/
def spiEnd (code : Nat) (extra : Bool) (words : List Word32) (d : Dev) : Dev :=
  let n := d.spi.frames + 1
  let full := code + 128 * b2n extra
  let body := BitVec.ofNat 32 (full * 2 ^ 24 + words.length * 2 ^ 16 + n.toNat % 2 ^ 16) :: words
  let bad := extra || (decide (1 ≤ code) && decide (code ≤ 4))
  onSpi (fun x => { x with
    frames := n, errs := if bad then x.errs + 1 else x.errs, pend := some (full, body ++ [spiFinal body])
    mode3 := Config.implValue 520 n.toNat % 2 == 1 }) d
    |> doIf bad (logEv 0x5301 0x5D (Config.implValue 522 (3 * n.toNat)) (Config.implValue 522 (3 * n.toNat + 1))
        (Config.implValue 522 (3 * n.toNat + 2)))

/-! ## A frame that passes its own checks -/

/-- TEL is not admitted in RETIRED (R30); LOG and IDN are in every state. -/
def spiAdmits (d : Dev) (op : Nat) : Bool := !([1, 2, 3].contains op && d.lc.state == .retired)

/-- The refusal of an address (R507). -/
def spiRefused (a kind : Nat) (d : Dev) : Dev :=
  match pageAt a with
  | some m => logRefused spiAcc m a kind d
  | none => logEv 0x2201 0x5D (kind * 2 ^ 24 + tagOf spiAcc) (a % 2 ^ 32) (a / 2 ^ 32) d

/-- READ: every word lies in the snapshot. -/
def spiReadWords (f : List Word32) (d : Dev) : Option (List Word32) :=
  let as := (List.range (spiN f)).map (fun i => spiAddr f + 4 * i)
  if as.all inSnapshot then some (as.map (snapWord d)) else none

def spiDoRead (f : List Word32) (extra : Bool) (s : State) : State :=
  match spiReadWords f s.toDev with
  | some w => onDev (spiEnd 0 extra w) s
  | none => onDev (fun d => spiRefused (spiAddr f) (if spiAddr f % 4 == 0 then 3 else 2) d |> spiEnd 5 extra []) s

/-- The registers that the management SPI writes. -/
def spiWritable (a : Nat) : Bool :=
  match pageAt a with
  | some m => spiWritten m (a - pageBase m)
  | none => false

/-- WRITE: an address outside the writable set is refused as an ADM command of this port would be (R21). -/
def spiDoWrite (f : List Word32) (extra : Bool) (s : State) : State :=
  let a := spiAddr f
  if !spiWritable a then
    onDev (fun d => logEv 0x2101 0x5D 0x83 1 2 d |> spiRefused a (if a % 4 == 0 then 3 else 2) |> spiEnd 5 extra []) s
  else
    let r := busWrite spiAcc a (natLE (spiWord f 2).toNat 4) s
    match r.1 with
    | .done => onDev (spiEnd 0 extra []) r.2
    | .stalled => r.2
    | _ => onDev (spiEnd 5 extra []) r.2

/-- TELEM_CFG: the lowest severity that EVENT_READ returns. -/
def spiDoCfg (f : List Word32) (extra : Bool) (s : State) : State :=
  onDev (fun d => onSpi (fun x => { x with filter := (spiWord f 2).extractLsb' 0 3 }) d |> spiEnd 0 extra []) s

/-- The records that EVENT_READ returns (R453). -/
def spiRecords (n : Nat) (d : Dev) : List EvRec :=
  ((recordsFrom d 0 d.evr.spiPtr.toNat).filter (fun r => decide (d.spi.filter.toNat ≤ r.severity.toNat))).take n

/-- EVENT_READ: EVR_SPI_PTR passes the records given. -/
def spiDoEvents (f : List Word32) (extra : Bool) (s : State) : State :=
  onDev (fun d =>
    let l := spiRecords (spiN f) d
    let next := (l.getLast?.map (fun r => BitVec.ofNat 64 ((r.seq + 1) % seqMod))).getD d.evr.spiPtr
    onEvr (fun e => { e with spiPtr := next }) d |> spiEnd 0 extra (wordsOfBytes (l.flatMap evBytes))) s

/-- IDENT: eight words of identity, whose layout the manual does not give (log entry 520). -/
def spiIdentWords (d : Dev) : List Word32 :=
  let what := lcCode d.lc.state + 16 * (fwVersion d d.cpm.imageB + 2 ^ 32 * ucodeVersion d)
  (List.range 8).map (fun k => BitVec.ofNat 32 (Config.implValue 521 (k + 8 * what)))

def spiDoIdent (_f : List Word32) (extra : Bool) (s : State) : State :=
  onDev (fun d => spiEnd 0 extra (spiIdentWords d) d) s

def spiDoNop (_f : List Word32) (extra : Bool) (s : State) : State := onDev (spiEnd 0 extra []) s

/-! ## The checks of a frame, in order -/

/-- A frame of the row's op: length, CRC-8, form, class; then its effect. -/
def spiTake (op : Nat) (frame : List Word32) (extra : Bool) (act : List Word32 → Bool → State → State) (s : State) : State :=
  if !portServes s.toDev || frame.isEmpty || spiOp frame != op then s
  else
    let len := spiLen frame
    let f := frame.take len
    let more := extra || decide (len < frame.length)
    let s1 := onDev (spiOut frame.length) s
    if frame.length < len then onDev (spiEnd 2 false []) s1
    else if spiFinal (f.take (len - 1)) &&& 0xFF != spiWord f (len - 1) &&& 0xFF then onDev (spiEnd 1 more []) s1
    else if !spiForm f then onDev (spiEnd 4 more []) s1
    else if !spiAdmits s.toDev op then
      onDev (fun d => logEv 0x5104 0x5D op (Config.implValue 495 1) 3 d |> spiEnd 6 more []) s1
    else act f more s1

def execSpiNop (frame : List (BitVec 32)) (extra : Bool) (s : State) : Ans := .next (spiTake 0 frame extra spiDoNop s)
def execSpiRead (frame : List (BitVec 32)) (extra : Bool) (s : State) : Ans := .next (spiTake 1 frame extra spiDoRead s)
def execSpiWrite (frame : List (BitVec 32)) (extra : Bool) (s : State) : Ans := .next (spiTake 2 frame extra spiDoWrite s)
def execTelemCfg (frame : List (BitVec 32)) (extra : Bool) (s : State) : Ans := .next (spiTake 3 frame extra spiDoCfg s)
def execEventRead (frame : List (BitVec 32)) (extra : Bool) (s : State) : Ans := .next (spiTake 5 frame extra spiDoEvents s)
def execSpiIdent (frame : List (BitVec 32)) (extra : Bool) (s : State) : Ans := .next (spiTake 6 frame extra spiDoIdent s)

/-- A frame that is not executed; one that comes too early leaves the response to the next frame. -/
def spiBadFrame (err : SpiErr) (d : Dev) : Dev :=
  let len := Config.implValue 523 d.spi.frames.toNat
  let early := fun (d : Dev) =>
    onSpi (fun x => { x with frames := x.frames + 1 }) d |> emit (.spi 7 [BitVec.ofNat 32 (7 * 2 ^ 24 + (d.spi.frames.toNat + 1) % 2 ^ 16)])
  match err with
  | .crc => spiOut len d |> spiEnd 1 false []
  | .short => spiOut len d |> spiEnd 2 false []
  | .midWord => spiOut len d |> spiEnd 3 false []
  | .form => spiOut len d |> spiEnd 4 false []
  | .busy => early d

def execSpiFrameError (err : SpiErr) (s : State) : Ans := nextD (fun d => doIf (portServes d) (spiBadFrame err) d) s

end Sys2Proof.Machine
end

