-- ==== Sys2Proof/Machine/Stripes.lean ====
section
/-! DEFINITION. Reading the persistent store page by page, and the loss of records (R392, R393, R398 to R402): what each user of
a lost record makes of it (R93, R115). -/

namespace Sys2Proof.Machine

/-- What the loss of a record means to its user: the translation policy falls back to the default table, a persistent key
that is not resident is lost, a partition whose key's record or whose ring record is lost is lost, and the records of a lost page of
the log are gone: a verification finds their gap (R259, R400, R452; log entry 450). -/
def recordLost (id : Nat) (d : Dev) : Dev :=
  if id = settingRec 0 then (if d.pol.rec_.isSome then polReset 2 d else d)
  else if recClass id = 1 then
    match d.ks.keys.find? (fun k => k.life == 2 && keyRecId k == id && !k.lost) with
    | some k =>
      if k.resident then partsLose k.entry d
      else loseKey k.entry (logEv 0x3321 0x80 (ownerByte k.owner) k.index id) d
    | none => d
  else if recClass id = 5 then
    if id = ringRec d.vlt.ringSlot && !d.vlt.ring.isEmpty then forAll (hostParts d) (onPart · (fun x => { x with state := 4 })) d else d
  else if recClass id = 6 then onEvr (fun e => { e with gen := e.gen.filter (fun r => genPage r != id) }) d
  else if recClass id = 7 then onEvr (fun e => { e with ret := e.ret.filter (fun r => retPage r != id) }) d
  else d

def execRebuildStripe (which : Fin 2) (unreadable : Bool) (s : State) : Ans :=
  nextD (fun d => doIf (dieRuns d) (fun d => rebuildStripe which unreadable recordLost d |> vaultAdmit) d) s

def execScrubChunk (corrected : Option Nat) (s : State) : Ans :=
  nextD (fun d => doIf (dieRuns d) (scrubChunk corrected recordLost) d) s

/-- A record that has never been written, and pages beyond the end of one. -/
def pageBlank (d : Dev) (id page : Nat) : Bool :=
  let r := recOf d id
  if isFixedClass (recClass id) then !fixedWritten d id else r.version == 0 || decide (r.stripes.length ≤ page)

/-- After a G3 erasure the encrypted pages cannot be read (R392). -/
def pageSealed (d : Dev) (id : Nat) : Bool := d.bat.keyErased && !isPlainClass (recClass id)

/-- The chunks of a read are counted at the banks that hold the positions. -/
def countChunks (ps : List Nat) (s : Nat) (d : Dev) : Dev :=
  forAll ps (fun p d => match bankAt d.nvm p s with
    | some b => onBank b (fun k => { k with chunks := k.chunks + 1 }) d
    | none => d) d

/-- An uncorrectable chunk on a bank in service is counted there and rewritten. -/
def chunkMend (s p : Nat) (d : Dev) : Dev :=
  match bankAt d.nvm p s with
  | some b => onNvm (fun n => { n with rewrites := n.rewrites + 1 }) d |> chunkUncorrectable b
  | none => d

/-- NVM_PAGE_READ. -/
def pageRead (id page : Nat) (bad : List Nat) (d : Dev) : Dev :=
  let s := stripeOf d id page
  let wrong := (List.range 10).filter (fun p => bad.contains p)
  let missing := missingAt d.nvm s
  let gone := (List.range 10).filter (fun p => bad.contains p || missing.contains p)
  let data := gone.any (· < 8)
  if !d.nvm.ready || pageBlank d id page || pageSealed d id || recLost d id then d
  else
    let d := fgArrive d |> countChunks (if data then List.range 10 else List.range 8) s
    if 3 ≤ gone.length || bad.contains 24 then
      forAll wrong (fun p d => match bankAt d.nvm p s with | some b => chunkUncorrectable b d | none => d) d
        |> stripeLose s (recsAt d s) recordLost
    else
      forAll wrong (chunkMend s) d
        |> doIf (bad.any (fun x => 16 ≤ x && x < 24)) (fun d =>
            onNvm (fun n => { n with rewrites := n.rewrites + 1 }) d |> logEv 0x3206 0x81 id page s)

def execNvmPageRead (id : BitVec 32) (page : Nat) (bad : List Nat) (s : State) : Ans := nextD (pageRead id.toNat page bad) s

end Sys2Proof.Machine
end

