-- ==== Sys2Proof/Machine/Dispatch.lean ====
section
/-! DEFINITION. One arm for each command: the meaning that the family file gives it. -/

namespace Sys2Proof.Machine

def exec (i : Instr) (s : State) : Host.Outcome State Fault Refusal :=
  match i with
  | .bgChunkEnd => Sys2Proof.Machine.execBgChunkEnd s
  | .uncorrectableError blk tile row rereadOk => Sys2Proof.Machine.execUncorrectableError blk tile row rereadOk s
  | .blockFault blk reason => Sys2Proof.Machine.execBlockFault blk reason s
  | .blockSelfTestEnd blk pass => Sys2Proof.Machine.execBlockSelfTestEnd blk pass s
  | .configRequest fn req => Sys2Proof.Machine.execConfigRequest fn req s
  | .fnEnable fn => Sys2Proof.Machine.execFnEnable fn s
  | .fnDisable fn => Sys2Proof.Machine.execFnDisable fn s
  | .sqTail fn qp value => Sys2Proof.Machine.execSqTail fn qp value s
  | .cqHead fn qp value => Sys2Proof.Machine.execCqHead fn qp value s
  | .sqEntryFetch rd => Sys2Proof.Machine.execSqEntryFetch rd s
  | .sqPriorityPromote fn qp => Sys2Proof.Machine.execSqPriorityPromote fn qp s
  | .seqHoldTimeout cid => Sys2Proof.Machine.execSeqHoldTimeout cid s
  | .completionPost cid => Sys2Proof.Machine.execCompletionPost cid s
  | .cqCoalTimeout fn qp => Sys2Proof.Machine.execCqCoalTimeout fn qp s
  | .msixUnmask fn what => Sys2Proof.Machine.execMsixUnmask fn what s
  | .queueCreate cid hr => Sys2Proof.Machine.execQueueCreate cid hr s
  | .queueDelete cid hr => Sys2Proof.Machine.execQueueDelete cid hr s
  | .sessionOpen cid hr => Sys2Proof.Machine.execSessionOpen cid hr s
  | .sessionClose cid hr => Sys2Proof.Machine.execSessionClose cid hr s
  | .flrVf fn => Sys2Proof.Machine.execFlrVf fn s
  | .flrPf => Sys2Proof.Machine.execFlrPf s
  | .hotReset linkUp => Sys2Proof.Machine.execHotReset linkUp s
  | .linkDown linkUp => Sys2Proof.Machine.execLinkDown linkUp s
  | .pciePerst linkUp => Sys2Proof.Machine.execPciePerst linkUp s
  | .lcProvision cid hr => Sys2Proof.Machine.execLcProvision cid hr s
  | .lcDevelop cid hr => Sys2Proof.Machine.execLcDevelop cid hr s
  | .lcProvisionBack cid hr => Sys2Proof.Machine.execLcProvisionBack cid hr s
  | .lcOperate cid hr => Sys2Proof.Machine.execLcOperate cid hr s
  | .lcQuarantine cid hr => Sys2Proof.Machine.execLcQuarantine cid hr s
  | .lcRetire cid hr => Sys2Proof.Machine.execLcRetire cid hr s
  | .lcTransition => Sys2Proof.Machine.execLcTransition s
  | .cusEnrol cid hr => Sys2Proof.Machine.execCusEnrol cid hr s
  | .cusRegister cid hr => Sys2Proof.Machine.execCusRegister cid hr s
  | .cusRevoke cid hr => Sys2Proof.Machine.execCusRevoke cid hr s
  | .cusSetM cid hr => Sys2Proof.Machine.execCusSetM cid hr s
  | .cusSetLife cid hr => Sys2Proof.Machine.execCusSetLife cid hr s
  | .enrolWindowExpire => Sys2Proof.Machine.execEnrolWindowExpire s
  | .quorumEnd cid hr => Sys2Proof.Machine.execQuorumEnd cid hr s
  | .quorumWindowExpire => Sys2Proof.Machine.execQuorumWindowExpire s
  | .quorumLifetimeExpire => Sys2Proof.Machine.execQuorumLifetimeExpire s
  | .vfBind cid hr => Sys2Proof.Machine.execVfBind cid hr s
  | .vfUnbind cid hr => Sys2Proof.Machine.execVfUnbind cid hr s
  | .sessionQuotaSet cid hr => Sys2Proof.Machine.execSessionQuotaSet cid hr s
  | .ident cid hr => Sys2Proof.Machine.execIdent cid hr s
  | .telStatus cid hr => Sys2Proof.Machine.execTelStatus cid hr s
  | .telRead cid hr => Sys2Proof.Machine.execTelRead cid hr s
  | .keyGenerate cid hr => Sys2Proof.Machine.execKeyGenerate cid hr s
  | .keyImportX9143 cid hr => Sys2Proof.Machine.execKeyImportX9143 cid hr s
  | .keyImport38f cid hr => Sys2Proof.Machine.execKeyImport38f cid hr s
  | .keyExport cid hr => Sys2Proof.Machine.execKeyExport cid hr s
  | .keyDelete cid hr => Sys2Proof.Machine.execKeyDelete cid hr s
  | .keyInfo cid hr => Sys2Proof.Machine.execKeyInfo cid hr s
  | .keyRestrict cid hr => Sys2Proof.Machine.execKeyRestrict cid hr s
  | .keyPersist cid hr => Sys2Proof.Machine.execKeyPersist cid hr s
  | .keyQuotaSet cid hr => Sys2Proof.Machine.execKeyQuotaSet cid hr s
  | .keyFetch req => Sys2Proof.Machine.execKeyFetch req s
  | .spillRecordWrite => Sys2Proof.Machine.execSpillRecordWrite s
  | .keyRefill entry answer => Sys2Proof.Machine.execKeyRefill entry answer s
  | .persistentKeyLoad entry readable => Sys2Proof.Machine.execPersistentKeyLoad entry readable s
  | .spillWaitTimeout cid => Sys2Proof.Machine.execSpillWaitTimeout cid s
  | .pinXlate cid hr => Sys2Proof.Machine.execPinXlate cid hr s
  | .pinCompare cid hr => Sys2Proof.Machine.execPinCompare cid hr s
  | .pinDerive cid hr => Sys2Proof.Machine.execPinDerive cid hr s
  | .pinCheck cid hr => Sys2Proof.Machine.execPinCheck cid hr s
  | .dukptPinXlate cid hr => Sys2Proof.Machine.execDukptPinXlate cid hr s
  | .dukptMacGen cid hr => Sys2Proof.Machine.execDukptMacGen cid hr s
  | .dukptMacVer cid hr => Sys2Proof.Machine.execDukptMacVer cid hr s
  | .macGen cid hr => Sys2Proof.Machine.execMacGen cid hr s
  | .macVer cid hr => Sys2Proof.Machine.execMacVer cid hr s
  | .emvAcVerify cid hr => Sys2Proof.Machine.execEmvAcVerify cid hr s
  | .keyblockXlate cid hr => Sys2Proof.Machine.execKeyblockXlate cid hr s
  | .keyCheck cid hr => Sys2Proof.Machine.execKeyCheck cid hr s
  | .boltStepEnd r => Sys2Proof.Machine.execBoltStepEnd r s
  | .boltQueuePromote cid => Sys2Proof.Machine.execBoltQueuePromote cid s
  | .xlatePolicyWrite cid hr => Sys2Proof.Machine.execXlatePolicyWrite cid hr s
  | .dkFlush acc r => Sys2Proof.Machine.execDkFlush acc r s
  | .engineLenSet cid hr => Sys2Proof.Machine.execEngineLenSet cid hr s
  | .roleLenApply role => Sys2Proof.Machine.execRoleLenApply role s
  | .pkcRun cid hr => Sys2Proof.Machine.execPkcRun cid hr s
  | .pkcCancel cid hr => Sys2Proof.Machine.execPkcCancel cid hr s
  | .pkcCatalog cid hr => Sys2Proof.Machine.execPkcCatalog cid hr s
  | .pkcWsOpen cid hr => Sys2Proof.Machine.execPkcWsOpen cid hr s
  | .pkcWsLoad cid hr => Sys2Proof.Machine.execPkcWsLoad cid hr s
  | .pkcWsRun cid hr => Sys2Proof.Machine.execPkcWsRun cid hr s
  | .pkcWsRead cid hr => Sys2Proof.Machine.execPkcWsRead cid hr s
  | .pkcWsRelease cid hr => Sys2Proof.Machine.execPkcWsRelease cid hr s
  | .pkcWsToKey cid hr => Sys2Proof.Machine.execPkcWsToKey cid hr s
  | .pkcWsClose cid hr => Sys2Proof.Machine.execPkcWsClose cid hr s
  | .barrelRunEnd e how => Sys2Proof.Machine.execBarrelRunEnd e how s
  | .barrelJobPromote cid => Sys2Proof.Machine.execBarrelJobPromote cid s
  | .longPoolSet cid hr => Sys2Proof.Machine.execLongPoolSet cid hr s
  | .engineAbort acc e => Sys2Proof.Machine.execEngineAbort acc e s
  | .engineAbortDone e => Sys2Proof.Machine.execEngineAbortDone e s
  | .spareRoleTake spare role pass => Sys2Proof.Machine.execSpareRoleTake spare role pass s
  | .handoverMove role => Sys2Proof.Machine.execHandoverMove role s
  | .barrelKatDue e => Sys2Proof.Machine.execBarrelKatDue e s
  | .katHandoverTimeout e => Sys2Proof.Machine.execKatHandoverTimeout e s
  | .ucodeInstall cid hr => Sys2Proof.Machine.execUcodeInstall cid hr s
  | .ucodeRollStep katPass => Sys2Proof.Machine.execUcodeRollStep katPass s
  | .digHash cid hr => Sys2Proof.Machine.execDigHash cid hr s
  | .digMacGen cid hr => Sys2Proof.Machine.execDigMacGen cid hr s
  | .digMacVer cid hr => Sys2Proof.Machine.execDigMacVer cid hr s
  | .digKdf cid hr => Sys2Proof.Machine.execDigKdf cid hr s
  | .digestStepEnd r lane => Sys2Proof.Machine.execDigestStepEnd r lane s
  | .digestQueuePromote cid => Sys2Proof.Machine.execDigestQueuePromote cid s
  | .noiseWindowComplete src window => Sys2Proof.Machine.execNoiseWindowComplete src window s
  | .sourceRetest src => Sys2Proof.Machine.execSourceRetest src s
  | .sourceStartupTestEnd src samples => Sys2Proof.Machine.execSourceStartupTestEnd src samples s
  | .conditionerBlock => Sys2Proof.Machine.execConditionerBlock s
  | .drbgSeedPeriodEnd r => Sys2Proof.Machine.execDrbgSeedPeriodEnd r s
  | .drbgGenerate r => Sys2Proof.Machine.execDrbgGenerate r s
  | .randomQueueRefill r => Sys2Proof.Machine.execRandomQueueRefill r s
  | .randomReadTimeout cid => Sys2Proof.Machine.execRandomReadTimeout cid s
  | .random cid hr => Sys2Proof.Machine.execRandom cid hr s
  | .entInject cid hr => Sys2Proof.Machine.execEntInject cid hr s
  | .entKat cid hr => Sys2Proof.Machine.execEntKat cid hr s
  | .entropyKatDue => Sys2Proof.Machine.execEntropyKatDue s
  | .entKatRun acc => Sys2Proof.Machine.execEntKatRun acc s
  | .rngKatRun acc r => Sys2Proof.Machine.execRngKatRun acc r s
  | .katEnd target stage => Sys2Proof.Machine.execKatEnd target stage s
  | .vaultRead cid hr => Sys2Proof.Machine.execVaultRead cid hr s
  | .vaultWrite cid hr => Sys2Proof.Machine.execVaultWrite cid hr s
  | .vaultHook cid hr => Sys2Proof.Machine.execVaultHook cid hr s
  | .vaultSupply cid hr => Sys2Proof.Machine.execVaultSupply cid hr s
  | .epochCommit cid hr => Sys2Proof.Machine.execEpochCommit cid hr s
  | .partCreate cid hr => Sys2Proof.Machine.execPartCreate cid hr s
  | .partDestroy cid hr => Sys2Proof.Machine.execPartDestroy cid hr s
  | .vaultRequestPost => Sys2Proof.Machine.execVaultRequestPost s
  | .vaultRequestTimeout reqId => Sys2Proof.Machine.execVaultRequestTimeout reqId s
  | .attachRepost reqId => Sys2Proof.Machine.execAttachRepost reqId s
  | .hookStarved fn => Sys2Proof.Machine.execHookStarved fn s
  | .forcedWriteBack => Sys2Proof.Machine.execForcedWriteBack s
  | .epochCommitStart => Sys2Proof.Machine.execEpochCommitStart s
  | .commitWaitTimeout => Sys2Proof.Machine.execCommitWaitTimeout s
  | .epochCmdCommit acc => Sys2Proof.Machine.execEpochCmdCommit acc s
  | .undefinedOpcode c opcode imm => Sys2Proof.Machine.execUndefinedOpcode c opcode imm s
  | .nop c imm => Sys2Proof.Machine.execNop c imm s
  | .drop c imm => Sys2Proof.Machine.execDrop c imm s
  | .dup c imm => Sys2Proof.Machine.execDup c imm s
  | .swap c imm => Sys2Proof.Machine.execSwap c imm s
  | .over c imm => Sys2Proof.Machine.execOver c imm s
  | .rot c imm => Sys2Proof.Machine.execRot c imm s
  | .nip c imm => Sys2Proof.Machine.execNip c imm s
  | .tuck c imm => Sys2Proof.Machine.execTuck c imm s
  | .pick c imm => Sys2Proof.Machine.execPick c imm s
  | .depth c imm => Sys2Proof.Machine.execDepth c imm s
  | .twoDrop c imm => Sys2Proof.Machine.execTwoDrop c imm s
  | .twoDup c imm => Sys2Proof.Machine.execTwoDup c imm s
  | .twoSwap c imm => Sys2Proof.Machine.execTwoSwap c imm s
  | .twoOver c imm => Sys2Proof.Machine.execTwoOver c imm s
  | .toR c imm => Sys2Proof.Machine.execToR c imm s
  | .rFrom c imm => Sys2Proof.Machine.execRFrom c imm s
  | .rFetch c imm => Sys2Proof.Machine.execRFetch c imm s
  | .twoToR c imm => Sys2Proof.Machine.execTwoToR c imm s
  | .twoRFrom c imm => Sys2Proof.Machine.execTwoRFrom c imm s
  | .rdrop c imm => Sys2Proof.Machine.execRdrop c imm s
  | .add c imm => Sys2Proof.Machine.execAdd c imm s
  | .sub c imm => Sys2Proof.Machine.execSub c imm s
  | .mul c imm => Sys2Proof.Machine.execMul c imm s
  | .mulhu c imm => Sys2Proof.Machine.execMulhu c imm s
  | .mulhs c imm => Sys2Proof.Machine.execMulhs c imm s
  | .divu c imm => Sys2Proof.Machine.execDivu c imm s
  | .divs c imm => Sys2Proof.Machine.execDivs c imm s
  | .modu c imm => Sys2Proof.Machine.execModu c imm s
  | .mods c imm => Sys2Proof.Machine.execMods c imm s
  | .and c imm => Sys2Proof.Machine.execAnd c imm s
  | .or c imm => Sys2Proof.Machine.execOr c imm s
  | .xor c imm => Sys2Proof.Machine.execXor c imm s
  | .not c imm => Sys2Proof.Machine.execNot c imm s
  | .neg c imm => Sys2Proof.Machine.execNeg c imm s
  | .shl c imm => Sys2Proof.Machine.execShl c imm s
  | .shru c imm => Sys2Proof.Machine.execShru c imm s
  | .shrs c imm => Sys2Proof.Machine.execShrs c imm s
  | .rotl c imm => Sys2Proof.Machine.execRotl c imm s
  | .eq c imm => Sys2Proof.Machine.execEq c imm s
  | .ne c imm => Sys2Proof.Machine.execNe c imm s
  | .ltu c imm => Sys2Proof.Machine.execLtu c imm s
  | .lts c imm => Sys2Proof.Machine.execLts c imm s
  | .gtu c imm => Sys2Proof.Machine.execGtu c imm s
  | .gts c imm => Sys2Proof.Machine.execGts c imm s
  | .eqz c imm => Sys2Proof.Machine.execEqz c imm s
  | .clz c imm => Sys2Proof.Machine.execClz c imm s
  | .popc c imm => Sys2Proof.Machine.execPopc c imm s
  | .bswap c imm => Sys2Proof.Machine.execBswap c imm s
  | .sel c imm => Sys2Proof.Machine.execSel c imm s
  | .addc c imm => Sys2Proof.Machine.execAddc c imm s
  | .subb c imm => Sys2Proof.Machine.execSubb c imm s
  | .dadd c imm => Sys2Proof.Machine.execDadd c imm s
  | .dsub c imm => Sys2Proof.Machine.execDsub c imm s
  | .dmul c imm => Sys2Proof.Machine.execDmul c imm s
  | .umul c imm => Sys2Proof.Machine.execUmul c imm s
  | .dneg c imm => Sys2Proof.Machine.execDneg c imm s
  | .dand c imm => Sys2Proof.Machine.execDand c imm s
  | .dor c imm => Sys2Proof.Machine.execDor c imm s
  | .dxor c imm => Sys2Proof.Machine.execDxor c imm s
  | .dshl c imm => Sys2Proof.Machine.execDshl c imm s
  | .dshru c imm => Sys2Proof.Machine.execDshru c imm s
  | .dshrs c imm => Sys2Proof.Machine.execDshrs c imm s
  | .deq c imm => Sys2Proof.Machine.execDeq c imm s
  | .dltu c imm => Sys2Proof.Machine.execDltu c imm s
  | .dlts c imm => Sys2Proof.Machine.execDlts c imm s
  | .deqz c imm => Sys2Proof.Machine.execDeqz c imm s
  | .uext c imm => Sys2Proof.Machine.execUext c imm s
  | .sext c imm => Sys2Proof.Machine.execSext c imm s
  | .dlow c imm => Sys2Proof.Machine.execDlow c imm s
  | .dsel c imm => Sys2Proof.Machine.execDsel c imm s
  | .lit c imm => Sys2Proof.Machine.execLit c imm s
  | .litu c imm => Sys2Proof.Machine.execLitu c imm s
  | .addi c imm => Sys2Proof.Machine.execAddi c imm s
  | .andi c imm => Sys2Proof.Machine.execAndi c imm s
  | .shli c imm => Sys2Proof.Machine.execShli c imm s
  | .shrui c imm => Sys2Proof.Machine.execShrui c imm s
  | .shrsi c imm => Sys2Proof.Machine.execShrsi c imm s
  | .eqi c imm => Sys2Proof.Machine.execEqi c imm s
  | .ldb c imm host => Sys2Proof.Machine.execLdb c imm host s
  | .ldbs c imm host => Sys2Proof.Machine.execLdbs c imm host s
  | .ldh c imm host => Sys2Proof.Machine.execLdh c imm host s
  | .ldhs c imm host => Sys2Proof.Machine.execLdhs c imm host s
  | .ldw c imm host => Sys2Proof.Machine.execLdw c imm host s
  | .ldd c imm host => Sys2Proof.Machine.execLdd c imm host s
  | .stb c imm => Sys2Proof.Machine.execStb c imm s
  | .sth c imm => Sys2Proof.Machine.execSth c imm s
  | .stw c imm => Sys2Proof.Machine.execStw c imm s
  | .std c imm => Sys2Proof.Machine.execStd c imm s
  | .br c imm => Sys2Proof.Machine.execBr c imm s
  | .bz c imm => Sys2Proof.Machine.execBz c imm s
  | .bnz c imm => Sys2Proof.Machine.execBnz c imm s
  | .calls c imm => Sys2Proof.Machine.execCalls c imm s
  | .ret c imm => Sys2Proof.Machine.execRet c imm s
  | .callx c imm => Sys2Proof.Machine.execCallx c imm s
  | .jmpx c imm => Sys2Proof.Machine.execJmpx c imm s
  | .trap c imm => Sys2Proof.Machine.execTrap c imm s
  | .wfe c imm => Sys2Proof.Machine.execWfe c imm s
  | .sev c imm => Sys2Proof.Machine.execSev c imm s
  | .wuntil c imm => Sys2Proof.Machine.execWuntil c imm s
  | .wfeu c imm => Sys2Proof.Machine.execWfeu c imm s
  | .time c imm => Sys2Proof.Machine.execTime c imm s
  | .yield c imm => Sys2Proof.Machine.execYield c imm s
  | .exit c imm => Sys2Proof.Machine.execExit c imm s
  | .fence c imm => Sys2Proof.Machine.execFence c imm s
  | .lit24 c imm => Sys2Proof.Machine.execLit24 c imm s
  | .lit24u c imm => Sys2Proof.Machine.execLit24u c imm s
  | .hi8 c imm => Sys2Proof.Machine.execHi8 c imm s
  | .addi24 c imm => Sys2Proof.Machine.execAddi24 c imm s
  | .brl c imm => Sys2Proof.Machine.execBrl c imm s
  | .bzl c imm => Sys2Proof.Machine.execBzl c imm s
  | .bnzl c imm => Sys2Proof.Machine.execBnzl c imm s
  | .call c imm => Sys2Proof.Machine.execCall c imm s
  | .lda c imm host => Sys2Proof.Machine.execLda c imm host s
  | .sta c imm => Sys2Proof.Machine.execSta c imm s
  | .seginfo c imm => Sys2Proof.Machine.execSeginfo c imm s
  | .getc c imm => Sys2Proof.Machine.execGetc c imm s
  | .undefCp c cp imm => Sys2Proof.Machine.execUndefCp c cp imm s
  | .ksCmd c imm16 host => Sys2Proof.Machine.execKsCmd c imm16 host s
  | .ksHcopy c imm16 => Sys2Proof.Machine.execKsHcopy c imm16 s
  | .ksHclr c imm16 => Sys2Proof.Machine.execKsHclr c imm16 s
  | .ksHeq c imm16 => Sys2Proof.Machine.execKsHeq c imm16 s
  | .ksHin c imm16 host => Sys2Proof.Machine.execKsHin c imm16 host s
  | .ksHout c imm16 => Sys2Proof.Machine.execKsHout c imm16 s
  | .dgCmd c imm16 host => Sys2Proof.Machine.execDgCmd c imm16 host s
  | .blCmd c imm16 host => Sys2Proof.Machine.execBlCmd c imm16 host s
  | .brCmd c imm16 host => Sys2Proof.Machine.execBrCmd c imm16 host s
  | .vlCmd c imm16 host => Sys2Proof.Machine.execVlCmd c imm16 host s
  | .rnRead c imm16 => Sys2Proof.Machine.execRnRead c imm16 s
  | .rnWord c imm16 => Sys2Proof.Machine.execRnWord c imm16 s
  | .dmStart c imm16 => Sys2Proof.Machine.execDmStart c imm16 s
  | .dmStatus c imm16 => Sys2Proof.Machine.execDmStatus c imm16 s
  | .evWrite c imm16 => Sys2Proof.Machine.execEvWrite c imm16 s
  | .evSeq c imm16 => Sys2Proof.Machine.execEvSeq c imm16 s
  | .cpCommandComplete cid => Sys2Proof.Machine.execCpCommandComplete cid s
  | .waitDeadline r task => Sys2Proof.Machine.execWaitDeadline r task s
  | .ocdHalt acc c => Sys2Proof.Machine.execOcdHalt acc c s
  | .ocdResume acc c => Sys2Proof.Machine.execOcdResume acc c s
  | .ocdStep acc c => Sys2Proof.Machine.execOcdStep acc c s
  | .aplLoad cid hr => Sys2Proof.Machine.execAplLoad cid hr s
  | .aplUnload cid hr => Sys2Proof.Machine.execAplUnload cid hr s
  | .aplUpdate cid hr => Sys2Proof.Machine.execAplUpdate cid hr s
  | .aplBind cid hr => Sys2Proof.Machine.execAplBind cid hr s
  | .aplUnbind cid hr => Sys2Proof.Machine.execAplUnbind cid hr s
  | .aplCall cid hr => Sys2Proof.Machine.execAplCall cid hr s
  | .aplCancel cid hr => Sys2Proof.Machine.execAplCancel cid hr s
  | .makerChainSet cid hr => Sys2Proof.Machine.execMakerChainSet cid hr s
  | .taskDispatch c => Sys2Proof.Machine.execTaskDispatch c s
  | .timeSliceExpire c => Sys2Proof.Machine.execTimeSliceExpire c s
  | .taskAgePromote r task => Sys2Proof.Machine.execTaskAgePromote r task s
  | .taskTimeLimit r task => Sys2Proof.Machine.execTaskTimeLimit r task s
  | .taskEnd r task => Sys2Proof.Machine.execTaskEnd r task s
  | .cardDetect sl => Sys2Proof.Machine.execCardDetect sl s
  | .cardDebounceEnd sl => Sys2Proof.Machine.execCardDebounceEnd sl s
  | .cardAtrTimeout sl => Sys2Proof.Machine.execCardAtrTimeout sl s
  | .atrReceived sl bytes charOk => Sys2Proof.Machine.execAtrReceived sl bytes charOk s
  | .switchReply sl bytes charOk => Sys2Proof.Machine.execSwitchReply sl bytes charOk s
  | .checkEcho sl bytes charOk => Sys2Proof.Machine.execCheckEcho sl bytes charOk s
  | .switchTimeout sl => Sys2Proof.Machine.execSwitchTimeout sl s
  | .cardReactivate sl => Sys2Proof.Machine.execCardReactivate sl s
  | .ppsResponse sl bytes => Sys2Proof.Machine.execPpsResponse sl bytes s
  | .ppsTimeout sl => Sys2Proof.Machine.execPpsTimeout sl s
  | .t1BlockReceived sl bytes charOk => Sys2Proof.Machine.execT1BlockReceived sl bytes charOk s
  | .t1WaitExpire sl => Sys2Proof.Machine.execT1WaitExpire sl s
  | .cardBusyLimit sl cause => Sys2Proof.Machine.execCardBusyLimit sl cause s
  | .cardClockStop sl => Sys2Proof.Machine.execCardClockStop sl s
  | .cardRemoval sl => Sys2Proof.Machine.execCardRemoval sl s
  | .cardDeactivationDone sl => Sys2Proof.Machine.execCardDeactivationDone sl s
  | .select sl data sw => Sys2Proof.Machine.execSelect sl data sw s
  | .bind sl data sw => Sys2Proof.Machine.execBind sl data sw s
  | .authInit sl data sw => Sys2Proof.Machine.execAuthInit sl data sw s
  | .authFinish sl data sw => Sys2Proof.Machine.execAuthFinish sl data sw s
  | .getComponent sl data sw => Sys2Proof.Machine.execGetComponent sl data sw s
  | .putComponent sl data sw => Sys2Proof.Machine.execPutComponent sl data sw s
  | .cardDone sl data sw => Sys2Proof.Machine.execCardDone sl data sw s
  | .cerCombine cid hr => Sys2Proof.Machine.execCerCombine cid hr s
  | .cerSplit cid hr => Sys2Proof.Machine.execCerSplit cid hr s
  | .cerAbandon cid hr => Sys2Proof.Machine.execCerAbandon cid hr s
  | .ceremonyWindowExpire => Sys2Proof.Machine.execCeremonyWindowExpire s
  | .cardDeactivate acc sl => Sys2Proof.Machine.execCardDeactivate acc sl s
  | .cardEnable acc sl => Sys2Proof.Machine.execCardEnable acc sl s
  | .cardDisable acc sl => Sys2Proof.Machine.execCardDisable acc sl s
  | .spineBeatError st cls master resend => Sys2Proof.Machine.execSpineBeatError st cls master resend s
  | .spineBulkBurst st => Sys2Proof.Machine.execSpineBulkBurst st s
  | .xregionRetry fromR toR => Sys2Proof.Machine.execXregionRetry fromR toR s
  | .xbarAgePromote r port req => Sys2Proof.Machine.execXbarAgePromote r port req s
  | .keywayCheck acc addr kind log2size => Sys2Proof.Machine.execKeywayCheck acc addr kind log2size s
  | .kwUpdateEnter acc u => Sys2Proof.Machine.execKwUpdateEnter acc u s
  | .kwUpdateCommit acc u => Sys2Proof.Machine.execKwUpdateCommit acc u s
  | .kwUpdateAbort acc u => Sys2Proof.Machine.execKwUpdateAbort acc u s
  | .kwStallTimeout u => Sys2Proof.Machine.execKwStallTimeout u s
  | .errInfoClear acc page => Sys2Proof.Machine.execErrInfoClear acc page s
  | .dmaChStart acc dma ch => Sys2Proof.Machine.execDmaChStart acc dma ch s
  | .dmaChStop acc dma ch => Sys2Proof.Machine.execDmaChStop acc dma ch s
  | .dmaDescriptorEnd dma desc => Sys2Proof.Machine.execDmaDescriptorEnd dma desc s
  | .nvmPageWrite id page verified => Sys2Proof.Machine.execNvmPageWrite id page verified s
  | .nvmPageRead id page bad => Sys2Proof.Machine.execNvmPageRead id page bad s
  | .keepRecordWrite id => Sys2Proof.Machine.execKeepRecordWrite id s
  | .bankNoResponse b => Sys2Proof.Machine.execBankNoResponse b s
  | .rebuildStripe which unreadable => Sys2Proof.Machine.execRebuildStripe which unreadable s
  | .scrubChunk corrected => Sys2Proof.Machine.execScrubChunk corrected s
  | .scrubUrgent hoursBehind => Sys2Proof.Machine.execScrubUrgent hoursBehind s
  | .wearMove => Sys2Proof.Machine.execWearMove s
  | .rwpRegisterWrite acc id value => Sys2Proof.Machine.execRwpRegisterWrite acc id value s
  | .rwpCommit => Sys2Proof.Machine.execRwpCommit s
  | .meshSample cls inst fails level => Sys2Proof.Machine.execMeshSample cls inst fails level s
  | .meshConfirmSample cls inst fails level => Sys2Proof.Machine.execMeshConfirmSample cls inst fails level s
  | .tamperTrip cls inst reading => Sys2Proof.Machine.execTamperTrip cls inst reading s
  | .tamperConditionClear cls inst durationMs => Sys2Proof.Machine.execTamperConditionClear cls inst durationMs s
  | .g1ReinstateTimer scope => Sys2Proof.Machine.execG1ReinstateTimer scope s
  | .batteryTamperTrip cls inst => Sys2Proof.Machine.execBatteryTamperTrip cls inst s
  | .mainPowerLoss => Sys2Proof.Machine.execMainPowerLoss s
  | .tempCalibration sensor => Sys2Proof.Machine.execTempCalibration sensor s
  | .tempCalibrationEnd sensor offset => Sys2Proof.Machine.execTempCalibrationEnd sensor offset s
  | .tmpGradeSet cid hr => Sys2Proof.Machine.execTmpGradeSet cid hr s
  | .rtcSet cid hr => Sys2Proof.Machine.execRtcSet cid hr s
  | .coalesceClose seq => Sys2Proof.Machine.execCoalesceClose seq s
  | .eventFlush => Sys2Proof.Machine.execEventFlush s
  | .evrFlush acc => Sys2Proof.Machine.execEvrFlush acc s
  | .evrVerify acc => Sys2Proof.Machine.execEvrVerify acc s
  | .logVerifyDaily => Sys2Proof.Machine.execLogVerifyDaily s
  | .logVerifyEnd => Sys2Proof.Machine.execLogVerifyEnd s
  | .opTimeSave => Sys2Proof.Machine.execOpTimeSave s
  | .logRead cid hr => Sys2Proof.Machine.execLogRead cid hr s
  | .logCatalog cid hr => Sys2Proof.Machine.execLogCatalog cid hr s
  | .logClear cid hr => Sys2Proof.Machine.execLogClear cid hr s
  | .pwrFail width => Sys2Proof.Machine.execPwrFail width s
  | .porAssert => Sys2Proof.Machine.execPorAssert s
  | .porRelease boot => Sys2Proof.Machine.execPorRelease boot s
  | .bootReady ms => Sys2Proof.Machine.execBootReady ms s
  | .cpmWarm acc => Sys2Proof.Machine.execCpmWarm acc s
  | .warmReset => Sys2Proof.Machine.execWarmReset s
  | .regionGate acc r => Sys2Proof.Machine.execRegionGate acc r s
  | .regionUngate acc r => Sys2Proof.Machine.execRegionUngate acc r s
  | .telemetrySnapshot => Sys2Proof.Machine.execTelemetrySnapshot s
  | .clockGateIdle blk => Sys2Proof.Machine.execClockGateIdle blk s
  | .regionCycle cid hr => Sys2Proof.Machine.execRegionCycle cid hr s
  | .regionHold cid hr => Sys2Proof.Machine.execRegionHold cid hr s
  | .regionRestore cid hr => Sys2Proof.Machine.execRegionRestore cid hr s
  | .pllRetune cid hr => Sys2Proof.Machine.execPllRetune cid hr s
  | .coreSubst cid hr => Sys2Proof.Machine.execCoreSubst cid hr s
  | .coreRelease cid hr => Sys2Proof.Machine.execCoreRelease cid hr s
  | .engineHandover cid hr => Sys2Proof.Machine.execEngineHandover cid hr s
  | .sensorCal cid hr => Sys2Proof.Machine.execSensorCal cid hr s
  | .regionDrainEnd r => Sys2Proof.Machine.execRegionDrainEnd r s
  | .drainTimeout r => Sys2Proof.Machine.execDrainTimeout r s
  | .regionReinstate r failed => Sys2Proof.Machine.execRegionReinstate r failed s
  | .fwSelect cid hr => Sys2Proof.Machine.execFwSelect cid hr s
  | .monLineError => Sys2Proof.Machine.execMonLineError s
  | .monIdent => Sys2Proof.Machine.execMonIdent s
  | .monStatus => Sys2Proof.Machine.execMonStatus s
  | .monLogRead area start count => Sys2Proof.Machine.execMonLogRead area start count s
  | .monMr addr n => Sys2Proof.Machine.execMonMr addr n s
  | .monMw addr value => Sys2Proof.Machine.execMonMw addr value s
  | .monHalt c => Sys2Proof.Machine.execMonHalt c s
  | .monStep c => Sys2Proof.Machine.execMonStep c s
  | .monResume c => Sys2Proof.Machine.execMonResume c s
  | .monInject code p1 p2 p3 => Sys2Proof.Machine.execMonInject code p1 p2 p3 s
  | .monBaudCmd rate => Sys2Proof.Machine.execMonBaudCmd rate s
  | .fwrecover image linesOk => Sys2Proof.Machine.execFwrecover image linesOk s
  | .registerWrite acc tgt size value => Sys2Proof.Machine.execRegisterWrite acc tgt size value s
  | .irqRawClear acc page value => Sys2Proof.Machine.execIrqRawClear acc page value s
  | .irqForce acc page value => Sys2Proof.Machine.execIrqForce acc page value s
  | .pageLock acc page => Sys2Proof.Machine.execPageLock acc page s
  | .lowWordRead acc addr => Sys2Proof.Machine.execLowWordRead acc addr s
  | .rcRegisterRead acc addr => Sys2Proof.Machine.execRcRegisterRead acc addr s
  | .spiNop frame extra => Sys2Proof.Machine.execSpiNop frame extra s
  | .spiRead frame extra => Sys2Proof.Machine.execSpiRead frame extra s
  | .spiWrite frame extra => Sys2Proof.Machine.execSpiWrite frame extra s
  | .telemCfg frame extra => Sys2Proof.Machine.execTelemCfg frame extra s
  | .eventRead frame extra => Sys2Proof.Machine.execEventRead frame extra s
  | .spiIdent frame extra => Sys2Proof.Machine.execSpiIdent frame extra s
  | .spiFrameError err => Sys2Proof.Machine.execSpiFrameError err s
  | .mainPowerRestore => Sys2Proof.Machine.execMainPowerRestore s

end Sys2Proof.Machine
end

