-- ==== Sys2Proof/Machine/Tick.lean ====
section
/-! DEFINITION. What a tick of the 10 ns timebase does while no command waits: the timebase, the seconds counted from it, the
card slots' own steps, and the quantities that the device measures. -/

namespace Sys2Proof.Machine

/-- A second of main power: operating time (R446). -/
def tickSecond (d : Dev) : Dev := onEvr (fun e => { e with opTime := e.opTime + 1 }) d

/-- The battery domain's own time: each second the RTC (R428). -/
def batTick (b : BatS) : BatS :=
  if b.rtcSub + 1 < ticksPerS then { b with rtcSub := b.rtcSub + 1 } else { b with rtcSub := 0, rtc := b.rtc + 1 }

/-- What a millisecond of spine traffic and of corrected beats adds to the counts, each free (log entries 356, 10): at most
one Q-CTRL transfer in 64 cycles at each of the 14 ports (R356). -/
def tickTraffic (v : Nat → Nat) (d : Dev) : Dev :=
  onSpn (fun x => { x with
    xferCtrl := x.xferCtrl + BitVec.ofNat 64 (v 38 % (14 * 15625 + 1)), xferRt := x.xferRt + BitVec.ofNat 64 (v 39)
    xferBulk := x.xferBulk + BitVec.ofNat 64 (v 40), xferBg := x.xferBg + BitVec.ofNat 64 (v 41)
    maxWait := max x.maxWait (v 42 % 393), corrected := x.corrected + BitVec.ofNat 64 (v 43) }) d

/-- The measured quantities take new values, each free (log entry 481). -/
def tickMeasure (d : Dev) : Dev :=
  let v := fun (k : Nat) => Config.implValue 481 (64 * nowTb d + k)
  onTmp (fun t => { t with temps := tabulate 16 (fun k => (k, BitVec.ofNat 12 (v k))) }) d
    |> onCpm (fun c => { c with freqs := tabulate 18 (fun k => (k, v (16 + k) % 2 ^ 21)) })
    |> onPg (fun p => { p with
        phyLink := BitVec.ofNat 32 (v 34), phyRetrains := p.phyRetrains + BitVec.ofNat 64 (v 35)
        phyErrors := p.phyErrors + BitVec.ofNat 64 (v 36), tstTap := BitVec.ofNat 32 (v 37) })
    |> tickTraffic v

/-- A slot's own steps: the clock starts and card_rst rises (R325), or the clock stops and card_io is driven low (R335). -/
def tickSlot (s : Nat) (d : Dev) : Dev :=
  let now := nowTb d
  onSlot s (fun x =>
    if x.state == .activating then
      (if x.actTb + raiseTicks x ≤ now then slotRaised x else if x.actTb + clockTicks x ≤ now then slotClocked x else x)
    else slotLower now x) d

/-- A barrel engine at 2.0 GHz (R137) counts its busy cycles in 48 bits (R175, R478). -/
def tickEngine (e : Nat) (d : Dev) : Dev := doIf (engOf d e).running.isSome (onEng e (fun g => { g with busy := g.busy + 20 })) d

/-- One tick; the battery domain keeps time with main power off too (R424). -/
def tick (d0 : Dev) : Dev :=
  let d := onBat batTick d0
  if !dieRuns d then d
  else
    let d := onCpm (fun c => { c with timebase := c.timebase + 1 }) d |> forAll [0, 1] tickSlot |> forAll (List.range 18) tickEngine |> forAll (List.range 4) xbarGrant
    d |> doIf (nowTb d % ticksPerMs == 0) tickMeasure |> doIf (nowTb d % ticksPerS == 0) tickSecond

end Sys2Proof.Machine
end

