-- ==== Sys2Proof/WellFormed.lean ====
section
/-! DEFINITION. Which commands are well formed: the operands that the wires and the host's memory can give. A step runs every
command; one that is not well formed stands for nothing that can reach the NK8. -/

namespace Sys2Proof

/-- A tag of R18 names a tenant below 64, and a function of R41. -/
def Access.wellFormed (a : Access) : Bool := decide (a.tenant < 64) && decide (a.fn < 64)

/-- The lengths of a scatter list's elements are 32-bit fields (R58). -/
def HostRead.wellFormed (h : HostRead) : Bool :=
  h.inSg.all (fun e => decide (e.len < 2 ^ 32)) && h.outSg.all (fun e => decide (e.len < 2 ^ 32))
    && h.frags.all (fun f => f.bytes.length == 32)

def KeyReq.wellFormed (k : KeyReq) : Bool := decide (k.tenant < 64) && decide (k.fn < 64)

/-- A submission entry is 128 bytes long (R56). -/
def EntryRead.wellFormed : EntryRead → Bool
  | .ok b => b.length == 128
  | .error => true

/-- NumVFs is 0 to 63 (R42), the payload and read request sizes are those of R41, and a function has six BARs. -/
def ConfigReq.wellFormed : ConfigReq → Bool
  | .setNumVfs n => decide (n ≤ 63)
  | .setVfEnable _ => true
  | .setMsix _ _ => true
  | .setMaxPayload b => [128, 256].contains b
  | .setMaxReadRequest b => [128, 256, 512, 1024, 2048, 4096].contains b
  | .setEcrc _ _ => true
  | .setPower _ => true
  | .clearAer _ => true
  | .read (.bar n) => decide (n < 6)
  | .read _ => true
  | .other => true

/-- A function has at most 256 vectors (R62). -/
def MsixOp.wellFormed : MsixOp → Bool
  | .enable => true
  | .unmaskFunction => true
  | .unmaskVector v => decide (v < 256)
  | .disable => true
  | .maskFunction => true
  | .maskVector v => decide (v < 256)

/-- The stages of a region's bring-up are 1 to 5 (R528). -/
def BootReport.wellFormed (b : BootReport) : Bool := b.regionsFail.all (fun x => decide (1 ≤ x.2) && decide (x.2 ≤ 5))

/-- An internal address has 40 bits (R511); the PF's BAR0 spans 16 MiB (R504). -/
def RegTarget.wellFormed : RegTarget → Bool
  | .internal a => decide (a < 2 ^ 40)
  | .bar _ off => decide (off < 2 ^ 24)

/-- The command is one that can reach the block. -/
def Instr.wellFormed : Instr → Bool
  | .bgChunkEnd => true
  | .uncorrectableError _ _ _ _ => true
  | .blockFault _ _ => true
  | .blockSelfTestEnd _ _ => true
  | .configRequest _ req => req.wellFormed
  | .fnEnable _ => true
  | .fnDisable _ => true
  | .sqTail _ qp _ => decide (qp ≤ 63)
  | .cqHead _ qp _ => decide (qp ≤ 63)
  | .sqEntryFetch rd => rd.wellFormed
  | .sqPriorityPromote _ qp => decide (qp ≤ 63)
  | .seqHoldTimeout _ => true
  | .completionPost _ => true
  | .cqCoalTimeout _ qp => decide (qp ≤ 63)
  | .msixUnmask _ what => what.wellFormed
  | .queueCreate _ hr => hr.wellFormed
  | .queueDelete _ hr => hr.wellFormed
  | .sessionOpen _ hr => hr.wellFormed
  | .sessionClose _ hr => hr.wellFormed
  | .flrVf _ => true
  | .flrPf => true
  | .hotReset _ => true
  | .linkDown _ => true
  | .pciePerst _ => true
  | .lcProvision _ hr => hr.wellFormed
  | .lcDevelop _ hr => hr.wellFormed
  | .lcProvisionBack _ hr => hr.wellFormed
  | .lcOperate _ hr => hr.wellFormed
  | .lcQuarantine _ hr => hr.wellFormed
  | .lcRetire _ hr => hr.wellFormed
  | .lcTransition => true
  | .cusEnrol _ hr => hr.wellFormed
  | .cusRegister _ hr => hr.wellFormed
  | .cusRevoke _ hr => hr.wellFormed
  | .cusSetM _ hr => hr.wellFormed
  | .cusSetLife _ hr => hr.wellFormed
  | .enrolWindowExpire => true
  | .quorumEnd _ hr => hr.wellFormed
  | .quorumWindowExpire => true
  | .quorumLifetimeExpire => true
  | .vfBind _ hr => hr.wellFormed
  | .vfUnbind _ hr => hr.wellFormed
  | .sessionQuotaSet _ hr => hr.wellFormed
  | .ident _ hr => hr.wellFormed
  | .telStatus _ hr => hr.wellFormed
  | .telRead _ hr => hr.wellFormed
  | .keyGenerate _ hr => hr.wellFormed
  | .keyImportX9143 _ hr => hr.wellFormed
  | .keyImport38f _ hr => hr.wellFormed
  | .keyExport _ hr => hr.wellFormed
  | .keyDelete _ hr => hr.wellFormed
  | .keyInfo _ hr => hr.wellFormed
  | .keyRestrict _ hr => hr.wellFormed
  | .keyPersist _ hr => hr.wellFormed
  | .keyQuotaSet _ hr => hr.wellFormed
  | .keyFetch req => req.wellFormed
  | .spillRecordWrite => true
  | .keyRefill _ _ => true
  | .persistentKeyLoad _ _ => true
  | .spillWaitTimeout _ => true
  | .pinXlate _ hr => hr.wellFormed
  | .pinCompare _ hr => hr.wellFormed
  | .pinDerive _ hr => hr.wellFormed
  | .pinCheck _ hr => hr.wellFormed
  | .dukptPinXlate _ hr => hr.wellFormed
  | .dukptMacGen _ hr => hr.wellFormed
  | .dukptMacVer _ hr => hr.wellFormed
  | .macGen _ hr => hr.wellFormed
  | .macVer _ hr => hr.wellFormed
  | .emvAcVerify _ hr => hr.wellFormed
  | .keyblockXlate _ hr => hr.wellFormed
  | .keyCheck _ hr => hr.wellFormed
  | .boltStepEnd _ => true
  | .boltQueuePromote _ => true
  | .xlatePolicyWrite _ hr => hr.wellFormed
  | .dkFlush acc _ => acc.wellFormed
  | .engineLenSet _ hr => hr.wellFormed
  | .roleLenApply _ => true
  | .pkcRun _ hr => hr.wellFormed
  | .pkcCancel _ hr => hr.wellFormed
  | .pkcCatalog _ hr => hr.wellFormed
  | .pkcWsOpen _ hr => hr.wellFormed
  | .pkcWsLoad _ hr => hr.wellFormed
  | .pkcWsRun _ hr => hr.wellFormed
  | .pkcWsRead _ hr => hr.wellFormed
  | .pkcWsRelease _ hr => hr.wellFormed
  | .pkcWsToKey _ hr => hr.wellFormed
  | .pkcWsClose _ hr => hr.wellFormed
  | .barrelRunEnd _ _ => true
  | .barrelJobPromote _ => true
  | .longPoolSet _ hr => hr.wellFormed
  | .engineAbort acc _ => acc.wellFormed
  | .engineAbortDone _ => true
  | .spareRoleTake _ _ _ => true
  | .handoverMove _ => true
  | .barrelKatDue _ => true
  | .katHandoverTimeout _ => true
  | .ucodeInstall _ hr => hr.wellFormed
  | .ucodeRollStep _ => true
  | .digHash _ hr => hr.wellFormed
  | .digMacGen _ hr => hr.wellFormed
  | .digMacVer _ hr => hr.wellFormed
  | .digKdf _ hr => hr.wellFormed
  | .digestStepEnd _ _ => true
  | .digestQueuePromote _ => true
  | .noiseWindowComplete _ window => window.length == 128
  | .sourceRetest _ => true
  | .sourceStartupTestEnd _ _ => true
  | .conditionerBlock => true
  | .drbgSeedPeriodEnd _ => true
  | .drbgGenerate _ => true
  | .randomQueueRefill _ => true
  | .randomReadTimeout _ => true
  | .random _ hr => hr.wellFormed
  | .entInject _ hr => hr.wellFormed
  | .entKat _ hr => hr.wellFormed
  | .entropyKatDue => true
  | .entKatRun acc => acc.wellFormed
  | .rngKatRun acc _ => acc.wellFormed
  | .katEnd _ _ => true
  | .vaultRead _ hr => hr.wellFormed
  | .vaultWrite _ hr => hr.wellFormed
  | .vaultHook _ hr => hr.wellFormed
  | .vaultSupply _ hr => hr.wellFormed
  | .epochCommit _ hr => hr.wellFormed
  | .partCreate _ hr => hr.wellFormed
  | .partDestroy _ hr => hr.wellFormed
  | .vaultRequestPost => true
  | .vaultRequestTimeout _ => true
  | .attachRepost _ => true
  | .hookStarved _ => true
  | .forcedWriteBack => true
  | .epochCommitStart => true
  | .commitWaitTimeout => true
  | .epochCmdCommit acc => acc.wellFormed
  | .undefinedOpcode _ _ _ => true
  | .nop _ _ => true
  | .drop _ _ => true
  | .dup _ _ => true
  | .swap _ _ => true
  | .over _ _ => true
  | .rot _ _ => true
  | .nip _ _ => true
  | .tuck _ _ => true
  | .pick _ _ => true
  | .depth _ _ => true
  | .twoDrop _ _ => true
  | .twoDup _ _ => true
  | .twoSwap _ _ => true
  | .twoOver _ _ => true
  | .toR _ _ => true
  | .rFrom _ _ => true
  | .rFetch _ _ => true
  | .twoToR _ _ => true
  | .twoRFrom _ _ => true
  | .rdrop _ _ => true
  | .add _ _ => true
  | .sub _ _ => true
  | .mul _ _ => true
  | .mulhu _ _ => true
  | .mulhs _ _ => true
  | .divu _ _ => true
  | .divs _ _ => true
  | .modu _ _ => true
  | .mods _ _ => true
  | .and _ _ => true
  | .or _ _ => true
  | .xor _ _ => true
  | .not _ _ => true
  | .neg _ _ => true
  | .shl _ _ => true
  | .shru _ _ => true
  | .shrs _ _ => true
  | .rotl _ _ => true
  | .eq _ _ => true
  | .ne _ _ => true
  | .ltu _ _ => true
  | .lts _ _ => true
  | .gtu _ _ => true
  | .gts _ _ => true
  | .eqz _ _ => true
  | .clz _ _ => true
  | .popc _ _ => true
  | .bswap _ _ => true
  | .sel _ _ => true
  | .addc _ _ => true
  | .subb _ _ => true
  | .dadd _ _ => true
  | .dsub _ _ => true
  | .dmul _ _ => true
  | .umul _ _ => true
  | .dneg _ _ => true
  | .dand _ _ => true
  | .dor _ _ => true
  | .dxor _ _ => true
  | .dshl _ _ => true
  | .dshru _ _ => true
  | .dshrs _ _ => true
  | .deq _ _ => true
  | .dltu _ _ => true
  | .dlts _ _ => true
  | .deqz _ _ => true
  | .uext _ _ => true
  | .sext _ _ => true
  | .dlow _ _ => true
  | .dsel _ _ => true
  | .lit _ _ => true
  | .litu _ _ => true
  | .addi _ _ => true
  | .andi _ _ => true
  | .shli _ _ => true
  | .shrui _ _ => true
  | .shrsi _ _ => true
  | .eqi _ _ => true
  | .ldb _ _ _ => true
  | .ldbs _ _ _ => true
  | .ldh _ _ _ => true
  | .ldhs _ _ _ => true
  | .ldw _ _ _ => true
  | .ldd _ _ _ => true
  | .stb _ _ => true
  | .sth _ _ => true
  | .stw _ _ => true
  | .std _ _ => true
  | .br _ _ => true
  | .bz _ _ => true
  | .bnz _ _ => true
  | .calls _ _ => true
  | .ret _ _ => true
  | .callx _ _ => true
  | .jmpx _ _ => true
  | .trap _ _ => true
  | .wfe _ _ => true
  | .sev _ _ => true
  | .wuntil _ _ => true
  | .wfeu _ _ => true
  | .time _ _ => true
  | .yield _ _ => true
  | .exit _ _ => true
  | .fence _ _ => true
  | .lit24 _ _ => true
  | .lit24u _ _ => true
  | .hi8 _ _ => true
  | .addi24 _ _ => true
  | .brl _ _ => true
  | .bzl _ _ => true
  | .bnzl _ _ => true
  | .call _ _ => true
  | .lda _ _ _ => true
  | .sta _ _ => true
  | .seginfo _ _ => true
  | .getc _ _ => true
  | .undefCp _ _ _ => true
  | .ksCmd _ _ _ => true
  | .ksHcopy _ _ => true
  | .ksHclr _ _ => true
  | .ksHeq _ _ => true
  | .ksHin _ _ _ => true
  | .ksHout _ _ => true
  | .dgCmd _ _ _ => true
  | .blCmd _ _ _ => true
  | .brCmd _ _ _ => true
  | .vlCmd _ _ _ => true
  | .rnRead _ _ => true
  | .rnWord _ _ => true
  | .dmStart _ _ => true
  | .dmStatus _ _ => true
  | .evWrite _ _ => true
  | .evSeq _ _ => true
  | .cpCommandComplete _ => true
  | .waitDeadline _ _ => true
  | .ocdHalt acc _ => acc.wellFormed
  | .ocdResume acc _ => acc.wellFormed
  | .ocdStep acc _ => acc.wellFormed
  | .aplLoad _ hr => hr.wellFormed
  | .aplUnload _ hr => hr.wellFormed
  | .aplUpdate _ hr => hr.wellFormed
  | .aplBind _ hr => hr.wellFormed
  | .aplUnbind _ hr => hr.wellFormed
  | .aplCall _ hr => hr.wellFormed
  | .aplCancel _ hr => hr.wellFormed
  | .makerChainSet _ hr => hr.wellFormed
  | .taskDispatch _ => true
  | .timeSliceExpire _ => true
  | .taskAgePromote _ _ => true
  | .taskTimeLimit _ _ => true
  | .taskEnd _ _ => true
  | .cardDetect _ => true
  | .cardDebounceEnd _ => true
  | .cardAtrTimeout _ => true
  | .atrReceived _ _ _ => true
  | .switchReply _ _ _ => true
  | .checkEcho _ _ _ => true
  | .switchTimeout _ => true
  | .cardReactivate _ => true
  | .ppsResponse _ _ => true
  | .ppsTimeout _ => true
  | .t1BlockReceived _ _ _ => true
  | .t1WaitExpire _ => true
  | .cardBusyLimit _ _ => true
  | .cardClockStop _ => true
  | .cardRemoval _ => true
  | .cardDeactivationDone _ => true
  | .select _ _ _ => true
  | .bind _ _ _ => true
  | .authInit _ _ _ => true
  | .authFinish _ _ _ => true
  | .getComponent _ _ _ => true
  | .putComponent _ _ _ => true
  | .cardDone _ _ _ => true
  | .cerCombine _ hr => hr.wellFormed
  | .cerSplit _ hr => hr.wellFormed
  | .cerAbandon _ hr => hr.wellFormed
  | .ceremonyWindowExpire => true
  | .cardDeactivate acc _ => acc.wellFormed
  | .cardEnable acc _ => acc.wellFormed
  | .cardDisable acc _ => acc.wellFormed
  | .spineBeatError _ _ _ _ => true
  | .spineBulkBurst _ => true
  | .xregionRetry _ _ => true
  | .xbarAgePromote _ _ _ => true
  | .keywayCheck acc addr _ log2size => acc.wellFormed && decide (addr < 2 ^ 40) && decide (log2size ≤ 8)
  | .kwUpdateEnter acc _ => acc.wellFormed
  | .kwUpdateCommit acc _ => acc.wellFormed
  | .kwUpdateAbort acc _ => acc.wellFormed
  | .kwStallTimeout _ => true
  | .errInfoClear acc _ => acc.wellFormed
  | .dmaChStart acc _ _ => acc.wellFormed
  | .dmaChStop acc _ _ => acc.wellFormed
  | .dmaDescriptorEnd _ _ => true
  | .nvmPageWrite _ _ _ => true
  | .nvmPageRead _ _ bad => bad.all (fun x => decide (x ≤ 24))
  | .keepRecordWrite _ => true
  | .bankNoResponse _ => true
  | .rebuildStripe _ _ => true
  | .scrubChunk _ => true
  | .scrubUrgent _ => true
  | .wearMove => true
  | .rwpRegisterWrite acc id _ => acc.wellFormed && decide (id < 384)
  | .rwpCommit => true
  | .meshSample _ _ _ _ => true
  | .meshConfirmSample _ _ _ _ => true
  | .tamperTrip _ _ _ => true
  | .tamperConditionClear _ _ _ => true
  | .g1ReinstateTimer _ => true
  | .batteryTamperTrip _ _ => true
  | .mainPowerLoss => true
  | .tempCalibration _ => true
  | .tempCalibrationEnd _ _ => true
  | .tmpGradeSet _ hr => hr.wellFormed
  | .rtcSet _ hr => hr.wellFormed
  | .coalesceClose _ => true
  | .eventFlush => true
  | .evrFlush acc => acc.wellFormed
  | .evrVerify acc => acc.wellFormed
  | .logVerifyDaily => true
  | .logVerifyEnd => true
  | .opTimeSave => true
  | .logRead _ hr => hr.wellFormed
  | .logCatalog _ hr => hr.wellFormed
  | .logClear _ hr => hr.wellFormed
  | .pwrFail _ => true
  | .porAssert => true
  | .porRelease boot => boot.wellFormed
  | .bootReady _ => true
  | .cpmWarm acc => acc.wellFormed
  | .warmReset => true
  | .regionGate acc _ => acc.wellFormed
  | .regionUngate acc _ => acc.wellFormed
  | .telemetrySnapshot => true
  | .clockGateIdle _ => true
  | .regionCycle _ hr => hr.wellFormed
  | .regionHold _ hr => hr.wellFormed
  | .regionRestore _ hr => hr.wellFormed
  | .pllRetune _ hr => hr.wellFormed
  | .coreSubst _ hr => hr.wellFormed
  | .coreRelease _ hr => hr.wellFormed
  | .engineHandover _ hr => hr.wellFormed
  | .sensorCal _ hr => hr.wellFormed
  | .regionDrainEnd _ => true
  | .drainTimeout _ => true
  | .regionReinstate _ _ => true
  | .fwSelect _ hr => hr.wellFormed
  | .monLineError => true
  | .monIdent => true
  | .monStatus => true
  | .monLogRead _ _ _ => true
  | .monMr _ _ => true
  | .monMw _ _ => true
  | .monHalt _ => true
  | .monStep _ => true
  | .monResume _ => true
  | .monInject _ _ _ _ => true
  | .monBaudCmd _ => true
  | .fwrecover image _ => decide (image.length ≤ 8388608)
  | .registerWrite acc tgt _ _ => acc.wellFormed && tgt.wellFormed
  | .irqRawClear acc _ _ => acc.wellFormed
  | .irqForce acc _ _ => acc.wellFormed
  | .pageLock acc _ => acc.wellFormed
  | .lowWordRead acc addr => acc.wellFormed && decide (addr < 2 ^ 40)
  | .rcRegisterRead acc addr => acc.wellFormed && decide (addr < 2 ^ 40)
  | .spiNop frame _ => !frame.isEmpty
  | .spiRead frame _ => !frame.isEmpty
  | .spiWrite frame _ => !frame.isEmpty
  | .telemCfg frame _ => !frame.isEmpty
  | .eventRead frame _ => !frame.isEmpty
  | .spiIdent frame _ => !frame.isEmpty
  | .spiFrameError _ => true
  | .mainPowerRestore => true

end Sys2Proof
end

