-- ==== Sys2Proof/Safety.lean ====
section
/-! DEFINITION. What counts as a safe run: the memory keeps its canonical form, and no step ends the run. -/

namespace Sys2Proof.Machine

/-- The invariant of the model's data: equal memories are equal lists. -/
def State.Inv (s : State) : Prop := Memory.wf s.mem

/-- A step goes on: it neither faults nor is refused. -/
def Continues (s : State) : Prop := ∃ t, step s = .next t

/-- `n` steps go on from `s`, and every state among them keeps the invariant. -/
def SafeRun : Nat → State → Prop
  | 0, s => s.Inv
  | n + 1, s => s.Inv ∧ ∃ t, step s = .next t ∧ SafeRun n t

end Sys2Proof.Machine
end

