-- ==== Sys2Proof/Certificates/Slice0/Obligations.lean ====
section
/-! DEFINITION. The statements for the provers, chapter by chapter. `Gives a P` says that a command answers a next state in
which `P` holds: such a statement says both that the command completes and what it leaves. -/

open Sys2Proof Sys2Proof.Machine

/-! ## What a command answers -/

/-- The answer is a next state, and `P` holds of it. -/
def Gives (a : Ans) (P : State → Prop) : Prop :=
  match a with
  | .next u => P u
  | _ => False

/-! ## The Ocord cores -/

/-- What an instruction of task `t` on core `c` starts from. -/
def ocdStart (c : CoreId) (t : Nat) (host : Bytes) (s : State) : OcdS :=
  { s := s, core := c, no := t, k := taskOf s.toDev c.region t, host := host, post := [], groups := 0 }

/-- Core `c` runs an instruction of `len` bytes: it has a running task, and the fetch passes its checks (R282). -/
def fetches (c : CoreId) (len : Nat) (s : State) : Bool :=
  match coreTask s.toDev c with
  | none => false
  | some t => match (fetchIns len (ocdStart c t [] s)).1 with | .ok _ => true | .error _ => false

/-- The task that core `c` runs, and its number. -/
def coreNo (c : CoreId) (s : State) : Nat := (coreTask s.toDev c).getD 0
def coreK (c : CoreId) (s : State) : Task := taskOf s.toDev c.region (coreNo c s)

/-- The instruction completes and leaves its task as `k`, one instruction more counted. -/
abbrev Completes (c : CoreId) (s : State) (a : Ans) (k : Task) : Prop :=
  Gives a (fun u => taskOf u.toDev c.region (coreNo c s) = { k with started := true }
    ∧ (coreOf u.toDev c).insns = (coreOf s.toDev c).insns + 1)

/-- After the fetch, the instruction's access passes the checks of R282 and the keyways. -/
def reaches (c : CoreId) (len : Nat) (m : Ocd Unit) (s : State) : Bool :=
  match coreTask s.toDev c with
  | none => false
  | some t => match ((do fetchIns len; m : Ocd Unit) (ocdStart c t [] s)).1 with | .ok _ => true | .error _ => false

/-- The address behind a segment offset, where RAM holds the bytes. -/
def ramAt (k : Task) (sg off : Nat) : Nat := (k.segs.getD sg {}).base + off
def inRam (k : Task) (sg off : Nat) : Bool := !(k.segs.getD sg {}).ms && isRam (ramAt k sg off)

/-- A store completes: the bytes stand at their address, every other byte reads as before, and the task has given up its
operands. -/
def Stores (c : CoreId) (s : State) (a : Ans) (k : Task) (at_ : Nat) (b : Bytes) : Prop :=
  Completes c s a k ∧ Gives a (fun u =>
    (Memory.wf s.mem → memGetN u.mem at_ b.length = b) ∧ (∀ x, x < at_ ∨ at_ + b.length ≤ x → memGet u.mem x = memGet s.mem x))

/-- The recorder's buffer has room, and no open record of it takes an occurrence in (R447). -/
def logRoom (s : State) : Bool := decide (s.evr.buf.length < 128) && s.evr.buf.all (fun r => !r.isOpen)

/-- The buffer holds a record of an event with its source and parameters. -/
def logged (code source p1 p2 p3 : Nat) (u : State) : Bool :=
  u.evr.buf.any (fun r => r.code == code && r.source == source && r.p1 == BitVec.ofNat 32 p1 && r.p2 == BitVec.ofNat 32 p2
    && r.p3 == BitVec.ofNat 32 p3)

/-- The command numbered `cid`. -/
def theCmd (cid : Nat) (s : State) : Cmd := (cmdOf? s.toDev cid).getD { cid := cid }

/-- The command `cid` carries the row's code, waits and may start (R72), and its scatter lists pass (R58, R59); `streamed`
is for a row that meets a host read error in its body. -/
def startsAs (streamed : Bool) (code cid : Nat) (hr : HostRead) (s : State) : Bool :=
  match cmdOf? s.toDev cid with
  | some c => c.code == code && mayStart s.toDev c
      && (match (runBody (listChecks c hr streamed) s.toDev).1 with | .ok _ => true | .error _ => false)
  | none => false

abbrev starts : Nat → Nat → HostRead → State → Bool := startsAs false

/-- Commands' parameters: the field of `n` bytes at entry offset `o`; the bytes from `a` to `e`, or to the entry's end, are
zero (R6); the input bytes. -/
def param (cid o n : Nat) (s : State) : Nat := par (theCmd cid s) o n
def zeroIn (cid a e : Nat) (s : State) : Bool := zeroPar (theCmd cid s) a e
def zeroFrom (cid a : Nat) (s : State) : Bool := zeroPar (theCmd cid s) a 128
def inputOf (cid : Nat) (hr : HostRead) (s : State) : Bytes := inData (theCmd cid s) hr
def noHandles (cid : Nat) (s : State) : Bool := (theCmd cid s).ha == 0 && (theCmd cid s).hb == 0

/-- The command's handle `h` names the resident key `k`, whose destinations admit the engine kind and whose usage holds the
bit (R79, R86). -/
def names (cid h : Nat) (k : Key) (kind : EngineKind) (use_ : Option Nat) (s : State) : Bool :=
  keyLookup s.toDev (theCmd cid s).owner (theCmd cid s).session h == some k && !k.lost && k.resident
    && k.dest.getLsbD (destBit kind) && use_.all (fun b => k.usage.getLsbD b)

def handA (cid : Nat) (s : State) : Nat := (theCmd cid s).ha.toNat
def handB (cid : Nat) (s : State) : Nat := (theCmd cid s).hb.toNat

/-- The answer is a next state in which the command `cid` has the outcome `r`, and `P` holds. -/
abbrev EndsWith (a : Ans) (cid : Nat) (r : Res) (P : State → Prop) : Prop :=
  Gives a (fun u => (theCmd cid u).stage = .done r ∧ P u)

/-- A write of the register at an offset of a page passes the keyways (R362, R364). -/
def regGoes (acc : Access) (m off : Nat) (s : State) : Bool :=
  (acc.master == 0x50 && fnPage m == some acc.fn)
    || (match (kwAccess acc (pageBase m + off) .write 2 s.toDev).1 with | .allowed => true | _ => false)

/-- The access carries one of these worlds; world D only where debug access is admitted (R30, R531). -/
def writerOf (acc : Access) (ws : List World) (s : State) : Bool := ws.contains acc.world && (acc.world != .D || debugAdmitted s.toDev)

/-- Some DRBG serves draws, and none of those that serve is near the end of its seed period (R206, R208). -/
def canDraw (s : State) : Bool :=
  (List.range 4).any (drbgServes s.toDev)
    && (List.range 4).all (fun r => !drbgServes s.toDev r || decide (64 < (regionOf s.toDev r).drbg.reqsLeft))

/-- A short instruction that works on the data stack alone: its constructor, the entries it needs, what it makes of the
stack, top first. -/
structure StackOp where
  ins : CoreId → BitVec 8 → Instr
  need : Nat
  f : BitVec 8 → List Word32 → List Word32

def un (f : Word32 → Word32) : BitVec 8 → List Word32 → List Word32 := fun _ l => match l with | a :: r => f a :: r | r => r
def bin (f : Word32 → Word32 → Word32) : BitVec 8 → List Word32 → List Word32 := fun _ l => match l with | b :: a :: r => f a b :: r | r => r
def unD (f : Word64 → Word64) : BitVec 8 → List Word32 → List Word32 := fun _ l =>
  match l with | h :: l :: r => let d := f (h ++ l); d.extractLsb' 32 32 :: d.extractLsb' 0 32 :: r | r => r
def binD (f : Word64 → Word64 → Word64) : BitVec 8 → List Word32 → List Word32 := fun _ l =>
  match l with
  | bh :: bl :: ah :: al :: r => let d := f (ah ++ al) (bh ++ bl); d.extractLsb' 32 32 :: d.extractLsb' 0 32 :: r
  | r => r
def cmpD (f : Word64 → Word64 → Bool) : BitVec 8 → List Word32 → List Word32 := fun _ l =>
  match l with | bh :: bl :: ah :: al :: r => (if f (ah ++ al) (bh ++ bl) then 1 else 0) :: r | r => r
def shD (f : Word64 → Nat → Word64) : BitVec 8 → List Word32 → List Word32 := fun _ l =>
  match l with | n :: h :: l :: r => let d := f (h ++ l) (n.toNat % 64); d.extractLsb' 32 32 :: d.extractLsb' 0 32 :: r | r => r
def tf (b : Bool) : Word32 := if b then 1 else 0

/-- The stack instructions of R273 on the data stack. -/
def shuffleOps : List StackOp := [
  ⟨.nop, 0, fun _ l => l⟩, ⟨.fence, 0, fun _ l => l⟩,
  ⟨.drop, 1, fun _ l => match l with | _ :: r => r | r => r⟩,
  ⟨.dup, 1, fun _ l => match l with | a :: r => a :: a :: r | r => r⟩,
  ⟨.swap, 2, fun _ l => match l with | b :: a :: r => a :: b :: r | r => r⟩,
  ⟨.over, 2, fun _ l => match l with | b :: a :: r => a :: b :: a :: r | r => r⟩,
  ⟨.rot, 3, fun _ l => match l with | z :: y :: x :: r => x :: z :: y :: r | r => r⟩,
  ⟨.nip, 2, fun _ l => match l with | b :: _ :: r => b :: r | r => r⟩,
  ⟨.tuck, 2, fun _ l => match l with | b :: a :: r => b :: a :: b :: r | r => r⟩,
  ⟨.twoDrop, 2, fun _ l => match l with | _ :: _ :: r => r | r => r⟩,
  ⟨.twoDup, 2, fun _ l => match l with | b :: a :: r => b :: a :: b :: a :: r | r => r⟩,
  ⟨.twoSwap, 4, fun _ l => match l with | d :: c :: b :: a :: r => b :: a :: d :: c :: r | r => r⟩,
  ⟨.twoOver, 4, fun _ l => match l with | d :: c :: b :: a :: r => b :: a :: d :: c :: b :: a :: r | r => r⟩]

/-- The single-cell instructions of R274, division apart. -/
def singleOps : List StackOp := [
  ⟨.add, 2, bin (fun a b => a + b)⟩, ⟨.sub, 2, bin (fun a b => a - b)⟩, ⟨.mul, 2, bin (fun a b => a * b)⟩,
  ⟨.mulhu, 2, bin (fun a b => BitVec.ofNat 32 (a.toNat * b.toNat / 2 ^ 32))⟩,
  ⟨.mulhs, 2, bin (fun a b => BitVec.ofInt 32 (a.toInt * b.toInt / 2 ^ 32))⟩,
  ⟨.and, 2, bin (fun a b => a &&& b)⟩, ⟨.or, 2, bin (fun a b => a ||| b)⟩, ⟨.xor, 2, bin (fun a b => a ^^^ b)⟩,
  ⟨.not, 1, un (fun a => ~~~a)⟩, ⟨.neg, 1, un (fun a => -a)⟩,
  ⟨.shl, 2, bin (fun a n => a <<< (n.toNat % 32))⟩, ⟨.shru, 2, bin (fun a n => a >>> (n.toNat % 32))⟩,
  ⟨.shrs, 2, bin (fun a n => a.sshiftRight (n.toNat % 32))⟩, ⟨.rotl, 2, bin (fun a n => a.rotateLeft (n.toNat % 32))⟩,
  ⟨.eq, 2, bin (fun a b => tf (a == b))⟩, ⟨.ne, 2, bin (fun a b => tf (a != b))⟩,
  ⟨.ltu, 2, bin (fun a b => tf (decide (a.toNat < b.toNat)))⟩, ⟨.lts, 2, bin (fun a b => tf (decide (a.toInt < b.toInt)))⟩,
  ⟨.gtu, 2, bin (fun a b => tf (decide (b.toNat < a.toNat)))⟩, ⟨.gts, 2, bin (fun a b => tf (decide (b.toInt < a.toInt)))⟩,
  ⟨.eqz, 1, un (fun a => tf (a == 0))⟩, ⟨.clz, 1, un clz⟩, ⟨.popc, 1, un popc⟩, ⟨.bswap, 1, un bswap⟩,
  ⟨.sel, 3, fun _ l => match l with | f :: b :: a :: r => (if f = 0 then b else a) :: r | r => r⟩,
  ⟨.addc, 2, fun _ l => match l with | b :: a :: r => tf (decide (2 ^ 32 ≤ a.toNat + b.toNat)) :: (a + b) :: r | r => r⟩,
  ⟨.subb, 2, fun _ l => match l with | b :: a :: r => tf (decide (a.toNat < b.toNat)) :: (a - b) :: r | r => r⟩]

/-- The double-cell instructions of R275; a double's high cell lies on top. -/
def doubleOps : List StackOp := [
  ⟨.dadd, 4, binD (fun a b => a + b)⟩, ⟨.dsub, 4, binD (fun a b => a - b)⟩, ⟨.dmul, 4, binD (fun a b => a * b)⟩,
  ⟨.umul, 2, fun _ l => match l with
    | b :: a :: r => let d := BitVec.ofNat 64 (a.toNat * b.toNat); d.extractLsb' 32 32 :: d.extractLsb' 0 32 :: r
    | r => r⟩,
  ⟨.dneg, 2, unD (fun a => -a)⟩, ⟨.dand, 4, binD (fun a b => a &&& b)⟩, ⟨.dor, 4, binD (fun a b => a ||| b)⟩,
  ⟨.dxor, 4, binD (fun a b => a ^^^ b)⟩, ⟨.dshl, 3, shD (fun a n => a <<< n)⟩, ⟨.dshru, 3, shD (fun a n => a >>> n)⟩,
  ⟨.dshrs, 3, shD (fun a n => a.sshiftRight n)⟩, ⟨.deq, 4, cmpD (fun a b => a == b)⟩,
  ⟨.dltu, 4, cmpD (fun a b => decide (a.toNat < b.toNat))⟩, ⟨.dlts, 4, cmpD (fun a b => decide (a.toInt < b.toInt))⟩,
  ⟨.deqz, 2, fun _ l => match l with | h :: l :: r => tf ((h ++ l : Word64) == 0) :: r | r => r⟩,
  ⟨.uext, 1, fun _ l => match l with | a :: r => 0 :: a :: r | r => r⟩,
  ⟨.sext, 1, fun _ l => match l with | a :: r => (if a.msb then 0xFFFFFFFF else 0) :: a :: r | r => r⟩,
  ⟨.dlow, 2, fun _ l => match l with | _ :: l :: r => l :: r | r => r⟩,
  ⟨.dsel, 5, fun _ l => match l with
    | f :: bh :: bl :: ah :: al :: r => if f = 0 then bh :: bl :: r else ah :: al :: r
    | r => r⟩]

/-- An instruction of a list completes where its entries are held and no spill is due: the stack becomes what the rule says,
and the program counter passes the instruction. -/
def OpsComplete (ops : List StackOp) : Prop :=
  ∀ op ∈ ops, ∀ (c : CoreId) (s : State), fetches c 2 s = true → op.need ≤ (coreK c s).ds.length →
    (op.f 0 (coreK c s).ds).length ≤ 32 →
    Completes c s (exec (op.ins c 0) s) { coreK c s with pc := (coreK c s).pc + 2, ds := op.f 0 (coreK c s).ds }

/-- R273: the stack instructions that move data-stack entries, NOP and FENCE complete as the table says. -/
def StackMovesComplete : Prop := OpsComplete shuffleOps

/-- R274: the single-cell instructions give the results of the table and set no flags. -/
def SingleCellArithmeticCompletes : Prop := OpsComplete singleOps

/-- R275: the double-cell instructions give the results of the table, with the high cell on top. -/
def DoubleCellArithmeticCompletes : Prop := OpsComplete doubleOps

/-- An instruction whose effect is a function of its task, the program counter already past it: the immediates it accepts,
the entries it needs on each stack, and what it makes of the task. `n` is the width of its immediate. -/
structure TaskOp (n : Nat) where
  ins : CoreId → BitVec n → Instr
  ok : BitVec n → Task → Bool
  needD : BitVec n → Nat
  needR : BitVec n → Nat
  f : BitVec n → Task → Task

def any {n : Nat} : BitVec n → Task → Bool := fun _ _ => true
def zeroImm {n : Nat} : BitVec n → Task → Bool := fun i _ => i == 0
def top (k : Task) : Word32 := k.ds.headD 0
def topR (k : Task) : Word32 := k.rs.headD 0
/-- Replaces the top entry. -/
def mapTop (f : Word32 → Word32) (k : Task) : Task := { k with ds := f (top k) :: k.ds.drop 1 }
def pushed (v : Word32) (k : Task) : Task := { k with ds := v :: k.ds }
/-- A branch by halfwords from the next instruction (R271). -/
def branched (o : Word32) (k : Task) : Task := { k with pc := k.pc + 2 * o }
def even (k : Task) : Bool := !(top k).getLsbD 0

/-- Short immediates (R276), PICK and DEPTH (R273). -/
def immediateOps : List (TaskOp 8) := [
  ⟨.lit, any, fun _ => 0, fun _ => 0, fun i => pushed (i.signExtend 32)⟩,
  ⟨.litu, any, fun _ => 0, fun _ => 0, fun i => pushed (i.zeroExtend 32)⟩,
  ⟨.addi, any, fun _ => 1, fun _ => 0, fun i => mapTop (fun a => a + i.signExtend 32)⟩,
  ⟨.andi, any, fun _ => 1, fun _ => 0, fun i => mapTop (fun a => a &&& i.zeroExtend 32)⟩,
  ⟨.shli, fun i _ => decide (i.toNat < 32), fun _ => 1, fun _ => 0, fun i => mapTop (fun a => a <<< i.toNat)⟩,
  ⟨.shrui, fun i _ => decide (i.toNat < 32), fun _ => 1, fun _ => 0, fun i => mapTop (fun a => a >>> i.toNat)⟩,
  ⟨.shrsi, fun i _ => decide (i.toNat < 32), fun _ => 1, fun _ => 0, fun i => mapTop (fun a => a.sshiftRight i.toNat)⟩,
  ⟨.eqi, any, fun _ => 1, fun _ => 0, fun i => mapTop (fun a => tf (a == i.signExtend 32))⟩,
  ⟨.pick, fun i _ => decide (i.toNat < 32), fun i => i.toNat + 1, fun _ => 0, fun i k => pushed (k.ds.getD i.toNat 0) k⟩,
  ⟨.depth, zeroImm, fun _ => 0, fun _ => 0, fun _ k => pushed (BitVec.ofNat 32 (k.ds.length + k.dsp / 4)) k⟩]

/-- The return stack (R273). -/
def returnOps : List (TaskOp 8) := [
  ⟨.toR, zeroImm, fun _ => 1, fun _ => 0, fun _ k => { k with ds := k.ds.drop 1, rs := top k :: k.rs }⟩,
  ⟨.rFrom, zeroImm, fun _ => 0, fun _ => 1, fun _ k => { k with ds := topR k :: k.ds, rs := k.rs.drop 1 }⟩,
  ⟨.rFetch, zeroImm, fun _ => 0, fun _ => 1, fun _ k => pushed (topR k) k⟩,
  ⟨.twoToR, zeroImm, fun _ => 2, fun _ => 0, fun _ k => { k with ds := k.ds.drop 2, rs := top k :: k.ds.getD 1 0 :: k.rs }⟩,
  ⟨.twoRFrom, zeroImm, fun _ => 0, fun _ => 2, fun _ k => { k with ds := topR k :: k.rs.getD 1 0 :: k.ds, rs := k.rs.drop 2 }⟩,
  ⟨.rdrop, zeroImm, fun _ => 0, fun _ => 1, fun _ k => { k with rs := k.rs.drop 1 }⟩]

/-- Short branches, calls and returns (R278). -/
def controlOps : List (TaskOp 8) := [
  ⟨.br, any, fun _ => 0, fun _ => 0, fun i => branched (i.signExtend 32)⟩,
  ⟨.bz, any, fun _ => 1, fun _ => 0, fun i k =>
    if top k = 0 then branched (i.signExtend 32) { k with ds := k.ds.drop 1 } else { k with ds := k.ds.drop 1 }⟩,
  ⟨.bnz, any, fun _ => 1, fun _ => 0, fun i k =>
    if top k ≠ 0 then branched (i.signExtend 32) { k with ds := k.ds.drop 1 } else { k with ds := k.ds.drop 1 }⟩,
  ⟨.calls, any, fun _ => 0, fun _ => 0, fun i k => branched (i.signExtend 32) { k with rs := k.pc :: k.rs }⟩,
  ⟨.ret, fun i k => i == 0 && !(topR k).getLsbD 0, fun _ => 0, fun _ => 1, fun _ k => { k with rs := k.rs.drop 1, pc := topR k }⟩,
  ⟨.callx, fun i k => i == 0 && even k, fun _ => 1, fun _ => 0, fun _ k =>
    { k with ds := k.ds.drop 1, rs := k.pc :: k.rs, pc := top k }⟩,
  ⟨.jmpx, fun i k => i == 0 && even k, fun _ => 1, fun _ => 0, fun _ k => { k with ds := k.ds.drop 1, pc := top k }⟩]

/-- Long forms (R279). -/
noncomputable def longOps : List (TaskOp 24) := [
  ⟨.lit24, any, fun _ => 0, fun _ => 0, fun i => pushed (i.signExtend 32)⟩,
  ⟨.lit24u, any, fun _ => 0, fun _ => 0, fun i => pushed (i.zeroExtend 32)⟩,
  ⟨.hi8, fun i _ => decide (i.toNat < 256), fun _ => 1, fun _ => 0, fun i =>
    mapTop (fun a => BitVec.ofNat 32 (a.toNat % 2 ^ 24 + i.toNat * 2 ^ 24))⟩,
  ⟨.addi24, any, fun _ => 1, fun _ => 0, fun i => mapTop (fun a => a + i.signExtend 32)⟩,
  ⟨.brl, any, fun _ => 0, fun _ => 0, fun i => branched (i.signExtend 32)⟩,
  ⟨.bzl, any, fun _ => 1, fun _ => 0, fun i k =>
    if top k = 0 then branched (i.signExtend 32) { k with ds := k.ds.drop 1 } else { k with ds := k.ds.drop 1 }⟩,
  ⟨.bnzl, any, fun _ => 1, fun _ => 0, fun i k =>
    if top k ≠ 0 then branched (i.signExtend 32) { k with ds := k.ds.drop 1 } else { k with ds := k.ds.drop 1 }⟩,
  ⟨.call, any, fun _ => 0, fun _ => 0, fun i k => branched (i.signExtend 32) { k with rs := k.pc :: k.rs }⟩,
  ⟨.seginfo, fun i _ => decide (i.toNat < 8), fun _ => 0, fun _ => 0, fun i k =>
    let g := k.segs.getD i.toNat {}
    { k with ds := g.rights.zeroExtend 32 :: BitVec.ofNat 32 g.limit :: k.ds }⟩]

/-- As `OpsComplete`, for instructions of `len` bytes that work on the whole task. -/
def TaskOpsComplete {n : Nat} (len : Nat) (ops : List (TaskOp n)) : Prop :=
  ∀ op ∈ ops, ∀ (c : CoreId) (imm : BitVec n) (s : State), fetches c len s = true →
    let k := { coreK c s with pc := (coreK c s).pc + BitVec.ofNat 32 len }
    op.ok imm k = true → op.needD imm ≤ k.ds.length → op.needR imm ≤ k.rs.length →
    (op.f imm k).ds.length ≤ 32 → (op.f imm k).rs.length ≤ 16 →
    Completes c s (exec (op.ins c imm) s) (op.f imm k)

/-- R273, R276: immediates, PICK and DEPTH. -/
def ImmediatesComplete : Prop := TaskOpsComplete 2 immediateOps

/-- R273, R278: the return stack, branches, calls and returns. -/
def ControlTransfersComplete : Prop := TaskOpsComplete 2 returnOps ∧ TaskOpsComplete 2 controlOps

/-- R279: the long forms. -/
def LongFormsComplete : Prop := TaskOpsComplete 4 longOps

/-- The task on core `c` has trapped with a cause, a kind and a segment at the instruction's own offset. -/
abbrev Traps (c : CoreId) (s : State) (a : Ans) (cause kind seg : Nat) : Prop :=
  Gives a (fun u => (taskOf u.toDev c.region (coreNo c s)).ending = some .trap
    ∧ ((taskOf u.toDev c.region (coreNo c s)).trap.map (fun r => (r.cause, r.kind, r.seg, r.pc)))
        = some (cause, kind, seg, (coreK c s).pc)
    ∧ (taskOf u.toDev c.region (coreNo c s)).ds = (coreK c s).ds ∧ (taskOf u.toDev c.region (coreNo c s)).rs = (coreK c s).rs
    ∧ (taskOf u.toDev c.region (coreNo c s)).pc = (coreK c s).pc ∧ u.mem = s.mem
    ∧ (coreOf u.toDev c).traps = (coreOf s.toDev c).traps + 1)

/-- Signed and unsigned division and remainder (R280): truncated, and INT_MIN by −1 wraps. -/
def divisions : List ((CoreId → BitVec 8 → Instr) × (Word32 → Word32 → Word32)) := [
  (.divu, fun a b => BitVec.ofNat 32 (a.toNat / b.toNat)), (.modu, fun a b => BitVec.ofNat 32 (a.toNat % b.toNat)),
  (.divs, fun a b => BitVec.ofInt 32 (a.toInt.tdiv b.toInt)), (.mods, fun a b => BitVec.ofInt 32 (a.toInt.tmod b.toInt))]

/-- R280: a division gives quotient or remainder, and traps with cause 6 by zero. -/
def DivisionCompletesOrTraps : Prop :=
  ∀ p ∈ divisions, ∀ (c : CoreId) (s : State) (b a : Word32) (r : List Word32), fetches c 2 s = true →
    (coreK c s).ds = b :: a :: r → r.length < 32 →
    (b ≠ 0 → Completes c s (exec (p.1 c 0) s) { coreK c s with pc := (coreK c s).pc + 2, ds := p.2 a b :: r })
    ∧ (b = 0 → Traps c s (exec (p.1 c 0) s) 6 0 0)

/-- The forms whose imm8 must be zero. -/
def zeroForms : List (CoreId → BitVec 8 → Instr) :=
  (shuffleOps ++ singleOps ++ doubleOps).map (·.ins) ++ divisions.map (·.1) ++ returnOps.map (·.ins) ++
    [.depth, .ret, .callx, .jmpx, .wfe, .sev, .wuntil, .wfeu, .time, .yield, .exit]

/-- R272, R278, R284: a non-zero imm8 of a form that has none, a shift or PICK count of 32 or more, and an undefined opcode
trap with cause 1; a coprocessor that the part does not have with cause 2; TRAP with cause 7; too few entries with cause 5. -/
def BadInstructionsTrap : Prop :=
  (∀ ins ∈ zeroForms, ∀ (c : CoreId) (imm : BitVec 8) (s : State), fetches c 2 s = true → imm ≠ 0 → Traps c s (exec (ins c imm) s) 1 0 0)
  ∧ (∀ ins ∈ [Instr.shli, .shrui, .shrsi, .pick], ∀ (c : CoreId) (imm : BitVec 8) (s : State), fetches c 2 s = true →
      32 ≤ imm.toNat → Traps c s (exec (ins c imm) s) 1 0 0)
  ∧ (∀ ins ∈ [Instr.seginfo, .getc], ∀ (c : CoreId) (imm : BitVec 24) (s : State), fetches c 4 s = true →
      8 ≤ imm.toNat → Traps c s (exec (ins c imm) s) 1 0 0)
  ∧ (∀ (c : CoreId) (op : Byte) (imm : BitVec 24) (s : State), opDefined op.toNat imm = false →
      fetches c (if op.toNat < 0xE0 then 2 else 4) s = true → Traps c s (exec (.undefinedOpcode c op imm) s) 1 0 0)
  ∧ (∀ (c : CoreId) (cp : BitVec 4) (imm : BitVec 24) (s : State), 8 ≤ cp.toNat → fetches c 4 s = true →
      Traps c s (exec (.undefCp c cp imm) s) 2 0 0)
  ∧ (∀ (c : CoreId) (imm : BitVec 8) (s : State), fetches c 2 s = true → Traps c s (exec (.trap c imm) s) 7 0 0)
  ∧ (∀ op ∈ shuffleOps ++ singleOps ++ doubleOps, ∀ (c : CoreId) (s : State), fetches c 2 s = true →
      dsDepth (coreK c s) < op.need → Traps c s (exec (op.ins c 0) s) 5 0 0)

/-! ### Loads and stores -/

/-- Short loads: width and result. -/
def shortLoads : List ((CoreId → BitVec 8 → List Byte → Instr) × Nat × (Bytes → List Word32)) := [
  (.ldb, 1, fun b => [BitVec.ofNat 32 (leNat b)]), (.ldbs, 1, fun b => [(BitVec.ofNat 8 (leNat b)).signExtend 32]),
  (.ldh, 2, fun b => [BitVec.ofNat 32 (leNat b)]), (.ldhs, 2, fun b => [(BitVec.ofNat 16 (leNat b)).signExtend 32]),
  (.ldw, 4, fun b => [BitVec.ofNat 32 (leNat b)]),
  (.ldd, 8, fun b => [BitVec.ofNat 32 (leNat b / 2 ^ 32), BitVec.ofNat 32 (leNat b % 2 ^ 32)])]

/-- R277, R279: loads from RAM give the bytes at segment and offset, little-endian, extended as each says. -/
def LoadsReadMemory : Prop :=
  (∀ p ∈ shortLoads, ∀ (c : CoreId) (imm : BitVec 8) (host : List Byte) (s : State) (o : Word32) (r : List Word32),
    let k := coreK c s
    let sg := imm.toNat % 8
    let off := o.toNat + imm.toNat / 8 * p.2.1
    k.ds = o :: r → (p.2.2 []).length + r.length ≤ 32 → inRam k sg off = true →
    reaches c 2 (access sg .r off p.2.1 p.2.1 .read) s = true →
    Completes c s (exec (p.1 c imm host) s) { k with pc := k.pc + 2, ds := p.2.2 (memGetN s.mem (ramAt k sg off) p.2.1) ++ r })
  ∧ (∀ (c : CoreId) (imm : BitVec 24) (host : List Byte) (s : State),
    let k := coreK c s
    let sg := imm.toNat / 2 ^ 21
    let w := 2 ^ (imm.toNat / 2 ^ 19 % 4)
    let off := imm.toNat % 2 ^ 19
    let v := leNat (memGetN s.mem (ramAt k sg off) w)
    k.ds.length ≤ 30 → inRam k sg off = true → reaches c 4 (access sg .r off w w .read) s = true →
    Completes c s (exec (.lda c imm host) s) { k with
      pc := k.pc + 4
      ds := (if w = 8 then [BitVec.ofNat 32 (v / 2 ^ 32), BitVec.ofNat 32 (v % 2 ^ 32)] else [BitVec.ofNat 32 v]) ++ k.ds })

/-- Short stores: width, entries taken besides the offset, and the bytes. -/
def shortStores : List ((CoreId → BitVec 8 → Instr) × Nat × Nat × (List Word32 → Bytes)) := [
  (.stb, 1, 1, fun l => natLE (l.headD 0).toNat 1), (.sth, 2, 1, fun l => natLE (l.headD 0).toNat 2),
  (.stw, 4, 1, fun l => natLE (l.headD 0).toNat 4),
  (.std, 8, 2, fun l => natLE ((l.headD 0).toNat * 2 ^ 32 + (l.getD 1 0).toNat) 8)]

/-- R277, R279: stores to RAM write their bytes at segment and offset, and no other byte of memory changes. -/
def StoresWriteMemory : Prop :=
  (∀ p ∈ shortStores, ∀ (c : CoreId) (imm : BitVec 8) (s : State) (o : Word32) (r : List Word32),
    let k := coreK c s
    let sg := imm.toNat % 8
    let off := o.toNat + imm.toNat / 8 * p.2.1
    k.ds = o :: r → p.2.2.1 ≤ r.length → inRam k sg off = true →
    reaches c 2 (access sg .w off p.2.1 p.2.1 .write) s = true →
    Stores c s (exec (p.1 c imm) s) { k with pc := k.pc + 2, ds := r.drop p.2.2.1 } (ramAt k sg off) (p.2.2.2 r))
  ∧ (∀ (c : CoreId) (imm : BitVec 24) (s : State),
    let k := coreK c s
    let sg := imm.toNat / 2 ^ 21
    let w := 2 ^ (imm.toNat / 2 ^ 19 % 4)
    let off := imm.toNat % 2 ^ 19
    let n := if w = 8 then 2 else 1
    n ≤ k.ds.length → inRam k sg off = true → reaches c 4 (access sg .w off w w .write) s = true →
    Stores c s (exec (.sta c imm) s) { k with pc := k.pc + 4, ds := k.ds.drop n } (ramAt k sg off)
      (if w = 8 then natLE ((k.ds.headD 0).toNat * 2 ^ 32 + (k.ds.getD 1 0).toNat) 8 else natLE (k.ds.headD 0).toNat w))

/-- R282: an access that fails the checks traps with cause 3, the kind of the first failing check and the segment. -/
def BadAccessesTrap : Prop :=
  (∀ p ∈ shortLoads, ∀ (c : CoreId) (imm : BitVec 8) (host : List Byte) (s : State) (o : Word32) (r : List Word32) (kd : Nat),
    let k := coreK c s
    fetches c 2 s = true → k.ds = o :: r →
    segCheck k (imm.toNat % 8) .r (o.toNat + imm.toNat / 8 * p.2.1) p.2.1 p.2.1 = some kd →
    Traps c s (exec (p.1 c imm host) s) 3 kd (imm.toNat % 8))
  ∧ (∀ p ∈ shortStores, ∀ (c : CoreId) (imm : BitVec 8) (s : State) (o : Word32) (r : List Word32) (kd : Nat),
    let k := coreK c s
    fetches c 2 s = true → k.ds = o :: r → p.2.2.1 ≤ r.length →
    segCheck k (imm.toNat % 8) .w (o.toNat + imm.toNat / 8 * p.2.1) p.2.1 p.2.1 = some kd →
    Traps c s (exec (p.1 c imm) s) 3 kd (imm.toNat % 8))

/-! ### Spills and frames -/

/-- R268, R269: a push that finds 32 data entries held stores the 8 deepest to the spill area, the deepest at the lowest address,
and no other byte of memory changes; >R spills 4 of 16; what is needed and not held is read back; a spill that would
bring the spill areas together traps with cause 4. -/
def Obligations.StackSpillsAndFills : Prop :=
  (∀ (c : CoreId) (imm : BitVec 8) (s : State),
    let k := coreK c s
    let b := (k.ds.drop 24).reverse.flatMap (fun w => natLE w.toNat 4)
    k.ds.length = 32 → k.dsp + 32 ≤ k.rsp → inRam k 2 k.dsp = true → reaches c 2 (access 2 .w k.dsp 32 4 .write) s = true →
    Stores c s (exec (.lit c imm) s)
      { k with pc := k.pc + 2, ds := imm.signExtend 32 :: k.ds.take 24, dsp := k.dsp + 32 } (ramAt k 2 k.dsp) b)
  ∧ (∀ (c : CoreId) (s : State) (v : Word32) (r : List Word32),
    let k := coreK c s
    let b := (k.rs.drop 12).flatMap (fun w => natLE w.toNat 4)
    k.ds = v :: r → k.rs.length = 16 → 16 ≤ k.rsp → k.dsp + 16 ≤ k.rsp → inRam k 2 (k.rsp - 16) = true →
    reaches c 2 (access 2 .w (k.rsp - 16) 16 4 .write) s = true →
    Stores c s (exec (.toR c 0) s) { k with pc := k.pc + 2, ds := r, rs := v :: k.rs.take 12, rsp := k.rsp - 16 } (ramAt k 2 (k.rsp - 16)) b)
  ∧ (∀ (c : CoreId) (s : State),
    let k := coreK c s
    let b := memGetN s.mem (ramAt k 2 (k.dsp - 32)) 32
    k.ds = [] → 32 ≤ k.dsp → inRam k 2 (k.dsp - 32) = true → reaches c 2 (access 2 .r (k.dsp - 32) 32 4 .read) s = true →
    Completes c s (exec (.drop c 0) s)
      { k with pc := k.pc + 2, dsp := k.dsp - 32, ds := ((List.range 7).map (fun i => BitVec.ofNat 32 (leNat (slice b (4 * (6 - i)) 4)))) })
  ∧ (∀ (c : CoreId) (imm : BitVec 8) (s : State), fetches c 2 s = true → (coreK c s).ds.length = 32 → (coreK c s).rsp < (coreK c s).dsp + 32 →
    Traps c s (exec (.lit c imm) s) 4 0 0)

/-- What an instruction of core `c` that stores nothing leaves alone: memory, the queue, every other task and core, and every
part of the device but the keyways' counts. -/
def OnlyOwnTask (c : CoreId) (s u : State) : Prop :=
  u.mem = s.mem ∧ u.pending = s.pending
    ∧ (∀ r t, ¬ (r = c.region.val ∧ t = coreNo c s) → taskOf u.toDev r t = taskOf s.toDev r t)
    ∧ (∀ e, e ≠ c → coreOf u.toDev e = coreOf s.toDev e)
    ∧ (coreOf u.toDev c).task = (coreOf s.toDev c).task ∧ (coreOf u.toDev c).sev = (coreOf s.toDev c).sev
    ∧ u.lc = s.lc ∧ u.hif = s.hif ∧ u.ks = s.ks ∧ u.pol = s.pol ∧ u.brl = s.brl ∧ u.ent = s.ent ∧ u.vlt = s.vlt ∧ u.apl = s.apl
    ∧ u.crd = s.crd ∧ u.dma = s.dma ∧ u.spn = s.spn ∧ u.nvm = s.nvm ∧ u.bat = s.bat ∧ u.tmp = s.tmp ∧ u.evr = s.evr
    ∧ u.cpm = s.cpm ∧ u.svc = s.svc ∧ u.pg = s.pg ∧ u.spi = s.spi

/-- The frame of the instructions that work on the stacks and the program counter alone, while no spill is due. -/
def Obligations.StackInstructionsFrame : Prop :=
  (∀ op ∈ shuffleOps ++ singleOps ++ doubleOps, ∀ (c : CoreId) (s : State), fetches c 2 s = true →
    op.need ≤ (coreK c s).ds.length → (op.f 0 (coreK c s).ds).length ≤ 32 →
    ∀ u, exec (op.ins c 0) s = .next u → OnlyOwnTask c s u)
  ∧ (∀ op ∈ immediateOps ++ returnOps ++ controlOps, ∀ (c : CoreId) (imm : BitVec 8) (s : State), fetches c 2 s = true →
    let k := { coreK c s with pc := (coreK c s).pc + 2 }
    op.ok imm k = true → op.needD imm ≤ k.ds.length → op.needR imm ≤ k.rs.length →
    (op.f imm k).ds.length ≤ 32 → (op.f imm k).rs.length ≤ 16 →
    ∀ u, exec (op.ins c imm) s = .next u → OnlyOwnTask c s u)
  ∧ (∀ op ∈ longOps, ∀ (c : CoreId) (imm : BitVec 24) (s : State), fetches c 4 s = true →
    let k := { coreK c s with pc := (coreK c s).pc + 4 }
    op.ok imm k = true → op.needD imm ≤ k.ds.length → op.needR imm ≤ k.rs.length →
    (op.f imm k).ds.length ≤ 32 → (op.f imm k).rs.length ≤ 16 →
    ∀ u, exec (op.ins c imm) s = .next u → OnlyOwnTask c s u)

/-! ### Waits, events and task constants -/

/-- The event count of a task's home slot (R288). -/
def homeSev (c : CoreId) (k : Task) (s : State) : Word32 := (tget (regionOf s.toDev c.region).cores k.home {}).sev
/-- An event is pending for the task that core `c` runs (R288). -/
def hasEvent (c : CoreId) (s : State) : Bool := (coreK c s).latch || (coreK c s).seen != homeSev c (coreK c s) s
/-- The task of core `c` with the program counter past `n` bytes. -/
def past (n : Nat) (c : CoreId) (s : State) : Task := { coreK c s with pc := (coreK c s).pc + BitVec.ofNat 32 n }
/-- As `Completes`, and the task gives up its core to wait. -/
abbrev Waits (c : CoreId) (s : State) (a : Ans) (k : Task) (w : WaitKind) (wake : Nat) : Prop :=
  Gives a (fun u => taskOf u.toDev c.region (coreNo c s) = { k with started := true, state := .waiting, wait := w, wake := wake }
    ∧ (coreOf u.toDev c).task = none ∧ (coreOf u.toDev c).waits = (coreOf s.toDev c).waits + 1)
/-- The core that the search by position finds for its task is this one: no two cores run one task. -/
def solelyRuns (c : CoreId) (s : State) : Bool := coreRunning s.toDev c.region (coreNo c s) == some c.pos.val

/-- R288 to R291: the waiting instructions. -/
def WaitsAndEventsComplete : Prop :=
  (∀ (c : CoreId) (s : State), fetches c 2 s = true → hasEvent c s = true →
    Completes c s (exec (.wfe c 0) s) { past 2 c s with latch := false, seen := homeSev c (coreK c s) s })
  ∧ (∀ (c : CoreId) (s : State), fetches c 2 s = true → hasEvent c s = false → Waits c s (exec (.wfe c 0) s) (past 2 c s) .event 0)
  ∧ (∀ (c : CoreId) (s : State) (h l : Word32) (r : List Word32), fetches c 2 s = true → (coreK c s).ds = h :: l :: r →
      (h ++ l).toNat ≤ nowTb s.toDev → Completes c s (exec (.wuntil c 0) s) { past 2 c s with ds := r })
  ∧ (∀ (c : CoreId) (s : State) (h l : Word32) (r : List Word32), fetches c 2 s = true → (coreK c s).ds = h :: l :: r →
      nowTb s.toDev < (h ++ l).toNat → Waits c s (exec (.wuntil c 0) s) { past 2 c s with ds := r } .until_ (h ++ l).toNat)
  ∧ (∀ (c : CoreId) (s : State) (h l : Word32) (r : List Word32), fetches c 2 s = true → (coreK c s).ds = h :: l :: r →
      r.length < 32 → hasEvent c s = true →
      Completes c s (exec (.wfeu c 0) s) { past 2 c s with ds := 1 :: r, latch := false, seen := homeSev c (coreK c s) s })
  ∧ (∀ (c : CoreId) (s : State) (h l : Word32) (r : List Word32), fetches c 2 s = true → (coreK c s).ds = h :: l :: r →
      r.length < 32 → hasEvent c s = false → (h ++ l).toNat ≤ nowTb s.toDev →
      Completes c s (exec (.wfeu c 0) s) { past 2 c s with ds := 0 :: r })
  ∧ (∀ (c : CoreId) (s : State) (h l : Word32) (r : List Word32), fetches c 2 s = true → (coreK c s).ds = h :: l :: r →
      hasEvent c s = false → nowTb s.toDev < (h ++ l).toNat →
      Waits c s (exec (.wfeu c 0) s) { past 2 c s with ds := r } .eventUntil (h ++ l).toNat)
  ∧ (∀ (c : CoreId) (s : State), fetches c 2 s = true → (coreK c s).ds.length ≤ 30 →
      Completes c s (exec (.time c 0) s) { past 2 c s with
        ds := BitVec.ofNat 32 (nowTb s.toDev / 2 ^ 32) :: BitVec.ofNat 32 (nowTb s.toDev) :: (coreK c s).ds })
  ∧ (∀ (c : CoreId) (s : State) (m : Word32) (r : List Word32), fetches c 2 s = true → (coreK c s).ds = m :: r →
      Gives (exec (.sev c 0) s) (fun u => (taskOf u.toDev c.region (coreNo c s)).ds = r
        ∧ ∀ p, p < 7 → (tget (regionOf u.toDev c.region).cores p {}).sev =
            (tget (regionOf s.toDev c.region).cores p {}).sev + (if m.getLsbD p then 1 else 0)))

/-- R288, R296, R303: SEV wakes the tasks that wait for an event of their home slot; YIELD makes its task READY behind the
others of its level; EXIT ends its task once nothing of it is outstanding. -/
def YieldExitAndWake : Prop :=
  (∀ (c : CoreId) (s : State) (m : Word32) (r : List Word32) (t : Nat), fetches c 2 s = true → (coreK c s).ds = m :: r →
    t ≠ coreNo c s → (taskOf s.toDev c.region t).state = .waiting → (taskOf s.toDev c.region t).ending = none →
    (taskOf s.toDev c.region t).wait = .event → (taskOf s.toDev c.region t).latch = false →
    (taskOf s.toDev c.region t).home < 7 → m.getLsbD (taskOf s.toDev c.region t).home = true →
    (taskOf s.toDev c.region t).seen = homeSev c (taskOf s.toDev c.region t) s →
    Gives (exec (.sev c 0) s) (fun u => (taskOf u.toDev c.region t).state = .ready))
  ∧ (∀ (c : CoreId) (s : State), fetches c 2 s = true →
    Gives (exec (.yield c 0) s) (fun u => (coreOf u.toDev c).task = none
      ∧ taskOf u.toDev c.region (coreNo c s) =
          { past 2 c s with started := true, state := .ready, stamp := (regionOf s.toDev c.region).tmb.clock + 1 }))
  ∧ (∀ (c : CoreId) (s : State), fetches c 2 s = true → solelyRuns c s = true → taskQuiet s.toDev c.region (coreNo c s) = true →
    Gives (exec (.exit c 0) s) (fun u => (coreOf u.toDev c).task = none
      ∧ (taskOf u.toDev c.region (coreNo c s)).ending = some .exit ∧ (taskOf u.toDev c.region (coreNo c s)).state = .done))
  ∧ (∀ (c : CoreId) (s : State), fetches c 2 s = true → solelyRuns c s = true → taskQuiet s.toDev c.region (coreNo c s) = false →
    Gives (exec (.exit c 0) s) (fun u => (coreOf u.toDev c).task = none
      ∧ (taskOf u.toDev c.region (coreNo c s)).ending = some .exit ∧ (taskOf u.toDev c.region (coreNo c s)).state = .running))

/-- The constants of GETC (R279): number, master ID, authority tag, session, priority, home slot, return-stack depth, region. -/
def taskConstants (c : CoreId) (s : State) : List Nat :=
  let k := coreK c s
  [coreNo c s, 7 * c.region + c.pos, tagOf ⟨k.owner.world, k.owner.tenant, byte (7 * c.region + c.pos), ownerFn k.owner⟩,
   k.session.toNat, k.priority, k.home, rsDepth k, c.region]

/-- R279: GETC pushes the task constant that its immediate names. -/
def TaskConstantsComplete : Prop :=
  ∀ (c : CoreId) (imm : BitVec 24) (s : State), fetches c 4 s = true → imm.toNat < 8 → (coreK c s).ds.length < 32 →
    Completes c s (exec (.getc c imm) s) { past 4 c s with
      ds := BitVec.ofNat 32 ((taskConstants c s).getD imm.toNat 0) :: (coreK c s).ds }

/-! ### Coprocessor operations -/

/-- Handle slot `n` of the task: its address, and whether it stands in RAM. -/
def hsAt (k : Task) (n : Word32) : Nat := ramAt k 3 (8 * n.toNat)
def hsRam (k : Task) (n : Word32) : Bool := inRam k 3 (8 * n.toNat)
def hsBytes (c : CoreId) (n : Word32) (s : State) : Bytes := memGetN s.mem (hsAt (coreK c s) n) 8

/-- R286: the key-store coprocessor's local operations on handle slots. -/
def Obligations.HandleSlotOperationsComplete : Prop :=
  (∀ (c : CoreId) (s : State) (dst src : Word32) (r : List Word32), (coreK c s).ds = dst :: src :: r →
    hsRam (coreK c s) dst = true → reaches c 4 (do slotCheck src .read; slotCheck dst .write) s = true → r.length < 32 →
    Stores c s (exec (.ksHcopy c 0) s) { past 4 c s with ds := 0 :: r } (hsAt (coreK c s) dst) (hsBytes c src s))
  ∧ (∀ (c : CoreId) (s : State) (n : Word32) (r : List Word32), (coreK c s).ds = n :: r →
    hsRam (coreK c s) n = true → reaches c 4 (slotCheck n .write) s = true → r.length < 32 →
    Stores c s (exec (.ksHclr c 0) s) { past 4 c s with ds := 0 :: r } (hsAt (coreK c s) n) (zeros 8))
  ∧ (∀ (c : CoreId) (s : State) (b a : Word32) (r : List Word32), (coreK c s).ds = b :: a :: r →
    reaches c 4 (do slotCheck a .read; slotCheck b .read) s = true → r.length < 32 →
    Completes c s (exec (.ksHeq c 0) s) { past 4 c s with ds := (if hsBytes c a s = hsBytes c b s then 1 else 0) :: r })
  ∧ (∀ (c : CoreId) (s : State) (host : List Byte) (n p : Word32) (r : List Word32), (coreK c s).ds = n :: p :: r →
    ptrSeg p = 4 → ((coreK c s).segs.getD 4 {}).ms = true → hsRam (coreK c s) n = true →
    reaches c 4 (do access 4 .r (ptrOff p) 8 8 .read; slotCheck n .write) s = true → r.length < 32 →
    Stores c s (exec (.ksHin c 0 host) s) { past 4 c s with ds := 0 :: r } (hsAt (coreK c s) n) (fit host 8))
  ∧ (∀ (c : CoreId) (s : State) (p n : Word32) (r : List Word32), (coreK c s).ds = p :: n :: r →
    ptrSeg p = 4 → ((coreK c s).segs.getD 4 {}).ms = true →
    reaches c 4 (do slotCheck n .read; access 4 .w (ptrOff p) 8 8 .write) s = true → r.length < 32 →
    Completes c s (exec (.ksHout c 0) s) { past 4 c s with ds := 0 :: r }
      ∧ Gives (exec (.ksHout c 0) s) (fun u => u.mem = s.mem
          ∧ u.hif.tx = s.hif.tx ++ hostStores (msPieces (coreK c s) (ptrOff p)) (hsBytes c n s)))

/-- Bytes in the queue of the region's DRBG, which coprocessor 5 reads. -/
def drbgQueue (c : CoreId) (s : State) : Bytes := (regionOf s.toDev c.region).drbg.queue
/-- The region's DRBG serves reads, and the core has none on its way. -/
def drbgGoes (c : CoreId) (s : State) : Bool := !(regionOf s.toDev c.region).drbg.stopped && (cpRead? s.toDev c).isNone

/-- R210, R286: random bytes come from the head of the region's queue, and leave it; a read that had to wait gives what it
ended with. -/
def RandomOperationsComplete : Prop :=
  (∀ (c : CoreId) (s : State), fetches c 4 s = true → (coreK c s).ds.length ≤ 30 → drbgGoes c s = true →
    4 ≤ (drbgQueue c s).length →
    Completes c s (exec (.rnWord c 0) s) { past 4 c s with
        ds := 0 :: BitVec.ofNat 32 (leNat ((drbgQueue c s).take 4)) :: (coreK c s).ds }
      ∧ Gives (exec (.rnWord c 0) s) (fun u => drbgQueue c u = (drbgQueue c s).drop 4))
  ∧ (∀ (c : CoreId) (s : State) (n p : Word32) (r : List Word32), (coreK c s).ds = n :: p :: r → r.length < 32 →
    4 ≤ n.toNat → n.toNat ≤ 256 → drbgGoes c s = true → n.toNat ≤ (drbgQueue c s).length → inRam (coreK c s) (ptrSeg p) (ptrOff p) = true →
    reaches c 4 (access (ptrSeg p) .w (ptrOff p) n.toNat 1 .write) s = true →
    Stores c s (exec (.rnRead c 0) s) { past 4 c s with ds := 0 :: r } (ramAt (coreK c s) (ptrSeg p) (ptrOff p))
        ((drbgQueue c s).take n.toNat)
      ∧ Gives (exec (.rnRead c 0) s) (fun u => drbgQueue c u = (drbgQueue c s).drop n.toNat))
  ∧ (∀ (c : CoreId) (s : State) (n p : Word32) (r : List Word32), fetches c 4 s = true → (coreK c s).ds = n :: p :: r →
    r.length < 32 → (n.toNat < 4 ∨ 256 < n.toNat) → Completes c s (exec (.rnRead c 0) s) { past 4 c s with ds := 0x0103 :: r })
  ∧ (∀ (c : CoreId) (s : State) (x : Cmd) (v : Res), fetches c 4 s = true → (coreK c s).ds.length ≤ 30 →
    cpRead? s.toDev c = some x → x.stage = .done v →
    Completes c s (exec (.rnWord c 0) s) { past 4 c s with
      ds := v.status.zeroExtend 32 :: BitVec.ofNat 32 (leNat v.out) :: (coreK c s).ds })

/-- R286, R373, R447: the DMA and event coprocessors: a bad channel number or descriptor address, a channel of another grant
and a busy channel are refused; a granted one starts at the task's descriptor; the status of a channel beyond 7 is free (log entry 286); an event of codes 9000 to 9FFF is logged under
the core's source. -/
def DmaAndEventOperationsComplete : Prop :=
  (∀ (c : CoreId) (s : State) (ch p : Word32) (r : List Word32), fetches c 4 s = true → (coreK c s).ds = ch :: p :: r → r.length < 32 →
    (8 ≤ ch.toNat ∨ ptrOff p % 64 ≠ 0) → Completes c s (exec (.dmStart c 0) s) { past 4 c s with ds := 0x0103 :: r })
  ∧ (∀ (c : CoreId) (s : State) (ch p : Word32) (r : List Word32), fetches c 4 s = true → (coreK c s).ds = ch :: p :: r → r.length < 32 →
    ch.toNat < 8 → ptrOff p % 64 = 0 → (coreK c s).dmaGrant.testBit ch.toNat = false →
    Completes c s (exec (.dmStart c 0) s) { past 4 c s with ds := 0x0102 :: r })
  ∧ (∀ (c : CoreId) (s : State) (ch p : Word32) (r : List Word32), fetches c 4 s = true → (coreK c s).ds = ch :: p :: r → r.length < 32 →
    ch.toNat < 8 → ptrOff p % 64 = 0 → (coreK c s).dmaGrant.testBit ch.toNat = true →
    chBusy (chOf s.toDev c.region ch.toNat) = true → Completes c s (exec (.dmStart c 0) s) { past 4 c s with ds := 0x0105 :: r })
  ∧ (∀ (c : CoreId) (s : State) (ch p : Word32) (r : List Word32), fetches c 4 s = true → (coreK c s).ds = ch :: p :: r → r.length < 32 →
    ch.toNat < 8 → ptrOff p % 64 = 0 → (coreK c s).dmaGrant.testBit ch.toNat = true →
    chBusy (chOf s.toDev c.region ch.toNat) = false →
    Completes c s (exec (.dmStart c 0) s) { past 4 c s with ds := 0 :: r }
      ∧ Gives (exec (.dmStart c 0) s) (fun u => dmaDown s.toDev c.region = false →
          (chOf u.toDev c.region ch.toNat).state = .running
          ∧ (chOf u.toDev c.region ch.toNat).cur = ptrSeg p * 2 ^ 56 + ptrOff p
          ∧ (chOf u.toDev c.region ch.toNat).ownerTask = some (coreNo c s)))
  ∧ (∀ (c : CoreId) (s : State) (ch : Word32) (r : List Word32), fetches c 4 s = true → (coreK c s).ds = ch :: r → r.length < 32 →
    ch.toNat < 8 →
    Completes c s (exec (.dmStatus c 0) s) { past 4 c s with ds := BitVec.ofNat 32 (chStatus (chOf s.toDev c.region ch.toNat)) :: r })
  ∧ (∀ (c : CoreId) (sev : BitVec 16) (s : State) (code p3 p2 p1 : Word32) (r : List Word32), fetches c 4 s = true → sev.toNat < 8 →
    (coreK c s).ds = code :: p3 :: p2 :: p1 :: r → r.length < 32 → 0x9000 ≤ code.toNat → code.toNat ≤ 0x9FFF →
    Completes c s (exec (.evWrite c sev) s) { past 4 c s with ds := 0 :: r }
      ∧ Gives (exec (.evWrite c sev) s) (fun u => logRoom s = true →
          logged code.toNat (coreMaster c) p1.toNat p2.toNat p3.toNat u = true))
  ∧ (∀ (c : CoreId) (sev : BitVec 16) (s : State) (code p3 p2 p1 : Word32) (r : List Word32), fetches c 4 s = true → sev.toNat < 8 →
    (coreK c s).ds = code :: p3 :: p2 :: p1 :: r → r.length < 32 → (code.toNat < 0x9000 ∨ 0x9FFF < code.toNat) →
    Completes c s (exec (.evWrite c sev) s) { past 4 c s with ds := 0x0103 :: r })
  ∧ (∀ (c : CoreId) (s : State), fetches c 4 s = true → (coreK c s).ds.length ≤ 30 →
    Completes c s (exec (.evSeq c 0) s) { past 4 c s with
      ds := BitVec.ofNat 32 (s.evr.nextSeq % 2 ^ 40 / 2 ^ 32) :: BitVec.ofNat 32 s.evr.nextSeq :: (coreK c s).ds })
  ∧ (∀ (c : CoreId) (s : State) (ch : Word32) (r : List Word32), fetches c 4 s = true → (coreK c s).ds = ch :: r → r.length < 32 →
    8 ≤ ch.toNat →
    Completes c s (exec (.dmStatus c 0) s) { past 4 c s with ds := BitVec.ofNat 32 (Config.implValue 286 ch.toNat) :: r })

/-- An issue operation (R285): its constructor, its coprocessor, how many entries it takes, and whether its immediate must be
0xFFFF (a class that creates no key). -/
structure IssueOp where
  ins : CoreId → BitVec 16 → List Byte → Instr
  cp : Nat
  takes : Nat
  plain : Bool

noncomputable def issueOps : List IssueOp :=
  [⟨.ksCmd, 0, 4, false⟩, ⟨.dgCmd, 1, 3, false⟩, ⟨.blCmd, 2, 4, true⟩, ⟨.brCmd, 3, 3, false⟩, ⟨.vlCmd, 4, 2, true⟩]

/-- Operand `i` of the issue, in the order of R286: blk, res, hsa, hsb; 0xFFFF_FFFF for a slot that the operation has not. -/
def IssueOp.arg (op : IssueOp) (k : Task) (i : Nat) : Word32 :=
  ((k.ds.take op.takes).reverse ++ [0xFFFFFFFF, 0xFFFFFFFF]).getD i 0

/-- A pointer into DS, MS or XS behind which stands RAM or, for MS, the host. -/
def pointsToData (k : Task) (p : Word32) : Bool :=
  cpSeg (ptrSeg p) && ((segOf k (ptrSeg p)).ms || isRam (ramAt k (ptrSeg p) (ptrOff p)))

/-- The command block: RAM, or what the host gives. -/
def issueBlock (c : CoreId) (host : Bytes) (p : Word32) (s : State) : Bytes :=
  if (segOf (coreK c s) (ptrSeg p)).ms then fit host 128 else memGetN s.mem (ramAt (coreK c s) (ptrSeg p) (ptrOff p)) 128

/-- The handle in slot `n`; no slot gives 0. -/
def slotWord (c : CoreId) (n : Word32) (s : State) : Word64 :=
  if n = 0xFFFFFFFF then 0 else BitVec.ofNat 64 (leNat (hsBytes c n s))

/-- The command that the block spells, with the handles of its slots (R285 step 3). -/
def issuedCmd (op : IssueOp) (c : CoreId) (imm : BitVec 16) (host : Bytes) (s : State) : Cmd :=
  let k := coreK c s
  blockCmd (ocdStart c (coreNo c s) host s) op.cp (issueBlock c host (op.arg k 0) s) (slotWord c (op.arg k 2) s)
    (slotWord c (op.arg k 3) s) (op.arg k 1) (if imm = 0xFFFF then none else some imm.toNat)

/-- The accesses of an issue of the command `x`, in order: the block, the slots, what the engine reads and writes, the result. -/
def issueAccesses (op : IssueOp) (k : Task) (imm : BitVec 16) (x : Cmd) (d : Dev) : Ocd Unit := do
  segOnly (ptrSeg (op.arg k 0)) .r (ptrOff (op.arg k 0)) 128 1
  segOnly (ptrSeg (op.arg k 1)) .w (ptrOff (op.arg k 1)) 32 1
  let _ ← loadBytes (ptrSeg (op.arg k 0)) (ptrOff (op.arg k 0)) 128 1
  if op.arg k 2 ≠ 0xFFFFFFFF then slotCheck (op.arg k 2) .read
  if op.arg k 3 ≠ 0xFFFFFFFF then slotCheck (op.arg k 3) .read
  if createsKey d x then slotCheck (BitVec.ofNat 32 imm.toNat) .write
  let eng := cpMaster (← get) op.cp x
  let _ ← engLoad eng x.inPtr (if isDig x.code then 0 else x.inLen)
  let _ ← if classOf x.code = 5 ∧ par x 72 8 ≠ 0 then gather 65536 x.inPtr.toNat else pure []
  let _ ← engLoad eng x.outPtr (if macLen x ≤ 64 ∧ macLen x ≤ x.outCap then macLen x else 0)
  let _ ← if x.outCap = 0 ∨ x.code = 0x0503 then pure true else engAccess eng x.outPtr .w x.outCap .write
  access (ptrSeg (op.arg k 1)) .w (ptrOff (op.arg k 1)) 32 1 .write

/-- The accesses `m` of an instruction pass the checks of R282 and none stalls, the host's bytes given. -/
def passes (c : CoreId) (host : Bytes) (m : Ocd Unit) (s : State) : Bool :=
  match ((do fetchIns 4; m : Ocd Unit) (ocdStart c (coreNo c s) host s)).1 with | .ok _ => true | .error _ => false

/-- The command that task `t` of the core's region has just issued. -/
def issuedBy (c : CoreId) (t : Nat) (x : Cmd) : Bool :=
  match x.origin with
  | .task k => k.region == c.region && k.task == t
  | .host => false

/-- R285, R286, R287: an issue of a block without handles, of the form that R126 and R285 give it, below its outstanding limit,
whose accesses pass, is accepted: it counts, leaves ST_OK in place of its operands, and puts one command under the next number
on its way, with the task as its origin. -/
def IssuesComplete : Prop :=
  ∀ op ∈ issueOps, ∀ (c : CoreId) (imm : BitVec 16) (host : List Byte) (s : State),
    let k := coreK c s
    let b := issueBlock c host (op.arg k 0) s
    let x := issuedCmd op c imm host s
    fetches c 4 s = true → op.takes ≤ k.ds.length → k.ds.length ≤ 32 → (op.plain = true → imm = 0xFFFF) →
    pointsToData k (op.arg k 0) = true → pointsToData k (op.arg k 1) = true →
    (slice b 16 16).all (· = 0) = true → issueOk (ocdStart c (coreNo c s) host s) op.cp imm.toNat b x = true →
    cpOutstanding s.toDev c.region (coreNo c s) op.cp < cpLimit op.cp →
    passes c host (issueAccesses op k imm x s.toDev) s = true → (cmdOf? s.toDev s.hif.nextCid).isNone = true →
    Gives (exec (op.ins c imm host) s) (fun u =>
      (taskOf u.toDev c.region (coreNo c s)).ds = 0 :: k.ds.drop op.takes
      ∧ (taskOf u.toDev c.region (coreNo c s)).issued = k.issued + 1
      ∧ (taskOf u.toDev c.region (coreNo c s)).pc = k.pc + 4
      ∧ u.hif.nextCid = s.hif.nextCid + 1
      ∧ (cmdOf? u.toDev s.hif.nextCid).any (issuedBy c (coreNo c s)) = true)

/-! ## The block as a whole -/

/-- A step takes the command at the front of the queue. -/
def Obligations.StepTakesFrontCommand : Prop :=
  ∀ (c : Instr) (q : List Instr) (s : State), step { s with pending := c :: q } = exec c { s with pending := q }

/-- An empty queue leaves one tick of 10 ns to pass (R477; that the idle step is a tick is the model's choice, log entry 1):
the timebase, the engines' busy cycles, the seconds of operation; while the die has no power or clock only the battery domain
keeps time (R424, R428). -/
def Obligations.EmptyQueueTicks : Prop :=
  (∀ (s : State), s.pending = [] → dieRuns s.toDev = false → Gives (step s) (fun u => u = { s with bat := batTick s.bat }))
  ∧ (∀ (s : State), s.pending = [] → dieRuns s.toDev = true →
      Gives (step s) (fun u => u.cpm.timebase = s.cpm.timebase + 1 ∧ u.pending = [] ∧ u.mem = s.mem ∧ u.hif = s.hif ∧ u.ks = s.ks
        ∧ u.bat = batTick s.bat
        ∧ (s.cpm.timebase % 100000000 ≠ 99999999 → u.evr = s.evr)
        ∧ (s.cpm.timebase % 100000000 = 99999999 → u.evr = { s.evr with opTime := s.evr.opTime + 1 })
        ∧ ∀ e, e < 18 → (engOf s.toDev e).running.isSome = true → (engOf u.toDev e).busy = (engOf s.toDev e).busy + 20))
  ∧ (∀ (b : BatS), b.rtcSub + 1 < 100000000 → batTick b = { b with rtcSub := b.rtcSub + 1 })
  ∧ (∀ (b : BatS), 100000000 ≤ b.rtcSub + 1 → batTick b = { b with rtcSub := 0, rtc := b.rtc + 1 })

/-- R29, R36, R439, R468: what reset leaves, for the values that the rules give; registers without one hold the values that
INVENTORY.md names. -/
def Obligations.ResetValues : Prop :=
  State.reset.cpm.power = .porLow ∧ State.reset.lc.state = .manufacture ∧ rwpVal State.reset.toDev 0 = 300
    ∧ rwpVal State.reset.toDev 2 = 0x3FFF6951 ∧ State.reset.lc.quorum = none ∧ State.reset.hif.cmds = []
    ∧ State.reset.mem = [] ∧ State.reset.pending = [] ∧ (∀ r, r < 4 → regionUp State.reset.toDev r = false)
    ∧ (∀ f, f < 64 → (fnOf State.reset.toDev f).enable = false ∧ (fnOf State.reset.toDev f).sessQuota = 1024)

/-- A command changes everything but the queue. -/
def Obligations.CommandsKeepTheQueue : Prop :=
  ∀ (c : Instr) (s u : State), exec c s = .next u → u.pending = s.pending

/-- Every well-formed command runs in every state: none faults, none is refused. -/
def Obligations.WellFormedCommandsAnswer : Prop :=
  ∀ (c : Instr) (s : State), c.wellFormed = true → ∃ u, exec c s = .next u

/-- The memory keeps its canonical form through every step, so that equal memories are equal data. -/
def Obligations.StepsKeepMemoryCanonical : Prop :=
  ∀ (s u : State), State.Inv s → step s = .next u → State.Inv u

/-- Reset memory has the canonical form, and reads as zero everywhere (R474). -/
def Obligations.ResetMemoryCanonical : Prop :=
  State.Inv State.reset ∧ ∀ a, memGet State.reset.mem a = 0

/-- R511: an address beyond the 40 bits of the map cannot be formed; a command that carries one stops with its fault. -/
def Obligations.AddressesBeyondTheMapFault : Prop :=
  (∀ (acc : Access) (a : Addr) (k : AccKind) (n : Nat) (s : State), 2 ^ 40 ≤ a → exec (.keywayCheck acc a k n) s = .fault .addressBeyondMap)
  ∧ (∀ (acc : Access) (a : Addr) (n : AccSize) (v : BitVec 64) (s : State), 2 ^ 40 ≤ a →
      exec (.registerWrite acc (.internal a) n v) s = .fault .addressBeyondMap)
  ∧ (∀ (acc : Access) (a : Addr) (s : State), 2 ^ 40 ≤ a →
      exec (.lowWordRead acc a) s = .fault .addressBeyondMap ∧ exec (.rcRegisterRead acc a) s = .fault .addressBeyondMap)

/-! ## The host interface (chapter 3) -/

/-- AQ_CFG gives depths of 2 to 4096 and a vector that the function has (R49). -/
def aqGood (f : Nat) (s : State) : Bool :=
  let c := (fnOf s.toDev f).aqCfg.toNat
  decide (1 ≤ c % 4096) && decide (1 ≤ c / 4096 % 4096) && decide (c / 2 ^ 24 ≤ (if f = 0 then 255 else 15))

/-- R45, R47, R49, R52: CTRL.enable starts queue pair 0 from AQ_CFG, or reports it; while the function still stops it is
held; disabling stops every pair, which ends when their completions are posted. -/
def FunctionEnableAndDisable : Prop :=
  (∀ (f : Fn) (s : State), fnUp s.toDev f = true → (fnOf s.toDev f).stopping = false → (fnOf s.toDev f).enable = false →
    aqGood f s = true →
    Gives (exec (.fnEnable f) s) (fun u => (fnOf u.toDev f).enable = true ∧ (fnOf u.toDev f).cfgError = false
      ∧ qpOf u.toDev f 0 = {
          live := true, sqDepth := (fnOf s.toDev f).aqCfg.toNat % 4096 + 1, cqDepth := (fnOf s.toDev f).aqCfg.toNat / 4096 % 4096 + 1
          sqBase := (fnOf s.toDev f).sqBase, cqBase := (fnOf s.toDev f).cqBase, vector := (fnOf s.toDev f).aqCfg.toNat / 2 ^ 24
          prio := 3, coalCount := 1 }))
  ∧ (∀ (f : Fn) (s : State), fnUp s.toDev f = true → (fnOf s.toDev f).stopping = false → (fnOf s.toDev f).enable = false →
    aqGood f s = false →
    Gives (exec (.fnEnable f) s) (fun u => (fnOf u.toDev f).enable = true ∧ (fnOf u.toDev f).cfgError = true
      ∧ qpOf u.toDev f 0 = qpOf s.toDev f 0 ∧ (logRoom s = true → logged 0x5101 0x50 f 0 5 u = true)))
  ∧ (∀ (f : Fn) (s : State), fnUp s.toDev f = true → (fnOf s.toDev f).stopping = true →
    Gives (exec (.fnEnable f) s) (fun u => (fnOf u.toDev f).enableHeld = true ∧ u.hif.qps = s.hif.qps))
  ∧ (∀ (f : Fn) (s : State), fnUp s.toDev f = true → (fnOf s.toDev f).stopping = false → (fnOf s.toDev f).enable = true →
    (fnOf s.toDev f).enableHeld = false →
    Gives (exec (.fnDisable f) s) (fun u => (fnOf u.toDev f).enable = false
      ∧ (fnOf u.toDev f).stopping = (qpsOf s.toDev f).any (qpBusy s.toDev f) ∧ ∀ q, q < 64 → (qpOf u.toDev f q).live = false))

/-- R44, R45, R53: a doorbell moves its index; an index out of range or past the other puts the pair in error with EV_5101, and
a pair that is not live only logs it. -/
def DoorbellsMoveIndices : Prop :=
  (∀ (f : Fn) (q : Nat) (v : BitVec 32) (s : State), bellThere s.toDev f q = true → (qpOf s.toDev f q).live = true →
    (qpOf s.toDev f q).err = false → v.toNat % 4096 < (qpOf s.toDev f q).sqDepth →
    sqHeld (qpOf s.toDev f q) + ringDist (qpOf s.toDev f q).sqDepth (qpOf s.toDev f q).sqTail (v.toNat % 4096) < (qpOf s.toDev f q).sqDepth →
    Gives (exec (.sqTail f q v) s) (fun u => qpOf u.toDev f q = { qpOf s.toDev f q with sqTail := v.toNat % 4096 } ∧ u.evr = s.evr))
  ∧ (∀ (f : Fn) (q : Nat) (v : BitVec 32) (s : State), bellThere s.toDev f q = true → (qpOf s.toDev f q).live = true →
    (qpOf s.toDev f q).err = false → (qpOf s.toDev f q).sqDepth ≤ v.toNat % 4096 →
    Gives (exec (.sqTail f q v) s) (fun u => qpOf u.toDev f q = { qpOf s.toDev f q with err := true }
      ∧ (logRoom s = true → logged 0x5101 0x50 f (q + v.toNat % 4096 * 65536) 1 u = true)))
  ∧ (∀ (f : Fn) (q : Nat) (v : BitVec 32) (s : State), bellThere s.toDev f q = true → (qpOf s.toDev f q).live = false →
    Gives (exec (.sqTail f q v) s) (fun u => u.hif = s.hif
      ∧ (logRoom s = true → logged 0x5101 0x50 f (q + v.toNat % 4096 * 65536) 3 u = true)))
  ∧ (∀ (f : Fn) (q : Nat) (v : BitVec 32) (s : State), bellThere s.toDev f q = true → (qpOf s.toDev f q).live = true →
    v.toNat % 4096 < (qpOf s.toDev f q).cqDepth →
    ringDist (qpOf s.toDev f q).cqDepth (qpOf s.toDev f q).cqHead (v.toNat % 4096) ≤ cqHeld (qpOf s.toDev f q) →
    Gives (exec (.cqHead f q v) s) (fun u => qpOf u.toDev f q = { qpOf s.toDev f q with cqHead := v.toNat % 4096 } ∧ u.evr = s.evr))
  ∧ (∀ (f : Fn) (q : Nat) (v : BitVec 32) (s : State), bellThere s.toDev f q = true → (qpOf s.toDev f q).live = true →
    (qpOf s.toDev f q).err = false → (qpOf s.toDev f q).stopping = false → (qpOf s.toDev f q).cqDepth ≤ v.toNat % 4096 →
    Gives (exec (.cqHead f q v) s) (fun u => (qpOf u.toDev f q).err = true
      ∧ (logRoom s = true → logged 0x5101 0x50 f (q + v.toNat % 4096 * 65536) 2 u = true)))

/-- The pair that the next fetch takes its entry from, of function `f` with number `q`. -/
def fetchesFrom (f q : Nat) (s : State) : Bool :=
  s.cpm.power == .ready && decide (q < 64) && (qpPick s.toDev == some (64 * f + q, qpOf s.toDev f q))

/-- R55, R56, R68: a fetch takes one entry, moves the head and gives the entry the next number; an entry in sequence on the
control session is accepted, and one past the window is refused as a gap; an unreadable entry puts the pair in error. -/
def EntriesAreFetchedInSequence : Prop :=
  (∀ (f q : Nat) (b : List Byte) (s : State), fetchesFrom f q s = true → b.length = 128 → entryClean b = true →
    fieldLE b 4 4 = 0 → ctlClass (fieldLE b 0 2) = true → (ctlOf s.toDev f).cache = [] → s.hif.cmds = [] →
    BitVec.ofNat 32 (fieldLE b 8 4) = (ctlOf s.toDev f).a + 1 →
    Gives (exec (.sqEntryFetch (.ok b)) s) (fun u => (qpOf u.toDev f q).sqHead = ((qpOf s.toDev f q).sqHead + 1) % (qpOf s.toDev f q).sqDepth
      ∧ (qpOf u.toDev f q).boost = 0 ∧ (ctlOf u.toDev f).a = (ctlOf s.toDev f).a + 1
      ∧ (fnOf u.toDev f).accepted = (fnOf s.toDev f).accepted + 1
      ∧ u.hif.cmds.map (fun c => (c.fn, c.qp, c.code, c.seq, c.accepted, c.owner))
          = [(f, q, fieldLE b 0 2, (ctlOf s.toDev f).a + 1, true, fnOwner f)]))
  ∧ (∀ (f q : Nat) (b : List Byte) (s : State), fetchesFrom f q s = true → b.length = 128 → entryClean b = true →
    fieldLE b 4 4 = 0 → ctlClass (fieldLE b 0 2) = true → s.hif.cmds = [] →
    17 ≤ (BitVec.ofNat 32 (fieldLE b 8 4) - (ctlOf s.toDev f).a).toNat → (BitVec.ofNat 32 (fieldLE b 8 4) - (ctlOf s.toDev f).a).toNat < 2 ^ 31 →
    Gives (exec (.sqEntryFetch (.ok b)) s) (fun u => (ctlOf u.toDev f).a = (ctlOf s.toDev f).a
      ∧ u.hif.cmds.map (fun c => (c.stage, c.accepted)) = [(.done (resErr 0x010A 0), false)]))
  ∧ (∀ (f q : Nat) (s : State), fetchesFrom f q s = true →
    Gives (exec (.sqEntryFetch .error) s) (fun u => (qpOf u.toDev f q).err = true ∧ (qpOf u.toDev f q).sqHead = (qpOf s.toDev f q).sqHead
      ∧ u.hif.cmds = s.hif.cmds ∧ (logRoom s = true → logged 0x5101 0x50 f q 4 u = true)))
  ∧ (∀ (f : Fn) (q : Nat) (s : State), (qpOf s.toDev f q).live = true → 0 < sqHeld (qpOf s.toDev f q) → qpLevel (qpOf s.toDev f q) < 3 →
    Gives (exec (.sqPriorityPromote f q) s) (fun u => qpLevel (qpOf u.toDev f q) = qpLevel (qpOf s.toDev f q) + 1))
  ∧ (∀ (cid : Nat) (s : State), (theCmd cid s).stage = .held → (theCmd cid s).dupOf = none →
    Gives (exec (.seqHoldTimeout cid) s) (fun u => (theCmd cid u).stage = .done (resErr 0x010A 0)))

/-- A completion whose turn it is, in a live pair with room. -/
def posts (cid : Nat) (r : Res) (s : State) : Bool :=
  let c := theCmd cid s
  let x := qpOf s.toDev c.fn c.qp
  decide (c.stage = .done r) && (cmdOf? s.toDev cid).isSome && isHost c && !c.silent && mayPost s.toDev c && x.live && cqFree x && x.delCid.isNone
    && !(fnOf s.toDev c.fn).stopping

/-- R60 to R62, R69: a completion leaves in its session's order, with its output before it; its command ends. The interrupt is
sent at the coalescing count or its time; a vector unmasked sends what waits, and a mask or MSI-X off holds it back. -/
def CompletionsPost : Prop :=
  (∀ (cid : Nat) (r : Res) (s : State), posts cid r s = true → (theCmd cid s).flags.getLsbD 3 = true →
    Gives (exec (.completionPost cid) s) (fun u =>
      let c := theCmd cid s
      let x := qpOf s.toDev c.fn c.qp
      u.hif.tx = s.hif.tx ++ spread c.outSeg r.out ++ [.completion c.fn c.qp x.cqPost
        (entryBytes r c.session c.seq c.tag x.sqHead c.qp (b2n x.phase + 2 * b2n c.duplicate) c.qmask)]
      ∧ (qpOf u.toDev c.fn c.qp).cqPost = (x.cqPost + 1) % x.cqDepth
      ∧ (qpOf u.toDev c.fn c.qp).phase = (if (x.cqPost + 1) % x.cqDepth = 0 then !x.phase else x.phase)
      ∧ (fnOf u.toDev c.fn).completed = (fnOf s.toDev c.fn).completed + 1 ∧ (cid < s.hif.nextCid → cmdOf? u.toDev cid = none)))
  ∧ (∀ (f : Fn) (q : Nat) (s : State), (qpOf s.toDev f q).coalN ≠ 0 → vecSends (fnOf s.toDev f) (qpOf s.toDev f q).vector = true →
    Gives (exec (.cqCoalTimeout f q) s) (fun u => (qpOf u.toDev f q).coalN = 0
      ∧ u.hif.tx = s.hif.tx ++ [.msix f (qpOf s.toDev f q).vector]))
  ∧ (∀ (f : Fn) (v : Nat) (s : State), fnUp s.toDev f = true → (fnOf s.toDev f).msixEnable = true → (fnOf s.toDev f).funcMask = false →
    (fnOf s.toDev f).vecPending = [v] →
    Gives (exec (.msixUnmask f (.unmaskVector v)) s) (fun u => vecMasked (fnOf u.toDev f) v = false ∧ (fnOf u.toDev f).vecPending = []
      ∧ u.hif.tx = s.hif.tx ++ [.msix f v]))
  ∧ (∀ (f : Fn) (v : Nat) (s : State), fnUp s.toDev f = true →
    Gives (exec (.msixUnmask f .enable) s) (fun u => (fnOf u.toDev f).msixEnable = true)
      ∧ Gives (exec (.msixUnmask f .unmaskFunction) s) (fun u => (fnOf u.toDev f).funcMask = false)
      ∧ Gives (exec (.msixUnmask f .disable) s) (fun u => (fnOf u.toDev f).msixEnable = false ∧ u.hif.tx = s.hif.tx)
      ∧ Gives (exec (.msixUnmask f .maskFunction) s) (fun u => (fnOf u.toDev f).funcMask = true ∧ u.hif.tx = s.hif.tx)
      ∧ Gives (exec (.msixUnmask f (.maskVector v)) s) (fun u => vecMasked (fnOf u.toDev f) v = true))

/-- R50 to R52, R64: QUEUE_CREATE makes a live pair from its parameters; QUEUE_DELETE stops a pair and ends when its last
command has posted; SESSION_OPEN gives the next unused pool entry its first generation. -/
def Obligations.QueueAndSessionCommandsComplete : Prop :=
  (∀ (cid : Nat) (hr : HostRead) (s : State), starts 0x0001 cid hr s = true → (theCmd cid s).qp = 0 →
    1 ≤ param cid 64 2 s → param cid 64 2 s ≤ qpMax (theCmd cid s).fn → zeroFrom cid 90 s = true →
    2 ≤ param cid 66 2 s → param cid 66 2 s ≤ 4096 → 2 ≤ param cid 68 2 s → param cid 68 2 s ≤ 4096 →
    param cid 70 1 s ≤ vecMax (theCmd cid s).fn → param cid 71 1 s ≤ 3 → param cid 72 8 s % 4096 = 0 → param cid 80 8 s % 4096 = 0 →
    (qpOf s.toDev (theCmd cid s).fn (param cid 64 2 s)).live = false → (qpOf s.toDev (theCmd cid s).fn (param cid 64 2 s)).stopping = false →
    (fnOf s.toDev (theCmd cid s).fn).stopping = false →
    EndsWith (exec (.queueCreate cid hr) s) cid resOk (fun u => qpOf u.toDev (theCmd cid s).fn (param cid 64 2 s) = {
      live := true, sqDepth := param cid 66 2 s, cqDepth := param cid 68 2 s, sqBase := BitVec.ofNat 64 (param cid 72 8 s)
      cqBase := BitVec.ofNat 64 (param cid 80 8 s), vector := param cid 70 1 s, prio := param cid 71 1 s
      coalCount := param cid 88 1 s, coalTime := param cid 89 1 s }))
  ∧ (∀ (cid : Nat) (hr : HostRead) (s : State), starts 0x0002 cid hr s = true → (theCmd cid s).qp = 0 →
    1 ≤ param cid 64 2 s → param cid 64 2 s ≤ qpMax (theCmd cid s).fn → zeroFrom cid 66 s = true →
    (qpOf s.toDev (theCmd cid s).fn (param cid 64 2 s)).live = true → qpBusy s.toDev (theCmd cid s).fn (param cid 64 2 s) = false →
    EndsWith (exec (.queueDelete cid hr) s) cid resOk (fun u => qpOf u.toDev (theCmd cid s).fn (param cid 64 2 s) = {}))
  ∧ (∀ (cid : Nat) (hr : HostRead) (s : State), starts 0x0002 cid hr s = true → (theCmd cid s).qp = 0 →
    1 ≤ param cid 64 2 s → param cid 64 2 s ≤ qpMax (theCmd cid s).fn → zeroFrom cid 66 s = true →
    (qpOf s.toDev (theCmd cid s).fn (param cid 64 2 s)).live = true →
    s.hif.cmds.any (fun x => isHost x && x.fn == (theCmd cid s).fn && x.qp == param cid 64 2 s && x.session != (theCmd cid s).session && !x.silent) = true →
    Gives (exec (.queueDelete cid hr) s) (fun u => (theCmd cid u).stage = .running
      ∧ (qpOf u.toDev (theCmd cid s).fn (param cid 64 2 s)).live = false ∧ (qpOf u.toDev (theCmd cid s).fn (param cid 64 2 s)).stopping = true))
  ∧ (∀ (cid : Nat) (hr : HostRead) (s : State), starts 0x0010 cid hr s = true → (theCmd cid s).session = 0 → zeroFrom cid 65 s = true →
    sessCount s.toDev (theCmd cid s).fn < (fnOf s.toDev (theCmd cid s).fn).sessQuota → s.hif.nextFresh < 65536 →
    param cid 64 1 s < 4 → regionUp s.toDev (param cid 64 1 s) = true →
    EndsWith (exec (.sessionOpen cid hr) s) cid (resVal (2 ^ 16 + s.hif.nextFresh + 2 ^ 24 * (theCmd cid s).fn) ) (fun u =>
      (sessOf u.toDev s.hif.nextFresh).isOpen = true ∧ (sessOf u.toDev s.hif.nextFresh).gen = 1
      ∧ (sessOf u.toDev s.hif.nextFresh).fn = (theCmd cid s).fn ∧ (sessOf u.toDev s.hif.nextFresh).home.val = param cid 64 1 s
      ∧ u.hif.nextFresh = s.hif.nextFresh + 1))

/-! ## The tumblers (chapter 10) -/

/-- A core that takes tasks: in service, not halted, no instruction of it in progress, and its region dispatches. -/
def takesTasks (c : CoreId) (s : State) : Bool :=
  tmbRuns s.toDev c.region && !(coreOf s.toDev c).out && !(coreOf s.toDev c).stopping && !(coreOf s.toDev c).halt && !insHeld s.toDev c

/-- R306, R307: the task dispatched is the READY task of the highest level on the core's slot, the longest READY among
equals; it preempts a running task of lower priority, which becomes first of its level; otherwise nothing moves. -/
def Obligations.TumblerDispatches : Prop :=
  (∀ (d : Dev) (r p : Nat) (b : Nat × Task), readyBest d r p = some b →
    b ∈ homedAt d r p ∧ b.2.state = .ready ∧ b.2.ending = none ∧ (∀ x ∈ homedAt d r p, x.2.state = .ready → x.2.ending = none →
      taskLevel x.2 < taskLevel b.2 ∨ (taskLevel x.2 = taskLevel b.2 ∧ b.2.stamp ≤ x.2.stamp)))
  ∧ (∀ (c : CoreId) (p t : Nat) (k : Task) (s : State), takesTasks c s = true → homeOf s.toDev c = some p →
    readyBest s.toDev c.region p = some (t, k) → (coreOf s.toDev c).task = none →
    awaitsTask s.toDev c p = false → (taskOf s.toDev c.region t).wait = .none →
    Gives (exec (.taskDispatch c) s) (fun u => taskOf u.toDev c.region t = { taskOf s.toDev c.region t with state := .running, age := 0 }
      ∧ (coreOf u.toDev c).task = some t
      ∧ (regionOf u.toDev c.region).tmb.dispatches = (regionOf s.toDev c.region).tmb.dispatches + 1))
  ∧ (∀ (c : CoreId) (p t v : Nat) (k : Task) (s : State), takesTasks c s = true → homeOf s.toDev c = some p →
    readyBest s.toDev c.region p = some (t, k) → (coreOf s.toDev c).task = some v → v ≠ t →
    (taskOf s.toDev c.region v).state = .running → (taskOf s.toDev c.region v).stop = none → (taskOf s.toDev c.region v).priority < taskLevel k →
    Gives (exec (.taskDispatch c) s) (fun u => (taskOf u.toDev c.region v).state = .ready ∧ (taskOf u.toDev c.region v).stamp = 0
      ∧ (taskOf u.toDev c.region t).state = .running ∧ (coreOf u.toDev c).task = some t
      ∧ (regionOf u.toDev c.region).tmb.preempts = (regionOf s.toDev c.region).tmb.preempts + 1))
  ∧ (∀ (c : CoreId) (p t v : Nat) (k : Task) (s : State), takesTasks c s = true → homeOf s.toDev c = some p →
    readyBest s.toDev c.region p = some (t, k) → (coreOf s.toDev c).task = some v →
    (taskOf s.toDev c.region v).stop = none → taskLevel k ≤ (taskOf s.toDev c.region v).priority →
    Gives (exec (.taskDispatch c) s) (fun u => u = s))

/-- R291, R304, R306, R307: the slice, the age, the time limit (an instruction in progress completes first) and the
deadline of a wait. -/
def Obligations.TumblerTimersAct : Prop :=
  (∀ (c : CoreId) (t : Nat) (s : State), (coreOf s.toDev c).task = some t → coreRunning s.toDev c.region t = some c.pos.val →
    (coreOf s.toDev c).halt = false → insHeld s.toDev c = false →
    (homedAt s.toDev c.region (taskOf s.toDev c.region t).home).any (fun x => x.2.state == .ready && x.2.ending.isNone
      && taskLevel x.2 == (taskOf s.toDev c.region t).priority) = true →
    Gives (exec (.timeSliceExpire c) s) (fun u => (coreOf u.toDev c).task = none
      ∧ taskOf u.toDev c.region t =
          { taskOf s.toDev c.region t with state := .ready, stamp := (regionOf s.toDev c.region).tmb.clock + 1 }))
  ∧ (∀ (r : Region) (t : Nat) (s : State), (taskOf s.toDev r t).state = .ready →
    (taskOf s.toDev r t).priority + (taskOf s.toDev r t).age < 14 →
    Gives (exec (.taskAgePromote r t) s) (fun u => taskLevel (taskOf u.toDev r t) = taskLevel (taskOf s.toDev r t) + 1))
  ∧ (∀ (r : Region) (t : Nat) (s : State), (taskOf s.toDev r t).state = .ready →
    14 ≤ (taskOf s.toDev r t).priority + (taskOf s.toDev r t).age → Gives (exec (.taskAgePromote r t) s) (fun u => u = s))
  ∧ (∀ (r : Region) (t : Nat) (s : State), [TaskState.ready, .running, .waiting].contains (taskOf s.toDev r t).state = true →
    (taskOf s.toDev r t).ending = none → (taskOf s.toDev r t).stop = none → taskHeld s.toDev r t = false → taskQuiet s.toDev r t = true →
    Gives (exec (.taskTimeLimit r t) s) (fun u => (taskOf u.toDev r t).ending = some .limit ∧ (taskOf u.toDev r t).state = .cancelled
      ∧ (regionOf u.toDev r).tmb.cancels = (regionOf s.toDev r).tmb.cancels + 1))
  ∧ (∀ (r : Region) (t : Nat) (s : State), [TaskState.ready, .running, .waiting].contains (taskOf s.toDev r t).state = true →
    (taskOf s.toDev r t).ending = none → (taskOf s.toDev r t).stop = none → taskHeld s.toDev r t = true →
    Gives (exec (.taskTimeLimit r t) s) (fun u => taskOf u.toDev r t = { taskOf s.toDev r t with cancel := true, stop := some .limit }))
  ∧ (∀ (r : Region) (t : Nat) (s : State), (taskOf s.toDev r t).ending = some .exit →
    Gives (exec (.taskTimeLimit r t) s) (fun u => u = s))
  ∧ (∀ (r : Region) (t : Nat) (s : State), (taskOf s.toDev r t).state = .waiting → (taskOf s.toDev r t).ending = none →
    (taskOf s.toDev r t).wait = .until_ →
    Gives (exec (.waitDeadline r t) s) (fun u => (taskOf u.toDev r t).state = .ready ∧ (taskOf u.toDev r t).ds = (taskOf s.toDev r t).ds))
  ∧ (∀ (r : Region) (t : Nat) (s : State), (taskOf s.toDev r t).state = .waiting → (taskOf s.toDev r t).ending = none →
    (taskOf s.toDev r t).wait = .eventUntil → eventPending s.toDev r (taskOf s.toDev r t) = false →
    Gives (exec (.waitDeadline r t) s) (fun u => (taskOf u.toDev r t).state = .ready ∧ (taskOf u.toDev r t).ds = 0 :: (taskOf s.toDev r t).ds))
  ∧ (∀ (r : Region) (t : Nat) (s : State), (taskOf s.toDev r t).state = .waiting → (taskOf s.toDev r t).ending = none →
    (taskOf s.toDev r t).wait = .eventUntil → eventPending s.toDev r (taskOf s.toDev r t) = true →
    Gives (exec (.waitDeadline r t) s) (fun u => (taskOf u.toDev r t).state = .ready ∧ (taskOf u.toDev r t).ds = (taskOf s.toDev r t).ds))

/-- The reply that a task leaves at the start of DS (R305). -/
def replyOf (r : Region) (t : Nat) (s : State) : Bytes := memGetN s.mem (ramAt (taskOf s.toDev r t) 1 0) 16

/-- R305: the end of a task completes its call with the task's reply, or with the status of its cancellation, and frees it;
R285: a task's command ends with its result record in the task's memory and an event for it. -/
def Obligations.TasksAndTheirCommandsEnd : Prop :=
  (∀ (r : Region) (t : Nat) (s : State), (taskOf s.toDev r t).state = .done → (taskOf s.toDev r t).stop = none → (cmdOf? s.toDev (taskOf s.toDev r t).call).isSome = true →
    isDone (theCmd (taskOf s.toDev r t).call s) = false →
    (fieldLE (replyOf r t s) 0 2 = 0 ∨ (0x8000 ≤ fieldLE (replyOf r t s) 0 2 ∧ fieldLE (replyOf r t s) 0 2 ≤ 0xFFFE)) →
    fieldLE (replyOf r t s) 4 4 ≤ (taskOf s.toDev r t).outCap →
    EndsWith (exec (.taskEnd r t) s) (taskOf s.toDev r t).call
      ⟨BitVec.ofNat 16 (fieldLE (replyOf r t s) 0 2), BitVec.ofNat 16 (fieldLE (replyOf r t s) 2 2), fieldLE (replyOf r t s) 4 4,
        BitVec.ofNat 32 (fieldLE (replyOf r t s) 8 4), []⟩
      (fun u => (taskOf u.toDev r t).state = .free))
  ∧ (∀ (r : Region) (t : Nat) (s : State), (taskOf s.toDev r t).state = .cancelled → (taskOf s.toDev r t).stop = none →
    (cmdOf? s.toDev (taskOf s.toDev r t).call).isSome = true →
    isDone (theCmd (taskOf s.toDev r t).call s) = false → (taskOf s.toDev r t).ending = some .trap →
    EndsWith (exec (.taskEnd r t) s) (taskOf s.toDev r t).call (resErr 0x0307 0) (fun u => (taskOf u.toDev r t).state = .free))
  ∧ (∀ (r : Region) (t : Nat) (s : State), (taskOf s.toDev r t).state = .cancelled → (taskOf s.toDev r t).stop = none →
    (cmdOf? s.toDev (taskOf s.toDev r t).call).isSome = true →
    isDone (theCmd (taskOf s.toDev r t).call s) = false → (taskOf s.toDev r t).ending = some .cancel →
    EndsWith (exec (.taskEnd r t) s) (taskOf s.toDev r t).call
      (resErr (if (taskOf s.toDev r t).started then 0x0308 else 0x0303) 0) (fun u => (taskOf u.toDev r t).state = .free))
  ∧ (∀ (cid : Nat) (k : TaskRef) (res : Res) (s : State), (cmdOf? s.toDev cid).isSome = true → (theCmd cid s).origin = .task k →
    (theCmd cid s).stage = .done res → resultWaits s.toDev k = false → (theCmd cid s).code ≠ 0xFF05 →
    (resPass k s.toDev).1 = .allowed → inRam (taskOf s.toDev k.region k.task) k.resSeg k.resOff = true →
    Gives (exec (.cpCommandComplete cid) s) (fun u => cmdOf? u.toDev cid = none ∧ (taskOf u.toDev k.region k.task).latch = true
      ∧ (Memory.wf s.mem → memGetN u.mem (ramAt (taskOf s.toDev k.region k.task) k.resSeg k.resOff) 32
          = entryBytes res (theCmd cid s).session (theCmd cid s).seq (theCmd cid s).tag 0 0 0 0)))

/-- R299, R373, R376: the control registers of a core and of a DMA channel, written by their worlds. -/
def Obligations.CoreAndChannelRegistersAct : Prop :=
  (∀ (acc : Access) (c : CoreId) (s : State), regGoes acc (corePage c) 8 s = true → writerOf acc [.K, .D] s = true →
    Gives (exec (.ocdHalt acc c) s) (fun u => (coreOf u.toDev c).halt = true ∧ (coreOf u.toDev c).halted = true
        ∧ (coreOf u.toDev c).task = (coreOf s.toDev c).task)
      ∧ Gives (exec (.ocdResume acc c) s) (fun u => (coreOf u.toDev c).halt = false ∧ (coreOf u.toDev c).halted = false)
      ∧ Gives (exec (.ocdStep acc c) s) (fun u => (coreOf u.toDev c).step = ((coreOf s.toDev c).step || (coreOf s.toDev c).halt)))
  ∧ (∀ (acc : Access) (c : CoreId) (s : State), acc.world = .C → regGoes acc (corePage c) 8 s = true → logRoom s = true →
    Gives (exec (.ocdHalt acc c) s) (fun u => coreOf u.toDev c = coreOf s.toDev c
      ∧ logged 0x2201 (coreMaster c) (3 * 2 ^ 24 + tagOf acc) ((pageBase (corePage c) + 8) % 2 ^ 32) ((pageBase (corePage c) + 8) / 2 ^ 32) u = true))
  ∧ (∀ (acc : Access) (i : DmaInst) (ch : Channel) (s : State), regGoes acc (dmaPage i) (0x108 + 0x20 * ch.val) s = true →
    acc.world = .K → chBusy (chOf s.toDev i ch) = false → dmaDown s.toDev i = false →
    Gives (exec (.dmaChStart acc i ch) s) (fun u => (chOf u.toDev i ch).state = .running ∧ (chOf u.toDev i ch).cur = (chOf s.toDev i ch).list
      ∧ (chOf u.toDev i ch).offset = 0 ∧ (chOf u.toDev i ch).done = 0 ∧ (chOf u.toDev i ch).ownerTask = none))
  ∧ (∀ (acc : Access) (i : DmaInst) (ch : Channel) (s : State), regGoes acc (dmaPage i) (0x108 + 0x20 * ch.val) s = true →
    acc.world = .K → (chOf s.toDev i ch).state = .stopping →
    Gives (exec (.dmaChStart acc i ch) s) (fun u => chOf u.toDev i ch = { chOf s.toDev i ch with startHeld := true }))
  ∧ (∀ (acc : Access) (i : DmaInst) (ch : Channel) (s : State), regGoes acc (dmaPage i) (0x108 + 0x20 * ch.val) s = true →
    acc.world = .K → (chOf s.toDev i ch).state = .running →
    Gives (exec (.dmaChStop acc i ch) s) (fun u => chOf u.toDev i ch = { chOf s.toDev i ch with state := .stopping, stop := true })
      ∧ Gives (exec (.dmaChStart acc i ch) s) (fun u => chOf u.toDev i ch = chOf s.toDev i ch))

/-! ## Keyways, spine and crossbars (chapter 13) -/

/-- Rule `n` of unit `u` matches the access. -/
def matches_ (d : Dev) (u : KwUnit) (acc : Access) (a n : Nat) : Bool := kwMatches acc (a / 4096) (kwRuleOf u (kwOf d u).rules n)
def prioOf (d : Dev) (u : KwUnit) (n : Nat) : Nat := (kwRuleOf u (kwOf d u).rules n).priority

/-- R364: an access is allowed where its tag is good, the map holds the address, some rule matches, and every matching rule
of the highest priority gives the right. -/
def Obligations.KeywaysJudgeByTopPriority : Prop :=
  ∀ (d : Dev) (u : KwUnit) (acc : Access) (a : Nat) (kind : AccKind),
    kwJudge d u acc a kind = none ↔
      tagBad acc = false ∧ kwUnitAt a ≠ some (u, false) ∧ (∃ n, n < 64 ∧ matches_ d u acc a n = true)
        ∧ ∀ n, n < 64 → matches_ d u acc a n = true → (∀ m, m < 64 → matches_ d u acc a m = true → prioOf d u m ≤ prioOf d u n) →
            kwRight acc kind (kwRuleOf u (kwOf d u).rules n) = true

/-- R357, R360, R361, R364 to R367, R501: checks at one keyway unit are counted, and a denial is captured and logged; UPDATE
stages rules and commits or drops them; the oldest stalled access is denied at its time; links, crossings and ages; a burst grants 1 to 48 waiting
transfers, which are free (log entry 356). -/
def Obligations.FabricCommandsAct : Prop :=
  (∀ (acc : Access) (a : Addr) (k : AccKind) (n : Nat) (u : KwUnit) (s : State), a < 2 ^ 40 → pageAt a = none → kwPath acc a = [u] →
    (kwOf s.toDev u).updating = false → kwJudge s.toDev u acc a k = none →
    Gives (exec (.keywayCheck acc a k n) s) (fun v => kwOf v.toDev u = { kwOf s.toDev u with checks := (kwOf s.toDev u).checks + 1 }
      ∧ v.evr = s.evr ∧ v.mem = s.mem))
  ∧ (∀ (acc : Access) (a : Addr) (k : AccKind) (n cause rule : Nat) (u : KwUnit) (s : State), a < 2 ^ 40 → pageAt a = none →
    kwPath acc a = [u] → (kwOf s.toDev u).updating = false → kwJudge s.toDev u acc a k = some (cause, rule) → logRoom s = true →
    Gives (exec (.keywayCheck acc a k n) s) (fun v => (kwOf v.toDev u).denials = (kwOf s.toDev u).denials + 1
      ∧ (kwOf v.toDev u).viol = satInc32 (kwOf s.toDev u).viol
      ∧ logged 0x2401 (pageSource (kwPage u)) (2 ^ 31 + kwInfo acc k n cause rule) (a / 2 ^ 32 % 256) (a % 2 ^ 32) v = true))
  ∧ (∀ (acc : Access) (u : KwUnit) (s : State), acc.world = .K → (kwOf s.toDev u).updating = false →
    Gives (exec (.kwUpdateEnter acc u) s) (fun v => kwOf v.toDev u =
      { kwOf s.toDev u with updating := true, shadow := (kwOf s.toDev u).rules, denialsNow := 0 }))
  ∧ (∀ (acc : Access) (u : KwUnit) (s : State), acc.world = .K → (kwOf s.toDev u).updating = true → (kwOf s.toDev u).stalled = [] →
    Gives (exec (.kwUpdateCommit acc u) s) (fun v => kwOf v.toDev u =
        { kwOf s.toDev u with rules := (kwOf s.toDev u).shadow, updating := false, shadow := [], denialsNow := 0 })
      ∧ Gives (exec (.kwUpdateAbort acc u) s) (fun v => kwOf v.toDev u =
        { kwOf s.toDev u with updating := false, shadow := [], denialsNow := 0 }))
  ∧ (∀ (u : KwUnit) (x : Stalled) (l : List Stalled) (s : State), (kwOf s.toDev u).stalled = x :: l → x.core = none →
    Gives (exec (.kwStallTimeout u) s) (fun v => (kwOf v.toDev u).stalled = l
      ∧ (kwOf v.toDev u).stallDenials = satInc32 (kwOf s.toDev u).stallDenials
      ∧ (kwOf v.toDev u).denialsNow = (kwOf s.toDev u).denialsNow + 1 ∧ v.evr = s.evr))
  ∧ (∀ (acc : Access) (m : PageNo) (s : State), regGoes acc m 0x1C s = true → acc.world = .K →
    Gives (exec (.errInfoClear acc m) s) (fun u => (pageOf u.toDev m).err0.getLsbD 31 = false))
  ∧ (∀ (st : Station) (tr : Traffic) (m : Byte) (n : Nat) (s : State), n < 3 →
    Gives (exec (.spineBeatError st tr m n) s) (fun u => u.spn = { s.spn with linkRetries := s.spn.linkRetries + 1 } ∧ u.evr = s.evr))
  ∧ (∀ (st : Station) (tr : Traffic) (m : Byte) (n : Nat) (s : State), 3 ≤ n → logRoom s = true → s.die.safe = false →
    Gives (exec (.spineBeatError st tr m n) s) (fun u => logged 0x4030 0x83 st.val (qosRank (qosOf tr)) m.toNat u = true
      ∧ u.die.safe = decide (2 ≤ (s.spn.failures.filter (fun f => f.1 == st.val && nowTb s.toDev - f.2 < 100000000)).length)))
  ∧ (∀ (st : Station) (s : State), Gives (exec (.spineBulkBurst st) s) (fun u =>
      u.spn = { s.spn with xferBulk := u.spn.xferBulk, xferBg := u.spn.xferBg, maxWait := u.spn.maxWait }
      ∧ 1 ≤ (u.spn.xferBulk - s.spn.xferBulk).toNat + (u.spn.xferBg - s.spn.xferBg).toNat
      ∧ (u.spn.xferBulk - s.spn.xferBulk).toNat + (u.spn.xferBg - s.spn.xferBg).toNat ≤ 48
      ∧ s.spn.maxWait ≤ u.spn.maxWait ∧ u.spn.maxWait ≤ max s.spn.maxWait 392 ∧ u.evr = s.evr ∧ u.mem = s.mem))
  ∧ (∀ (p q : Region) (s : State), p.val < q.val → Gives (exec (.xregionRetry p q) s) (fun u => u.spn.xrefusals = s.spn.xrefusals + 1))
  ∧ (∀ (r : Region) (p : Port) (n : Nat) (s : State), (regionOf s.toDev r).xbar = [] →
    Gives (exec (.xbarAgePromote r p n) s) (fun u => (regionOf u.toDev r).xbar = [(p, n, min 3 (xbarStart s.toDev r n + 1))]))
  ∧ (∀ (r : Region) (p : Port) (n l : Nat) (s : State), (regionOf s.toDev r).xbar = [(p, n, l)] →
    Gives (exec (.xbarAgePromote r p n) s) (fun u => (regionOf u.toDev r).xbar = [(p, n, min 3 (l + 1))]))

/-! ## Sessions, functions and the link (chapter 3) -/

/-- No session of function `f` is open. -/
abbrev noSessions (f : Nat) (u : State) : Prop := ∀ i, i < 65536 → (sessOf u.toDev i).isOpen = true → (sessOf u.toDev i).fn ≠ f

/-- Nothing of function `f` is left: no queue pair, no open session, no command but running ones that post nothing, and its
page at its reset values; the session quota stays (R74). -/
abbrev fnGone (f : Nat) (s u : State) : Prop :=
  qpsOf u.toDev f = [] ∧ fnOf u.toDev f = { sessQuota := (fnOf s.toDev f).sessQuota } ∧ noSessions f u
    ∧ u.hif.cmds.all (fun c => !(isHost c && c.fn == f) || c.silent) = true

/-- A configuration request that reads. -/
def readsConfig (q : ConfigReq) : Bool := match q with | .read _ => true | _ => false

/-- R42, R43, R66, R74: a session closes once its commands are done; function, link and PF resets; configuration requests.
That a VF removed by NumVFs or VF Enable goes as by a function level reset is the model's choice (log entry 42). -/
def SessionsAndFunctionsEnd : Prop :=
  (∀ (cid : Nat) (hr : HostRead) (x : Sess) (s : State), starts 0x0011 cid hr s = true → (theCmd cid s).session = 0 → param cid 64 4 s ≠ 0 →
    zeroFrom cid 68 s = true → sessNamed s.toDev (theCmd cid s).fn (BitVec.ofNat 32 (param cid 64 4 s)) = some x → x.closing = some cid →
    s.hif.cmds.all (fun c => c.session != BitVec.ofNat 32 (param cid 64 4 s)) = true →
    EndsWith (exec (.sessionClose cid hr) s) cid resOk (fun u => (sessOf u.toDev (param cid 64 4 s % 65536)).isOpen = false
      ∧ u.hif.freed = s.hif.freed ++ [param cid 64 4 s % 65536]))
  ∧ (∀ (f : Fn) (s : State), f.val ≠ 0 → fnConfig s.toDev f = true → logRoom s = true →
    Gives (exec (.flrVf f) s) (fun u => fnGone f s u ∧ logged 0x5120 0x50 f 0 0 u = true))
  ∧ (∀ (s : State), fnConfig s.toDev 0 = true →
    Gives (exec .flrPf s) (fun u => u.hif.vfEnable = false ∧ u.hif.numVfs = s.hif.numVfs ∧ ∀ f ∈ fnsThere s.toDev, fnGone f s u))
  ∧ (∀ (up : Bool) (s : State), s.cpm.power = .ready → logRoom s = true →
    Gives (exec (.hotReset up) s) (fun u => u.hif.linkUp = true ∧ u.hif.vfEnable = false ∧ (∀ f ∈ fnsThere s.toDev, fnGone f s u)
        ∧ logged 0x5121 0x50 (if up then 1 else 0) 0 0 u = true)
      ∧ Gives (exec (.linkDown up) s) (fun u => u.hif.linkUp = false ∧ u.hif.vfEnable = false
        ∧ (∀ f ∈ fnsThere s.toDev, fnGone f s u) ∧ logged 0x5121 0x50 (if up then 1 else 0) 0 0 u = true)
      ∧ Gives (exec (.pciePerst up) s) (fun u => u.hif.linkUp = false ∧ u.hif.vfEnable = false
        ∧ (∀ f ∈ fnsThere s.toDev, fnGone f s u) ∧ logged 0x5121 0x50 (if up then 1 else 0) 0 0 u = true))
  ∧ (∀ (f : Fn) (q : ConfigReq) (s : State), s.cpm.power = .booting →
    Gives (exec (.configRequest f q) s) (fun u => u.hif.tx = s.hif.tx ++ [.configRetry f] ∧ u.hif.numVfs = s.hif.numVfs))
  ∧ (∀ (f : Fn) (q : ConfigReq) (s : State), s.cpm.power = .ready → fnThere s.toDev f = true → readsConfig q = false →
    Gives (exec (.configRequest f q) s) (fun u => u.hif.tx.getLast? = some (.configDone f) ∧ u.hif.linkUp = true))
  ∧ (∀ (s : State), s.cpm.power = .ready →
    Gives (exec (.configRequest 0 (.read .totalVfs)) s) (fun u => u.hif.tx = s.hif.tx ++ [.configData 0 63])
      ∧ Gives (exec (.configRequest 0 (.read .firstVfOffset)) s) (fun u => u.hif.tx = s.hif.tx ++ [.configData 0 1])
      ∧ Gives (exec (.configRequest 0 (.read .vfStride)) s) (fun u => u.hif.tx = s.hif.tx ++ [.configData 0 1]))
  ∧ (∀ (n : Nat) (s : State), s.cpm.power = .ready → n ≤ 63 →
    Gives (exec (.configRequest 0 (.setNumVfs n)) s) (fun u => u.hif.numVfs = n ∧ u.hif.vfEnable = s.hif.vfEnable
      ∧ ∀ f ∈ fnsThere s.toDev, n < f → fnGone f s u))
  ∧ (∀ (on : Bool) (s : State), s.cpm.power = .ready →
    Gives (exec (.configRequest 0 (.setVfEnable on)) s) (fun u => u.hif.numVfs = s.hif.numVfs ∧ u.hif.vfEnable = on
      ∧ ∀ f ∈ fnsThere s.toDev, on = false → f ≠ 0 → fnGone f s u))
  ∧ (∀ (f : Fn) (enable mask : Bool) (s : State), s.cpm.power = .ready → fnThere s.toDev f = true →
    Gives (exec (.configRequest f (.setMsix enable mask)) s) (fun u =>
      (fnOf u.toDev f).msixEnable = enable ∧ (fnOf u.toDev f).funcMask = mask))

/-- R23, R38, R65: binding a VF, taking the binding away with all that the tenant has, and the session quota. -/
def TenantCommandsComplete : Prop :=
  (∀ (cid : Nat) (hr : HostRead) (s : State), starts 0x0120 cid hr s = true → zeroFrom cid 65 s = true → (theCmd cid s).inLen = 0 →
    1 ≤ param cid 64 1 s → param cid 64 1 s ≤ s.hif.numVfs → s.hif.bound.contains (param cid 64 1 s) = false →
    keepOnly s.toDev = false → logRoom s = true →
    EndsWith (exec (.vfBind cid hr) s) cid resOk (fun u => u.hif.bound = s.hif.bound ++ [param cid 64 1 s]
      ∧ logged 0x0122 0x88 (param cid 64 1 s) 0 0 u = true))
  ∧ (∀ (cid : Nat) (hr : HostRead) (s : State), starts 0x0121 cid hr s = true → zeroFrom cid 65 s = true → (theCmd cid s).inLen = 0 →
    1 ≤ param cid 64 1 s → param cid 64 1 s ≤ 63 → s.hif.bound.contains (param cid 64 1 s) = true → keepOnly s.toDev = false →
    s.vlt.commit = none → s.hif.cmds.all (fun c => c.fn != param cid 64 1 s) = true →
    EndsWith (exec (.vfUnbind cid hr) s) cid resOk (fun u => u.hif.bound.contains (param cid 64 1 s) = false
      ∧ noSessions (param cid 64 1 s) u
      ∧ u.ks.keys.all (fun k => k.owner != ⟨.T, param cid 64 1 s⟩) = true))
  ∧ (∀ (cid : Nat) (hr : HostRead) (s : State), starts 0x0122 cid hr s = true → zeroIn cid 65 68 s = true → zeroFrom cid 72 s = true →
    (theCmd cid s).inLen = 0 → param cid 64 1 s ≤ 63 → param cid 68 4 s ≤ 65536 → keepOnly s.toDev = false →
    EndsWith (exec (.sessionQuotaSet cid hr) s) cid resOk (fun u => (fnOf u.toDev (param cid 64 1 s)).sessQuota = param cid 68 4 s))

/-! ## Applets (chapter 11) -/

/-- An image that passes the rules of its form and of its serial and version numbers (R311, R312), with the chain installed. -/
def imageFits (b : Bytes) (s : State) : Bool :=
  appletLayout b && s.apl.chain.isSome && decide (chainSerial (s.apl.chain.getD []) ≤ certSerial b)
    && decide (minSvn s.toDev (parseApplet b).id ≤ (parseApplet b).svn.toNat)

/-- Room for the image in every region in service and in the store, which takes writes (R314, R390). -/
def imageHasRoom (b : Bytes) (s : State) : Bool :=
  (regionsUp s.toDev).all (fun r => (placement s.toDev r (parseApplet b)).isSome)
    && decide (appletPages (parseApplet b) ≤ pagesForApplets s.toDev) && !keepOnly s.toDev

/-- The signatures of the image verify under the chain (R312). -/
abbrev signed (b : Bytes) (s : State) : Prop := imageSigned (s.apl.chain.getD []) b = true

/-- R311 to R316: an image whose signatures verify is loaded, or updates its applet; one whose signatures do not is refused;
an applet that no session uses is unloaded; the maker chain is set. -/
def Obligations.AppletImagesAreManaged : Prop :=
  (∀ (cid : Nat) (hr : HostRead) (s : State), starts 0x0801 cid hr s = true → zeroFrom cid 64 s = true → noHandles cid s = true →
    imageFits (inputOf cid hr s) s = true → imageHasRoom (inputOf cid hr s) s = true →
    currentImage s.toDev (parseApplet (inputOf cid hr s)).id = none → count s.apl.applets (fun x => !x.old) < 32 →
    appletOf s.toDev s.apl.nextInst = none →
    ((signed (inputOf cid hr s) s → EndsWith (exec (.aplLoad cid hr) s) cid (resVal s.apl.nextInst) (fun u =>
        u.apl.nextInst = s.apl.nextInst + 1 ∧ (appletOf u.toDev s.apl.nextInst).map (·.code) = some (parseApplet (inputOf cid hr s)).code))
      ∧ (¬ signed (inputOf cid hr s) s → EndsWith (exec (.aplLoad cid hr) s) cid (resErr 0x0103 0x0803) (fun u => u.apl = s.apl))))
  ∧ (∀ (cid : Nat) (hr : HostRead) (o : Applet) (s : State), starts 0x0802 cid hr s = true → zeroFrom cid 64 s = true →
    noHandles cid s = true → imageFits (inputOf cid hr s) s = true → imageHasRoom (inputOf cid hr s) s = true →
    currentImage s.toDev (parseApplet (inputOf cid hr s)).id = some o → s.apl.applets.all (fun a => !a.old && (a.id != o.id || a.inst == o.inst)) = true →
    appletOf s.toDev s.apl.nextInst = none →
    ((signed (inputOf cid hr s) s → EndsWith (exec (.aplUpdate cid hr) s) cid resOk (fun u => u.apl.nextInst = s.apl.nextInst + 1
        ∧ (currentImage u.toDev o.id).map (·.inst) = some s.apl.nextInst))
      ∧ (¬ signed (inputOf cid hr s) s → EndsWith (exec (.aplUpdate cid hr) s) cid (resErr 0x0103 0x0803) (fun u => u.apl.nextInst = s.apl.nextInst))))
  ∧ (∀ (cid : Nat) (hr : HostRead) (a : Applet) (s : State), starts 0x0801 cid hr s = true → param cid 64 1 s = 1 →
    zeroIn cid 65 68 s = true → zeroFrom cid 72 s = true → noHandles cid s = true → currentImage s.toDev (param cid 68 4 s) = some a →
    (openSess s.toDev).all (fun p => (p.2.applet.map (·.1)) != some a.id) = true → keepOnly s.toDev = false →
    EndsWith (exec (.aplUnload cid hr) s) cid resOk (fun u => u.apl.applets = s.apl.applets.filter (fun b => b.inst != a.inst)))
  ∧ (∀ (cid : Nat) (hr : HostRead) (s : State), starts 0x0170 cid hr s = true → zeroFrom cid 64 s = true → noHandles cid s = true →
    (theCmd cid s).inLen = 2696 → (inputOf cid hr s).getD 2592 0 = 4 → (slice (inputOf cid hr s) 2689 3).all (· = 0) = true →
    keepOnly s.toDev = false →
    EndsWith (exec (.makerChainSet cid hr) s) cid resOk (fun u => u.apl.chain = some (inputOf cid hr s)))

/-- The session that a command names. -/
def sessOfCmd (cid : Nat) (s : State) : Option Sess := sessNamed s.toDev (theCmd cid s).fn (theCmd cid s).session

/-- R302, R304, R313, R314: a session binds an applet and lets it go; a call makes a READY task in the session's home region;
a call is cancelled. -/
def Obligations.AppletCallsRun : Prop :=
  (∀ (cid : Nat) (hr : HostRead) (a : Applet) (x : Sess) (s : State), starts 0x0810 cid hr s = true → zeroIn cid 64 68 s = true →
    zeroFrom cid 72 s = true → noHandles cid s = true → currentImage s.toDev (param cid 68 4 s) = some a →
    appletAllows a (theCmd cid s).fn = true → (theCmd cid s).session ≠ 0 → sessOfCmd cid s = some x → x.applet = none →
    EndsWith (exec (.aplBind cid hr) s) cid resOk (fun u => sessOfCmd cid u = some { x with applet := some (a.id, a.inst) }))
  ∧ (∀ (cid : Nat) (hr : HostRead) (x : Sess) (s : State), starts 0x0811 cid hr s = true → zeroFrom cid 64 s = true →
    noHandles cid s = true → (theCmd cid s).session ≠ 0 → sessOfCmd cid s = some x → x.applet.isSome = true →
    EndsWith (exec (.aplUnbind cid hr) s) cid resOk (fun u => sessOfCmd cid u = some { x with applet := none }))
  ∧ (∀ (cid t p base id inst : Nat) (hr : HostRead) (a : Applet) (i : Inst) (x : Sess) (s : State), startsAs true 0x0812 cid hr s = true →
    zeroFrom cid 72 s = true → noHandles cid s = true → param cid 66 1 s ≤ 3 → param cid 67 1 s = 0 → param cid 68 4 s ≤ 60000 →
    (theCmd cid s).inLen ≤ 0x08000000 → (theCmd cid s).outCap ≤ 0x08000000 → (theCmd cid s).session ≠ 0 → sessOfCmd cid s = some x →
    x.applet = some (id, inst) → appletOf s.toDev inst = some a → param cid 64 2 s < a.entries.length →
    instOf s.toDev x.home a.inst = some i → freeTaskNo s.toDev x.home = some t → callPlace s.toDev x.home a = some (p, base) →
    tmbAdmits s.toDev x.home = true →
    Gives (exec (.aplCall cid hr) s) (fun u => (theCmd cid u).stage = .running ∧ (taskOf u.toDev x.home t).state = .ready
      ∧ (taskOf u.toDev x.home t).home = p ∧ (taskOf u.toDev x.home t).call = cid ∧ (taskOf u.toDev x.home t).owner = (theCmd cid s).owner
      ∧ (taskOf u.toDev x.home t).priority = 4 * (theCmd cid s).prio + param cid 66 1 s
      ∧ (taskOf u.toDev x.home t).pc = BitVec.ofNat 32 (a.entries.getD (param cid 64 2 s) 0)
      ∧ (taskOf u.toDev x.home t).ds = [] ∧ (taskOf u.toDev x.home t).rsp = a.ssLen
      ∧ (taskOf u.toDev x.home t).segs = callSegs a i base (theCmd cid s).inLen (theCmd cid s).outCap (theCmd cid s).owner))
  ∧ (∀ (cid r t : Nat) (hr : HostRead) (y : Cmd) (s : State), starts 0x0813 cid hr s = true → zeroIn cid 64 76 s = true →
    zeroFrom cid 80 s = true → noHandles cid s = true → s.hif.cmds.find? (fun x => sameSession x (theCmd cid s)
      && x.seq == BitVec.ofNat 32 (param cid 76 4 s) && x.accepted && isAccepted x && x.dupOf.isNone && seqBelow x.seq (theCmd cid s).seq) = some y →
    y.code = 0x0812 → callTaskNo s.toDev y.cid = some (r, t) → (taskOf s.toDev r t).ending = none →
    (taskOf s.toDev r t).stop = none → taskHeld s.toDev r t = false → [TaskState.ready, .running, .waiting].contains (taskOf s.toDev r t).state = true → taskQuiet s.toDev r t = true →
    EndsWith (exec (.aplCancel cid hr) s) cid resOk (fun u => (taskOf u.toDev r t).state = .cancelled ∧ (taskOf u.toDev r t).ending = some .cancel))

/-! ## Lifecycle and custodians (chapter 2) -/

/-- The lifecycle commands by their codes. -/
def lcCommand (code cid : Nat) (hr : HostRead) : Instr :=
  if code = 0x0101 then .lcProvision cid hr else if code = 0x0102 then .lcDevelop cid hr
  else if code = 0x0103 then .lcProvisionBack cid hr else if code = 0x0104 then .lcOperate cid hr
  else if code = 0x0105 then .lcQuarantine cid hr else .lcRetire cid hr

/-- LC_OPERATE needs M cards registered and the maker chain (R38). -/
def mayOperate (s : State) : Bool := decide (s.lc.m ≤ s.lc.cards.length) && !s.lc.cards.isEmpty && s.apl.chain.isSome

/-- The lifecycle command has been taken: its transition is noted, and the quorum has ended. -/
abbrev Transits (a : Ans) (cid : Nat) (old new : LcState) : Prop :=
  Gives a (fun u => (theCmd cid u).stage = .running ∧ u.lc.transition.map (fun t => (t.from_, t.to_, t.cid)) = some (old, new, cid)
    ∧ u.lc.quorum = none ∧ u.lc.counted = [] ∧ u.lc.state = old)

/-- R31, R32, R39: a lifecycle command that its state admits begins a transition, those to PROVISIONED and to RETIRED from
MANUFACTURE or from a QUARANTINE without cards with a token; the transition enters its state and asks for a warm reset, once
no other accepted command is open; QUARANTINE and RETIRED zero the RAM. -/
def Obligations.LifecycleTransitions : Prop :=
  (∀ (code cid : Nat) (hr : HostRead) (new : LcState) (s : State), 0x0102 ≤ code → code ≤ 0x0106 → starts code cid hr s = true →
    zeroFrom cid 64 s = true → (theCmd cid s).inLen = 0 → s.lc.transition = none → lcTarget s.lc.state code = some new →
    (code ≠ 0x0106 ∨ tokenRetires s.toDev = false) → (code ≠ 0x0104 ∨ mayOperate s = true) →
    Transits (exec (lcCommand code cid hr) s) cid s.lc.state new)
  ∧ (∀ (code cid : Nat) (hr : HostRead) (new : LcState) (s : State), (code = 0x0101 ∨ code = 0x0106) → starts code cid hr s = true →
    zeroFrom cid 64 s = true → (theCmd cid s).inLen = 4800 → s.lc.transition = none → lcTarget s.lc.state code = some new →
    (code = 0x0101 ∨ tokenRetires s.toDev = true) → logRoom s = true →
    ((tokenRefused s.toDev code (inputOf cid hr s) = none → (code = 0x0101 → canDraw s = true) →
        Transits (exec (lcCommand code cid hr) s) cid s.lc.state new)
      ∧ ∀ reason, reason < 6 → tokenRefused s.toDev code (inputOf cid hr s) = some reason →
          EndsWith (exec (lcCommand code cid hr) s) cid (resErr 0x0103 0x0D02) (fun u => u.lc = s.lc
            ∧ logged 0x0121 0x88 code (fieldLE (inputOf cid hr s) 4 1) reason u = true)))
  ∧ (∀ (t : Transition) (s : State), s.lc.transition = some t → t.intent = true → s.cpm.power = .ready → s.cpm.warmPending = none →
    Gives (exec .lcTransition s) (fun u => u.lc.state = t.to_ ∧ u.lc.transition = none ∧ u.lc.intent = none ∧ u.cpm.power = .closing
      ∧ (s.lc.state ≠ t.to_ → t.to_ = .quarantine ∨ t.to_ = .retired → u.mem = [])))
  ∧ (∀ (t : Transition) (s : State), s.lc.transition = some t → t.intent = false → s.hif.cmds.any (lcOpen s.toDev t.cid) = true →
    Gives (exec .lcTransition s) (fun u => u.lc = s.lc ∧ u.hif = s.hif ∧ u.ks = s.ks))

/-- R24 to R27, R36, R38: enrolment and registration begin and run out; cards are revoked, M and the lifetime set; the quorum
ends by command, by its window and by its lifetime. -/
def Obligations.CustodianCommandsComplete : Prop :=
  (∀ (cid : Nat) (hr : HostRead) (s : State), starts 0x0110 cid hr s = true → zeroFrom cid 68 s = true → (theCmd cid s).inLen = 0 →
    2 ≤ param cid 64 1 s → param cid 64 1 s ≤ 8 → param cid 64 1 s ≤ param cid 65 1 s → param cid 65 1 s ≤ 16 →
    (param cid 66 2 s = 0 ∨ (60 ≤ param cid 66 2 s ∧ param cid 66 2 s ≤ 1800)) → s.lc.cards = [] → s.lc.enrol = none →
    Gives (exec (.cusEnrol cid hr) s) (fun u => (theCmd cid u).stage = .running
      ∧ u.lc.enrol = some { cid := cid, enrol := true, m := param cid 64 1 s, n := param cid 65 1 s, base := 0, cards := [] }))
  ∧ (∀ (cid : Nat) (hr : HostRead) (s : State), starts 0x0111 cid hr s = true → zeroIn cid 65 66 s = true → zeroFrom cid 68 s = true →
    (theCmd cid s).inLen = 0 → param cid 64 1 s ≤ 15 → s.lc.cards.all (fun p => p.1 != param cid 64 1 s) = true →
    (param cid 66 2 s = 0 ∨ (60 ≤ param cid 66 2 s ∧ param cid 66 2 s ≤ 1800)) → s.lc.enrol = none →
    Gives (exec (.cusRegister cid hr) s) (fun u => (theCmd cid u).stage = .running
      ∧ u.lc.enrol = some { cid := cid, enrol := false, m := 0, n := 1, base := param cid 64 1 s, cards := [] }))
  ∧ (∀ (e : Enrol) (s : State), s.lc.enrol = some e → (theCmd e.cid s).stage = .running →
    EndsWith (exec .enrolWindowExpire s) e.cid (resErr 0x0303 0x0D03) (fun u => u.lc.enrol = none ∧ u.lc.cards = s.lc.cards))
  ∧ (∀ (cid : Nat) (hr : HostRead) (s : State), starts 0x0112 cid hr s = true → zeroFrom cid 65 s = true → (theCmd cid s).inLen = 0 →
    s.lc.cards.any (fun p => p.1 == param cid 64 1 s) = true → s.lc.m < s.lc.cards.length →
    EndsWith (exec (.cusRevoke cid hr) s) cid resOk (fun u => u.lc.cards = s.lc.cards.filter (fun p => p.1 != param cid 64 1 s)
      ∧ u.lc.m = s.lc.m ∧ u.lc.setVersion = s.lc.setVersion + 1 ∧ u.lc.quorum = none))
  ∧ (∀ (cid : Nat) (hr : HostRead) (s : State), starts 0x0113 cid hr s = true → zeroFrom cid 65 s = true → (theCmd cid s).inLen = 0 →
    2 ≤ param cid 64 1 s → param cid 64 1 s ≤ 8 → param cid 64 1 s ≤ s.lc.cards.length →
    EndsWith (exec (.cusSetM cid hr) s) cid resOk (fun u => u.lc.m = param cid 64 1 s ∧ u.lc.cards = s.lc.cards
      ∧ (param cid 64 1 s ≠ s.lc.m → u.lc.quorum = none) ∧ (param cid 64 1 s = s.lc.m → u.lc.quorum = s.lc.quorum)))
  ∧ (∀ (cid : Nat) (hr : HostRead) (s : State), starts 0x0114 cid hr s = true → zeroFrom cid 66 s = true → (theCmd cid s).inLen = 0 →
    30 ≤ param cid 64 2 s → param cid 64 2 s ≤ 900 → rwpRefused s.toDev 0 = none → s.nvm.rwpQueue.length < 64 →
    EndsWith (exec (.cusSetLife cid hr) s) cid resOk (fun u => rwpVal u.toDev 0 = BitVec.ofNat 32 (param cid 64 2 s)))
  ∧ (∀ (cid : Nat) (hr : HostRead) (s : State), starts 0x0115 cid hr s = true → zeroFrom cid 64 s = true → (theCmd cid s).inLen = 0 →
    s.lc.quorum.isSome = true → EndsWith (exec (.quorumEnd cid hr) s) cid resOk (fun u => u.lc.quorum = none))
  ∧ (∀ (s : State), s.lc.counted ≠ [] → logRoom s = true →
    Gives (exec .quorumWindowExpire s) (fun u => u.lc.counted = [] ∧ logged 0x6111 0x88 1 (bitsMask s.lc.counted) 0 u = true))
  ∧ (∀ (q : Quorum) (s : State), s.lc.quorum = some q → logRoom s = true →
    Gives (exec .quorumLifetimeExpire s) (fun u => u.lc.quorum = none ∧ logged 0x6111 0x88 2 q.mask.toNat 0 u = true))
  ∧ (∀ (cid : Nat) (hr : HostRead) (s : State), starts 0x0C01 cid hr s = true → zeroFrom cid 64 s = true → noHandles cid s = true →
    (theCmd cid s).inPtr = 0 → (theCmd cid s).inLen = 0 → 64 ≤ (theCmd cid s).outCap →
    EndsWith (exec (.ident cid hr) s) cid (resOut (identBytes s.toDev (theCmd cid s).fn)) (fun u => u.lc = s.lc
      ∧ (identBytes s.toDev (theCmd cid s).fn).length = 64
      ∧ (identBytes s.toDev (theCmd cid s).fn).getD 24 0 = BitVec.ofNat 8 (lcCode s.lc.state)
      ∧ (identBytes s.toDev (theCmd cid s).fn).getD 40 0 = BitVec.ofNat 8 (theCmd cid s).fn))

/-! ## Card slots (chapter 12) -/

def slotIn (sl : Slot) (s : State) : SlotS := slotOf s.toDev sl

/-- R324 to R326, R335, R336: insertion, debouncing, activation by class, the answer to reset, removal and deactivation. -/
def Obligations.CardsAreActivated : Prop :=
  (∀ (sl : Slot) (s : State), (slotIn sl s).detLow = false → (slotIn sl s).state = .empty →
    Gives (exec (.cardDetect sl) s) (fun u => (slotIn sl u).detLow = true ∧ (slotIn sl u).state = .debounce))
  ∧ (∀ (sl : Slot) (c : Nat) (s : State), cardsServed s.toDev = true → (slotIn sl s).state = .debounce → (slotIn sl s).detLow = true →
    classAbove (slotIn sl s) 0 (fun _ => true) = some c →
    Gives (exec (.cardDebounceEnd sl) s) (fun u => (slotIn sl u).state = .activating ∧ (slotIn sl u).cls = c
      ∧ (slotIn sl u).vccEnN = false ∧ (slotIn sl u).vccSel = c - 1 ∧ (slotIn sl u).actTb = nowTb s.toDev
      ∧ (slotIn sl u).activations = (slotIn sl s).activations + 1))
  ∧ (∀ (sl : Slot) (s : State), cardsServed s.toDev = true → (slotIn sl s).state = .debounce → (slotIn sl s).detLow = true →
    classAbove (slotIn sl s) 0 (fun _ => true) = none → logRoom s = true →
    Gives (exec (.cardDebounceEnd sl) s) (fun u => logged 0x6105 (0x58 + sl.val) sl.val 4 (slotIn sl s).cls u = true))
  ∧ (∀ (sl : Slot) (c : Nat) (s : State), (slotIn sl s).state = .atr → (slotIn sl s).vccEnN = false →
    classAbove (slotIn sl s) (slotIn sl s).cls (fun _ => true) = some c →
    Gives (exec (.cardAtrTimeout sl) s) (fun u => (slotIn sl u).state = .stopping ∧ (slotIn sl u).andThen = .again ∧ (slotIn sl u).cls = c))
  ∧ (∀ (sl : Slot) (b : List Byte) (ok : Bool) (s : State), (slotIn sl s).state = .atr → (slotIn sl s).vccEnN = false →
    (ok = false ∨ (atrParse b).isNone = true) → (slotIn sl s).badAtrs = 0 →
    Gives (exec (.atrReceived sl b ok) s) (fun u => (slotIn sl u).atr = b.take 33 ∧ (slotIn sl u).badAtrs = 1
      ∧ (slotIn sl u).state = .stopping ∧ (slotIn sl u).andThen = .again))
  ∧ (∀ (sl : Slot) (b : List Byte) (i : AtrInfo) (s : State), (slotIn sl s).state = .atr →
    (atrParse b).map (fun p => (p.info, p.protocolBad, p.classes)) = some (i, false, none) → i.specific = false → i.mbCap = none →
    (i.ta1 = none ∨ i.ta1 = some 0x11) →
    Gives (exec (.atrReceived sl b true) s) (fun u => (slotIn sl u).info = i ∧ (slotIn sl u).path = 3 ∧ (slotIn sl u).await = .ifs
      ∧ u.hif.tx = s.hif.tx ++ [.card sl.val (t1Bytes i.crc 0xC1 [254])]))
  ∧ (∀ (sl : Slot) (s : State), (slotIn sl s).detLow = true → (slotIn sl s).vccEnN = false → (slotIn sl s).state ≠ .stopping →
    Gives (exec (.cardRemoval sl) s) (fun u => (slotIn sl u).detLow = false ∧ (slotIn sl u).state = .stopping
      ∧ (slotIn sl u).authed = false ∧ (slotIn sl u).ksm = []))
  ∧ (∀ (sl : Slot) (s : State), (slotIn sl s).state = .stopping →
    Gives (exec (.cardDeactivationDone sl) s) (fun u =>
      ((slotIn sl s).enable = false → (slotIn sl u).state = .disabled ∧ (slotIn sl u).vccEnN = true)
      ∧ ((slotIn sl s).enable = true → (slotIn sl s).detLow = false → (slotIn sl u).state = .empty ∧ (slotIn sl u).vccEnN = true)
      ∧ ((slotIn sl s).enable = true → (slotIn sl s).detLow = true → (slotIn sl s).held = true → (slotIn sl u).state = .debounce)
      ∧ ((slotIn sl s).enable = true → (slotIn sl s).detLow = true → (slotIn sl s).held = false → (slotIn sl s).andThen = .again →
          (slotIn sl u).state = .activating ∧ (slotIn sl u).vccEnN = false)
      ∧ ((slotIn sl s).enable = true → (slotIn sl s).detLow = true → (slotIn sl s).held = false → (slotIn sl s).andThen = .refused →
          (slotIn sl u).state = .refused)))
  ∧ (∀ (sl : Slot) (s : State), (slotIn sl s).state = .activating → (slotIn sl s).vccEnN = true → (slotIn sl s).andThen = .againLater →
    Gives (exec (.cardReactivate sl) s) (fun u => (slotIn sl u).vccEnN = false ∧ (slotIn sl u).activations = (slotIn sl s).activations + 1))
  ∧ (∀ (sl : Slot) (s : State), (slotIn sl s).vccEnN = false → (slotIn sl s).path ≠ 0 → (slotIn sl s).info.xi ≠ 0 →
    (slotIn sl s).await = .none → (slotIn sl s).clkOn = true →
    Gives (exec (.cardClockStop sl) s) (fun u => slotIn sl u = { slotIn sl s with clkStopped := true, clkHigh := (slotIn sl s).info.xi == 2 }))
  ∧ (∀ (acc : Access) (sl : Slot) (s : State), regGoes acc (182 + sl.val) 8 s = true → (acc.world = .K ∨ acc.world = .C) →
    ((slotIn sl s).vccEnN = false → (slotIn sl s).state ≠ .stopping →
      Gives (exec (.cardDeactivate acc sl) s) (fun u => (slotIn sl u).deactivating = true ∧ (slotIn sl u).state = .stopping))
    ∧ ((slotIn sl s).enable = false → (slotIn sl s).state ≠ .stopping → (slotIn sl s).detLow = true →
      Gives (exec (.cardEnable acc sl) s) (fun u => (slotIn sl u).enable = true ∧ (slotIn sl u).state = .debounce))
    ∧ ((slotIn sl s).enable = true → (slotIn sl s).vccEnN = false → (slotIn sl s).state ≠ .stopping →
      Gives (exec (.cardDisable acc sl) s) (fun u => (slotIn sl u).enable = false ∧ (slotIn sl u).state = .stopping)))

/-- R327 to R329, R331 to R333: the speed path, and the blocks of T=1 with their repetitions and limits. -/
def Obligations.CardLinksRun : Prop :=
  (∀ (sl : Slot) (s : State), (slotIn sl s).await = .switchReply → canDraw s = true →
    Gives (exec (.switchReply sl (slotIn sl s).sent true) s) (fun u => (slotIn sl u).await = .checkEcho
      ∧ (slotIn sl u).div = ((slotIn sl s).sent.getD 2 0).toNat ∧ (slotIn sl u).etuM1 = 15
      ∧ u.hif.tx = s.hif.tx ++ [.card sl.val (slotIn sl u).sent]))
  ∧ (∀ (sl : Slot) (b : List Byte) (s : State), (slotIn sl s).await = .switchReply → b ≠ (slotIn sl s).sent → logRoom s = true →
    Gives (exec (.switchReply sl b true) s) (fun u => (slotIn sl u).mbFailed = true ∧ (slotIn sl u).fallbacks = (slotIn sl s).fallbacks + 1
      ∧ logged 0x6104 (0x58 + sl.val) sl.val 1 0 u = true))
  ∧ (∀ (sl : Slot) (s : State), (slotIn sl s).await = .checkEcho → (slotIn sl s).sent ≠ [] →
    Gives (exec (.checkEcho sl (slotIn sl s).sent true) s) (fun u => (slotIn sl u).path = 1 ∧ (slotIn sl u).await = .ifs))
  ∧ (∀ (sl : Slot) (s : State), ((slotIn sl s).await = .switchReply ∨ (slotIn sl s).await = .checkEcho) → logRoom s = true →
    Gives (exec (.switchTimeout sl) s) (fun u => (slotIn sl u).mbFailed = true ∧ logged 0x6104 (0x58 + sl.val) sl.val 2 0 u = true))
  ∧ (∀ (sl : Slot) (r : Nat × Nat) (s : State), (slotIn sl s).await = .pps → ratesOf (slotIn sl s) ((slotIn sl s).sent.getD 2 0) = some r →
    Gives (exec (.ppsResponse sl (slotIn sl s).sent) s) (fun u => (slotIn sl u).path = 2 ∧ (slotIn sl u).div = r.1 ∧ (slotIn sl u).etuM1 = r.2
      ∧ (slotIn sl u).await = .ifs))
  ∧ (∀ (sl : Slot) (b : List Byte) (s : State), (slotIn sl s).await = .pps → b ≠ (slotIn sl s).sent → ppsDeclines b = true →
    Gives (exec (.ppsResponse sl b) s) (fun u => (slotIn sl u).path = 3 ∧ (slotIn sl u).await = .ifs))
  ∧ (∀ (sl : Slot) (s : State), (slotIn sl s).await = .pps → (slotIn sl s).vccEnN = false → (slotIn sl s).state ≠ .stopping →
    Gives (exec (.ppsTimeout sl) s) (fun u => (slotIn sl u).noPps = true ∧ (slotIn sl u).state = .stopping ∧ (slotIn sl u).andThen = .again))
  ∧ (∀ (sl : Slot) (s : State), (slotIn sl s).await = .ifs → (slotIn sl s).info.crc = false →
    Gives (exec (.t1BlockReceived sl (t1Bytes false 0xE1 [254]) true) s) (fun u => (slotIn sl u).await = .select
      ∧ (slotIn sl u).blocks = (slotIn sl s).blocks + 1))
  ∧ (∀ (sl : Slot) (n : Byte) (s : State), t1Waits (slotIn sl s) = true → (slotIn sl s).info.crc = false → 1 ≤ n.toNat → n.toNat ≤ 254 →
    Gives (exec (.t1BlockReceived sl (t1Bytes false 0xC1 [n]) true) s) (fun u => (slotIn sl u).ifsc = n.toNat
      ∧ u.hif.tx = s.hif.tx ++ [.card sl.val (t1Bytes false 0xE1 [n])]))
  ∧ (∀ (sl : Slot) (s : State), isApdu (slotIn sl s).await = true → (slotIn sl s).retrans < 3 →
    Gives (exec (.t1WaitExpire sl) s) (fun u => (slotIn sl u).retrans = (slotIn sl s).retrans + 1 ∧ u.hif.tx.length = s.hif.tx.length + 1))
  ∧ (∀ (sl : Slot) (s : State), isApdu (slotIn sl s).await = true → 3 ≤ (slotIn sl s).retrans →
    Gives (exec (.t1WaitExpire sl) s) (fun u => (slotIn sl u).await = .resynch ∧ (slotIn sl u).resynchs = (slotIn sl s).resynchs + 1))
  ∧ (∀ (sl : Slot) (s : State), (slotIn sl s).await = .resynch → 3 ≤ (slotIn sl s).resynchs → logRoom s = true →
    Gives (exec (.t1WaitExpire sl) s) (fun u => (slotIn sl u).await = .none ∧ logged 0x6103 (0x58 + sl.val) sl.val 1 0 u = true))
  ∧ (∀ (sl : Slot) (s : State), t1Waits (slotIn sl s) = true → logRoom s = true →
    ((slotIn sl s).path = 1 → Gives (exec (.cardBusyLimit sl .busyLimit) s) (fun u => logged 0x6103 (0x58 + sl.val) sl.val 2 0 u = true))
    ∧ Gives (exec (.cardBusyLimit sl .wtxLimit) s) (fun u => logged 0x6103 (0x58 + sl.val) sl.val 3 0 u = true)
    ∧ ((slotIn sl s).path ≠ 1 → Gives (exec (.cardBusyLimit sl .lineLow) s) (fun u => logged 0x6103 (0x58 + sl.val) sl.val 4 0 u = true)))

/-- The transcript, and the verdict of the response to AUTH_INIT (R338): static key, ephemeral key, nonce and signature. -/
def authHash (sl : Slot) (data : Bytes) (s : State) : Bytes :=
  sha384 ((slotIn sl s).transcript ++ data.take 97 ++ slice data 97 97 ++ slice data 194 32)
def authVerified (sl : Slot) (data : Bytes) (s : State) : Bool := ecdsa384 (data.take 97) (authHash sl data s) (slice data 226 96)

/-- R24, R337 to R341: the messages of the custodian protocol lead one to the next; a registered card that proves its key
counts to the quorum; a component that fits is taken; all
this where class CRD is accepted (R30, R32). -/
def Obligations.CustodianProtocolRuns : Prop :=
  (∀ (sl : Slot) (data : List Byte) (i : Nat) (k : Bytes) (s : State),
    crdAdmitted s.toDev = true → (slotIn sl s).await = .select → s.lc.state ≠ .quarantine →
    bindIndex s.toDev sl = some i → custodianKey s.toDev = some k →
    Gives (exec (.select sl data 0x9000) s) (fun u => (slotIn sl u).await = .bindResp ∧ (slotIn sl u).regIndex = some i))
  ∧ (∀ (sl : Slot) (data : List Byte) (s : State), crdAdmitted s.toDev = true → (slotIn sl s).await = .select → s.lc.enrol = none → canDraw s = true →
    Gives (exec (.select sl data 0x9000) s) (fun u => (slotIn sl u).await = .authInit ∧ (slotIn sl u).state = .auth))
  ∧ (∀ (sl : Slot) (data : List Byte) (e : Enrol) (i : Nat) (s : State),
    crdAdmitted s.toDev = true → (slotIn sl s).await = .bindResp → data.length = 97 →
    (slotIn sl s).regIndex = some i → s.lc.enrol = some e → boundAs s.toDev data = none → registeredAs s.toDev data = none → canDraw s = true →
    Gives (exec (.bind sl data 0x9000) s) (fun u => (slotIn sl u).await = .authInit ∧ (slotIn sl u).cardKey = data
      ∧ u.lc.enrol = some { e with cards := e.cards ++ [(i, data, false)] }))
  ∧ (∀ (sl : Slot) (data : List Byte) (i : Nat) (s : State),
    crdAdmitted s.toDev = true → (slotIn sl s).await = .authInit → data.length = 322 → s.lc.enrol = none →
    registeredAs s.toDev (data.take 97) = some i → (slotIn sl s).cardKey = [] → canDraw s = true → logRoom s = true →
    ((authVerified sl data s = true → s.lc.state ≠ .quarantine → (ecDecode p384 (slice data 97 97)).isSome = true →
        (custodianKey s.toDev).isSome = true →
        Gives (exec (.authInit sl data 0x9000) s) (fun u => (slotIn sl u).await = .authFinish ∧ (slotIn sl u).regIndex = some i))
      ∧ (authVerified sl data s = true → s.lc.state = .quarantine →
        Gives (exec (.authInit sl data 0x9000) s) (fun u => logged 0x6101 (0x58 + sl.val) sl.val i (slotIn sl s).path u = true))
      ∧ (authVerified sl data s = false →
        Gives (exec (.authInit sl data 0x9000) s) (fun u => logged 0x6105 (0x58 + sl.val) sl.val 6 (slotIn sl s).cls u = true))))
  ∧ (∀ (sl : Slot) (i : Nat) (s : State),
    crdAdmitted s.toDev = true → (slotIn sl s).await = .authFinish → (slotIn sl s).regIndex = some i → s.lc.enrol = none →
    (registeredAs s.toDev (slotIn sl s).cardKey).isSome = true → s.lc.quorum = none → s.lc.counted.contains i = false → s.lc.counted.length + 1 < s.lc.m → s.crd.cer = none →
    Gives (exec (.authFinish sl (gcmEnc (slotIn sl s).ksm (gcmIv 0x02 0) (slotIn sl s).transcript []).2 0x9000) s) (fun u =>
      (slotIn sl u).authed = true ∧ u.lc.counted = s.lc.counted ++ [i] ∧ (slotIn sl u).await = .cardDone))
  ∧ (∀ (sl : Slot) (i : Nat) (s : State),
    crdAdmitted s.toDev = true → (slotIn sl s).await = .authFinish → (slotIn sl s).regIndex = some i → s.lc.enrol = none →
    (registeredAs s.toDev (slotIn sl s).cardKey).isSome = true → s.lc.quorum = none → s.lc.counted.contains i = false → s.lc.m ≤ s.lc.counted.length + 1 → s.crd.cer = none →
    Gives (exec (.authFinish sl (gcmEnc (slotIn sl s).ksm (gcmIv 0x02 0) (slotIn sl s).transcript []).2 0x9000) s) (fun u =>
      (slotIn sl u).authed = true ∧ u.lc.counted = []
        ∧ u.lc.quorum.map (·.mask) = some (BitVec.ofNat 16 (bitsMask (s.lc.counted ++ [i])))))
  ∧ (∀ (sl : Slot) (data comp : List Byte) (c : Ceremony) (s : State),
    crdAdmitted s.toDev = true → (slotIn sl s).await = .getComponent → turnOf s.toDev sl = some c →
    c.kind = 1 → c.taken + 1 < c.k → openProtected (slotIn sl s) .getComponent data = some (comp ++ keyKcv c.alg comp) →
    comp.length = c.lenBytes → (keyKcv c.alg comp).length = 3 →
    Gives (exec (.getComponent sl data 0x9000) s) (fun u => u.crd.cer.map (fun x => (x.taken, x.acc)) = some (c.taken + 1, xorB c.acc comp)
      ∧ (slotIn sl u).await = .cardDone))
  ∧ (∀ (sl : Slot) (data m : List Byte) (c : Ceremony) (s : State),
    crdAdmitted s.toDev = true → (slotIn sl s).await = .putComponent → turnOf s.toDev sl = some c →
    c.taken + 1 < c.k → openProtected (slotIn sl s) .putComponent data = some m →
    Gives (exec (.putComponent sl data 0x9000) s) (fun u => u.crd.cer.map (fun x => (x.taken, x.comps)) = some (c.taken + 1, c.comps.drop 1)
      ∧ (slotIn sl u).await = .cardDone))
  ∧ (∀ (sl : Slot) (data : List Byte) (sw : BitVec 16) (s : State),
    crdAdmitted s.toDev = true → (slotIn sl s).await = .cardDone → sw ≠ 0x9000 → s.crd.cer = none →
    Gives (exec (.cardDone sl data sw) s) (fun u => (slotIn sl u).await = .none ∧ (slotIn sl u).ctrIn = (slotIn sl s).ctrIn + 1))

/-- R340 to R344: a ceremony opens, is abandoned, or runs out. -/
def Obligations.CeremonyCommandsComplete : Prop :=
  (∀ (cid : Nat) (hr : HostRead) (s : State), starts 0x0180 cid hr s = true → zeroFrom cid 95 s = true → noHandles cid s = true →
    2 ≤ param cid 73 1 s → param cid 73 1 s ≤ 8 → (param cid 74 2 s = 0 ∨ (60 ≤ param cid 74 2 s ∧ param cid 74 2 s ≤ 1800)) →
    isSym (param cid 64 1 s) = true → (param cid 65 1 s = 1 ∨ param cid 65 1 s = 2) → param cid 66 1 s ≤ 2 → param cid 67 1 s < 2 →
    (BitVec.ofNat 16 (param cid 68 2 s)).getLsbD uCeremony = true → usageOk (param cid 64 1 s) .C (BitVec.ofNat 16 (param cid 68 2 s)) = true →
    param cid 70 2 s < 32 → 32 ≤ (theCmd cid s).outCap → s.crd.cer = none →
    Gives (exec (.cerCombine cid hr) s) (fun u => (theCmd cid u).stage = .running
      ∧ u.crd.cer.map (fun c => (c.cid, c.kind, c.k, c.taken)) = some (cid, 1, param cid 73 1 s, 0)))
  ∧ (∀ (cid : Nat) (hr : HostRead) (k : Key) (s : State), starts 0x0181 cid hr s = true → zeroIn cid 64 73 s = true → zeroFrom cid 92 s = true →
    (theCmd cid s).hb = 0 → 2 ≤ param cid 73 1 s → param cid 73 1 s ≤ 8 →
    (param cid 74 2 s = 0 ∨ (60 ≤ param cid 74 2 s ∧ param cid 74 2 s ≤ 1800)) → s.crd.cer = none →
    names cid (handA cid s) k .wrap (some uCeremony) s = true → isSym k.alg = true → k.export_ ≠ 0 →
    k.mat.length ≤ 512 →
    canDraw s = true →
    Gives (exec (.cerSplit cid hr) s) (fun u => (theCmd cid u).stage = .running
      ∧ u.crd.cer.map (fun c => (c.cid, c.kind, c.k, c.taken, c.comps.length)) = some (cid, 2, param cid 73 1 s, 0, param cid 73 1 s)))
  ∧ (∀ (cid : Nat) (hr : HostRead) (c : Ceremony) (s : State), starts 0x0182 cid hr s = true → zeroFrom cid 64 s = true →
    noHandles cid s = true → s.crd.cer = some c → c.cid ≠ cid → logRoom s = true →
    EndsWith (exec (.cerAbandon cid hr) s) cid resOk (fun u => u.crd.cer = none ∧ logged 0x6122 0x88 c.kind 0x0903 c.taken u = true))
  ∧ (∀ (c : Ceremony) (s : State), s.crd.cer = some c → (theCmd c.cid s).stage = .running → logRoom s = true →
    EndsWith (exec .ceremonyWindowExpire s) c.cid ⟨0x0303, 0x0902, 0, c.mask.setWidth 32, []⟩ (fun u => u.crd.cer = none
      ∧ logged 0x6122 0x88 c.kind 0x0902 c.taken u = true))

/-! ## Keys (chapter 5) -/

/-- A command may make a key of `len` bytes for its owner: the volatile handle key drawn, quotas, the store's admission, the pinned limit and ward slots (R94,
R95, R401). -/
def roomFor (cid life len : Nat) (pinned : Bool) (s : State) : Bool :=
  !s.ks.keyDue && dirRoom s.toDev (theCmd cid s).owner && (life != 2 || (!keepOnly s.toDev && persRoom s.toDev (theCmd cid s).owner))
    && (!pinned || decide (slotsPinned s.toDev + spanOf len ≤ 49152)) && decide (spanOf len ≤ slotsFree s.toDev)

/-- The attributes of a creating command: lifetime, usage, exportability, flags and destinations (R84, R88). -/
def attrsGood (cid alg : Nat) (s : State) : Bool :=
  decide (param cid 65 1 s ≤ 2) && (param cid 65 1 s != 2 || isHost (theCmd cid s)) && algKnown alg
    && usageOk alg (theCmd cid s).owner.world (BitVec.ofNat 16 (param cid 68 2 s)) && decide (param cid 66 1 s ≤ 2)
    && decide (param cid 67 1 s < 2) && decide (param cid 70 2 s < 32)

/-- The newest entry of the directory: owner, algorithm, lifetime, usage, exportability, pinned, destinations and material. -/
def newest (u : State) : Option (Owner × Nat × Nat × Nat × Nat × Bool × Nat × Bytes) :=
  u.ks.keys.getLast?.map (fun k => (k.owner, k.alg, k.life, k.usage.toNat, k.export_, k.pinned, k.dest.toNat, k.mat))

/-- The command has ended with the record of the newest entry (R88, R89). -/
def gaveRecord (cid : Nat) (u : State) : Bool :=
  match u.ks.keys.getLast? with
  | some k => (theCmd cid u).stage == .done (resOut (keyRecord u.toDev k))
  | none => false

def keyIn (entry : Nat) (s : State) : Option Key := keyAt s.toDev entry

/-- R86, R88 to R94: keys are generated, imported, exported, deleted, described, restricted and made persistent. -/
def Obligations.KeyCommandsComplete : Prop :=
  (∀ (cid : Nat) (hr : HostRead) (s : State), starts 0x0201 cid hr s = true → (theCmd cid s).scratch = [] → zeroIn cid 73 80 s = true →
    zeroFrom cid 80 s = true → noHandles cid s = true → isSym (param cid 64 1 s) = true → attrsGood cid (param cid 64 1 s) s = true →
    32 ≤ (theCmd cid s).outCap →
    roomFor cid (param cid 65 1 s) ((algLen (param cid 64 1 s)).getD 0) (param cid 67 1 s == 1) s = true → canDraw s = true →
    Gives (exec (.keyGenerate cid hr) s) (fun u => gaveRecord cid u = true ∧ u.ks.keys.length = s.ks.keys.length + 1
      ∧ (newest u).map (fun n => (n.1, n.2.1, n.2.2.1, n.2.2.2.1)) = some ((theCmd cid s).owner, param cid 64 1 s, param cid 65 1 s, param cid 68 2 s)
      ∧ u.ks.keys.getLast?.map (fun k => (k.lenBytes, k.ancGenerated, k.ancImported)) = some ((algLen (param cid 64 1 s)).getD 0, true, false)))
  ∧ (∀ (cid : Nat) (hr : HostRead) (k : Key) (h : KbHeader) (key : Bytes) (a x : Nat) (us : BitVec 16) (s : State),
    starts 0x0202 cid hr s = true → param cid 64 1 s = 0 → param cid 66 1 s = 0 → zeroIn cid 68 70 s = true → zeroFrom cid 73 s = true →
    param cid 67 1 s < 2 → param cid 70 2 s < 32 → (theCmd cid s).hb = 0 → param cid 65 1 s ≤ 2 →
    (param cid 65 1 s ≠ 2 ∨ isHost (theCmd cid s) = true) → 32 ≤ (theCmd cid s).outCap →
    names cid (handA cid s) k .wrap (some uKekUnwrap) s = true → isSym k.alg = true → kbParse (inputOf cid hr s) = some h →
    ((h.version = chr 'D' ∧ isAes k.alg = true) ∨ (h.version = chr 'B' ∧ isTdes k.alg = true)) →
    kbUnwrap k.mat h (inputOf cid hr s) = some key → kbUsage h.usage h.mode = some us → kbExport h.exp_ = some x →
    kbAlgCode h.alg key.length = some a → usageOk a (theCmd cid s).owner.world us = true →
    roomFor cid (param cid 65 1 s) key.length (param cid 67 1 s == 1) s = true →
    Gives (exec (.keyImportX9143 cid hr) s) (fun u => gaveRecord cid u = true
      ∧ newest u = some ((theCmd cid s).owner, a, param cid 65 1 s, us.toNat, x, param cid 67 1 s == 1, param cid 70 2 s, key)))
  ∧ (∀ (cid : Nat) (hr : HostRead) (k : Key) (m : Bytes) (s : State), starts 0x0203 cid hr s = true → zeroFrom cid 74 s = true →
    (theCmd cid s).hb = 0 → attrsGood cid (param cid 64 1 s) s = true → 32 ≤ (theCmd cid s).outCap →
    names cid (handA cid s) k .wrap (some uKekUnwrap) s = true → isAes k.alg = true →
    ((param cid 73 1 s = 2 ∧ kwUnwrap k.mat (inputOf cid hr s) = some m) ∨ (param cid 73 1 s = 3 ∧ kwpUnwrap k.mat (inputOf cid hr s) = some m)) →
    param cid 68 2 s &&& 0x6000 = 0 → algLenOk (param cid 64 1 s) m.length = true → roomFor cid (param cid 65 1 s) m.length (param cid 67 1 s == 1) s = true →
    Gives (exec (.keyImport38f cid hr) s) (fun u => gaveRecord cid u = true ∧ newest u = some ((theCmd cid s).owner, param cid 64 1 s,
      param cid 65 1 s, param cid 68 2 s, param cid 66 1 s, param cid 67 1 s == 1, param cid 70 2 s, m)))
  ∧ (∀ (cid : Nat) (hr : HostRead) (k kek : Key) (s : State), starts 0x0204 cid hr s = true → zeroIn cid 64 73 s = true →
    zeroFrom cid 74 s = true → param cid 73 1 s = 2 → names cid (handA cid s) k .wrap none s = true →
    names cid (handB cid s) kek .wrap (some uKekWrap) (onDev (keyTouch k.entry) s) = true → isAes kek.alg = true → k.export_ = 2 →
    algStrength k.alg k.lenBytes ≤ algStrength kek.alg kek.lenBytes → k.lenBytes % 8 = 0 → 16 ≤ k.lenBytes →
    (kwWrap kek.mat k.mat).length ≤ (theCmd cid s).outCap →
    EndsWith (exec (.keyExport cid hr) s) cid (resOut (kwWrap kek.mat k.mat)) (fun u => u.ks.wraps = s.ks.wraps + 1))
  ∧ (∀ (cid : Nat) (hr : HostRead) (k : Key) (s : State), starts 0x0205 cid hr s = true → zeroFrom cid 64 s = true → (theCmd cid s).hb = 0 →
    keyLookup s.toDev (theCmd cid s).owner (theCmd cid s).session (handA cid s) = some k → (k.life = 2 → keepOnly s.toDev = false) →
    (theCmd cid s).waitOn = [] → s.ks.asks = [] → spillOpen s.toDev k = false → dukptOpen s.toDev k = false →
    EndsWith (exec (.keyDelete cid hr) s) cid resOk (fun u => u.ks.keys = s.ks.keys.filter (fun x => x.entry != k.entry)))
  ∧ (∀ (cid : Nat) (hr : HostRead) (k : Key) (s : State), starts 0x0206 cid hr s = true → zeroFrom cid 64 s = true → (theCmd cid s).hb = 0 →
    32 ≤ (theCmd cid s).outCap → keyLookup s.toDev (theCmd cid s).owner (theCmd cid s).session (handA cid s) = some k →
    EndsWith (exec (.keyInfo cid hr) s) cid (resOut (keyRecord s.toDev k)) (fun u => u.ks = s.ks))
  ∧ (∀ (cid : Nat) (hr : HostRead) (k : Key) (s : State), starts 0x0207 cid hr s = true → zeroIn cid 64 66 s = true → zeroFrom cid 72 s = true →
    (theCmd cid s).hb = 0 → param cid 67 1 s < 2 → param cid 70 2 s < 32 →
    keyLookup s.toDev (theCmd cid s).owner (theCmd cid s).session (handA cid s) = some k → keyIn k.entry s = some k → k.lost = false → k.life ≠ 2 →
    subMask (BitVec.ofNat 16 (param cid 68 2 s)) k.usage = true → subMask (BitVec.ofNat 16 (param cid 70 2 s)) k.dest = true →
    param cid 66 1 s ≤ k.export_ → (k.pinned = true ∨ param cid 67 1 s = 0 ∨ slotsPinned s.toDev + keySpan k ≤ 49152) →
    EndsWith (exec (.keyRestrict cid hr) s) cid resOk (fun u => keyIn k.entry u = some { k with
      usage := BitVec.ofNat 16 (param cid 68 2 s), dest := BitVec.ofNat 16 (param cid 70 2 s), export_ := param cid 66 1 s
      pinned := param cid 67 1 s == 1 }))
  ∧ (∀ (cid : Nat) (hr : HostRead) (k : Key) (s : State), starts 0x0208 cid hr s = true → zeroIn cid 64 70 s = true → zeroFrom cid 73 s = true →
    (theCmd cid s).hb = 0 → param cid 70 2 s < 32 → isHost (theCmd cid s) = true → 32 ≤ (theCmd cid s).outCap →
    keyLookup s.toDev (theCmd cid s).owner (theCmd cid s).session (handA cid s) = some k → k.lost = false → k.resident = true →
    roomFor cid 2 k.lenBytes k.pinned s = true → spanOf k.lenBytes = keySpan k →
    Gives (exec (.keyPersist cid hr) s) (fun u => gaveRecord cid u = true ∧ newest u = some ((theCmd cid s).owner, k.alg, 2, k.usage.toNat,
      k.export_, k.pinned, param cid 70 2 s, k.mat)))
  ∧ (∀ (cid : Nat) (hr : HostRead) (s : State), starts 0x0130 cid hr s = true → zeroFrom cid 71 s = true → param cid 70 1 s ≤ 63 →
    param cid 64 4 s ≤ 65536 → param cid 68 2 s ≤ 4096 → keepOnly s.toDev = false →
    EndsWith (exec (.keyQuotaSet cid hr) s) cid resOk (fun u => u.ks.dirQuota.lookup (param cid 70 1 s) = some (param cid 64 4 s)
      ∧ u.ks.persQuota.lookup (param cid 70 1 s) = some (param cid 68 2 s)))
  ∧ (∀ (q : KeyReq) (k : Key) (s : State), keyLookup s.toDev ⟨q.world, q.tenant⟩ q.session q.handle.toNat = some k → k.lost = false →
    k.resident = true → k.dest.getLsbD (destBit q.kind) = true → (q.use.all (fun b => k.usage.getLsbD b)) = true →
    (q.suits.all (fun l => l.contains (k.alg, k.lenBytes))) = true →
    Gives (exec (.keyFetch q) s) (fun u => u.ks.fetches = s.ks.fetches + 1 ∧ u.evr = s.evr ∧ u.mem = s.mem))
  ∧ (∀ (q : KeyReq) (s : State), keyLookup s.toDev ⟨q.world, q.tenant⟩ q.session q.handle.toNat = none → logRoom s = true →
    Gives (exec (.keyFetch q) s) (fun u => u.ks = { s.ks with asks := s.ks.asks.filter (· != q) } ∧ logged 0x2310 0x80 q.fn (hIndex q.handle.toNat) 1 u = true))
  ∧ (∀ (cid : Nat) (s : State), (theCmd cid s).waitOn.contains waitP63 = true → isDone (theCmd cid s) = false →
    EndsWith (exec (.spillWaitTimeout cid) s) cid (resErr stRetry 0x0013) (fun u => u.ks = s.ks))
  ∧ (∀ (k : Key) (b m : Bytes) (s : State), keyIn k.entry s = some k → k.spilled = true → spillMaterial s.toDev k b = some m → s.ks.asks = [] →
    keySpan k ≤ slotsFree s.toDev →
    Gives (exec (.keyRefill k.entry (.payload b)) s) (fun u =>
      keyIn k.entry u = some { k with resident := true, spilled := false, inBuffer := false, mat := m }))
  ∧ (∀ (k : Key) (s : State), keyIn k.entry s = some k → k.spilled = true → s.ks.asks = [] → logRoom s = true →
    Gives (exec (.keyRefill k.entry .integrity) s) (fun u => (keyIn k.entry u).map (fun x => (x.lost, x.mat)) = some (true, [])
      ∧ logged 0x3320 0x80 (ownerByte k.owner) k.index 0x0201 u = true))
  ∧ (∀ (k : Key) (s : State), keyIn k.entry s = some k → k.life = 2 → k.resident = false → k.lost = false → s.bat.keyErased = false →
    recLost s.toDev (keyRecId k) = false → s.ks.asks = [] → keySpan k ≤ slotsFree s.toDev →
    Gives (exec (.persistentKeyLoad k.entry true) s) (fun u =>
      keyIn k.entry u = some { k with resident := true, spilled := false, inBuffer := false, mat := k.stored }))
  ∧ (∀ (k : Key) (s : State), keyIn k.entry s = some k → k.life = 2 → k.resident = false → k.lost = false → s.ks.asks = [] → logRoom s = true →
    Gives (exec (.persistentKeyLoad k.entry false) s) (fun u => (keyIn k.entry u).map (·.lost) = some true
      ∧ logged 0x3321 0x80 (ownerByte k.owner) k.index (keyRecId k) u = true))

/-! ## Bolt pipelines (chapter 6) -/

/-- The command heads its queue of a bolt pipeline that works, and the context of its level is empty (R102, R103). -/
def headsBolt (cid : Nat) (r : Region) (lvl : Nat) (s : State) : Bool :=
  (theCmd cid s).loc == .boltQ r lvl && boltUp s.toDev r && (boltContext s.toDev r lvl).isNone
    && ((boltQueue s.toDev r lvl).head?.map (·.cid)) == some cid

/-- The command stands in its context with `n` steps to go and its outcome formed. -/
def inBolt (cid : Nat) (r : Region) (lvl n : Nat) (res : Res) (u : State) : Bool :=
  (theCmd cid u).stage == .running && (theCmd cid u).ready == some res && (theCmd cid u).loc == .boltCtx r lvl n

/-- The command's second handle names `kb` once the key `ka` has been fetched. -/
def namesNext (cid : Nat) (ka kb : Key) (kind : EngineKind) (use_ : Option Nat) (s : State) : Bool :=
  names cid (handB cid s) kb kind use_ (onDev (keyTouch ka.entry) s)

/-- The command's PAN is `pan`; where none is wanted its fields are zero (R108). -/
def panIs (cid : Nat) (wanted : Bool) (pan : List Nat) (s : State) : Bool :=
  if wanted then panOf (param cid 66 1 s) (parB (theCmd cid s) 68 10) == some pan
  else pan == [] && param cid 66 1 s == 0 && zeroIn cid 68 78 s

/-- The PIN block at an entry offset, with zeros behind a block of 8 bytes (R109). -/
def blockAt (cid o : Nat) (s : State) : Bytes := parB (theCmd cid s) o 16
def blockGood (cid f o : Nat) (s : State) : Bool := decide (f ≤ 3) && (f == 3 || zeroIn cid (o + 8) (o + 16) s)

/-- The offset digits of PIN_DERIVE and PIN_CHECK (R109). -/
def offsetIs (cid : Nat) (off : List Nat) (s : State) : Bool :=
  let n := param cid 67 1 s
  decide (4 ≤ n) && decide (n ≤ 12) && bcdDigits (parB (theCmd cid s) 96 6) n == some off && zeroIn cid 102 128 s

/-- The random bytes that building a block of format `f` draws in region `r` (R107). -/
def fillOf (r : Region) (f : Nat) (s : State) : Option Bytes := if fillNeed f = 0 then some [] else (draw r (fillNeed f) s.toDev).1

/-- The pipeline's policy admits the translation (R112 to R114). -/
def policyAdmits (r : Region) (sf df : Nat) (a b : Nat) (s : State) : Bool :=
  ((polTable (regionOf s.toDev r).bolt).getD (polIndex sf df (keyClass a) (keyClass b)) 0).getLsbD 0

/-- The DUKPT fields of a command: kind, working key, initial key identifier and counter (R117). -/
def dukptIs (cid kind wk : Nat) (ikid : Bytes) (ctr : Nat) (s : State) : Bool :=
  param cid 125 1 s == kind && param cid 124 1 s == wk && ctr != 0 && zeroIn cid 126 128 s
    && (let ksn := parB (theCmd cid s) 112 12
        (kind == 0 && decide (1 ≤ wk) && decide (wk ≤ 5) && ikid == ksn.take 8 && ctr == beNat (ksn.drop 8) && decide (popcount ctr ≤ 16))
          || (kind == 1 && wk == 0 && zeroIn cid 122 124 s && ctr == beNat (ksn.take 10) % 2 ^ 21
              && ikid == natBE (beNat (ksn.take 10) - ctr) 10 && decide (popcount ctr ≤ 10)))

/-- The base key of a DUKPT command: AES for kind 0 and no weaker in length than the working key, two-key TDES for kind 1. -/
def baseGood (kind wk : Nat) (k : Key) : Bool := if kind = 0 then isAes k.alg && decide (wkLen wk ≤ k.lenBytes) else k.alg == 8

/-- The working key from the base key, the chain's intermediate key at the counter's upper bits, and its steps, with nothing
cached (R116, R118). -/
def midKey (kind : Nat) (base ikid : Bytes) (ctr : Nat) : Bytes := dkWalk kind ikid (setBits 8 32 ctr) 0 (dkInitial kind base ikid)
def workKey (kind wk : Nat) (p : DkPurpose) (base ikid : Bytes) (ctr : Nat) : Bytes :=
  dkWorking kind wk p ikid ctr (dkWalk kind ikid (setBits 0 8 ctr) (ctr - ctr % 256) (midKey kind base ikid ctr))
def coldSteps (ctr : Nat) : Nat := (popcount ctr + 10) / 9

/-- The form of a MAC command: code, lengths, zero fields (R120, R121). -/
def macGood (cid : Nat) (verify : Bool) (alg : Nat) (s : State) : Bool :=
  decide (param cid 64 1 s ≤ 4) && decide ((theCmd cid s).inLen ≤ 65536) && decide (4 ≤ param cid 65 1 s)
    && decide (param cid 65 1 s ≤ (if isAes alg then 16 else 8)) && zeroIn cid 67 68 s && zeroIn cid 84 112 s && handB cid s == 0
    && (if verify then zeroIn cid (68 + param cid 65 1 s) 84 s else zeroIn cid 68 84 s && decide (param cid 65 1 s ≤ (theCmd cid s).outCap))
    && macAlgOk (param cid 64 1 s) alg

/-- The message authentication code that a MAC command asks for, and a verification's outcome. -/
def macOf (cid : Nat) (alg : Nat) (key msg : Bytes) (s : State) : Bytes := (macCompute (param cid 64 1 s) alg key msg).take (param cid 65 1 s)
def verdict (cid : Nat) (mac : Bytes) (s : State) : Res :=
  if mac = parB (theCmd cid s) 68 (param cid 65 1 s) then resOk else resErr 0x0304 0

/-- The key block in the input opens under `k` to `key` of algorithm `a` (R124). -/
def opensTo (cid : Nat) (hr : HostRead) (k : Key) (h : KbHeader) (key : Bytes) (a : Nat) (s : State) : Bool :=
  kbParse (inputOf cid hr s) == some h && (if h.version == chr 'D' then isAes k.alg else h.version == chr 'B' && isTdes k.alg)
    && kbUnwrap k.mat h (inputOf cid hr s) == some key && kbAlgCode h.alg key.length == some a

/-- R105 to R111: PIN commands, where every check passes: the outcome stands ready in the context. -/
def Obligations.PinCommandsComplete : Prop :=
  (∀ (cid : Nat) (hr : HostRead) (r : Region) (lvl : Nat) (ka kb : Key) (pan pin : List Nat) (rnd : Bytes) (s : State),
    starts 0x0301 cid hr s = true → headsBolt cid r lvl s = true → param cid 65 1 s ≤ 3 → zeroIn cid 67 68 s = true → zeroIn cid 78 80 s = true →
    zeroFrom cid 96 s = true → panIs cid (usesPan (param cid 64 1 s) || usesPan (param cid 65 1 s)) pan s = true →
    blockGood cid (param cid 64 1 s) 80 s = true → fmtBlock (param cid 65 1 s) ≤ (theCmd cid s).outCap →
    names cid (handA cid s) ka .bolt (some uPinDec) s = true → fmtAlgOk (param cid 64 1 s) ka.alg = true →
    namesNext cid ka kb .bolt (some uPinEnc) s = true → fmtAlgOk (param cid 65 1 s) kb.alg = true →
    policyAdmits r (param cid 64 1 s) (param cid 65 1 s) ka.alg kb.alg s = true →
    pinDecipher (param cid 64 1 s) ka.mat pan (blockAt cid 80 s) = some pin → fillOf r (param cid 65 1 s) s = some rnd →
    Gives (exec (.pinXlate cid hr) s) (fun u =>
      inBolt cid r lvl 1 (resOut (pinEncipher (param cid 65 1 s) kb.mat pan pin rnd)) u = true))
  ∧ (∀ (cid : Nat) (hr : HostRead) (r : Region) (lvl : Nat) (ka kb : Key) (pan p1 p2 : List Nat) (s : State),
    starts 0x0302 cid hr s = true → headsBolt cid r lvl s = true → zeroIn cid 67 68 s = true → zeroIn cid 78 80 s = true →
    zeroFrom cid 112 s = true → panIs cid (usesPan (param cid 64 1 s) || usesPan (param cid 65 1 s)) pan s = true →
    blockGood cid (param cid 64 1 s) 80 s = true → blockGood cid (param cid 65 1 s) 96 s = true →
    names cid (handA cid s) ka .bolt (some uPinDec) s = true → fmtAlgOk (param cid 64 1 s) ka.alg = true →
    namesNext cid ka kb .bolt (some uPinVerify) s = true → fmtAlgOk (param cid 65 1 s) kb.alg = true →
    pinDecipher (param cid 64 1 s) ka.mat pan (blockAt cid 80 s) = some p1 →
    pinDecipher (param cid 65 1 s) kb.mat pan (blockAt cid 96 s) = some p2 →
    Gives (exec (.pinCompare cid hr) s) (fun u => inBolt cid r lvl 1 (if p1 = p2 then resOk else resErr 0x0304 0) u = true))
  ∧ (∀ (cid : Nat) (hr : HostRead) (r : Region) (lvl : Nat) (ka kb : Key) (pan off : List Nat) (rnd : Bytes) (s : State),
    starts 0x0303 cid hr s = true → headsBolt cid r lvl s = true → param cid 65 1 s ≤ 3 → zeroIn cid 64 65 s = true → zeroIn cid 78 96 s = true →
    zeroFrom cid 112 s = true → panIs cid true pan s = true → offsetIs cid off s = true → fmtBlock (param cid 65 1 s) ≤ (theCmd cid s).outCap →
    names cid (handA cid s) ka .bolt (some uPinVerify) s = true → isAes ka.alg = true →
    namesNext cid ka kb .bolt (some uPinEnc) s = true → fmtAlgOk (param cid 65 1 s) kb.alg = true → fillOf r (param cid 65 1 s) s = some rnd →
    Gives (exec (.pinDerive cid hr) s) (fun u =>
      inBolt cid r lvl 2 (resOut (pinEncipher (param cid 65 1 s) kb.mat pan (pinDerive ka.mat pan off) rnd)) u = true))
  ∧ (∀ (cid : Nat) (hr : HostRead) (r : Region) (lvl : Nat) (ka kb : Key) (pan off pin : List Nat) (s : State),
    starts 0x0304 cid hr s = true → headsBolt cid r lvl s = true → zeroIn cid 65 66 s = true → zeroIn cid 78 80 s = true →
    zeroFrom cid 112 s = true → panIs cid true pan s = true → offsetIs cid off s = true → blockGood cid (param cid 64 1 s) 80 s = true →
    names cid (handA cid s) ka .bolt (some uPinDec) s = true → fmtAlgOk (param cid 64 1 s) ka.alg = true →
    namesNext cid ka kb .bolt (some uPinVerify) s = true → isAes kb.alg = true →
    pinDecipher (param cid 64 1 s) ka.mat pan (blockAt cid 80 s) = some pin →
    Gives (exec (.pinCheck cid hr) s) (fun u =>
      inBolt cid r lvl 2 (if pin = pinDerive kb.mat pan off then resOk else resErr 0x0304 0) u = true))
  ∧ (∀ (cid : Nat) (hr : HostRead) (r : Region) (lvl kind wk ctr : Nat) (ikid : Bytes) (ka kb : Key) (pan pin : List Nat) (rnd : Bytes) (s : State),
    starts 0x0310 cid hr s = true → headsBolt cid r lvl s = true → param cid 65 1 s ≤ 3 → zeroIn cid 67 68 s = true → zeroIn cid 78 80 s = true →
    zeroIn cid 96 112 s = true → panIs cid (usesPan (param cid 64 1 s) || usesPan (param cid 65 1 s)) pan s = true →
    blockGood cid (param cid 64 1 s) 80 s = true → fmtBlock (param cid 65 1 s) ≤ (theCmd cid s).outCap →
    dukptIs cid kind wk ikid ctr s = true → (regionOf s.toDev r).bolt.dk = [] →
    names cid (handA cid s) ka .bolt (some uDerive) s = true → baseGood kind wk ka = true →
    fmtAlgOk (param cid 64 1 s) (wkAlg kind wk) = true →
    namesNext cid ka kb .bolt (some uPinEnc) s = true → fmtAlgOk (param cid 65 1 s) kb.alg = true →
    policyAdmits r (param cid 64 1 s) (param cid 65 1 s) (wkAlg kind wk) kb.alg s = true →
    pinDecipher (param cid 64 1 s) (workKey kind wk .pin ka.mat ikid ctr) pan (blockAt cid 80 s) = some pin →
    fillOf r (param cid 65 1 s) s = some rnd →
    Gives (exec (.dukptPinXlate cid hr) s) (fun u =>
      inBolt cid r lvl (coldSteps ctr + 1) (resOut (pinEncipher (param cid 65 1 s) kb.mat pan pin rnd)) u = true))

/-- R102, R103, R114, R116 to R125: the other commands of the bolt pipelines, their steps and queues, and the policy table. -/
def Obligations.BoltCommandsComplete : Prop :=
  (∀ (cid : Nat) (hr : HostRead) (r : Region) (lvl : Nat) (k : Key) (s : State),
    headsBolt cid r lvl s = true → param cid 66 1 s = 0 → zeroFrom cid 112 s = true →
    (starts 0x0320 cid hr s = true → macGood cid false k.alg s = true → names cid (handA cid s) k .bolt (some uMacGen) s = true →
      Gives (exec (.macGen cid hr) s) (fun u =>
        inBolt cid r lvl (macSteps (theCmd cid s).inLen) (resOut (macOf cid k.alg k.mat (inputOf cid hr s) s)) u = true))
    ∧ (starts 0x0321 cid hr s = true → macGood cid true k.alg s = true → names cid (handA cid s) k .bolt (some uMacVer) s = true →
      Gives (exec (.macVer cid hr) s) (fun u =>
        inBolt cid r lvl (macSteps (theCmd cid s).inLen) (verdict cid (macOf cid k.alg k.mat (inputOf cid hr s) s) s) u = true)))
  ∧ (∀ (cid : Nat) (hr : HostRead) (r : Region) (lvl kind wk ctr : Nat) (ikid : Bytes) (k : Key) (s : State),
    headsBolt cid r lvl s = true → param cid 66 1 s ≤ 1 → dukptIs cid kind wk ikid ctr s = true → (regionOf s.toDev r).bolt.dk = [] →
    names cid (handA cid s) k .bolt (some uDerive) s = true → baseGood kind wk k = true →
    (starts 0x0311 cid hr s = true → macGood cid false (wkAlg kind wk) s = true →
      Gives (exec (.dukptMacGen cid hr) s) (fun u => inBolt cid r lvl (coldSteps ctr + macSteps (theCmd cid s).inLen)
        (resOut (macOf cid (wkAlg kind wk) (workKey kind wk (if param cid 66 1 s = 0 then .macReq else .macResp) k.mat ikid ctr) (inputOf cid hr s) s)) u = true))
    ∧ (starts 0x0312 cid hr s = true → macGood cid true (wkAlg kind wk) s = true →
      Gives (exec (.dukptMacVer cid hr) s) (fun u => inBolt cid r lvl (coldSteps ctr + macSteps (theCmd cid s).inLen)
        (verdict cid (macOf cid (wkAlg kind wk) (workKey kind wk (if param cid 66 1 s = 0 then .macReq else .macResp) k.mat ikid ctr) (inputOf cid hr s) s) s) u = true)))
  ∧ (∀ (cid : Nat) (hr : HostRead) (r : Region) (lvl kind wk ctr : Nat) (ikid : Bytes) (k : Key) (e : DkEntry) (s : State),
    headsBolt cid r lvl s = true → param cid 66 1 s ≤ 1 → dukptIs cid kind wk ikid ctr s = true →
    names cid (handA cid s) k .bolt (some uDerive) s = true → baseGood kind wk k = true →
    dkFind (regionOf s.toDev r).bolt k kind ikid (ctr - ctr % 256) = some e →
    starts 0x0311 cid hr s = true → macGood cid false (wkAlg kind wk) s = true →
    Gives (exec (.dukptMacGen cid hr) s) (fun u => inBolt cid r lvl (1 + macSteps (theCmd cid s).inLen)
        (resOut (macOf cid (wkAlg kind wk) (dkWorking kind wk (if param cid 66 1 s = 0 then .macReq else .macResp) ikid ctr
          (dkWalk kind ikid (setBits 0 8 ctr) (ctr - ctr % 256) e.key)) (inputOf cid hr s) s)) u = true ∧ u.ks.fetches = s.ks.fetches))
  ∧ (∀ (cid : Nat) (hr : HostRead) (r : Region) (lvl method : Nat) (k : Key) (pan : List Nat) (sk : Bytes) (s : State),
    starts 0x0330 cid hr s = true → headsBolt cid r lvl s = true → param cid 64 1 s = 1 + 2 * method → (method = 1 ∨ method = 2) →
    zeroIn cid 77 78 s = true → zeroIn cid 95 96 s = true → zeroFrom cid 104 s = true → handB cid s = 0 → 1 ≤ (theCmd cid s).inLen →
    (theCmd cid s).inLen ≤ 256 → panOf (param cid 65 1 s) (parB (theCmd cid s) 66 10) = some pan →
    (nibbles (parB (theCmd cid s) 76 1)).all (· ≤ 9) = true → param cid 94 1 s ≤ 8 → zeroIn cid (96 + param cid 94 1 s) 104 s = true →
    8 ≤ (theCmd cid s).outCap → names cid (handA cid s) k .bolt (some uEmvMk) s = true → (isAes k.alg = true ∨ k.alg = 8) →
    sk = emvSession k.alg (emvMaster k.alg k.mat pan (nibbles (parB (theCmd cid s) 76 1))) (parB (theCmd cid s) 78 2) →
    Gives (exec (.emvAcVerify cid hr) s) (fun u => inBolt cid r lvl (1 + macSteps (theCmd cid s).inLen)
      (if emvMac k.alg sk (inputOf cid hr s) = parB (theCmd cid s) 80 8 then resOut (emvArpc k.alg method sk (parB (theCmd cid s) 80 8)
          (parB (theCmd cid s) 88 2) (parB (theCmd cid s) 90 4) (parB (theCmd cid s) 96 (param cid 94 1 s)))
        else resErr 0x0304 0) u = true))
  ∧ (∀ (cid : Nat) (hr : HostRead) (r : Region) (lvl a : Nat) (ka kb : Key) (h : KbHeader) (key pad : Bytes) (s : State),
    starts 0x0340 cid hr s = true → headsBolt cid r lvl s = true → zeroFrom cid 64 s = true → 16 ≤ (theCmd cid s).inLen →
    (theCmd cid s).inLen ≤ 1024 → names cid (handA cid s) ka .bolt (some uKekUnwrap) s = true → isSym ka.alg = true →
    namesNext cid ka kb .bolt (some uKekWrap) s = true → isSym kb.alg = true → opensTo cid hr ka h key a s = true → h.exp_ ≠ chr 'N' →
    algStrength a key.length ≤ algStrength kb.alg kb.lenBytes → kbLen h key.length ≤ (theCmd cid s).outCap → isAes kb.alg = isAes ka.alg →
    (draw r (kbPadLen h.version key.length) s.toDev).1 = some pad →
    Gives (exec (.keyblockXlate cid hr) s) (fun u => inBolt cid r lvl (if (theCmd cid s).inLen ≤ 256 then 2 else 3) (resOut (kbWrap kb.mat h key pad)) u = true))
  ∧ (∀ (cid : Nat) (hr : HostRead) (r : Region) (lvl : Nat) (k : Key) (s : State), starts 0x0341 cid hr s = true → headsBolt cid r lvl s = true →
    2 ≤ param cid 65 1 s → param cid 65 1 s ≤ 8 → param cid 66 1 s ≤ 1 → zeroFrom cid 67 s = true → handB cid s = 0 →
    param cid 65 1 s ≤ (theCmd cid s).outCap → isSym k.alg = true →
    param cid 64 1 s = 0 → names cid (handA cid s) k .bolt none s = true →
    Gives (exec (.keyCheck cid hr) s) (fun u => inBolt cid r lvl 1 (resOut ((kcvBytes (param cid 66 1 s) k.alg k.mat).take (param cid 65 1 s))) u = true))
  ∧ (∀ (cid : Nat) (hr : HostRead) (r : Region) (lvl a : Nat) (k : Key) (h : KbHeader) (key : Bytes) (s : State),
    starts 0x0341 cid hr s = true → headsBolt cid r lvl s = true → 2 ≤ param cid 65 1 s → param cid 65 1 s ≤ 8 → param cid 66 1 s ≤ 1 →
    zeroFrom cid 67 s = true → handB cid s = 0 → param cid 65 1 s ≤ (theCmd cid s).outCap → isSym k.alg = true → param cid 64 1 s = 1 →
    16 ≤ (theCmd cid s).inLen → (theCmd cid s).inLen ≤ 256 → names cid (handA cid s) k .bolt (some uKekUnwrap) s = true →
    opensTo cid hr k h key a s = true → isSym a = true →
    Gives (exec (.keyCheck cid hr) s) (fun u => inBolt cid r lvl 1 (resOut ((kcvBytes (param cid 66 1 s) a key).take (param cid 65 1 s))) u = true))
  ∧ (∀ (r : Region) (l n : Nat) (c : Cmd) (res : Res) (s : State), boltRunning s.toDev r = some l → boltContext s.toDev r l = some (c, n) →
    c.ready = some res → cmdOf? s.toDev c.cid = some c → c.stage = .running → c.code / 256 = 3 → s.pol.pend = [] →
    (n ≤ 1 → EndsWith (exec (.boltStepEnd r) s) c.cid res (fun u => (regionOf u.toDev r).bolt.cmds = (regionOf s.toDev r).bolt.cmds + 1))
    ∧ (1 < n → Gives (exec (.boltStepEnd r) s) (fun u => (theCmd c.cid u).loc = .boltCtx r l (n - 1))))
  ∧ (∀ (cid : Nat) (r : Region) (lvl : Nat) (s : State), (theCmd cid s).loc = .boltQ r lvl → (theCmd cid s).stage = .waiting → lvl < 3 →
    (cmdOf? s.toDev cid).isSome = true →
    Gives (exec (.boltQueuePromote cid) s) (fun u => theCmd cid u = { theCmd cid s with loc := .boltQ r (lvl + 1) }
      ∧ u.hif.cmds.getLast?.map (·.cid) = some cid))
  ∧ (∀ (cid : Nat) (hr : HostRead) (s : State), starts 0x0140 cid hr s = true → zeroFrom cid 64 s = true → (theCmd cid s).inLen = 256 →
    ((List.range 256).all (fun i => decide ((inputOf cid hr s).getD i 0 < 4) && (polValid i || (inputOf cid hr s).getD i 0 == 0))) = true →
    keepOnly s.toDev = false → ((List.finRange 4).all (fun r => (List.range 4).all (fun l => (boltContext s.toDev r l).isNone))) = true →
    EndsWith (exec (.xlatePolicyWrite cid hr) s) cid resOk (fun u => u.pol.rec_ = some (inputOf cid hr s) ∧ u.pol.ver = s.pol.ver + 1
      ∧ ∀ r : Region, polTable (regionOf u.toDev r).bolt = inputOf cid hr s))
  ∧ (∀ (acc : Access) (r : Region) (s : State), regGoes acc (1 + 17 * r.val) 8 s = true → (acc.world = .K ∨ acc.world = .C) →
    Gives (exec (.dkFlush acc r) s) (fun u =>
      (((List.range 4).all (fun l => (boltContext s.toDev r l).isNone)) = true → (regionOf u.toDev r).bolt.dk = [])
      ∧ (((List.range 4).any (fun l => (boltContext s.toDev r l).isSome)) = true → (regionOf u.toDev r).bolt.dkFlush = true)))

/-! ## Digest engines (chapter 7) -/

/-- The command heads its queue of a digest lane that works, and the context of its level is empty (R181). -/
def headsDig (cid : Nat) (r : Region) (l : Lane) (lvl : Nat) (s : State) : Bool :=
  (theCmd cid s).loc == .digQ r l lvl && laneUp s.toDev r l && (digContext s.toDev r l lvl).isNone
    && ((digQueue s.toDev r l lvl).head?.map (·.cid)) == some cid

/-- A DIG command waits to run: `startsAs true` without a host read error of its own. -/
def startsDig (code cid : Nat) (hr : HostRead) (s : State) : Bool := startsAs true code cid hr s

/-- The form that DIG commands share (R182, R183), and the first descriptor's address (R184). -/
def digGood (cid : Nat) (s : State) : Bool :=
  handB cid s == 0 && zeroFrom cid 90 s && (theCmd cid s).inLen == 0 && !(theCmd cid s).flags.getLsbD 0 && decide (param cid 72 8 s ≤ 2 ^ 40)
    && decide (param cid 66 2 s ≤ param cid 72 8 s) && (param cid 72 8 s == 0) == ((theCmd cid s).inPtr == 0)
    && (param cid 72 8 s == 0 || (theCmd cid s).inPtr.toNat % 32 == 0 && (isHost (theCmd cid s) || segForm (theCmd cid s).inPtr.toNat))

/-- The fragment list of the command's message. -/
def fragList (cid : Nat) (hr : HostRead) (s : State) : List Frag := if param cid 72 8 s = 0 then [] else (readOf (theCmd cid s) hr).frags

/-- The command stands in its lane's context with its keys, its whole list before it, and steps enough to absorb its message at
2 KiB each (R181). -/
def entersDig (cid : Nat) (r : Region) (l : Lane) (lvl : Nat) (keys : List Key) (fs : List Frag) (s u : State) : Bool :=
  let x := theCmd cid u
  x.stage == .running && x.ready == none && x.taken == keys && x.taskFrags == fs && x.taskIn == [] && digAt x 0 == 0 && digAt x 4 == 0
    && (match x.loc with
        | .digCtx r' l' v n => r' == r && l' == l && v == lvl && decide (1 ≤ n) && decide (param cid 72 8 s ≤ 2048 * n)
        | _ => false)

/-- The command of the context whose step is in progress in the lane, with `n` steps to go and no outcome yet. -/
def absorbs (c : Cmd) (r : Region) (l : Lane) (v n : Nat) (s : State) : Bool :=
  digRunning s.toDev r l == some v && digContext s.toDev r l v == some (c, n) && c.ready == none && cmdOf? s.toDev c.cid == some c
    && c.stage == .running

/-- The fragments that a command has before it are well formed, readable and complete its message (R184 to R187). -/
def fragsForm (c : Cmd) : Bool :=
  let fs := c.taskFrags
  let n := digAt c 4 + fs.length
  fs.all (fun f => !f.bytes.isEmpty && f.err.isNone) && decide (n ≤ 65535)
    && (fs.mapIdx (fun i => fragOk (isHost c) n (digAt c 4 + i))).all id && fs.all fragLenOk
    && c.taskIn.length + (fs.map fragLen).sum == digTotal c
def fragsPlain (c : Cmd) : Bool := fragsForm c && c.taskFrags.all (fun f => fragKind f != 2)

/-- The message: what has been absorbed or reached, then each fragment's bytes, reversed within its groups (R186, R187). -/
def messageOf (c : Cmd) : Bytes := c.taskIn ++ c.taskFrags.flatMap (fun f => regroup (fragGroup f) (fit f.data (fragLen f)))

/-- The parameters of a new key (R183, R190). -/
def toKeyGood (cid n : Nat) (s : State) : Bool :=
  decide (param cid 81 1 s ≤ 1) && newKeyLen (theCmd cid s) == some n && decide (param cid 82 1 s ≤ 2)
    && usageOk (param cid 80 1 s) (theCmd cid s).owner.world (BitVec.ofNat 16 (param cid 84 2 s)) && decide (param cid 86 2 s < 32)
    && decide (32 ≤ (theCmd cid s).outCap)

/-- The key that a DIG command makes from `mat` and the key `k` (R92, R190). -/
abbrev madeFrom (c : Cmd) (k : Key) (mat : Bytes) (u : State) : Prop :=
  newest u = some (c.owner, par c 80 1, par c 81 1, par c 84 2, min (par c 82 1) k.export_, false,
      par c 86 2, if isTdes (par c 80 1) then oddParity mat else mat)
    ∧ u.ks.keys.getLast?.map (fun x => (x.derived, x.depth, x.ancImported)) = some (true, min 15 (k.depth + 1), k.ancImported)
    ∧ gaveRecord c.cid u = true

/-- R180 to R192: DIG commands begin where their checks pass; a lane's steps absorb their messages and give digests, MACs and
derived keys; a lane's queues. -/
def Obligations.DigestCommandsComplete : Prop :=
  (∀ (cid : Nat) (hr : HostRead) (r : Region) (l : Lane) (lvl : Nat) (s : State), startsDig 0x0501 cid hr s = true →
    headsDig cid r l lvl s = true → digGood cid s = true → isHashAlg (param cid 64 1 s) = true → handA cid s = 0 →
    param cid 65 1 s = 0 → param cid 66 2 s = 0 → zeroIn cid 80 90 s = true →
    ((isShake (param cid 64 1 s) = true ∧ 1 ≤ param cid 68 4 s ∧ param cid 68 4 s ≤ 65536 ∧ param cid 68 4 s ≤ (theCmd cid s).outCap)
      ∨ (isShake (param cid 64 1 s) = false ∧ param cid 68 4 s = 0 ∧ digLen (param cid 64 1 s) ≤ (theCmd cid s).outCap)) →
    Gives (exec (.digHash cid hr) s) (fun u => entersDig cid r l lvl [] (fragList cid hr s) s u = true))
  ∧ (∀ (cid : Nat) (hr : HostRead) (r : Region) (l : Lane) (lvl n : Nat) (s : State), startsDig 0x0501 cid hr s = true →
    headsDig cid r l lvl s = true → digGood cid s = true → isHashAlg (param cid 64 1 s) = true → handA cid s = 0 →
    param cid 65 1 s = 1 → param cid 66 2 s = 0 → param cid 68 4 s = 0 → toKeyGood cid n s = true →
    (isShake (param cid 64 1 s) = true ∨ n ≤ digLen (param cid 64 1 s)) →
    Gives (exec (.digHash cid hr) s) (fun u => entersDig cid r l lvl [] (fragList cid hr s) s u = true))
  ∧ (∀ (cid : Nat) (hr : HostRead) (r : Region) (l : Lane) (lvl : Nat) (k : Key) (s : State),
    headsDig cid r l lvl s = true → digGood cid s = true → isMacAlg (param cid 64 1 s) = true → param cid 65 1 s = 0 →
    zeroIn cid 80 90 s = true → param cid 66 2 s ≤ (if isKmacAlg (param cid 64 1 s) then 256 else 0) → 4 ≤ param cid 68 4 s →
    param cid 68 4 s ≤ (if isKmacAlg (param cid 64 1 s) then 64 else digLen (param cid 64 1 s)) → digKeyOk (param cid 64 1 s) k.alg = true →
    param cid 68 4 s ≤ (theCmd cid s).outCap →
    (startsDig 0x0502 cid hr s = true → names cid (handA cid s) k .digest (some uMacGen) s = true →
      Gives (exec (.digMacGen cid hr) s) (fun u => entersDig cid r l lvl [k] (fragList cid hr s) s u = true))
    ∧ (startsDig 0x0503 cid hr s = true → names cid (handA cid s) k .digest (some uMacVer) s = true →
      Gives (exec (.digMacVer cid hr) s) (fun u => entersDig cid r l lvl [k] (fragList cid hr s) s u = true
        ∧ (theCmd cid u).taskOut = (readOf (theCmd cid s) hr).outData)))
  ∧ (∀ (cid : Nat) (hr : HostRead) (r : Region) (l : Lane) (lvl n : Nat) (k : Key) (s : State), startsDig 0x0504 cid hr s = true →
    headsDig cid r l lvl s = true → digGood cid s = true → isMacAlg (param cid 64 1 s) = true → param cid 65 1 s = 0 →
    param cid 68 4 s = 0 → param cid 66 2 s ≤ 256 → toKeyGood cid n s = true → names cid (handA cid s) k .digest (some uDerive) s = true →
    digKeyOk (param cid 64 1 s) k.alg = true →
    Gives (exec (.digKdf cid hr) s) (fun u => entersDig cid r l lvl [k] (fragList cid hr s) s u = true))
  ∧ (∀ (c : Cmd) (r : Region) (l : Lane) (v n : Nat) (s : State), absorbs c r l v n s = true → 1 < n → fragsPlain c = true →
    Gives (exec (.digestStepEnd r l) s) (fun u => (theCmd c.cid u).loc = .digCtx r l v (n - 1) ∧ (theCmd c.cid u).ready = none
      ∧ digAt (theCmd c.cid u) 0 = stepTo c n ∧ messageOf (theCmd c.cid u) = messageOf c
      ∧ (regionOf u.toDev r).dig.bytes = (regionOf s.toDev r).dig.bytes + BitVec.ofNat 64 (stepTo c n - digAt c 0)))
  ∧ (∀ (c : Cmd) (r : Region) (l : Lane) (v n : Nat) (s : State), absorbs c r l v n s = true → n ≤ 1 → fragsPlain c = true →
    (c.code = 0x0501 → par c 65 1 = 0 → EndsWith (exec (.digestStepEnd r l) s) c.cid
      (resOut (digHashOut (par c 64 1) (if isShake (par c 64 1) then par c 68 4 else digLen (par c 64 1)) (messageOf c)))
      (fun u => (regionOf u.toDev r).dig.bytes = (regionOf s.toDev r).dig.bytes + BitVec.ofNat 64 (digTotal c - digAt c 0)))
    ∧ (c.code = 0x0502 → EndsWith (exec (.digestStepEnd r l) s) c.cid (resOut (digMacOut (par c 64 1) ((c.taken.head?.map (·.mat)).getD [])
        ((messageOf c).take (par c 66 2)) ((messageOf c).drop (par c 66 2)) (par c 68 4))) (fun u => u.ks.keys = s.ks.keys))
    ∧ (c.code = 0x0503 → EndsWith (exec (.digestStepEnd r l) s) c.cid
        (if fit c.taskOut (par c 68 4) = digMacOut (par c 64 1) ((c.taken.head?.map (·.mat)).getD []) ((messageOf c).take (par c 66 2))
            ((messageOf c).drop (par c 66 2)) (par c 68 4) then resOk else resErr 0x0304 0) (fun u => u.ks.keys = s.ks.keys)))
  ∧ (∀ (c : Cmd) (r : Region) (l : Lane) (v n : Nat) (f : Frag) (k : Key) (m : Bytes) (s : State), absorbs c r l v n s = true → n ≤ 1 →
    fragsForm c = true → c.code = 0x0501 → par c 65 1 = 1 → c.taskFrags = [f] → c.taskIn = [] → c.taken = [] → fragKind f = 2 →
    names c.cid (fragSource f) k .digest (some uDerive) s = true → fragLen f = k.lenBytes → k.mat.length = k.lenBytes →
    m = digHashOut (par c 64 1) ((newKeyLen c).getD 0) k.mat → roomFor c.cid (par c 81 1) m.length false s = true → par c 81 1 ≤ 1 →
    Gives (exec (.digestStepEnd r l) s) (madeFrom c k m))
  ∧ (∀ (c : Cmd) (r : Region) (l : Lane) (v n : Nat) (k : Key) (mat : Bytes) (s : State), absorbs c r l v n s = true → n ≤ 1 →
    fragsPlain c = true → c.code = 0x0504 → c.taken = [k] →
    mat = (match digHash? (par c 64 1) with
      | some h => kdfCtr (.hmac h) k.mat ((messageOf c).take (par c 66 2)) ((messageOf c).drop (par c 66 2)) ((newKeyLen c).getD 0)
      | none => digMacOut (par c 64 1) k.mat ((messageOf c).take (par c 66 2)) ((messageOf c).drop (par c 66 2)) ((newKeyLen c).getD 0)) →
    roomFor c.cid (par c 81 1) mat.length false s = true → par c 81 1 ≤ 1 →
    Gives (exec (.digestStepEnd r l) s) (madeFrom c k mat))
  ∧ (∀ (r : Region) (l : Lane) (v n : Nat) (c : Cmd) (res : Res) (s : State), digRunning s.toDev r l = some v →
    digContext s.toDev r l v = some (c, n) → c.ready = some res → cmdOf? s.toDev c.cid = some c → c.stage = .running → c.code / 256 = 5 →
    EndsWith (exec (.digestStepEnd r l) s) c.cid res (fun u => (regionOf u.toDev r).dig.cmds = (regionOf s.toDev r).dig.cmds + 1))
  ∧ (∀ (cid : Nat) (r : Region) (l : Lane) (lvl : Nat) (s : State), (theCmd cid s).loc = .digQ r l lvl → (theCmd cid s).stage = .waiting → lvl < 3 →
    (cmdOf? s.toDev cid).isSome = true →
    Gives (exec (.digestQueuePromote cid) s) (fun u => theCmd cid u = { theCmd cid s with loc := .digQ r l (lvl + 1) }
      ∧ u.hif.cmds.getLast?.map (·.cid) = some cid))

/-! ## Entropy (chapter 8) -/

def sourceIn (n : Nat) (s : State) : SrcS := srcOf s.toDev n
def drbgIn (r : Region) (s : State) : DrbgS := (regionOf s.toDev r).drbg

/-- The longest-run failures and the proportion failures that a string of samples adds (R201). -/
def windowRuns (n : Nat) (w : Bytes) (s : State) : Nat :=
  (rctRun (if (sourceIn n s).runLen = 0 then none else some (sourceIn n s).lastBit, (sourceIn n s).runLen) (sampleBits w)).2.2
def startRuns (w : Bytes) : Nat := (rctRun (none, 0) (sampleBits w)).2.2
def startSkewed (w : Bytes) : Bool := (chunks 128 w).any (fun b => aptFails (sampleBits b))

/-- A source whose windows are tested (R202, R203). -/
def supplies (n : Nat) (s : State) : Bool :=
  let x := sourceIn n s
  !x.startup && !x.isolated && !x.heldOut && !x.injecting

/-- No software read waits for bytes of a region. -/
def noReads (r : Region) (s : State) : Bool := s.hif.cmds.all (fun c => !isRead r false c && !isRead r true c)

/-- What 512 bytes drawn into a random queue leave behind (R209, R210). -/
abbrev refilled (r : Region) (s u : State) : Prop :=
  (drbgIn r u).queue = (drbgIn r s).queue ++ (drbgGenerate 512 [] (drbgIn r s).key (drbgIn r s).v).1
    ∧ (drbgIn r u).generates = (drbgIn r s).generates + 1

/-- The form of an ENT or RANDOM command that takes no input. -/
def noInput (cid : Nat) (s : State) : Bool := noHandles cid s && (theCmd cid s).inPtr == 0 && (theCmd cid s).inLen == 0

/-- R200 to R216: windows are judged, failing sources isolated and retested, blocks conditioned, DRBGs seeded, queues filled and
read, samples injected and the functions tested. -/
def Obligations.EntropyRuns : Prop :=
  (∀ (n : Source) (w : Bytes) (s : State), supplies n s = true → w.length = 128 → windowRuns n w s = 0 → aptFails (sampleBits w) = false →
    Gives (exec (.noiseWindowComplete n w) s) (fun u => (sourceIn n u).windows = (sourceIn n s).windows ++ w ∧ (sourceIn n u).rcFails = (sourceIn n s).rcFails))
  ∧ (∀ (n : Source) (w : Bytes) (s : State), supplies n s = true → w.length = 128 → (recentFails s.toDev n).length < 4 → logRoom s = true →
    (windowRuns n w s ≠ 0 → Gives (exec (.noiseWindowComplete n w) s) (fun u => (sourceIn n u).isolated = true ∧ (sourceIn n u).windows = []
      ∧ logged 0x1210 0x82 n 1 (recentFails s.toDev n).length u = true))
    ∧ (windowRuns n w s = 0 → aptFails (sampleBits w) = true → Gives (exec (.noiseWindowComplete n w) s) (fun u => (sourceIn n u).isolated = true
      ∧ logged 0x1210 0x82 n 2 (recentFails s.toDev n).length u = true)))
  ∧ (∀ (n : Source) (w : Bytes) (s : State), supplies n s = true → w.length = 128 → 4 ≤ (recentFails s.toDev n).length → logRoom s = true →
    windowRuns n w s ≠ 0 →
    Gives (exec (.noiseWindowComplete n w) s) (fun u => (sourceIn n u).heldOut = true ∧ logged 0x1212 0x82 n (recentFails s.toDev n).length 0 u = true))
  ∧ (∀ (n : Source) (s : State), (sourceIn n s).isolated = true → Gives (exec (.sourceRetest n) s) (fun u => sourceIn n u = { sourceIn n s with startup := true }))
  ∧ (∀ (n : Source) (w : Bytes) (s : State), (sourceIn n s).startup = true → (sourceIn n s).heldOut = false → w.length = 512 → startRuns w = 0 →
    startSkewed w = false → (sourceIn n s).isolated = true → logRoom s = true →
    Gives (exec (.sourceStartupTestEnd n w) s) (fun u => (sourceIn n u).isolated = false ∧ (sourceIn n u).startup = false ∧ logged 0x1211 0x82 n 0 0 u = true))
  ∧ (∀ (n : Source) (w : Bytes) (cid : Nat) (c : Cmd) (s : State), (sourceIn n s).startup = true → (sourceIn n s).heldOut = false → w.length = 512 →
    startRuns w = 0 → startSkewed w = false → s.ent.injectCid = some cid → cmdOf? s.toDev cid = some c →
    c.stage = .running → ((List.range 8).all (fun m => m == n.val || !(sourceIn m s).injecting)) = true →
    EndsWith (exec (.sourceStartupTestEnd n w) s) cid { resOut c.taskOut with result := BitVec.ofNat 32 (c.scratch.getD 0 0) } (fun u =>
      u.ent.injectCid = none ∧ (sourceIn n u).injecting = false))
  ∧ (∀ (raw : Bytes) (d : Dev) (s : State), s.ent.stopped = false → blkResetting s.toDev .conditioner = false → takeUnits 16 s.toDev = some (raw, d) →
    s.ent.reseedQ = [] → s.ent.reservoir.length < 32 → s.ks.keyDue = false →
    Gives (exec .conditionerBlock s) (fun u => u.ent.reservoir = s.ent.reservoir ++ [sha3_256 raw] ∧ u.ent.blocks = s.ent.blocks + 1))
  ∧ (∀ (r : Region) (b : Bytes) (l : List Bytes) (s : State), (drbgIn r s).instantiated = true → s.ent.reservoir = b :: l →
    Gives (exec (.drbgSeedPeriodEnd r) s) (fun u => u.ent.reservoir = l ∧ (drbgIn r u).reqsLeft = 2 ^ 20 ∧ (drbgIn r u).reseeds = (drbgIn r s).reseeds + 1
      ∧ ((drbgIn r u).key, (drbgIn r u).v) = drbgReseed b (drbgIn r s).key (drbgIn r s).v))
  ∧ (∀ (r : Region) (s : State), (drbgIn r s).instantiated = true → s.ent.reservoir = [] → s.ent.stopped = true → (drbgIn r s).noSeed = false →
    logRoom s = true →
    Gives (exec (.drbgSeedPeriodEnd r) s) (fun u => (drbgIn r u).periodEnded = true ∧ (drbgIn r u).noSeed = true ∧ logged 0x4242 (0x74 + r.val) r 0 0 u = true))
  ∧ (∀ (r : Region) (s : State), drbgServes s.toDev r = true → (drbgIn r s).queue.length ≤ 3584 → 1 < (drbgIn r s).reqsLeft → noReads r s = true →
    (drbgIn r s).katRunning = false →
    Gives (exec (.drbgGenerate r) s) (refilled r s) ∧ Gives (exec (.randomQueueRefill r) s) (refilled r s))
  ∧ (∀ (r : Region) (c : Cmd) (b : Bytes) (l : List Bytes) (s : State), drbgReseeds s.toDev r = true → readNext s.toDev r = some c →
    cmdOf? s.toDev c.cid = some c → c.taskOut = [] → readLen c ≤ 512 → s.ent.reservoir = b :: l →
    EndsWith (exec (.drbgGenerate r) s) c.cid (resOut (drbgGenerate (readLen c) [] (drbgReseed b (drbgIn r s).key (drbgIn r s).v).1
      (drbgReseed b (drbgIn r s).key (drbgIn r s).v).2).1) (fun u => u.ent.reservoir = l))
  ∧ (∀ (cid : Nat) (s : State), (cmdOf? s.toDev cid).isSome = true → isRead (readRegion (theCmd cid s)) false (theCmd cid s) = true →
    EndsWith (exec (.randomReadTimeout cid) s) cid resRetry (fun u => (theCmd cid u).taskOut = []))
  ∧ (∀ (cid : Nat) (hr : HostRead) (r : Region) (n : Nat) (s : State), starts 0x0601 cid hr s = true → noInput cid s = true → n = param cid 64 4 s →
    1 ≤ n → n ≤ 65536 → n ≤ (theCmd cid s).outCap → zeroFrom cid 69 s = true →
    r = (if (theCmd cid s).session = 0 then fullestQueue s.toDev else sessHome s.toDev (theCmd cid s).session.toNat) →
    (param cid 68 1 s = 0 → (drbgIn r s).stopped = false → n ≤ (drbgIn r s).queue.length → s.hif.cmds.all (fun c => !isRead r false c) = true →
      count s.hif.cmds (fun c => c.cid == cid) = 1 →
      EndsWith (exec (.random cid hr) s) cid (resOut ((drbgIn r s).queue.take n)) (fun u => (drbgIn r u).queue = (drbgIn r s).queue.drop n))
    ∧ (param cid 68 1 s = 1 → s.ent.stopped = false → (drbgIn r s).stopped = false →
      Gives (exec (.random cid hr) s) (fun u => (theCmd cid u).stage = .running ∧ (theCmd cid u).scratch.take 3 = [r.val, n, 1])))
  ∧ (∀ (cid : Nat) (hr : HostRead) (s : State), starts 0x0610 cid hr s = true → noHandles cid s = true → zeroFrom cid 65 s = true →
    param cid 64 1 s ≠ 0 → (theCmd cid s).inLen % 128 = 0 → 128 ≤ (theCmd cid s).inLen → (theCmd cid s).inLen ≤ 65536 →
    (theCmd cid s).inLen / 4 ≤ (theCmd cid s).outCap → s.ent.injectCid = none →
    Gives (exec (.entInject cid hr) s) (fun u => (theCmd cid u).stage = .running ∧ u.ent.injectCid = some cid
      ∧ (theCmd cid u).taskOut = (chunks 128 (inputOf cid hr s)).flatMap sha3_256
      ∧ ∀ n, n < 8 → (param cid 64 1 s).testBit n = true → (sourceIn n u).injecting = true ∧ (sourceIn n u).startup = true))
  ∧ (∀ (cid : Nat) (hr : HostRead) (s : State), starts 0x0620 cid hr s = true → noInput cid s = true → zeroFrom cid 64 s = true →
    s.ent.katCid = none → katParts s.toDev = allKats →
    Gives (exec (.entKat cid hr) s) (fun u => (theCmd cid u).stage = .running ∧ u.ent.katCid = some cid ∧ u.ent.katFails = 0
      ∧ allKats.all (fun t => u.ent.kats.contains t) = true))
  ∧ (∀ (s : State), Gives (exec .entropyKatDue s) (fun u => u.ent.katRunning = true
      ∧ (katParts s.toDev).all (fun t => u.ent.kats.contains t) = true))
  ∧ (∀ (acc : Access) (s : State), regGoes acc 180 8 s = true → (acc.world = .K ∨ acc.world = .C) →
    Gives (exec (.entKatRun acc) s) (fun u => u.ent.katRunning = true ∧ u.ent.katByCtrl = true ∧ u.ent.kats.contains .conditioner = true))
  ∧ (∀ (acc : Access) (r : Region) (s : State), regGoes acc (3 + 17 * r.val) 8 s = true → (acc.world = .K ∨ acc.world = .C) → regionRuns s.toDev r = true →
    Gives (exec (.rngKatRun acc r) s) (fun u => (drbgIn r u).katRunning = true ∧ (drbgIn r u).katByCtrl = true ∧ u.ent.kats.contains (.drbg r) = true))
  ∧ (∀ (t : KatTarget) (s : State), s.ent.kats.contains t = true → katCanEnd s.toDev t = true → s.ent.katCid = none →
    Gives (exec (.katEnd t 0) s) (fun u => u.ent.kats = s.ent.kats.filter (· != t) ∧ u.ent.katFailed = s.ent.katFailed))
  ∧ (∀ (cid : Nat) (t : KatTarget) (s : State), s.ent.kats = [t] → katCanEnd s.toDev t = true → s.ent.katCid = some cid → (theCmd cid s).stage = .running → s.ent.katFails = 0 →
    (cmdOf? s.toDev cid).isSome = true →
    EndsWith (exec (.katEnd t 0) s) cid resOk (fun u => u.ent.kats = []))
  ∧ (∀ (stage : Nat) (s : State), s.ent.kats.contains .conditioner = true → stage ≠ 0 → logRoom s = true →
    Gives (exec (.katEnd .conditioner stage) s) (fun u => u.ent.katFailed = true ∧ u.ent.stopped = true ∧ logged 0x4240 0x82 0xFF stage 0 u = true))
  ∧ (∀ (r : Region) (stage : Nat) (s : State), s.ent.kats.contains (.drbg r) = true → katCanEnd s.toDev (.drbg r) = true → stage ≠ 0 → logRoom s = true →
    Gives (exec (.katEnd (.drbg r) stage) s) (fun u => (drbgIn r u).stopped = true ∧ logged 0x4240 (0x74 + r.val) r stage 0 u = true))

/-! ## The barrel array (chapter 9) -/

def engIn (e : Nat) (s : State) : EngS := engOf s.toDev e
def roleIn (r : Nat) (s : State) : RoleS := roleOf s.toDev r
def wsIn (cid : Nat) (s : State) : Option Workspace := wsOf s.toDev (theCmd cid s).session

/-- No engine is free for a job; no job waits for an engine. -/
def allBusy (s : State) : Bool := (List.range 18).all (fun e => !engIdle s.toDev e)
def noJobs (s : State) : Bool := s.hif.cmds.all (fun c => !jobReady c)

/-- The program that a PKC command names, with a mode and flags that it allows; an engine in service can run it (R143, R147, R148). -/
abbrev runsProg (cid : Nat) (p : ProgEntry) (s : State) : Prop :=
  progFind s.toDev (param cid 64 2 s) = some p ∧ pKeygen p = false ∧ param cid 66 1 s ≤ 5 ∧ (param cid 66 1 s = 0 ∨ isRsaCrt p.id = true)
    ∧ param cid 67 1 s < 2 ∧ (p.keyUse ≠ 255 ∨ handA cid s = 0) ∧ handB cid s = 0 ∧ (List.range 18).any (eligible s.toDev p) = true

/-- The attributes of the new key of a secret result of `n` bytes (R148). -/
def secretGood (cid n : Nat) (s : State) : Bool :=
  decide (param cid 73 1 s ≤ 1) && isSecret (param cid 74 1 s) && algLenOk (param cid 74 1 s) n && decide (param cid 72 1 s ≤ 2)
    && usageOk (param cid 74 1 s) (theCmd cid s).owner.world (BitVec.ofNat 16 (param cid 68 2 s)) && decide (param cid 70 2 s < 32)

/-- The job stands in its queue with its operands read. -/
abbrev queued (cid : Nat) (l : Loc) (ops : Bytes) (u : State) : Prop :=
  (theCmd cid u).stage = .waiting ∧ (theCmd cid u).loc = l ∧ (theCmd cid u).taskIn = ops ∧ (theCmd cid u).scratch.head? = some 1
    ∧ u.hif.cmds.getLast?.map (·.cid) = some cid

/-- A workspace command's workspace stands open, is not void, and no earlier workspace command of the session is open (R154, R162). -/
def inTurnWith (cid : Nat) (w : Workspace) (s : State) : Bool :=
  wsIn cid s == some w && !w.void && !wsBehind s.toDev (theCmd cid s) && handB cid s == 0 && handA cid s == 0

/-- The job running on an engine and its program (R151). -/
abbrev runsOn (e : Nat) (c : Cmd) (p : ProgEntry) (s : State) : Prop :=
  (engIn e s).running = some c.cid ∧ c.cid ≠ 0 ∧ cmdOf? s.toDev c.cid = some c ∧ progFind s.toDev (jobProg c) = some p
    ∧ jobCancelled c = false ∧ isDone c = false

/-- The job holds what its program gives, until its run ends (R146, R150, R158). -/
def holds (o : ProgOut) (c : Cmd) : Bool :=
  match o with
  | .err st n => c.ready == some (resErr st n)
  | .ok pub _ => c.ready.isNone && fragPub c == pub

/-- An image in the form of R144. -/
abbrev imageGood (cid : Nat) (hr : HostRead) (i : ImageRec) (s : State) : Prop :=
  (theCmd cid s).inLen = 262144 ∧ ucodeParse (inputOf cid hr s) = some i ∧ ucodeZero (inputOf cid hr s) = true

/-- R145 to R158, R162: PKC commands, where every check passes; a program that takes no key and draws nothing holds its result once
an engine takes it. -/
def Obligations.PkcCommandsComplete : Prop :=
  (∀ (cid : Nat) (hr : HostRead) (p : ProgEntry) (l : List Nat) (s : State), starts 0x0401 cid hr s = true → (theCmd cid s).scratch = [] →
    runsProg cid p s → allBusy s = true → zeroFrom cid 76 s = true → operandLens p.id (theCmd cid s).inLen = some l →
    ((pSecretOut p = true ∧ secretGood cid (secretLen p.id) s = true ∧ (resultLens p.id).sum + 32 ≤ (theCmd cid s).outCap)
      ∨ (pSecretOut p = false ∧ zeroIn cid 68 76 s = true ∧ (resultLens p.id).sum ≤ (theCmd cid s).outCap)) →
    Gives (exec (.pkcRun cid hr) s) (queued cid (jobLoc s.toDev (theCmd cid s) p) (inputOf cid hr s)))
  ∧ (∀ (cid : Nat) (hr : HostRead) (p : ProgEntry) (s : State), starts 0x0201 cid hr s = true → (theCmd cid s).scratch = [] → zeroIn cid 73 76 s = true →
    zeroFrom cid 80 s = true → noHandles cid s = true → isAsym (param cid 64 1 s) = true → attrsGood cid (param cid 64 1 s) s = true →
    (if isRsa (param cid 64 1 s) then param cid 76 4 s = 0 ∨ (param cid 76 4 s % 2 = 1 ∧ 65537 ≤ param cid 76 4 s) else param cid 76 4 s = 0) →
    32 + keygenPubLen (param cid 64 1 s) ≤ (theCmd cid s).outCap →
    roomFor cid (param cid 65 1 s) ((algLen (param cid 64 1 s)).getD 0) (param cid 67 1 s == 1) s = true →
    progFind s.toDev (keygenProg (param cid 64 1 s)) = some p → (List.range 18).any (eligible s.toDev p) = true → allBusy s = true →
    Gives (exec (.keyGenerate cid hr) s) (queued cid (jobLoc s.toDev (theCmd cid s) p) []))
  ∧ (∀ (cid : Nat) (hr : HostRead) (t : Cmd) (s : State), starts 0x0402 cid hr s = true → noHandles cid s = true → zeroIn cid 64 76 s = true →
    zeroFrom cid 80 s = true → s.hif.cmds.find? (fun x => x.session == (theCmd cid s).session && x.fn == (theCmd cid s).fn
      && isHost x == isHost (theCmd cid s) && x.seq == BitVec.ofNat 32 (param cid 76 4 s) && x.cid != cid && x.dupOf.isNone && x.accepted
      && isAccepted x) = some t → cmdOf? s.toDev t.cid = some t → classOf t.code = 4 → jobCancelled t = false → t.stage = .waiting →
    EndsWith (exec (.pkcCancel cid hr) s) cid resOk (fun u => (theCmd t.cid u).stage = .done (resErr 0x0303 0)))
  ∧ (∀ (cid : Nat) (hr : HostRead) (s : State), starts 0x0403 cid hr s = true → noHandles cid s = true → zeroFrom cid 64 s = true →
    (curCat s.toDev).length ≤ (theCmd cid s).outCap →
    EndsWith (exec (.pkcCatalog cid hr) s) cid (resOut (curCat s.toDev)) (fun u => u.brl = s.brl))
  ∧ (∀ (cid : Nat) (hr : HostRead) (n code : Nat) (s : State), starts 0x0410 cid hr s = true → noHandles cid s = true → zeroIn cid 64 80 s = true →
    zeroFrom cid 84 s = true → n = param cid 80 2 s → lenCode? (param cid 82 2 s) = some code → 1 ≤ n → n ≤ wsArea code →
    wsIn cid s = none → wsBehind s.toDev (theCmd cid s) = false →
    ((wsRoles s.toDev code).any (fun p => decide (n ≤ wsArea code - wsUsed s.toDev p.2))) = true →
    Gives (exec (.pkcWsOpen cid hr) s) (fun u => u.brl.ws.length = s.brl.ws.length + 1
      ∧ u.brl.ws.getLast?.map (fun w => (w.session, w.len, w.slots, w.void, w.items)) = some ((theCmd cid s).session, code, n, false, [])
      ∧ (wsRoles s.toDev code).any (fun p => u.brl.ws.getLast?.map (·.engine) == some p.2
          && (theCmd cid u).stage == .done (resVal (n + 65536 * p.1))) = true))
  ∧ (∀ (cid : Nat) (hr : HostRead) (w : Workspace) (s : State), starts 0x0411 cid hr s = true → inTurnWith cid w s = true → zeroIn cid 64 84 s = true →
    zeroFrom cid 88 s = true → 1 ≤ param cid 86 2 s → param cid 86 2 s ≤ 8192 → (theCmd cid s).inLen = (param cid 86 2 s + 7) / 8 →
    runFits w (param cid 84 2 s) (runSlots (param cid 86 2 s) w.len) [param cid 84 2 s] = true →
    EndsWith (exec (.pkcWsLoad cid hr) s) cid resOk (fun u => (wsIn cid u).map (fun x => tget? x.items (param cid 84 2 s))
      = some (some ⟨runSlots (param cid 86 2 s) w.len, false, 0, 0, param cid 86 2 s, inputOf cid hr s⟩)))
  ∧ (∀ (cid : Nat) (hr : HostRead) (w : Workspace) (p : ProgEntry) (lens : List Nat) (runs : List (Nat × Nat)) (s : State),
    starts 0x0412 cid hr s = true → (theCmd cid s).scratch = [] → runsProg cid p s → allBusy s = true → zeroIn cid 68 88 s = true →
    zeroFrom cid 120 s = true → wsIn cid s = some w → wsCouldRun s.toDev p w.engine = true → w.void = false → wsBehind s.toDev (theCmd cid s) = false →
    lens = (jobOps s.toDev (theCmd cid s) p).map (·.length) → operandLens p.id lens.sum = some lens →
    ((List.range 8).all (fun i => if i < p.nIn then w.items.any (fun x => x.1 == param cid (88 + 2 * i) 2 s) else param cid (88 + 2 * i) 2 s == 0xFFFF)) = true →
    runs = outRuns (theCmd cid s) w.len (resultLens p.id ++ (if pSecretOut p then [secretLen p.id] else [])) →
    ((List.range 8).all (fun i => decide (i < runs.length) || param cid (104 + 2 * i) 2 s == 0xFFFF)) = true →
    (runs.all (fun r => runFits w r.1 r.2 ((List.range 8).map (fun i => param cid (104 + 2 * i) 2 s)
      ++ (List.range 8).map (fun i => param cid (88 + 2 * i) 2 s)))) = true →
    (runs.all (fun r => decide (count runs (fun q => decide (q.1 < r.1 + r.2) && decide (r.1 < q.1 + q.2)) ≤ 1))) = true →
    Gives (exec (.pkcWsRun cid hr) s) (queued cid (.wsQ w.engine (theCmd cid s).prio) []))
  ∧ (∀ (cid : Nat) (hr : HostRead) (w : Workspace) (i : WsItem) (s : State), starts 0x0413 cid hr s = true → inTurnWith cid w s = true →
    zeroIn cid 64 84 s = true → zeroFrom cid 86 s = true → tget? w.items (param cid 84 2 s) = some i →
    (i.secret = false → i.data.length ≤ (theCmd cid s).outCap → EndsWith (exec (.pkcWsRead cid hr) s) cid (resOut i.data) (fun u => u.brl = s.brl))
    ∧ (i.secret = true → EndsWith (exec (.pkcWsRead cid hr) s) cid (resErr 0x0104 0x040A) (fun u => u.brl = s.brl)))
  ∧ (∀ (cid : Nat) (hr : HostRead) (w : Workspace) (s : State), starts 0x0414 cid hr s = true → inTurnWith cid w s = true → zeroIn cid 64 84 s = true →
    zeroFrom cid 88 s = true → 1 ≤ param cid 86 2 s → param cid 84 2 s + param cid 86 2 s ≤ w.slots →
    ((List.range (param cid 86 2 s)).all (fun i => match itemAt w (param cid 84 2 s + i) with
      | some p => decide (param cid 84 2 s ≤ p.1) && decide (p.1 + p.2.count ≤ param cid 84 2 s + param cid 86 2 s)
      | none => true)) = true →
    EndsWith (exec (.pkcWsRelease cid hr) s) cid resOk (fun u => wsIn cid u = some (runClear w (param cid 84 2 s) (param cid 86 2 s))))
  ∧ (∀ (cid : Nat) (hr : HostRead) (w : Workspace) (i : WsItem) (s : State), starts 0x0415 cid hr s = true → inTurnWith cid w s = true →
    zeroIn cid 64 68 s = true → zeroIn cid 76 84 s = true → zeroFrom cid 86 s = true → tget? w.items (param cid 84 2 s) = some i → i.secret = true →
    secretGood cid i.data.length s = true → 32 ≤ (theCmd cid s).outCap → roomFor cid (param cid 73 1 s) i.data.length false s = true →
    Gives (exec (.pkcWsToKey cid hr) s) (fun u => gaveRecord cid u = true ∧ wsIn cid u = some (runClear w (param cid 84 2 s) i.count)
      ∧ newest u = some ((theCmd cid s).owner, param cid 74 1 s, param cid 73 1 s, param cid 68 2 s, min (param cid 72 1 s) i.exportCap, false,
        param cid 70 2 s, i.data)))
  ∧ (∀ (cid : Nat) (hr : HostRead) (s : State), starts 0x0416 cid hr s = true → noHandles cid s = true → zeroFrom cid 64 s = true →
    wsBehind s.toDev (theCmd cid s) = false → (wsIn cid s).isSome = true →
    EndsWith (exec (.pkcWsClose cid hr) s) cid resOk (fun u => wsIn cid u = none))
  ∧ (∀ (cid : Nat) (hr : HostRead) (p : ProgEntry) (l : List Nat) (e : Engine) (r : Role) (s : State), starts 0x0401 cid hr s = true →
    (theCmd cid s).scratch = [] → runsProg cid p s → noJobs s = true → zeroFrom cid 68 s = true → operandLens p.id (theCmd cid s).inLen = some l →
    (resultLens p.id).sum ≤ (theCmd cid s).outCap → p.keyUse = 255 → needsDraw p = false → pSecretOut p = false →
    (poolOn s.toDev = false ∨ (isPoolRole r.val = false ∧ pLong p = false)) →
    roleServed s.toDev e = some r.val → engIdle s.toDev e = true → eligible s.toDev p e = true →
    (List.range 18).all (fun x => x == e.val || !engIdle s.toDev x) = true →
    Gives (exec (.pkcRun cid hr) s) (fun u => (engIn e u).running = some cid ∧ (theCmd cid u).loc = .engine e ∧ (theCmd cid u).stage = .running
      ∧ holds (progOut p (param cid 66 1 s) [] (cutAt l (inputOf cid hr s)) []) (theCmd cid u) = true))

/-- Nothing of a roll, or of its reversal, is left to load, and nothing holds it (R13, R169 to R171, R401). -/
def rollDone (s : State) : Bool :=
  s.brl.rollHold.isNone && !s.die.safe && !s.tmp.hold && !keepOnly s.toDev && (rollSpares s.toDev).isEmpty && (rollNext s.toDev).isNone
    && (List.range 16).all (fun r => (roleOf s.toDev r).handover.isNone)

/-- R138, R151, R152, R158 to R170: runs end, levels rise, engines abort, leave, are tested and replaced, settings and images change. -/
def Obligations.BarrelEnginesRun : Prop :=
  (∀ (e : Engine) (c : Cmd) (p : ProgEntry) (r : Res) (s : State), runsOn e c p s → noJobs s = true → (engIn e s).katDue = false → c.ready = some r →
    EndsWith (exec (.barrelRunEnd e .finished) s) c.cid r (fun u => (engIn e u).running = none ∧ (engIn e u).jobs = (engIn e s).jobs + 1))
  ∧ (∀ (e : Engine) (c : Cmd) (p : ProgEntry) (s : State), runsOn e c p s → noJobs s = true → c.ready = none → c.code = 0x0401 → fragSecret c = none →
    EndsWith (exec (.barrelRunEnd e .finished) s) c.cid (resOut (fragPub c).flatten) (fun u => u.ks = s.ks))
  ∧ (∀ (e : Engine) (c : Cmd) (p : ProgEntry) (m : Bytes) (s : State), runsOn e c p s → noJobs s = true → c.ready = none → c.code = 0x0201 →
    fragSecret c = some m → roomFor c.cid (par c 65 1) m.length (par c 67 1 == 1) s = true →
    Gives (exec (.barrelRunEnd e .finished) s) (fun u => (newest u).map (fun n => (n.1, n.2.1, n.2.2.1)) = some (c.owner, par c 64 1, par c 65 1)
      ∧ u.ks.keys.getLast?.map (·.mat) = some m ∧ u.ks.keys.length = s.ks.keys.length + 1))
  ∧ (∀ (e : Engine) (c : Cmd) (p : ProgEntry) (slot : Nat) (s : State), runsOn e c p s → noJobs s = true → logRoom s = true →
    ((pPrivate p = true ∨ pSelfVerify p = true) → EndsWith (exec (.barrelRunEnd e .mismatch) s) c.cid (resErr 0x0301 0) (fun u =>
      (engIn e u).mismatches = (engIn e s).mismatches + 1 ∧ logged 0x4107 0x8B e p.id ((lastMinute s.toDev (engIn e s).mismatchTimes).length + 1) u = true))
    ∧ EndsWith (exec (.barrelRunEnd e (.guardViolation slot)) s) c.cid (resErr 0x0301 0) (fun u => logged 0x4108 0x8B e p.id slot u = true))
  ∧ (∀ (e : Engine) (g : Nat) (s : State), (engIn e s).running = some 0 → noJobs s = true →
    ((engIn e s).katDue = false → Gives (exec (.barrelRunEnd e .katPass) s) (fun u => (engIn e u).running = none ∧ u.brl.kats = s.brl.kats + 1))
    ∧ ((engIn e s).out = false → logRoom s = true → Gives (exec (.barrelRunEnd e (.katFail g)) s) (fun u => (engIn e u).out = true
      ∧ logged 0x4131 0x8B e g (b2n (engIn e s).image) u = true)))
  ∧ (∀ (cid l : Nat) (e : Engine) (s : State), (theCmd cid s).stage = .waiting → (cmdOf? s.toDev cid).isSome = true → l < 3 →
    ((theCmd cid s).loc = .shortQ l → Gives (exec (.barrelJobPromote cid) s) (fun u => (theCmd cid u).loc = .shortQ (l + 1)))
    ∧ ((theCmd cid s).loc = .longQ l → Gives (exec (.barrelJobPromote cid) s) (fun u => (theCmd cid u).loc = .longQ (l + 1)))
    ∧ ((theCmd cid s).loc = .wsQ e l → Gives (exec (.barrelJobPromote cid) s) (fun u => (theCmd cid u).loc = .wsQ e (l + 1))))
  ∧ (∀ (cid : Nat) (hr : HostRead) (s : State), starts 0x0150 cid hr s = true → zeroFrom cid 66 s = true → noHandles cid s = true →
    param cid 64 1 s ≤ 15 → param cid 65 1 s ≤ 5 → keepOnly s.toDev = false →
    EndsWith (exec (.engineLenSet cid hr) s) cid resOk (fun u => roleIn (param cid 64 1 s) u = { roleIn (param cid 64 1 s) s with lenNext := param cid 65 1 s }))
  ∧ (∀ (r : Role) (e : Engine) (s : State), (roleIn r s).engine = some e → (roleIn r s).lenNext ≠ (roleIn r s).len → engIdle s.toDev e = true →
    (wsOn s.toDev e).isEmpty = true → (roleIn r s).handover = none → logRoom s = true →
    Gives (exec (.roleLenApply r) s) (fun u => roleIn r u = { roleIn r s with len := (roleIn r s).lenNext }
      ∧ logged 0x4136 0x8B r e (roleIn r s).lenNext u = true))
  ∧ (∀ (cid : Nat) (hr : HostRead) (s : State), starts 0x0151 cid hr s = true → zeroFrom cid 65 s = true → noHandles cid s = true →
    param cid 64 1 s ≤ 1 → keepOnly s.toDev = false → noJobs s = true → logRoom s = true →
    EndsWith (exec (.longPoolSet cid hr) s) cid resOk (fun u => u.brl.longPool = (param cid 64 1 s == 1)
      ∧ logged 0x4134 0x8B (2 - param cid 64 1 s) (poolFilled s.toDev) 0 u = true))
  ∧ (∀ (acc : Access) (e : Engine) (s : State), regGoes acc (70 + e.val) 8 s = true → (acc.world = .K ∨ acc.world = .C) → (engIn e s).stopping = false →
    Gives (exec (.engineAbort acc e) s) (fun u => (engIn e u).stopping = true ∧ (engIn e u).running = none ∧ u.brl.aborts = s.brl.aborts + 1
      ∧ (wsOn u.toDev e).all (·.void) = true))
  ∧ (∀ (acc : Access) (e : Engine) (c : Cmd) (p : ProgEntry) (s : State), regGoes acc (70 + e.val) 8 s = true → (acc.world = .K ∨ acc.world = .C) →
    (engIn e s).stopping = false → runsOn e c p s → EndsWith (exec (.engineAbort acc e) s) c.cid resRetry (fun _ => True))
  ∧ (∀ (e : Engine) (s : State), (engIn e s).stopping = true → (engIn e s).out = false → (engIn e s).katDue = false → noJobs s = true →
    blkResetting s.toDev (.barrel e) = false → (engIn e s).heldRole = none →
    Gives (exec (.engineAbortDone e) s) (fun u => engIn e u = { engIn e s with
      stopping := false, aborting := false, running := none, direct := [], guards := (engIn e u).guards }))
  ∧ (∀ (sp : Engine) (r : Role) (s : State), isSpare s.toDev sp = true → inHandover s.toDev sp = false → engInService s.toDev sp = true →
    (roleIn r s).engine = none → s.brl.rollHold ≠ some sp.val → s.brl.rollFor ≠ some r.val → logRoom s = true →
    Gives (exec (.spareRoleTake sp r true) s) (fun u => (roleIn r u).engine = some sp ∧ (engIn sp u).image = (roleIn r s).image
      ∧ (engIn sp u).len = (roleIn r s).len ∧ logged 0x7120 0x8B (roleIn r s).removed sp r u = true)
    ∧ Gives (exec (.spareRoleTake sp r false) s) (fun u => (engIn sp u).out = true ∧ (roleIn r u).engine = none))
  ∧ (∀ (r : Role) (o sp : Engine) (cid : Nat) (s : State), (roleIn r s).handover = some (sp, cid) → (roleIn r s).engine = some o → o ≠ sp →
    engIdle s.toDev o = true → engInService s.toDev sp = true → logRoom s = true →
    Gives (exec (.handoverMove r) s) (fun u => (roleIn r u).engine = some sp ∧ (roleIn r u).handover = none
      ∧ (wsOn u.toDev o).isEmpty = true ∧ logged 0x7120 0x8B o sp r u = true))
  ∧ (∀ (e : Engine) (s : State), (engIn e s).out = false →
    Gives (exec (.barrelKatDue e) s) (fun u => engIn e u = (if engIdle s.toDev e then { engIn e s with running := some 0, katDue := false }
      else { engIn e s with katDue := true })))
  ∧ (∀ (e sp : Engine) (r : Nat) (s : State), roleHeld s.toDev e = some r → (engIn e s).katDue = true → (roleIn r s).engine = some e →
    (roleIn r s).handover = none → (sparesFree s.toDev).head? = some sp →
    Gives (exec (.katHandoverTimeout e) s) (fun u => (roleIn r u).handover = some (sp, 0) ∧ (engIn sp u).image = (engIn e s).image))
  ∧ (∀ (cid : Nat) (hr : HostRead) (i : ImageRec) (s : State), starts 0x0152 cid hr s = true → zeroFrom cid 64 s = true → noHandles cid s = true →
    imageGood cid hr i s → rwpVal s.toDev rwpUcodeMinsv ≤ i.svn → s.brl.rollPhase = 0 → keepOnly s.toDev = false →
    rwpRefused s.toDev rwpUcodeMinsv = none → logRoom s = true →
    if ucodeSigned (inputOf cid hr s) then Gives (exec (.ucodeInstall cid hr) s) (fun u => (theCmd cid u).stage = .running ∧ u.brl.rollPhase = 1
      ∧ u.brl.rollCid = some cid ∧ imageOf u.toDev (!s.brl.selectB) = some i)
    else EndsWith (exec (.ucodeInstall cid hr) s) cid (resErr 0x0103 0x040D) (fun u => u.brl = s.brl
      ∧ logged 0x4133 0x8B 5 (curVersion s.toDev) i.version.toNat u = true))
  ∧ (∀ (e : Nat) (s : State), s.brl.rollPhase = 1 → s.brl.rollHold = none → s.die.safe = false → s.tmp.hold = false → (rollSpares s.toDev).find? (engIdle s.toDev) = some e →
    logRoom s = true →
    Gives (exec (.ucodeRollStep true) s) (fun u => (engIn e u).image = !s.brl.selectB
      ∧ logged 0x4132 0x8B e 0x1F (newVersion s.toDev) u = true)
    ∧ Gives (exec (.ucodeRollStep false) s) (fun u => u.brl.rollPhase = 3 ∧ u.brl.rollHold = some e ∧ u.brl.rollRetest = true
      ∧ u.brl.rollRes = some (resErr 0x0103 0x040E)))
  ∧ (∀ (cid : Nat) (res : Res) (pass : Bool) (s : State), rollDone s = true → s.brl.rollCid = some cid → (theCmd cid s).stage = .running →
    (cmdOf? s.toDev cid).isSome = true → logRoom s = true →
    (s.brl.rollPhase = 2 → EndsWith (exec (.ucodeRollStep pass) s) cid resOk (fun u => u.brl.rollPhase = 0
      ∧ u.brl.selectB = !s.brl.selectB ∧ logged 0x4133 0x8B 2 (curVersion s.toDev) (newVersion s.toDev) u = true))
    ∧ (s.brl.rollPhase = 3 → s.brl.rollRes = some res → EndsWith (exec (.ucodeRollStep pass) s) cid res (fun u => u.brl.rollPhase = 0
      ∧ imageOf u.toDev (!s.brl.selectB) = none ∧ logged 0x4133 0x8B 3 (curVersion s.toDev) (newVersion s.toDev) u = true)))

/-! ## The vault (chapter 10) -/

/-- The session of a VLT command carries commands of its kind, the command no handles (R239), and it has its turn at the engine
(R256); a hook waits for none. -/
def vltGood (cid : Nat) (hook : Bool) (s : State) : Bool :=
  let x := tget s.hif.sess ((theCmd cid s).session.toNat % 65536) {}
  noHandles cid s && (!isHost (theCmd cid s) || !(if hook then x.otherVlt else x.hook)) && (hook || vltFirst s.toDev (theCmd cid s))

def partIn (p : Nat) (s : State) : Part := partOf s.toDev p

/-- The block that a data command names, in a partition of its owner that is online (R225, R226, R259), with no group of its
being rekeyed. -/
def blockOf (cid : Nat) (s : State) : Nat := param cid 64 8 s
def dataGood (cid : Nat) (s : State) : Bool :=
  let b := blockOf cid s
  let x := partIn (b / 2 ^ 36) s
  zeroFrom cid 72 s && decide (b < 2 ^ 42) && x.owner != 0 && x.owner != 0x80 && (theCmd cid s).owner == ⟨.T, x.owner⟩
    && !s.vlt.rollback && s.vlt.ready && x.state == 3 && (rekeying s.toDev (b / 64)).isNone

/-- The L1 node above the block stands in the cache (R231, R236). -/
abbrev leafIs (b : Nat) (n : Node) (s : State) : Prop := nodeIn s.toDev 1 (b / 64) = some n

/-- A request that the host has been given, and the answer's form (R241, R243). -/
def answers (cid : Nat) (hr : HostRead) (r : VReq) (s : State) : Bool :=
  s.vlt.reqs.find? (fun x => x.id == param cid 64 4 s && x.posted && x.supply.isNone && x.fn == cmdFn (theCmd cid s)
      && (x.kind != 3 || rekeyAlive s.toDev x)) == some r
    && vltGood cid false s && !dataOpen s.toDev (theCmd cid s) && zeroIn cid 69 72 s && zeroFrom cid 80 s && param cid 68 1 s == r.kind
    && (theCmd cid s).inLen == (supplyLen r).1 && supplyZero r (chunks (supplyLen r).2 (inputOf cid hr s))
    && supplyMatches r (chunks (supplyLen r).2 (inputOf cid hr s))
def entriesOf (cid : Nat) (hr : HostRead) (r : VReq) (s : State) : List Bytes := chunks (supplyLen r).2 (inputOf cid hr s)

/-- What is left of the requests once one has been answered. -/
def withoutReq (id : Nat) (s : State) : List VReq := s.vlt.reqs.filter (fun r => r.id != id)

/-- Nothing waits for the nodes that a NODE_FETCH of the partition brings: no load, commit or forced write-back. -/
def idleFetch (p : Nat) (s : State) : Bool := (partIn p s).state != 2 && !commitHolds s.toDev && !s.vlt.forcing

/-- No supply of a REKEY_GROUP is held for a commit's step 3. -/
def noneHeld (s : State) : Bool := s.vlt.reqs.all (fun r => r.supply.isNone)
def noPendingGen (s : State) : Bool := s.vlt.parts.all (fun p => !p.2.pendingGen)

/-- R95, R225 to R229, R233, R240, R241, R243 to R247, R255: blocks are read and written, requests posted, answered and timed. -/
def Obligations.VaultDataRuns : Prop :=
  (∀ (cid : Nat) (hr : HostRead) (n : Node) (s : State), starts 0x0701 cid hr s = true → vltGood cid false s = true → dataGood cid s = true →
    4096 ≤ (theCmd cid s).outCap → blockBusy s.toDev (theCmd cid s) (blockOf cid s) = false →
    (partIn (blockOf cid s / 2 ^ 36) s).suspect.contains (blockOf cid s / 64 ^ 4) = false → leafIs (blockOf cid s) n s →
    ((theCmd cid s).inLen = 0 ∨ (theCmd cid s).inLen = 4128) →
    (nBlank n (blockOf cid s % 64) = true → EndsWith (exec (.vaultRead cid hr) s) cid { resOut (zeros 4096) with status := 0x0202 } (fun u =>
      u.vlt.reads = s.vlt.reads + 1 ∧ u.vlt.integrity = s.vlt.integrity))
    ∧ (nBlank n (blockOf cid s % 64) = false → (theCmd cid s).inLen = 4128 →
      EndsWith (exec (.vaultRead cid hr) s) cid (match blockOpen s.toDev (blockOf cid s) n.major (nMinor n (blockOf cid s % 64)) (inputOf cid hr s) with
        | some pt => resOut pt
        | none => resErr 0x0201 0) (fun u => u.vlt.reads = s.vlt.reads + 1))
    ∧ (nBlank n (blockOf cid s % 64) = false → (theCmd cid s).inLen = 0 → logRoom s = true →
      EndsWith (exec (.vaultRead cid hr) s) cid (resErr 0x0201 0) (fun u => u.vlt.integrity = s.vlt.integrity + 1
        ∧ logged 0x3301 0x48 0 (blockOf cid s / 2 ^ 32 % 1024) (blockOf cid s % 2 ^ 32) u = true)))
  ∧ (∀ (cid : Nat) (hr : HostRead) (n : Node) (s : State), starts 0x0702 cid hr s = true → vltGood cid false s = true → dataGood cid s = true →
    (theCmd cid s).inLen = 4096 → 4128 ≤ (theCmd cid s).outCap → (partIn (blockOf cid s / 2 ^ 36) s).pendingGen = false →
    (partIn (blockOf cid s / 2 ^ 36) s).exhausted = false → s.vlt.commit = none → dirtyLines s.toDev < 196608 → leafIs (blockOf cid s) n s →
    (partIn (blockOf cid s / 2 ^ 36) s).gen ≤ nGen n →
    (nMinor n (blockOf cid s % 64) < 63 →
      EndsWith (exec (.vaultWrite cid hr) s) cid (resOut (blockEntry s.toDev (blockOf cid s) s.vlt.openEpoch n.major
        (nMinor n (blockOf cid s % 64) + 1) (inputOf cid hr s))) (fun u =>
        leafIs (blockOf cid s) (nSetMinor n (blockOf cid s % 64) (nMinor n (blockOf cid s % 64) + 1)) u ∧ u.vlt.writes = s.vlt.writes + 1))
    ∧ (nMinor n (blockOf cid s % 64) = 63 → nCount n + 1 < 2 ^ 48 →
      Gives (exec (.vaultWrite cid hr) s) (fun u => (theCmd cid u).waitOn = [reqWait s.vlt.nextReq] ∧ u.vlt.reqs.length = s.vlt.reqs.length + 1
        ∧ u.vlt.reqs.getLast?.map (fun r => (r.kind, r.index, r.mask, r.waiters))
          = some (3, blockOf cid s / 64, BitVec.ofNat 64 (maskOf (groupMask n (blockOf cid s % 64))), [cid]))))
  ∧ (∀ (entry : Nat) (r : Bytes) (l : List (Nat × Bytes)) (n : Node) (s : State), s.ks.spillBuf = (entry, r) :: l → s.ks.asks = [] → (partIn 63 s).state = 3 →
    (rekeying s.toDev (spillBlock entry / 64)).isNone = true → leafIs (spillBlock entry) n s → 1 ≤ nGen n → nMinor n (spillBlock entry % 64) < 63 →
    Gives (exec .spillRecordWrite s) (fun u => u.ks.spillBuf = s.ks.spillBuf.filter (fun p => p.1 != entry) ∧ u.vlt.writes = s.vlt.writes + 1
      ∧ u.vlt.reqs.getLast?.map (fun q => (q.kind, q.index, q.epoch)) = some (5, spillBlock entry, s.vlt.openEpoch)))
  ∧ (∀ (cid : Nat) (hr : HostRead) (s : State), starts 0x0703 cid hr s = true → vltGood cid true s = true → zeroFrom cid 64 s = true →
    8192 ≤ (theCmd cid s).outCap →
    Gives (exec (.vaultHook cid hr) s) (fun u => (theCmd cid u).stage = .running
      ∧ (isHost (theCmd cid s) = true → (tget u.hif.sess ((theCmd cid s).session.toNat % 65536) {}).hook = true)))
  ∧ (∀ (r : VReq) (h : Cmd) (s : State), (refillKeys s.toDev).isEmpty = true → s.vlt.reqs.all (fun r => r.kind != 3 || rekeyAlive s.toDev r) = true →
    s.vlt.reqs.find? (fun r => !r.posted && !r.held && (hookOf s.toDev r.fn).isSome) = some r → hookOf s.toDev r.fn = some h →
    cmdOf? s.toDev h.cid = some h →
    EndsWith (exec .vaultRequestPost s) h.cid ⟨0, BitVec.ofNat 16 r.kind, (reqBytes s.toDev r).length, BitVec.ofNat 32 r.id, reqBytes s.toDev r⟩
      (fun u => u.vlt.reqs = (if r.kind = 2 ∨ r.kind = 5 then withoutReq r.id s
        else s.vlt.reqs.map (fun x => if x.id = r.id then { x with posted := true } else x))))
  ∧ (∀ (r : VReq) (s : State), s.vlt.reqs.find? (fun x => x.id == r.id && x.posted && x.supply.isNone && [1, 3, 4, 7].contains x.kind) = some r → logRoom s = true →
    Gives (exec (.vaultRequestTimeout r.id) s) (fun u => logged 0x3303 0x48 r.fn r.kind r.id u = true
      ∧ (r.kind ≠ 7 → (r.kind = 1 → idleFetch r.part s = true) → u.vlt.reqs = withoutReq r.id s)
      ∧ (r.kind = 7 → u.vlt.reqs = s.vlt.reqs.map (fun x => if x.id = r.id then { x with posted := false, held := true } else x))))
  ∧ (∀ (id cid : Nat) (r : VReq) (s : State), s.vlt.reqs.find? (fun x => x.id == id && x.posted && x.supply.isNone && [1, 3, 4, 7].contains x.kind) = some r → r.kind ≠ 7 →
    (theCmd cid s).waitOn.contains (reqWait r.id) = true → isDone (theCmd cid s) = false →
    EndsWith (exec (.vaultRequestTimeout id) s) cid (resErr 0x0105 0x0712) (fun _ => True))
  ∧ (∀ (id : Nat) (s : State), Gives (exec (.attachRepost id) s) (fun u =>
      u.vlt.reqs = s.vlt.reqs.map (fun r => if r.id = id ∧ r.held = true then { r with held := false } else r)))
  ∧ (∀ (fn : Fn) (s : State), starving s.toDev fn ≠ [] → s.vlt.starvedLogged.contains fn.val = false → logRoom s = true →
    Gives (exec (.hookStarved fn) s) (fun u => u.vlt.starvedLogged = s.vlt.starvedLogged ++ [fn.val]
      ∧ logged 0x3304 0x48 fn (starving s.toDev fn).length 0 u = true))
  ∧ (∀ (cid : Nat) (hr : HostRead) (r : VReq) (s : State), starts 0x0704 cid hr s = true → answers cid hr r s = true →
    (r.kind = 1 → param cid 72 8 s = 0 → idleFetch r.part s = true → (supplyNodes (entriesOf cid hr r s) 0 r.nodes s.toDev).1 = none →
      EndsWith (exec (.vaultSupply cid hr) s) cid resOk (fun u => u.vlt.reqs = withoutReq r.id s
        ∧ u.vlt.cache = (supplyNodes (entriesOf cid hr r s) 0 r.nodes s.toDev).2.vlt.cache))
    ∧ (r.kind = 7 → param cid 72 8 s = 0 → (partIn r.part s).state = 1 → loadMissing s.toDev r.part = [] →
      EndsWith (exec (.vaultSupply cid hr) s) cid resOk (fun u => u.vlt.reqs = withoutReq r.id s ∧ partIn r.part u = { partIn r.part s with state := 3 }))
    ∧ (r.kind = 6 → BitVec.ofNat 64 (param cid 72 8 s) &&& ~~~r.mask = 0 → (withoutReq r.id s).any (fun x => x.kind == 6) = true →
      EndsWith (exec (.vaultSupply cid hr) s) cid resOk (fun u => u.vlt.reqs = withoutReq r.id s
        ∧ u.vlt.commit = s.vlt.commit.map (fun m => { m with answered := m.answered ||| BitVec.ofNat 64 (param cid 72 8 s) }))))
  ∧ (∀ (cid : Nat) (hr : HostRead) (r : VReq) (n : Node) (pts : List (Nat × Bytes)) (s : State), starts 0x0704 cid hr s = true →
    answers cid hr r s = true → r.kind = 3 → param cid 72 8 s = 0 → 264192 ≤ (theCmd cid s).outCap → nodeIn s.toDev 1 r.index = some n →
    r.waiters.contains cid = false → commitHolds s.toDev = false →
    rekeyOpen s.toDev r n (entriesOf cid hr r s) = .ok pts →
    EndsWith (exec (.vaultSupply cid hr) s) cid (resOut (rekeyDone r n pts s.toDev).1) (fun u => u.vlt.rekeys = s.vlt.rekeys + 1))
  ∧ (∀ (cid : Nat) (hr : HostRead) (r : VReq) (n : Node) (k : Key) (s : State), starts 0x0704 cid hr s = true → answers cid hr r s = true →
    r.kind = 4 → param cid 72 8 s = 0 → leafIs r.index n s → nBlank n (r.index % 64) = true → keyIn (r.index % 2 ^ 36) s = some k → k.spilled = true →
    (theCmd cid s).waitOn = [] → EndsWith (exec (.vaultSupply cid hr) s) cid resOk (fun u => (keyIn (r.index % 2 ^ 36) u).map (·.lost) = some true))

/-- Step 2 of a commit of the open epoch: its dirty lines written back, lowest level first (R249). -/
def linesBack (s : State) : Dev :=
  writeBackLoop s.vlt.openEpoch commitLine (6 * s.vlt.cache.length + 1)
    (onVlt (fun v => { v with
      commit := some ⟨v.openEpoch, 1, v.pending, v.pendingReg, 0, []⟩, openEpoch := v.openEpoch + 1, pending := [], pendingReg := false }) s.toDev
      |> forAll s.vlt.pending (fun cid => onCmd cid (fun c => { c with scratch := [1] })) |> logStuck)

/-- A forced write-back: dirty lines that are not pinned, least recently used first, down to 96,744 of them (R237). -/
def dirtyBack (s : State) : Dev :=
  writeBackLoop (storeEpoch s.toDev) forcedLine (3 * s.vlt.cache.length) s.toDev

/-- R227, R237, R249, R250, R253, R264: epochs are committed, partitions made and destroyed, lines written back. -/
def Obligations.VaultEpochsRun : Prop :=
  (∀ (cid : Nat) (hr : HostRead) (s : State), starts 0x0705 cid hr s = true → vltGood cid false s = true → zeroFrom cid 64 s = true →
    (cmdFn (theCmd cid s) = 0 ∨ partsOf s.toDev (cmdFn (theCmd cid s)) ≠ []) →
    Gives (exec (.epochCommit cid hr) s) (fun u => (theCmd cid u).stage = .running ∧ u.vlt.pending = s.vlt.pending ++ [cid]))
  ∧ (∀ (acc : Access) (s : State), regGoes acc 89 0x040 s = true → (acc.world = .K ∨ acc.world = .C) →
    Gives (exec (.epochCmdCommit acc) s) (fun u => u.vlt.pendingReg = true))
  ∧ (∀ (s : State), s.vlt.commit = none → s.vlt.ready = true → (s.vlt.pending ≠ [] ∨ s.vlt.pendingReg = true) → noneHeld s = true →
    (commitLine (linesBack s)).isNone = true →
    (commitAsk (linesBack s) ≠ [] → Gives (exec .epochCommitStart s) (fun u =>
      u.vlt.commit.map (fun m => (m.epoch, m.step, m.joined, m.answered)) = some (s.vlt.openEpoch, 5, s.vlt.pending, 0)
        ∧ u.vlt.openEpoch = s.vlt.openEpoch + 1 ∧ u.vlt.pending = [] ∧ u.vlt.cache = (linesBack s).vlt.cache
        ∧ u.vlt.reqs.length = (linesBack s).vlt.reqs.length + (commitAsk (linesBack s)).length))
    ∧ (commitAsk (linesBack s) = [] → keepOnly s.toDev = false → noPendingGen s = true → s.vlt.rollback = false → Gives (exec .epochCommitStart s) (fun u => u.vlt.commit = none
        ∧ u.vlt.lastEpoch = s.vlt.openEpoch ∧ u.vlt.commits = s.vlt.commits + 1 ∧ u.bat.hint = s.vlt.openEpoch ∧ u.vlt.cache = (linesBack s).vlt.cache)))
  ∧ (∀ (cid : Nat) (s : State), s.vlt.commit = none → s.vlt.ready = true → s.vlt.pending = [cid] → noneHeld s = true → (s.vlt.cache.all (fun l => !l.dirty)) = true →
    commitAsk s.toDev = [] → keepOnly s.toDev = false → (theCmd cid s).stage = .running → (cmdOf? s.toDev cid).isSome = true →
    ((theCmd cid s).outCap < 16 →
      EndsWith (exec .epochCommitStart s) cid ⟨0, 0, 0, BitVec.ofNat 32 s.vlt.openEpoch, []⟩ (fun u => u.vlt.commit = none))
    ∧ (16 ≤ (theCmd cid s).outCap → EndsWith (exec .epochCommitStart s) cid
        ⟨0, 0, 16, BitVec.ofNat 32 s.vlt.openEpoch, natLE s.vlt.openEpoch 8 ++ zeros 8⟩ (fun u => u.vlt.commit = none)))
  ∧ (∀ (m : CommitS) (s : State), s.vlt.commit = some m → m.step = 5 → keepOnly s.toDev = false → noPendingGen s = true →
    Gives (exec .commitWaitTimeout s) (fun u => u.vlt.commit = none ∧ u.vlt.lastEpoch = m.epoch ∧ u.vlt.commits = s.vlt.commits + 1
      ∧ u.vlt.ringSlot = m.epoch % 4096))
  ∧ (∀ (p : Nat) (m : CommitS) (s : State), s.vlt.commit = some m → m.step = 5 → keepOnly s.toDev = false → p < 63 → m.answered.getLsbD p = true →
    rootStuck p s.vlt.root = false →
    Gives (exec .commitWaitTimeout s) (fun u => (partIn p u).committed = m.epoch ∧ (partIn p u).suspect = []))
  ∧ (∀ (s : State), dirtyUnpinned s.toDev ≤ 128992 → s.vlt.forcing = false → Gives (exec .forcedWriteBack s) (fun u => u = s))
  ∧ (∀ (l : Line) (m : List (Nat × Nat)) (s : State), 128992 < dirtyUnpinned s.toDev → lruLine s.toDev (fun l => l.dirty && !isPinned l && !lineStuck s.toDev l) = some l →
    writeBack (storeEpoch s.toDev) l.level l.index s.toDev = .error m →
    Gives (exec .forcedWriteBack s) (fun u => u.vlt.reqs = (fetchReq (nodePart l.level l.index) m s.toDev).2.vlt.reqs ∧ u.vlt.cache = s.vlt.cache))
  ∧ (∀ (s : State), 128992 < dirtyUnpinned s.toDev → dirtyUnpinned (dirtyBack s) ≤ 96744 →
    Gives (exec .forcedWriteBack s) (fun u => dirtyUnpinned u.toDev ≤ 96744 ∧ u.vlt.cache = (dirtyBack s).vlt.cache ∧ u.vlt.reqs = (dirtyBack s).vlt.reqs))
  ∧ (∀ (cid : Nat) (hr : HostRead) (p o : Nat) (s : State), starts 0x0160 cid hr s = true → zeroFrom cid 66 s = true → noHandles cid s = true →
    p = param cid 64 1 s → p ≤ 62 → o = param cid 65 1 s → ((1 ≤ o ∧ o ≤ 63 ∧ s.hif.bound.contains o = true) ∨ o = 0x80) → (partIn p s).owner = 0 →
    keepOnly s.toDev = false → s.vlt.ready = true → s.vlt.commit = none → dirRoom s.toDev worldK = true → persRoom s.toDev worldK = true →
    slotsPinned s.toDev + spanOf 32 ≤ 49152 → spanOf 32 ≤ slotsFree s.toDev → canDraw s = true →
    EndsWith (exec (.partCreate cid hr) s) cid resOk (fun u => (partIn p u).owner = o ∧ (partIn p u).state = 3 ∧ (partIn p u).gen = 1
      ∧ (partIn p u).key.length = 32 ∧ nodeIn u.toDev 6 p = some {} ∧ u.vlt.lastEpoch = s.vlt.openEpoch ∧ u.ks.keys.length = s.ks.keys.length + 1))
  ∧ (∀ (cid : Nat) (hr : HostRead) (p : Nat) (s : State), starts 0x0161 cid hr s = true → zeroFrom cid 65 s = true → noHandles cid s = true →
    p = param cid 64 1 s → p ≤ 62 → (partIn p s).owner ≠ 0 → keepOnly s.toDev = false → s.vlt.ready = true → s.vlt.commit = none → partBusy s.toDev p = false →
    EndsWith (exec (.partDestroy cid hr) s) cid resOk (fun u => (partIn p u).owner = 0 ∧ nodeIn u.toDev 6 p = none
      ∧ u.vlt.lastEpoch = s.vlt.openEpoch))

/-! ## The tamper envelope and the battery domain (chapter 15) -/

/-- A trip of this class and instance is watched and not standing (R414, R415). -/
def tripReady (cls inst : Nat) (s : State) : Bool := seqWatches s.toDev cls inst && !s.tmp.trips.contains (cls, inst)

/-- What every response of grade 1 to 3 leaves (R415, R418, R430). -/
abbrev responded (cls inst g : Nat) (s u : State) : Prop :=
  u.tmp.trips.contains (cls, inst) = true ∧ u.tmp.tripCount = s.tmp.tripCount + 1 ∧ u.tmp.responses = s.tmp.responses + 1
    ∧ u.tmp.last = BitVec.ofNat 32 (cls * 65536 + inst % 256 * 256 + g) ∧ u.bat.mask.getLsbD cls = true

/-- The classes that TMP_GRADE_SET grades; OPERATIONAL admits neither a lower grade nor a loop switched off (R419). -/
def gradeClasses : List Nat := [0, 2, 3, 4, 5, 6, 7, 8, 9, 10, 11, 12, 13, 14]
def gradesMay (g loops : Nat) (s : State) : Bool :=
  s.lc.state != .operational
    || (gradeClasses.all (fun k => decide (gradeIn (rwpVal s.toDev rwpGrades) k ≤ gradeIn (BitVec.ofNat 32 g) k))
      && (List.range 4).all (fun n => !(rwpVal s.toDev rwpLoopCfg).toNat.testBit n || loops.testBit n))

/-- R414 to R428, R434: trips and their responses, conditions that clear, mesh samples, calibration, grades and the clock. -/
def Obligations.TamperResponds : Prop :=
  (∀ (c : TamperClass) (i : Nat) (v : BitVec 32) (s : State), tripReady c i s = true → c.val ≠ 1 → tripGrade s.toDev c v.toNat = 0 → logRoom s = true →
    Gives (exec (.tamperTrip c i v) s) (fun u => u.tmp.trips.contains (c.val, i) = true ∧ u.tmp.responses = s.tmp.responses
      ∧ logged 0x1101 0x85 c i v.toNat u = true))
  ∧ (∀ (c : TamperClass) (i : Nat) (v : BitVec 32) (s : State), tripReady c i s = true → c.val = 1 → tripGrade s.toDev c v.toNat = 0 → logRoom s = true →
    Gives (exec (.tamperTrip c i v) s) (fun u => u.tmp.trips.contains (c.val, i) = true ∧ u.tmp.responses = s.tmp.responses ∧ u.bat.vbatMv = v.toNat
      ∧ (vbatOut v.toNat = true → vbatOut s.bat.vbatMv = false → logged 0x1231 0x86 v.toNat 0 0 u = true)
      ∧ (v.toNat < 2400 → 2400 ≤ s.bat.vbatMv → logged 0x1230 0x86 v.toNat 0 0 u = true)))
  ∧ (∀ (c : TamperClass) (i : Nat) (v : BitVec 32) (s : State), tripReady c i s = true → tripGrade s.toDev c v.toNat = 1 →
    Gives (exec (.tamperTrip c i v) s) (fun u => responded c i 1 s u ∧ u.tmp.hist.g1 = s.tmp.hist.g1 + 1
      ∧ (∀ r, r < 4 → tripScope c i = some r → regionUp s.toDev r = true → (regionOf u.toDev r).phase = .halted ∧ (regionOf u.toDev r).cause = 6)
      ∧ (tripScope c i = none → u.tmp.dieSafe = true ∧ u.die.safe = true)))
  ∧ (∀ (c : TamperClass) (i : Nat) (v : BitVec 32) (s : State), tripReady c i s = true → tripGrade s.toDev c v.toNat = 2 →
    Gives (exec (.tamperTrip c i v) s) (fun u => responded c i 2 s u ∧ u.tmp.hist.g2 = s.tmp.hist.g2 + 1 ∧ u.tmp.hold = true ∧ u.mem = []
      ∧ u.bat.envelope = s.bat.envelope))
  ∧ (∀ (c : TamperClass) (i : Nat) (v : BitVec 32) (s : State), tripReady c i s = true → tripGrade s.toDev c v.toNat = 3 →
    Gives (exec (.tamperTrip c i v) s) (fun u => responded c i 3 s u ∧ u.tmp.hist.g3 = s.tmp.hist.g3 + 1 ∧ u.mem = []
      ∧ u.bat.envelope = zeros 32 ∧ u.bat.keyErased = true))
  ∧ (∀ (c : TamperClass) (i : Nat) (s : State), batAlone s.toDev = true → batWatches s.toDev c i = true →
    Gives (exec (.batteryTamperTrip c i) s) (fun u => u.bat.mask.getLsbD c = true ∧ u.tmp = s.tmp
      ∧ ((c.val ≠ 1 → gradeIn s.bat.grades c = 3) → (c.val = 1 → s.bat.onVbat = true) → u.bat.keyErased = true ∧ u.bat.envelope = zeros 32)))
  ∧ (∀ (c : TamperClass) (i : Nat) (ms : BitVec 32) (s : State), s.tmp.trips.contains (c.val, i) = true → neverClears c = false → logRoom s = true →
    s.tmp.hold = false →
    Gives (exec (.tamperConditionClear c i ms) s) (fun u => u.tmp.trips = s.tmp.trips.filter (· != (c.val, i)) ∧ logged 0x1105 0x85 c i ms.toNat u = true))
  ∧ (∀ (c : TamperClass) (i : Nat) (ms : BitVec 32) (s : State), s.tmp.trips = [(c.val, i)] → neverClears c = false → s.tmp.hold = true →
    s.cpm.power = .ready → s.cpm.warmPending = none →
    Gives (exec (.tamperConditionClear c i ms) s) (fun u => u.tmp.trips = [] ∧ u.cpm.power = .closing ∧ u.cpm.warmPending.map (·.1) = some 3))
  ∧ (∀ (r : Region) (s : State), (regionOf s.toDev r).phase = .halted → (regionOf s.toDev r).cause = 6 → s.die.safe = false →
    scopeTripped s.toDev (some r.val) = false →
    Gives (exec (.g1ReinstateTimer (.region r)) s) (fun u => (regionOf u.toDev r).phase = .resetting))
  ∧ (∀ (s : State), s.tmp.dieSafe = true → s.tmp.hold = false → scopeTripped s.toDev none = false → s.cpm.power = .ready → s.cpm.warmPending = none →
    Gives (exec (.g1ReinstateTimer .die) s) (fun u => u.cpm.power = .closing ∧ u.cpm.warmPending.map (·.1) = some 6))
  ∧ (∀ (c : TamperClass) (i l : Nat) (s : State), meshWatched s.toDev c i = true → s.tmp.suspects.contains (c.val, i) = false →
    Gives (exec (.meshSample c i true l) s) (fun u => u.tmp.suspects = s.tmp.suspects ++ [(c.val, i)] ∧ u.tmp.trips = s.tmp.trips))
  ∧ (∀ (c : TamperClass) (i l : Nat) (s : State), s.tmp.suspects.contains (c.val, i) = true →
    Gives (exec (.meshConfirmSample c i false l) s) (fun u => u.tmp.suspects = s.tmp.suspects.filter (· != (c.val, i)) ∧ u.tmp.trips = s.tmp.trips)
    ∧ (batAlone s.toDev = false → tripReady c i s = true →
      Gives (exec (.meshConfirmSample c i true l) s) (fun u => u.tmp.trips.contains (c.val, i) = true ∧ u.tmp.tripCount = s.tmp.tripCount + 1)))
  ∧ (∀ (k : Sensor) (s : State), seqLive s.toDev = true → s.tmp.calibrating = none → s.tmp.heldOut.contains k.val = false → s.tmp.calCid = none →
    Gives (exec (.tempCalibration k) s) (fun u => u.tmp = { s.tmp with calibrating := some k.val, calPending := s.tmp.calPending.filter (· != k.val) }))
  ∧ (∀ (k : Sensor) (cid : Nat) (s : State), seqLive s.toDev = true → s.tmp.calibrating = none → s.tmp.heldOut.contains k.val = false →
    s.tmp.calCid = some cid →
    (s.tmp.calPending.head? = some k.val → Gives (exec (.tempCalibration k) s) (fun u =>
      u.tmp = { s.tmp with calibrating := some k.val, calPending := s.tmp.calPending.filter (· != k.val) }))
    ∧ (s.tmp.calPending.head? ≠ some k.val → Gives (exec (.tempCalibration k) s) (fun u => u.tmp = s.tmp)))
  ∧ (∀ (k : Sensor) (o : Int) (s : State), s.tmp.calibrating = some k.val → s.tmp.calCid = none →
    (o.natAbs ≤ 12 → Gives (exec (.tempCalibrationEnd k o) s) (fun u => u.tmp = { s.tmp with calibrating := none }))
    ∧ (12 < o.natAbs → logRoom s = true → Gives (exec (.tempCalibrationEnd k o) s) (fun u => u.tmp = { s.tmp with calibrating := none, heldOut := s.tmp.heldOut ++ [k.val] }
      ∧ logged 0x1250 0x85 k (BitVec.ofInt 32 o).toNat 0 u = true)))
  ∧ (∀ (k : Sensor) (o : Int) (cid : Nat) (s : State), s.tmp.calibrating = some k.val → s.tmp.calCid = some cid → s.tmp.calPending = [] →
    (theCmd cid s).stage = .running → (cmdOf? s.toDev cid).isSome = true →
    EndsWith (exec (.tempCalibrationEnd k o) s) cid resOk (fun u => u.tmp.calCid = none ∧ u.svc.count = s.svc.count + 1))
  ∧ (∀ (cid : Nat) (hr : HostRead) (w : Word32) (s : State), starts 0x0190 cid hr s = true → w = BitVec.ofNat 32 (param cid 64 4 s) →
    param cid 64 4 s < 2 ^ 30 → gradeIn w 1 = 0 → param cid 68 1 s < 16 → zeroFrom cid 69 s = true →
    (gradeClasses.all (fun k => decide (gradeFloor k ≤ gradeIn w k))) = true →
    gradesMay (param cid 64 4 s) (param cid 68 1 s) s = true → rwpRefused s.toDev rwpGrades = none → rwpRefused s.toDev rwpLoopCfg = none → logRoom s = true →
    EndsWith (exec (.tmpGradeSet cid hr) s) cid resOk (fun u => u.bat.grades = w ∧ u.bat.loops = param cid 68 1 s
      ∧ logged 0x1241 0x85 (rwpVal s.toDev rwpGrades).toNat (param cid 64 4 s) (param cid 68 1 s) u = true))
  ∧ (∀ (cid : Nat) (hr : HostRead) (s : State), starts 0x0191 cid hr s = true → zeroFrom cid 70 s = true → logRoom s = true →
    EndsWith (exec (.rtcSet cid hr) s) cid resOk (fun u => u.bat.rtc = BitVec.ofNat 48 (param cid 64 6 s)
      ∧ logged 0x1240 0x86 (s.bat.rtc.toNat % 2 ^ 32) (param cid 64 6 s % 2 ^ 32) 0 u = true))

/-! ## The event recorder (chapter 16) -/

/-- A flush of the buffer raises nothing to report: no stripe of its pages is lost or comes to a limit of its writes (R400,
R403), and no copy of a retain record overwrites another (R450). -/
def flushQuiet (s : State) : Bool :=
  (flushPages (s.evr.buf.map evClose) s.evr.retCount).all (fun id => !s.nvm.lostStripes.contains (stripeOf s.toDev id 0)
      && stripeWear s.nvm (stripeOf s.toDev id 0) != 899999 && stripeWear s.nvm (stripeOf s.toDev id 0) != 999999)
    && decide (count s.evr.buf (·.retain) ≤ retCap)
    && (List.range (count s.evr.buf (·.retain))).all (fun k => s.evr.ret.all (fun x => x.place != (s.evr.retCount + k) % retCap))

/-- What the recorder holds has been written: the buffer is empty, the general ring ends with a record of it, and its retain
records have their copies (R449, R450). -/
abbrev flushed (s u : State) : Prop :=
  u.evr.buf = [] ∧ u.evr.flushes = s.evr.flushes + 1 ∧ (u.evr.gen.getLast?.map (·.seq)) = s.evr.buf.getLast?.map (·.seq)
    ∧ u.evr.ret.length = s.evr.ret.length + count s.evr.buf (·.retain)

/-- What LOG_READ reads from: the recorder, flushed before where byte 65 asks for it; the records that it answers (R453). -/
def logReads (cid : Nat) (s : State) : Dev := if param cid 65 1 s = 1 then evrFlush s.toDev else s.toDev
def recordsRead (cid : Nat) (s : State) : List EvRec :=
  ((recordsFrom (logReads cid s) (param cid 64 1 s) (param cid 72 8 s)).filter (recVisible (theCmd cid s).fn)).take
    (min ((theCmd cid s).outCap / 32) 8192)

/-- R446 to R455: records are closed, written, verified, read, listed and cleared. -/
def Obligations.EventsAreRecorded : Prop :=
  (∀ (n : BitVec 40) (s : State), Gives (exec (.coalesceClose n) s) (fun u =>
      u.evr.buf = s.evr.buf.map (fun r => if r.seq = n.toNat then evClose r else r)))
  ∧ (∀ (s : State), s.evr.ready = true → s.evr.buf ≠ [] → keepOnly s.toDev = false → s.evr.supNon + s.evr.supRet = 0 →
    flushQuiet s = true → Gives (exec .eventFlush s) (flushed s))
  ∧ (∀ (s : State), s.evr.ready = true → s.evr.supNon + s.evr.supRet ≠ 0 → keepOnly s.toDev = false → flushQuiet s = true →
    Gives (exec .eventFlush s) (fun u => u.evr.supNon = 0 ∧ u.evr.supRet = 0 ∧ logged 0x0F05 0x87 s.evr.supNon s.evr.supRet 0 u = true))
  ∧ (∀ (s : State), s.evr.ready = true → s.evr.buf ≠ [] → keepOnly s.toDev = true →
    Gives (exec .eventFlush s) (fun u => u.evr = { s.evr with flushDue := true }))
  ∧ (∀ (acc : Access) (s : State), regGoes acc 179 8 s = true → (acc.world = .K ∨ acc.world = .C) → s.evr.buf ≠ [] → keepOnly s.toDev = false →
    s.evr.supNon + s.evr.supRet = 0 → flushQuiet s = true → Gives (exec (.evrFlush acc) s) (flushed s))
  ∧ (∀ (acc : Access) (s : State), regGoes acc 179 8 s = true → (acc.world = .K ∨ acc.world = .C) → s.evr.verifying = false →
    Gives (exec (.evrVerify acc) s) (fun u => u.evr = { s.evr with verifying := true, verifyCtl := true }))
  ∧ (∀ (s : State), s.evr.ready = true → s.evr.verifying = false →
    Gives (exec .logVerifyDaily s) (fun u => u.evr = { s.evr with verifying := true, verifyCtl := false }))
  ∧ (∀ (s : State), s.evr.verifying = true →
    (verifyArea (logKey s.toDev) 0 s.evr.gen = none → verifyArea (logKey s.toDev) 1 s.evr.ret = none →
      Gives (exec .logVerifyEnd s) (fun u => u.evr = { s.evr with verifying := false, verifyCtl := false })))
  ∧ (∀ (n k : Nat) (s : State), s.evr.verifying = true → verifyArea (logKey s.toDev) 0 s.evr.gen = some (n, k) → logRoom s = true →
    Gives (exec .logVerifyEnd s) (fun u => u.evr.chainBroken = true ∧ u.evr.verifying = false ∧ logged 0x1F01 0x87 0 (n % 2 ^ 32) k u = true))
  ∧ (∀ (n k : Nat) (s : State), s.evr.verifying = true → verifyArea (logKey s.toDev) 1 s.evr.ret = some (n, k) → logRoom s = true →
    Gives (exec .logVerifyEnd s) (fun u => u.evr.chainBroken = true ∧ u.evr.verifying = false ∧ logged 0x1F01 0x87 1 (n % 2 ^ 32) k u = true))
  ∧ (∀ (s : State), s.evr.ready = true → rwpRefused s.toDev rwpOpTime = none → rwpVal s.toDev rwpOpTime ≠ s.evr.opTime → s.nvm.rwpQueue.length < 64 →
    Gives (exec .opTimeSave s) (fun u => rwpVal u.toDev rwpOpTime = s.evr.opTime))
  ∧ (∀ (cid : Nat) (hr : HostRead) (s : State), starts 0x0A01 cid hr s = true → param cid 64 1 s ≤ 1 → param cid 65 1 s ≤ 1 →
    32 ≤ (theCmd cid s).outCap → (theCmd cid s).outCap % 32 = 0 → param cid 72 8 s < 2 ^ 40 → zeroIn cid 66 72 s = true → zeroFrom cid 80 s = true →
    EndsWith (exec (.logRead cid hr) s) cid { resOut ((recordsRead cid s).flatMap evBytes) with
      detail := BitVec.ofNat 16 (b2n (startLost (logReads cid s) (param cid 64 1 s) (param cid 72 8 s)))
      result := BitVec.ofNat 32 (recordsRead cid s).length } (fun u => u.evr = (logReads cid s).evr))
  ∧ (∀ (cid : Nat) (hr : HostRead) (s : State), starts 0x0A02 cid hr s = true → zeroFrom cid 64 s = true → (theCmd cid s).inPtr = 0 →
    (theCmd cid s).inLen = 0 → catalogBytes.length ≤ (theCmd cid s).outCap →
    EndsWith (exec (.logCatalog cid hr) s) cid { resOut catalogBytes with result := BitVec.ofNat 32 evCodes.length } (fun u => u.evr = s.evr))
  ∧ (∀ (cid : Nat) (hr : HostRead) (s : State), starts 0x01A0 cid hr s = true → param cid 64 1 s ≤ 1 → zeroFrom cid 65 s = true →
    keepOnly s.toDev = false → flushQuiet s = true → s.evr.supNon + s.evr.supRet = 0 →
    EndsWith (exec (.logClear cid hr) s) cid resOk (fun u => u.evr.clearGen = some (s.evr.nextSeq % 2 ^ 40)
      ∧ u.evr.clearRet = (if param cid 64 1 s = 1 then some (s.evr.nextSeq % 2 ^ 40) else s.evr.clearRet)))

/-! ## The persistent store (chapter 14) -/

/-- The stripes that hold pages of the records that are written out of place (R390, R403). -/
def movable (s : State) : List Nat := (s.nvm.recs.filter (fun p => !isFixedClass (recClass p.1))).flatMap (fun p => p.2.stripes)

/-- The stripe of a page, and a read of it that finds no page missing, sealed or lost (R392, R398). -/
abbrev pageStripe (id page : Nat) (s : State) : Nat := stripeOf s.toDev id page
def readable (id page : Nat) (s : State) : Bool :=
  s.nvm.ready && !pageBlank s.toDev id page && !pageSealed s.toDev id && !recLost s.toDev id

/-- R391 to R394, R398, R400: the pages of general records are written and read, and keep records raised. -/
def Obligations.RecordPagesRun : Prop :=
  (∀ (id : BitVec 32) (page t : Nat) (s : State), keepOnly s.toDev = false → isFixedClass (recClass id.toNat) = false →
    page + 1 < (recOf s.toDev id.toNat).pages → page = (recOf s.toDev id.toNat).writing.length → stripeLowest s.nvm = some t →
    Gives (exec (.nvmPageWrite id page true) s) (fun u =>
      recOf u.toDev id.toNat = { recOf s.toDev id.toNat with writing := (recOf s.toDev id.toNat).writing ++ [t] }
      ∧ stripeWear u.nvm t = stripeWear s.nvm t + 1 ∧ u.nvm.fgWrites = s.nvm.fgWrites + 1 ∧ u.mem = s.mem))
  ∧ (∀ (id : BitVec 32) (page t : Nat) (s : State), keepOnly s.toDev = false → isFixedClass (recClass id.toNat) = false →
    page + 1 = (recOf s.toDev id.toNat).pages → page = (recOf s.toDev id.toNat).writing.length → stripeLowest s.nvm = some t →
    Gives (exec (.nvmPageWrite id page true) s) (fun u =>
      recOf u.toDev id.toNat = { recOf s.toDev id.toNat with
        version := (recOf s.toDev id.toNat).version + 1, stripes := (recOf s.toDev id.toNat).writing ++ [t], writing := [], lost := false }))
  ∧ (∀ (id : BitVec 32) (page : Nat) (s : State), keepOnly s.toDev = false → isFixedClass (recClass id.toNat) = true →
    page < (recOf s.toDev id.toNat).pages →
    Gives (exec (.nvmPageWrite id page true) s) (fun u =>
      recOf u.toDev id.toNat = { recOf s.toDev id.toNat with version := (recOf s.toDev id.toNat).version + 1, lost := false }))
  ∧ (∀ (id : BitVec 32) (page b : Nat) (s : State), keepOnly s.toDev = false → isFixedClass (recClass id.toNat) = true →
    page < (recOf s.toDev id.toNat).pages → (recOf s.toDev id.toNat).writing = [] → bankAt s.nvm 0 (pageStripe id.toNat page s) = some b →
    logRoom s = true → Gives (exec (.nvmPageWrite id page false) s) (fun u =>
      recOf u.toDev id.toNat = { recOf s.toDev id.toNat with version := (recOf s.toDev id.toNat).version + 1, lost := false }
        ∧ (bankOf u.toDev b).spareRows = (bankOf s.toDev b).spareRows + 1
        ∧ logged 0x4020 0x81 (0x81 + 256 * b) (pageStripe id.toNat page s) 0 u = true))
  ∧ (∀ (id : BitVec 32) (page : Nat) (ok : Bool) (s : State), keepOnly s.toDev = true →
    Gives (exec (.nvmPageWrite id page ok) s) (fun u => u = s))
  ∧ (∀ (id : BitVec 32) (page p b : Nat) (s : State), readable id.toNat page s = true → missingAt s.nvm (pageStripe id.toNat page s) = [] →
    p < 8 → bankAt s.nvm p (pageStripe id.toNat page s) = some b →
    ((List.range 8).all (fun q => q == p || bankAt s.nvm q (pageStripe id.toNat page s) != some b)) = true →
    Gives (exec (.nvmPageRead id page []) s) (fun u =>
      (bankOf u.toDev b).chunks = (bankOf s.toDev b).chunks + 1 ∧ u.nvm.recs = s.nvm.recs ∧ u.mem = s.mem))
  ∧ (∀ (id : BitVec 32) (page : Nat) (bad : List Nat) (s : State), readable id.toNat page s = true →
    ((recsAt s.toDev (pageStripe id.toNat page s)).any (fun p => p.1 == id.toNat)) = true → bad.Nodup → bad.all (· < 10) = true → bad.length = 3 →
    Gives (exec (.nvmPageRead id page bad) s) (fun u => recLost u.toDev id.toNat = true
      ∧ u.nvm.lostStripes.contains (pageStripe id.toNat page s) = true))
  ∧ (∀ (id : Nat) (s : State), isKeepId id = true →
    Gives (exec (.keepRecordWrite id) s) (fun u => (tget u.nvm.keep id {}).version = (tget s.nvm.keep id {}).version + 1 ∧ u.nvm.recs = s.nvm.recs ∧ u.mem = s.mem))

/-- R397 to R404, R409, R9: banks, rebuilds, scrub, wear and the commits of persistent registers. -/
def Obligations.StoreMaintenanceRuns : Prop :=
  (∀ (b : Bank) (s : State), (bankOf s.toDev b).out = false → s.nvm.positions.contains (some b.val) = false →
    (s.nvm.rebuilds.any (fun r => r.target == b.val)) = false → logRoom s = true →
    Gives (exec (.bankNoResponse b) s) (fun u => (bankOf u.toDev b).out = true ∧ (bankOf u.toDev b).cause = 1
      ∧ logged 0x3201 0x81 b 0xFF 1 u = true))
  ∧ (∀ (b : Bank) (s : State), (bankOf s.toDev b).out = false →
    Gives (exec (.bankNoResponse b) s) (fun u => (bankOf u.toDev b).out = true ∧ (bankOf u.toDev b).cause = 1
      ∧ u.nvm.positions = s.nvm.positions.map (fun x => if x == some b.val then none else x)))
  ∧ (∀ (w : Fin 2) (r : Rebuild) (s : State), dieRuns s.toDev = true → s.nvm.rebuilds[w.val]? = some r → r.done + 1 < 65536 →
    Gives (exec (.rebuildStripe w false) s) (fun u => u.nvm.rebuilds[w.val]? =
        some { r with done := r.done + 1, checkpoint := if (r.done + 1) % 4096 = 0 then r.done + 1 else r.checkpoint }
      ∧ u.nvm.bgChunks = s.nvm.bgChunks + 1 ∧ u.nvm.recs = s.nvm.recs))
  ∧ (∀ (w : Fin 2) (r : Rebuild) (s : State), dieRuns s.toDev = true → s.nvm.rebuilds[w.val]? = some r → r.done + 1 = 65536 →
    r.position < s.nvm.positions.length →
    Gives (exec (.rebuildStripe w false) s) (fun u => u.nvm.positions[r.position]? = some (some r.target)))
  ∧ (∀ (w : Fin 2) (r : Rebuild) (s : State), dieRuns s.toDev = true → s.nvm.rebuilds[w.val]? = some r →
    Gives (exec (.rebuildStripe w true) s) (fun u => u.nvm.lostStripes.contains r.done = true))
  ∧ (∀ (n : Nat) (s : State), dieRuns s.toDev = true → s.nvm.scrubPos + 1 < 786432 → (bankOf s.toDev (s.nvm.scrubPos / 65536)).out = false →
    Gives (exec (.scrubChunk (some n)) s) (fun u => u.nvm.scrubPos = s.nvm.scrubPos + 1
      ∧ (bankOf u.toDev (s.nvm.scrubPos / 65536)).chunks = (bankOf s.toDev (s.nvm.scrubPos / 65536)).chunks + 1
      ∧ u.nvm.corrected = (if n = 0 then s.nvm.corrected else s.nvm.corrected + 1)
      ∧ u.nvm.rewrites = (if 4 ≤ n then s.nvm.rewrites + 1 else s.nvm.rewrites)))
  ∧ (∀ (c : Option Nat) (s : State), dieRuns s.toDev = true → s.nvm.scrubPos = 786431 →
    Gives (exec (.scrubChunk c) s) (fun u => u.nvm.scrubPos = 0 ∧ u.nvm.scrubStart = s.cpm.timebase ∧ u.nvm.scrubUrgent = false))
  ∧ (∀ (h : Nat) (s : State), 24 < h → s.nvm.scrubUrgent = false → logRoom s = true →
    Gives (exec (.scrubUrgent h) s) (fun u => u.nvm = { s.nvm with scrubUrgent := true, scrubLag := h } ∧ logged 0x3220 0x81 h 0 0 u = true))
  ∧ (∀ (a t : Nat) (s : State), (movable s).contains a = true → (∀ x ∈ movable s, x = a ∨ stripeWear s.nvm a < stripeWear s.nvm x) →
    stripeHighest s.nvm = some t → (∃ p ∈ s.nvm.stripeWrites, stripeWear s.nvm a + 50000 ≤ p.2) →
    Gives (exec .wearMove s) (fun u => stripeWear u.nvm t = stripeWear s.nvm t + 1
      ∧ u.nvm.recs = s.nvm.recs.map (fun p => (p.1, { p.2 with stripes := p.2.stripes.map (fun x => if x = a then t else x) }))))
  ∧ (∀ (a t : Nat) (s : State), (movable s).contains a = true → (∀ x ∈ movable s, x = a ∨ stripeWear s.nvm a < stripeWear s.nvm x) →
    stripeHighest s.nvm = some t → (∃ p ∈ s.nvm.stripeWrites, stripeWear s.nvm a + 50000 ≤ p.2) → logRoom s = true →
    (stripeWear s.nvm t = 899999 → Gives (exec .wearMove s) (fun u => logged 0x3230 0x81 t 0 0 u = true))
    ∧ (stripeWear s.nvm t = 999999 → Gives (exec .wearMove s) (fun u => logged 0x3231 0x81 t 0 0 u = true ∧ stripeRetired u.nvm t = true)))
  ∧ (∀ (s : State), Gives (exec .bgChunkEnd s) (fun u =>
      u.nvm = { s.nvm with bgBusy := s.nvm.bgBusy && !s.nvm.fgWaiting, fgWaiting := false }))
  ∧ (∀ (id : Nat) (v : Word32) (l : List (Nat × Word32)) (s : State), s.nvm.rwpQueue = (id, v) :: l → s.nvm.rwpWaiting = [] →
    Gives (exec .rwpCommit s) (fun u => rwpOf u.toDev id = { rwpOf s.toDev id with count := (rwpOf s.toDev id).count + 1, committed := v }
      ∧ u.nvm.rwpQueue = l ∧ u.nvm.commits = s.nvm.commits + 1))
  ∧ (∀ (acc : Access) (id : Nat) (v : BitVec 32) (s : State), dieRuns s.toDev = true → acc.world = .K → 9 ≤ id → id < 384 →
    regGoes acc 184 (0x040 + 4 * (id - 9)) s = true → rwpRefused s.toDev id = none → s.nvm.rwpQueue.length < 64 →
    Gives (exec (.rwpRegisterWrite acc id v) s) (fun u => rwpVal u.toDev id = v))

/-! ## Regions, blocks and service actions (chapters 1 and 18) -/

/-- A SVC command of this action that its checks let start (R486). -/
def svcGoes (act cid : Nat) (hr : HostRead) (s : State) : Bool :=
  starts 0x01B0 cid hr s && svcAct (theCmd cid s) == act && svcInRange (theCmd cid s) && !svcRefused s.toDev (theCmd cid s)
    && !svcWaits s.toDev (theCmd cid s)
def svcOn (cid : Nat) (s : State) : Nat := param cid 65 1 s

/-- The action has been accepted: it stands last among those that run, with its drain time. -/
abbrev svcTaken (act ms cid : Nat) (s u : State) : Prop :=
  u.svc.actions = s.svc.actions ++ [{ action := act, region := svcOn cid s, operand := svcOn cid s, drainMs := ms, cid := cid }]
abbrev phaseIs (r : Nat) (p : RegionPhase) (cause : Nat) (u : State) : Prop :=
  (regionOf u.toDev r).phase = p ∧ (regionOf u.toDev r).cause = cause

/-- R486, R487: service actions are accepted, and what each begins or completes. -/
def Obligations.ServiceActionsRun : Prop :=
  (∀ (cid : Nat) (hr : HostRead) (s : State), svcGoes 1 cid hr s = true → s.tmp.hold = false →
    Gives (exec (.regionCycle cid hr) s) (fun u => svcTaken 1 (param cid 66 2 s) cid s u ∧ phaseIs (svcOn cid s) .draining 1 u))
  ∧ (∀ (cid : Nat) (hr : HostRead) (s : State), svcGoes 2 cid hr s = true → s.tmp.hold = false →
    Gives (exec (.regionHold cid hr) s) (fun u => svcTaken 2 (param cid 66 2 s) cid s u ∧ phaseIs (svcOn cid s) .draining 1 u))
  ∧ (∀ (cid : Nat) (hr : HostRead) (s : State), svcGoes 3 cid hr s = true →
    Gives (exec (.regionRestore cid hr) s) (fun u => svcTaken 3 0 cid s u ∧ phaseIs (svcOn cid s) .resetting 1 u))
  ∧ (∀ (cid : Nat) (hr : HostRead) (s : State), svcGoes 4 cid hr s = true → s.tmp.hold = false →
    Gives (exec (.pllRetune cid hr) s) (fun u => svcTaken 4 (param cid 66 2 s) cid s u ∧ phaseIs (svcOn cid s) .draining 1 u))
  ∧ (∀ (cid : Nat) (hr : HostRead) (s : State), svcGoes 5 cid hr s = true →
    EndsWith (exec (.coreSubst cid hr) s) cid resOk (fun u => (regionOf u.toDev (svcOn cid s)).tmb.standIn = some (param cid 66 1 s)
      ∧ u.svc.count = s.svc.count + 1))
  ∧ (∀ (cid p : Nat) (hr : HostRead) (s : State), svcGoes 6 cid hr s = true → (regionOf s.toDev (svcOn cid s)).tmb.standIn = some p → p < 7 →
    Gives (exec (.coreRelease cid hr) s) (fun u => svcTaken 6 0 cid s u
      ∧ u.die.resetting = s.die.resetting ++ [(.core ⟨Fin.ofNat 4 (svcOn cid s), Fin.ofNat 7 p⟩, 3)]))
  ∧ (∀ (cid : Nat) (e : Engine) (hr : HostRead) (s : State), svcGoes 7 cid hr s = true → (roleOf s.toDev (svcOn cid s)).engine = some e →
    Gives (exec (.engineHandover cid hr) s) (fun u => svcTaken 7 0 cid s u ∧ (roleOf u.toDev (svcOn cid s)).handover.map (·.2) = some cid))
  ∧ (∀ (cid : Nat) (hr : HostRead) (s : State), svcGoes 8 cid hr s = true → logRoom s = true →
    ((List.range 16).all s.tmp.heldOut.contains = false → Gives (exec (.sensorCal cid hr) s) (fun u => svcTaken 8 0 cid s u ∧ u.tmp.calCid = some cid
      ∧ u.tmp.calPending = (List.range 16).filter (fun k => !s.tmp.heldOut.contains k) ∧ (theCmd cid u).stage = .running
      ∧ logged 0x7104 keeperSrc 8 0 (theCmd cid s).fn u = true))
    ∧ ((List.range 16).all s.tmp.heldOut.contains = true → EndsWith (exec (.sensorCal cid hr) s) cid resOk (fun u =>
      u.svc.count = s.svc.count + 1 ∧ logged 0x7104 keeperSrc 8 0 (theCmd cid s).fn u = true)))
  ∧ (∀ (cid : Nat) (hr : HostRead) (s : State), starts 0x01B0 cid hr s = true → svcAct (theCmd cid s) = 1 → svcInRange (theCmd cid s) = true →
    regionsUp s.toDev = [svcOn cid s] → logRoom s = true →
    EndsWith (exec (.regionCycle cid hr) s) cid (resErr stState 0) (fun u => u.svc = s.svc
      ∧ logged 0x5104 0x50 0x1B0 (cmdFn (theCmd cid s)) 4 u = true))

/-- Nothing waits on this region's drain but the action `a` (R487 step 4). -/
abbrev drained (r : Nat) (s : State) : Prop := (regionOf s.toDev r).phase = .draining ∧ regionBusy s.toDev r = false

/-- R464, R470, R481, R487, R489: drains end, regions are reset, held, gated and reinstated. -/
def Obligations.RegionsDrainAndReturn : Prop :=
  (∀ (r : Region) (a : SvcAction) (s : State), drained r s → regionAction s.toDev r = some a → a.action = 2 →
    (cmdOf? s.toDev a.cid).isSome = true → (theCmd a.cid s).stage = .running →
    EndsWith (exec (.regionDrainEnd r) s) a.cid resOk (fun u => (regionOf u.toDev r).phase = .held ∧ u.svc.count = s.svc.count + 1))
  ∧ (∀ (r : Region) (a : SvcAction) (s : State), drained r s → regionAction s.toDev r = some a → a.action = 1 →
    Gives (exec (.regionDrainEnd r) s) (fun u => phaseIs r .resetting (regionOf s.toDev r).cause u ∧ u.svc.actions = s.svc.actions
      ∧ (regionOf u.toDev r).drbg = { stopping := true } ∧ (dmaOf u.toDev r) = {}))
  ∧ (∀ (r : Region) (s : State), drained r s → regionAction s.toDev r = none → (regionOf s.toDev r).cause = 4 → s.cpm.pwrReq.getLsbD r = true →
    logRoom s = true → Gives (exec (.regionDrainEnd r) s) (fun u => phaseIs r .gated 4 u ∧ logged 0x8102 0x84 r 1 0 u = true))
  ∧ (∀ (r : Region) (x : Nat) (s : State), drained r s → regionAction s.toDev r = none → Memory.wf s.mem → regionBase r ≤ x →
    x < regionBase r + 0xC0000000 → Gives (exec (.regionDrainEnd r) s) (fun u => memGet u.mem x = 0))
  ∧ (∀ (r : Region) (a : SvcAction) (t : Nat) (k : Task) (s : State), regionAction s.toDev r = some a → (regionOf s.toDev r).phase = .draining →
    a.drainMs ≠ 0 → tasksOf s.toDev r = [(t, k)] → k.state = .running → k.ending = none →
    Gives (exec (.drainTimeout r) s) (fun u => (taskOf u.toDev r t).ending = some .cancel ∧ (regionOf u.toDev r).phase = .draining))
  ∧ (∀ (r : Region) (s : State), (regionOf s.toDev r).phase = .resetting → regionAction s.toDev r = none → s.svc.fw = none →
    s.cpm.pwrReq.getLsbD r = false →
    Gives (exec (.regionReinstate r none) s) (fun u => (regionOf u.toDev r).phase = .up
      ∧ (2 ≤ s.ent.reservoir.length → (regionOf u.toDev r).drbg.instantiated = true)
      ∧ (s.ent.reservoir.length < 2 → u.ent.reseedQ.contains r = true)))
  ∧ (∀ (r : Region) (st : Nat) (s : State), (regionOf s.toDev r).phase = .resetting → regionAction s.toDev r = none → s.svc.fw = none →
    logRoom s = true → Gives (exec (.regionReinstate r (some st)) s) (fun u => (regionOf u.toDev r).phase = .out
      ∧ logged 0x7103 keeperSrc r (regionOf s.toDev r).cause st u = true))
  ∧ (∀ (r : Region) (a : SvcAction) (st : Nat) (s : State), (regionOf s.toDev r).phase = .resetting → regionAction s.toDev r = some a →
    s.svc.fw = none → (cmdOf? s.toDev a.cid).isSome = true → (theCmd a.cid s).stage = .running →
    EndsWith (exec (.regionReinstate r (some st)) s) a.cid (resErr stFault 0x0C02) (fun u => (regionOf u.toDev r).phase = .out))
  ∧ (∀ (acc : Access) (r : Region) (s : State), acc.world = .K → regGoes acc 186 0x040 s = true → s.cpm.pwrReq.getLsbD r = false →
    s.cpm.pwrReq ||| BitVec.ofNat 4 (2 ^ r.val) ≠ 15 → regionUp s.toDev r = true → s.die.safe = false → s.tmp.hold = false →
    Gives (exec (.regionGate acc r) s) (fun u => phaseIs r .draining 4 u ∧ u.cpm.pwrReq = s.cpm.pwrReq ||| BitVec.ofNat 4 (2 ^ r.val)))
  ∧ (∀ (acc : Access) (r : Region) (s : State), acc.world = .K → regGoes acc 186 0x040 s = true → s.cpm.pwrReq.getLsbD r = true → (regionOf s.toDev r).phase = .gated →
    s.die.safe = false →
    Gives (exec (.regionUngate acc r) s) (fun u => phaseIs r .resetting 4 u ∧ u.cpm.pwrReq = s.cpm.pwrReq &&& ~~~ BitVec.ofNat 4 (2 ^ r.val)))

/-- R10, R11, R194, R529: rows are relocated, blocks are reset, tested, and leave service. -/
def Obligations.BlocksAreContained : Prop :=
  (∀ (b : Blk) (t row : Nat) (s : State), Gives (exec (.uncorrectableError b t row true) s) (fun u => u.toDev = s.toDev))
  ∧ (∀ (b : Blk) (t row : Nat) (s : State), (∀ n : Bank, b ≠ .nvmBank n) → rowsUsed s.toDev b t < 32 → logRoom s = true →
    Gives (exec (.uncorrectableError b t row false) s) (fun u => rowsUsed u.toDev b t = rowsUsed s.toDev b t + 1
      ∧ logged 0x4020 (blkSource b) (blkSource b + 256 * t) row 0 u = true))
  ∧ (∀ (n : Bank) (t row : Nat) (s : State), (bankOf s.toDev n).out = false → logRoom s = true →
    Gives (exec (.uncorrectableError (.nvmBank n) t row false) s) (fun u => (bankOf u.toDev n).spareRows = (bankOf s.toDev n).spareRows + 1))
  ∧ (∀ (b : Blk) (k : Nat) (s : State), s.die.safe = false → s.tmp.hold = false → blkResetting s.toDev b = false → blkServes s.toDev b = true → selfTests b = true →
    (∀ r, r < 4 → blkRegion b = some r → (regionOf s.toDev r).phase ≠ .draining) →
    Gives (exec (.blockFault b k) s) (fun u => u.die.resetting.contains (b, k) = true ∧ u.die.safe = false))
  ∧ (∀ (r : Region) (k : Nat) (s : State), s.die.safe = false → s.tmp.hold = false → blkResetting s.toDev (.tumbler r) = false → regionUp s.toDev r = true →
    s.die.out.contains (.tumbler r) = false → logRoom s = true →
    Gives (exec (.blockFault (.tumbler r) k) s) (fun u => phaseIs r .draining 2 u))
  ∧ (∀ (k : Nat) (s : State), s.die.safe = false → s.tmp.hold = false → blkResetting s.toDev .keyStore = false → s.die.out.contains .keyStore = false →
    Gives (exec (.blockFault .keyStore k) s) (fun u => u.die.safe = true))
  ∧ (∀ (c : CoreId) (k : Nat) (s : State), s.die.resetting = [(.core c, k)] → releaseOf s.toDev c = none → logRoom s = true →
    Gives (exec (.blockSelfTestEnd (.core c) true) s) (fun u => u.die.resetting = [] ∧ (coreOf u.toDev c).stopping = false
      ∧ logged 0x4110 (blkSource (.core c)) (blkParam (.core c)) k 0 u = true))
  ∧ (∀ (r : Region) (k : Nat) (s : State), s.die.resetting = [(.bolt r, k)] →
    Gives (exec (.blockSelfTestEnd (.bolt r) false) s) (fun u => u.die.resetting = [] ∧ (regionOf u.toDev r).bolt.out = true))
  ∧ (∀ (c : CoreId) (a : SvcAction) (k : Nat) (s : State), s.die.resetting = [(.core c, k)] → releaseOf s.toDev c = some a →
    (cmdOf? s.toDev a.cid).isSome = true → (theCmd a.cid s).stage = .running →
    EndsWith (exec (.blockSelfTestEnd (.core c) true) s) a.cid resOk (fun u => (regionOf u.toDev c.region).tmb.standIn = none
      ∧ u.svc.count = s.svc.count + 1))

/-! ## Power, reset and Keeper images (chapters 17 and 18) -/

/-- Start-up has run as far as its last step: the die boots, or the boot ROM alone answers (R472, R473). -/
abbrev started (kind : Nat) (u : State) : Prop := (u.cpm.power = .booting ∨ u.cpm.power = .noImage) ∧ u.cpm.causeKind = kind

/-- A FW_SELECT whose fields are in range, that nothing in progress stands against (R490, R491). -/
def fwGoes (cid : Nat) (hr : HostRead) (img : ImageRec) (s : State) : Bool :=
  starts 0x0153 cid hr s && zeroFrom cid 66 s && decide (s.svc.fwMinsv ≤ img.svn) && s.svc.fw.isNone && s.brl.rollPhase == 0
    && (s.svc.actions.all (fun a => decide (4 < a.action))) && !keepOnly s.toDev
/-- A live switch of the image `img` and the current one needs no reset (R491). -/
def fwLive (img : ImageRec) (s : State) : Bool := !img.resetRequired && !((fwOf s.toDev s.cpm.imageB).map (·.resetRequired)).getD false

/-- R463, R465 to R469, R472, R473, R484: power comes and goes, resets are requested and taken, start-up ends. -/
def Obligations.PowerComesAndGoes : Prop :=
  (∀ (b : BootReport) (s : State), s.cpm.power = .porLow → Gives (exec (.porRelease b) s) (fun u => started 1 u ∧ u.cpm.cause = 0))
  ∧ (∀ (b : BootReport) (s : State), s.cpm.power = .porLow → b.imageAFails = true → b.imageBFails = true →
    Gives (exec (.porRelease b) s) (fun u => u.cpm.power = .noImage ∧ u.svc.bootRom = true))
  ∧ (∀ (ms : Nat) (s : State), s.cpm.power = .booting → logRoom s = true →
    Gives (exec (.bootReady ms) s) (fun u => u.cpm = { s.cpm with power := .ready, devReady := true, bootMs := min ms 8191 }
      ∧ logged 0x0101 0x84 ms s.cpm.causeKind (regionMask s.toDev) u = true))
  ∧ (∀ (cause m : Nat) (s : State), s.cpm.power = .closing → s.cpm.warmPending = some (cause, m) →
    Gives (exec .warmReset s) (fun u => started 2 u ∧ u.cpm.cause = cause ∧ u.cpm.warmPending = none))
  ∧ (∀ (s : State), Gives (exec (.pwrFail .below1us) s) (fun u => u = s))
  ∧ (∀ (s : State), running s.toDev = true →
    Gives (exec (.pwrFail .qualified) s) (fun u => u.cpm.power = .heldAfterFlush ∧ u.mem = [] ∧ u.hif.cmds = [] ∧ u.lc.state = s.lc.state))
  ∧ (∀ (s : State), s.cpm.power ≠ .mainOff → s.cpm.power ≠ .porLow →
    Gives (exec .porAssert s) (fun u => u.cpm.power = .porLow ∧ u.mem = [] ∧ u.hif.cmds = [] ∧ u.bat = s.bat ∧ u.lc.state = s.lc.state))
  ∧ (∀ (s : State), s.cpm.power ≠ .mainOff →
    Gives (exec .mainPowerLoss s) (fun u => u.cpm.power = .mainOff ∧ u.mem = [] ∧ u.bat = { s.bat with onVbat := true }))
  ∧ (∀ (s : State), s.cpm.power = .mainOff →
    Gives (exec .mainPowerRestore s) (fun u => u.cpm.power = .porLow ∧ u.bat = { s.bat with onVbat := false } ∧ u.mem = s.mem))
  ∧ (∀ (b : Blk) (s : State), running s.toDev = true →
    Gives (exec (.clockGateIdle b) s) (fun u => u.die.gatedBlocks.contains b = blkIdle s.toDev b))

/-- The image that FW_SELECT names: the other record's, or one that it brings whose two signatures verify (R491, R492). -/
abbrev fwNamed (cid : Nat) (hr : HostRead) (img : ImageRec) (s : State) : Prop :=
  (param cid 64 1 s = 1 ∧ (theCmd cid s).inLen = 0 ∧ fwOf s.toDev (!s.cpm.imageB) = some img)
    ∨ (param cid 64 1 s = 0 ∧ fwParse (inputOf cid hr s) = some img ∧ fwSigned (inputOf cid hr s) = true)

/-- R490 to R492: the image of the other record is switched to region by region, or at a warm reset; a new image is written there
where its two signatures verify. -/
def Obligations.KeeperImagesAreSelected : Prop :=
  (∀ (cid r : Nat) (hr : HostRead) (img : ImageRec) (s : State), fwGoes cid hr img s = true → fwNamed cid hr img s → param cid 65 1 s = 0 →
    fwLive img s = true → (regionsUp s.toDev).head? = some r → s.tmp.hold = false →
    Gives (exec (.fwSelect cid hr) s) (fun u =>
      u.svc.fw = some { cid := cid, toB := !s.cpm.imageB, live := true, region := r, reversing := false } ∧ phaseIs r .draining 5 u))
  ∧ (∀ (cid : Nat) (hr : HostRead) (img : ImageRec) (s : State), fwGoes cid hr img s = true → fwNamed cid hr img s → param cid 65 1 s = 1 →
    s.cpm.power = .ready → s.cpm.warmPending = none →
    Gives (exec (.fwSelect cid hr) s) (fun u => u.svc.fwSelB = (!s.cpm.imageB) ∧ s.svc.fwMinsv ≤ u.svc.fwMinsv ∧ img.svn ≤ u.svc.fwMinsv
      ∧ u.cpm.power = .closing ∧ u.cpm.warmPending.map (·.1) = some 7))
  ∧ (∀ (cid : Nat) (hr : HostRead) (img : ImageRec) (s : State), fwGoes cid hr img s = true → param cid 64 1 s = 0 → param cid 65 1 s = 0 →
    fwParse (inputOf cid hr s) = some img → fwLive img s = true → regionsUp s.toDev = [] →
    if fwSigned (inputOf cid hr s) then EndsWith (exec (.fwSelect cid hr) s) cid resOk (fun u =>
      fwOf u.toDev (!s.cpm.imageB) = some img ∧ u.svc.fwSelB = (!s.cpm.imageB) ∧ u.cpm.imageB = s.cpm.imageB)
    else EndsWith (exec (.fwSelect cid hr) s) cid (resErr stParam 0x0C05) (fun u => u.svc = s.svc))
  ∧ (∀ (cid : Nat) (hr : HostRead) (img : ImageRec) (s : State), starts 0x0153 cid hr s = true → zeroFrom cid 66 s = true → param cid 64 1 s = 1 →
    param cid 65 1 s ≤ 1 → (theCmd cid s).inLen = 0 → fwOf s.toDev (!s.cpm.imageB) = some img → img.svn < s.svc.fwMinsv →
    EndsWith (exec (.fwSelect cid hr) s) cid (resErr stParam 0x0C06) (fun u => u.svc = s.svc))

/-! ## Registers, descriptors and telemetry (chapters 13, 17, 19) -/

/-- Where an address of the channel's list leads for `n` bytes with a right: itself, or through a segment of the task in RAM
(R282, R370, R373). -/
def leads (x : Side) (right : Right) (a n : Nat) : Option Nat :=
  match x.task with
  | none => some a
  | some t =>
    match segRel a with
    | some (sg, off) => if (segCheck t sg right off n 1).isNone && !(segOf t sg).ms then some ((segOf t sg).base + off) else none
    | none => none

/-- RAM, on whose way no keyway unit is in UPDATE and every one allows the access (R364, R366). -/
def ramAllows (d : Dev) (acc : Access) (kind : AccKind) (a n : Nat) : Bool :=
  (List.range n).all (fun j => isRam (a + j) && (kwPath acc (a + j)).all (fun u =>
    !(kwOf d u).updating && (kwOf d u).verdicts.isEmpty && (kwJudge d u acc (a + j) kind).isNone))

/-- Channel `ch` holds the datapath, runs a list below its limit and begins a descriptor, which lies in RAM at `pc` and holds `z`;
the fabric reports no error. -/
def descGoes (i ch : Nat) (desc : DescRead) (z : Desc) (pc : Nat) (s : State) : Bool :=
  let c := chOf s.toDev i ch
  let x := sideOf s.toDev i ch
  dieRuns s.toDev && (dmaOf s.toDev i).active == some ch && c.state == .running && decide (c.done + c.skipped < listLimit c)
    && desc.fetched && desc.fail.isNone && desc.statusOk && c.desc == [] && c.moved == 0 && c.held == [] && c.back.isNone && !c.startHeld
    && leads x .r c.cur 64 == some pc && leads x .w (c.cur + 32) 4 == some (pc + 32)
    && ramAllows s.toDev x.acc .read pc 64 && ramAllows s.toDev x.acc .write (pc + 32) 4 && descOf (memGetN s.mem pc 64) == z

/-- The descriptor's form is right, and its source at `ps` and destination at `pd` are RAM that it may read and write; a fill has no
source. The two do not overlap. -/
def descReaches (i ch : Nat) (z : Desc) (ps pd : Nat) (s : State) : Bool :=
  let x := sideOf s.toDev i ch
  descOk i (chOf s.toDev i ch).curSeg z && leads x (if dOp z = 2 then .r else .w) z.dst z.len == some pd
    && ramAllows s.toDev x.acc (if dOp z = 2 then .read else .write) pd z.len
    && (dOp z == 1 || (leads x .r z.src z.len == some ps && ramAllows s.toDev x.acc .read ps z.len
      && (decide (ps + z.len ≤ pd) || decide (pd + z.len ≤ ps))))

/-- The bytes that a copy or fill moves (R370, R371). -/
def descBytes (z : Desc) (ps : Nat) (s : State) : Bytes :=
  if dOp z = 1 then (List.range z.len).map (fun j => byte (z.src >>> (8 * (j % 8)))) else memGetN s.mem ps z.len

/-- R369 to R376: a descriptor moves or compares its bytes, is counted and writes its status word, and the list goes on or is over;
a difference ends the list, and a malformed descriptor halts the channel. -/
def Obligations.DescriptorsRun : Prop :=
  (∀ (i : DmaInst) (ch : Channel) (desc : DescRead) (z : Desc) (pc ps pd : Nat) (s : State), descGoes i ch desc z pc s = true →
    descReaches i ch z ps pd s = true → dOp z ≠ 2 →
    Gives (exec (.dmaDescriptorEnd i desc) s) (fun u => (dmaOf u.toDev i).descs = (dmaOf s.toDev i).descs + 1
      ∧ (dmaOf u.toDev i).bytes = (dmaOf s.toDev i).bytes + BitVec.ofNat 64 z.len
      ∧ u.mem = memSetN (memSetN s.mem pd (descBytes z ps s)) (pc + 32) (natLE (2 ^ 30) 4)))
  ∧ (∀ (i : DmaInst) (ch : Channel) (desc : DescRead) (z : Desc) (pc ps pd : Nat) (s : State), descGoes i ch desc z pc s = true →
    descReaches i ch z ps pd s = true → dOp z = 2 → memGetN s.mem ps z.len = memGetN s.mem pd z.len →
    Gives (exec (.dmaDescriptorEnd i desc) s) (fun u => (dmaOf u.toDev i).descs = (dmaOf s.toDev i).descs + 1
      ∧ u.mem = memSetN s.mem (pc + 32) (natLE (2 ^ 30) 4)))
  ∧ (∀ (i : DmaInst) (ch : Channel) (desc : DescRead) (z : Desc) (pc ps pd n : Nat) (s : State), descGoes i ch desc z pc s = true →
    descReaches i ch z ps pd s = true → dOp z = 2 → firstDiff (memGetN s.mem ps z.len) (memGetN s.mem pd z.len) = some n →
    Gives (exec (.dmaDescriptorEnd i desc) s) (fun u => (chOf u.toDev i ch).state = .diff ∧ (chOf u.toDev i ch).offset = n
      ∧ u.mem = memSetN s.mem (pc + 32) (natLE (3 * 2 ^ 30 + n % 65536) 4)))
  ∧ (∀ (i : DmaInst) (ch : Channel) (desc : DescRead) (z : Desc) (pc ps pd : Nat) (s : State), descGoes i ch desc z pc s = true →
    descReaches i ch z ps pd s = true → (dOp z = 2 → memGetN s.mem ps z.len = memGetN s.mem pd z.len) →
    (dLast z = false → Gives (exec (.dmaDescriptorEnd i desc) s) (fun u => (chOf u.toDev i ch).state = .running
      ∧ (chOf u.toDev i ch).cur = z.next ∧ (chOf u.toDev i ch).done = (chOf s.toDev i ch).done + 1))
    ∧ (dLast z = true → Gives (exec (.dmaDescriptorEnd i desc) s) (fun u => (chOf u.toDev i ch).state = .done)))
  ∧ (∀ (i : DmaInst) (ch : Channel) (desc : DescRead) (z : Desc) (pc : Nat) (s : State), descGoes i ch desc z pc s = true →
    descOk i (chOf s.toDev i ch).curSeg z = false → (chOf s.toDev i ch).useSkip = false →
    Gives (exec (.dmaDescriptorEnd i desc) s) (fun u => (chOf u.toDev i ch).state = .halted ∧ (chOf u.toDev i ch).kind = 5 ∧ u.mem = s.mem))

/-- The command carries neither handles nor input (R40). -/
def plainCmd (cid : Nat) (s : State) : Bool := noHandles cid s && (theCmd cid s).inPtr == 0 && (theCmd cid s).inLen == 0

/-- A read of the register at an offset of a page passes the keyways, and its page admits it (R362, R364, R506, R531). -/
def regReads (acc : Access) (m off : Nat) (s : State) : Bool :=
  ((acc.master == 0x50 && fnPage m == some acc.fn)
    || (match (kwAccess acc (pageBase m + off) .read 2 s.toDev).1 with | .allowed => true | _ => false))
    && (readKind acc m off 4 s.toDev).isNone

/-- What a requester has latched of a word (R508). -/
def latched (acc : Access) (m off : Nat) (s : State) : Option Word32 :=
  (s.pg.latches.find? (fun l => l.1 == reqKey acc && l.2.1 == pageBase m + off)).map (·.2.2)

/-- R7, R40, R477, R501, R503, R506 to R508: registers are written, or refuse it; a read of a low word latches the high word, and a
register that clears when read clears; interrupt causes are cleared and forced, pages locked, the snapshot taken and read. -/
def Obligations.RegistersAndTelemetryRun : Prop :=
  (∀ (acc : Access) (m : PageNo) (v : BitVec 32) (s : State), dieRuns s.toDev = true → irqWriter acc m = true → regGoes acc m 0x010 s = true →
    Gives (exec (.irqRawClear acc m v) s) (fun u => (pageOf u.toDev m).irqRaw = (pageOf s.toDev m).irqRaw &&& ~~~ v
      ∧ (pageOf u.toDev m).lock = (pageOf s.toDev m).lock ∧ u.mem = s.mem))
  ∧ (∀ (acc : Access) (m : PageNo) (v : BitVec 32) (s : State), dieRuns s.toDev = true → irqWriter acc m = true → regGoes acc m 0x018 s = true →
    s.lc.state = .develop →
    Gives (exec (.irqForce acc m v) s) (fun u => (pageOf u.toDev m).irqRaw = (pageOf s.toDev m).irqRaw ||| v ∧ u.mem = s.mem))
  ∧ (∀ (acc : Access) (m : PageNo) (v : BitVec 32) (s : State), dieRuns s.toDev = true → irqWriter acc m = true → regGoes acc m 0x018 s = true →
    s.lc.state ≠ .develop → logRoom s = true →
    Gives (exec (.irqForce acc m v) s) (fun u => (pageOf u.toDev m).irqRaw = (pageOf s.toDev m).irqRaw
      ∧ logged 0x2201 (pageSource m) (6 * 2 ^ 24 + tagOf acc) ((pageBase m + 0x018) % 2 ^ 32) ((pageBase m + 0x018) / 2 ^ 32 % 256) u = true))
  ∧ (∀ (acc : Access) (m : PageNo) (s : State), dieRuns s.toDev = true → acc.world = .K → regGoes acc m 0x02C s = true →
    Gives (exec (.pageLock acc m) s) (fun u => (pageOf u.toDev m).lock = true ∧ (pageOf u.toDev m).irqRaw = (pageOf s.toDev m).irqRaw ∧ u.mem = s.mem))
  ∧ (∀ (s : State), dieRuns s.toDev = true →
    Gives (exec .telemetrySnapshot s) (fun u => u.cpm = { s.cpm with snapshot := snapshotOf s.toDev, telemSeq := s.cpm.telemSeq + 1 } ∧ u.evr = s.evr))
  ∧ (∀ (cid : Nat) (hr : HostRead) (s : State), starts 0x0B01 cid hr s = true → plainCmd cid s = true → zeroFrom cid 64 s = true →
    64 ≤ (theCmd cid s).outCap →
    EndsWith (exec (.telStatus cid hr) s) cid (resOut (telStatusBytes s.toDev (theCmd cid s).fn)) (fun u => u.cpm = s.cpm ∧ u.mem = s.mem))
  ∧ (∀ (cid : Nat) (hr : HostRead) (s : State), starts 0x0B02 cid hr s = true → plainCmd cid s = true → zeroFrom cid 74 s = true →
    param cid 64 8 s % 4 = 0 → param cid 64 8 s < 2 ^ 40 → 1 ≤ param cid 72 2 s → param cid 72 2 s ≤ 64 →
    4 * param cid 72 2 s ≤ (theCmd cid s).outCap → (∀ i, i < param cid 72 2 s → telAddrOk (theCmd cid s).fn (param cid 64 8 s + 4 * i) = true) →
    EndsWith (exec (.telRead cid hr) s) cid
      (resOut ((List.range (param cid 72 2 s)).flatMap (fun i => natLE (snapWord s.toDev (param cid 64 8 s + 4 * i)).toNat 4)))
      (fun u => u.cpm = s.cpm ∧ u.mem = s.mem))
  ∧ (∀ (acc : Access) (m : PageNo) (v : BitVec 64) (s : State), dieRuns s.toDev = true → irqWriter acc m = true → regGoes acc m 0x014 s = true →
    (writeKind acc m 0x014 4 (v.extractLsb' 0 32) s.toDev).isNone = true →
    Gives (exec (.registerWrite acc (.internal (pageBase m + 0x014)) .b4 v) s) (fun u => regVal u.toDev m 0x014 = v.extractLsb' 0 32
      ∧ (pageOf u.toDev m).irqRaw = (pageOf s.toDev m).irqRaw ∧ u.mem = s.mem))
  ∧ (∀ (acc : Access) (m : PageNo) (off k : Nat) (v : BitVec 64) (s : State), dieRuns s.toDev = true → off < 0x1000 → off % 4 = 0 →
    regGoes acc m off s = true → writeKind acc m off 4 (v.extractLsb' 0 32) s.toDev = some k → logRoom s = true →
    Gives (exec (.registerWrite acc (.internal (pageBase m + off)) .b4 v) s) (fun u => pageOf u.toDev m = pageOf s.toDev m ∧ u.mem = s.mem
      ∧ logged 0x2201 (pageSource m) (k * 2 ^ 24 + tagOf acc) ((pageBase m + off) % 2 ^ 32) ((pageBase m + off) / 2 ^ 32 % 256) u = true))
  ∧ (∀ (acc : Access) (f : Fn) (v : BitVec 64) (s : State), fnUp s.toDev f = true →
    (writeKind (hostAcc f) (110 + f) 0x040 4 (v.extractLsb' 0 32) s.toDev).isNone = true →
    Gives (exec (.registerWrite acc (.bar f 0x1040) .b4 v) s) (fun u => (fnOf u.toDev f).aqCfg = v.extractLsb' 0 32 ∧ u.mem = s.mem))
  ∧ (∀ (acc : Access) (f : Fn) (v : BitVec 64) (s : State), fnUp s.toDev f = true →
    (writeKind (hostAcc f) (110 + f) 0x048 4 (v.extractLsb' 0 32) s.toDev).isNone = true →
    (writeKind (hostAcc f) (110 + f) 0x04C 4 (v.extractLsb' 32 32) s.toDev).isNone = true →
    Gives (exec (.registerWrite acc (.bar f 0x1048) .b8 v) s) (fun u => (fnOf u.toDev f).sqBase = v &&& ~~~ 0xFFF ∧ u.mem = s.mem))
  ∧ (∀ (acc : Access) (m : PageNo) (off : Nat) (s : State), dieRuns s.toDev = true → off < 0x1000 → isLow m off = true →
    regReads acc m off s = true →
    Gives (exec (.lowWordRead acc (pageBase m + off)) s) (fun u => latched acc m (off + 4) u = some (regVal s.toDev m (off + 4))
      ∧ (acc.master = 0x50 → u.hif.tx = s.hif.tx ++ [.readData ((latched acc m off s).getD (regVal s.toDev m off))]) ∧ u.mem = s.mem))
  ∧ (∀ (acc : Access) (s : State), dieRuns s.toDev = true → regReads acc 188 0x040 s = true → latched acc 188 0x040 s = none →
    Gives (exec (.rcRegisterRead acc (pageBase 188 + 0x040)) s) (fun u => u.spn = { s.spn with maxWait := 0 }
      ∧ (acc.master = 0x50 → u.hif.tx = s.hif.tx ++ [.readData (BitVec.ofNat 32 (s.spn.maxWait % 1024))]) ∧ u.mem = s.mem))

/-! ## The monitor and the management SPI (chapters 18 and 19) -/

/-- The monitor's command is admitted (R495). -/
def monGoes (k : MonCmd) (s : State) : Bool := portServes s.toDev && monAdmits s.toDev k
/-- What the monitor sends last. -/
abbrev answered (r : Tx) (u : State) : Prop := u.hif.tx.getLast? = some r

/-- R494 to R496: lines in error, identity, status, the log, memory, cores, events, rate and recovery. -/
def Obligations.MonitorServes : Prop :=
  (∀ (s : State), portServes s.toDev = true → Gives (exec .monLineError s) (fun u => answered (.monitorEr 3) u ∧ u.mem = s.mem ∧ u.evr = s.evr))
  ∧ (∀ (s : State), monGoes .ident s = true →
    Gives (exec .monIdent s) (fun u => answered (.monitorOk (wordsOfBytes ((identBytes s.toDev 0).take 36))) u ∧ u.mem = s.mem))
  ∧ (∀ (s : State), monGoes .status s = true →
    Gives (exec .monStatus s) (fun u => answered (.monitorOk (monPages.map (fun m => snapWord s.toDev (pageBase m + 0x00C)))) u ∧ u.mem = s.mem))
  ∧ (∀ (area n : Nat) (from_ : BitVec 40) (s : State), monGoes .log s = true → area ≤ 1 → n ≤ 256 →
    Gives (exec (.monLogRead area from_ n) s) (fun u =>
      answered (.monitorOk (wordsOfBytes (((recordsFrom s.toDev area from_.toNat).take n).flatMap evBytes))) u ∧ u.evr = s.evr))
  ∧ (∀ (a n : Nat) (w : List Word32) (t s : State), monGoes .debug s = true → 1 ≤ n → n ≤ 64 → a + 4 * n ≤ 2 ^ 40 → monWords a n s = (.done, w, t) →
    Gives (exec (.monMr a n) s) (fun u => answered (.monitorOk w) u ∧ w.length = n ∧ u.mem = s.mem))
  ∧ (∀ (a : Nat) (v : BitVec 32) (s : State), monGoes .debug s = true → a + 4 ≤ 2 ^ 40 → isRam a = true → pageAt a = none → Memory.wf s.mem →
    (busPass monAcc a 4 .write s).1 = .done →
    Gives (exec (.monMw a v) s) (fun u => answered (.monitorOk []) u ∧ memGetN u.mem a 4 = natLE v.toNat 4))
  ∧ (∀ (a : Nat) (v : BitVec 32) (s : State), monGoes .debug s = true → a + 4 ≤ 2 ^ 40 → (busPass monAcc a 4 .write s).1 = .denied →
    Gives (exec (.monMw a v) s) (fun u => answered (.monitorEr 4) u ∧ u.mem = s.mem))
  ∧ (∀ (c : CoreId) (s : State), monGoes .debug s = true → regGoes monAcc (corePage c) 8 s = true →
    Gives (exec (.monHalt c) s) (fun u => (coreOf u.toDev c).halt = true ∧ answered (.monitorOk []) u))
  ∧ (∀ (c : CoreId) (s : State), monGoes .debug s = true → regGoes monAcc (corePage c) 8 s = true → (coreOf s.toDev c).halt = true →
    Gives (exec (.monStep c) s) (fun u => (coreOf u.toDev c).halt = true ∧ answered (.monitorOk []) u))
  ∧ (∀ (c : CoreId) (s : State), monGoes .debug s = true → regGoes monAcc (corePage c) 8 s = true →
    Gives (exec (.monResume c) s) (fun u => (coreOf u.toDev c).halt = false ∧ answered (.monitorOk []) u))
  ∧ (∀ (code : BitVec 16) (p1 p2 p3 : BitVec 32) (s : State), monGoes .debug s = true → code.toNat ≤ 0x8FFF → logRoom s = true →
    Gives (exec (.monInject code p1 p2 p3) s) (fun u => logged code.toNat 0x5C p1.toNat p2.toNat p3.toNat u = true ∧ answered (.monitorOk []) u))
  ∧ (∀ (n : Nat) (s : State), monGoes .baud s = true → 9600 ≤ n → n ≤ 3000000 →
    Gives (exec (.monBaudCmd n) s) (fun u => u.svc = { s.svc with baud := n } ∧ answered (.monitorOk []) u))
  ∧ (∀ (b : List Byte) (img : ImageRec) (s : State), monGoes .recover s = true → s.svc.bootRom = true → s.cpm.power = .noImage → s.cpm.warmPending = none →
    fwParse b = some img → s.svc.fwMinsv ≤ img.svn → keepOnly s.toDev = false →
    if fwSigned b then Gives (exec (.fwrecover b true) s) (fun u => u.svc.fwA = some img ∧ u.svc.fwSelB = false
      ∧ answered (.monitorOk []) u ∧ u.cpm.power = .closing ∧ u.cpm.warmPending.map (·.1) = some 7)
    else Gives (exec (.fwrecover b true) s) (fun u => answered (.monitorEr 6) u ∧ u.svc = s.svc))
  ∧ (∀ (n : Nat) (s : State), portServes s.toDev = true → monAdmits s.toDev .debug = false → 1 ≤ n → n ≤ 64 → logRoom s = true →
    Gives (exec (.monMr 0 n) s) (fun u => answered (.monitorEr 2) u ∧ u.mem = s.mem))

/-- A frame of this op that passes its checks of length, CRC and form, with nothing after its final word (R520, R521). -/
def spiFrameGoes (op : Nat) (f : List Word32) (s : State) : Bool :=
  portServes s.toDev && !f.isEmpty && spiOp f == op && spiLen f == f.length && spiForm f
    && (spiFinal (f.take (f.length - 1)) &&& 0xFF == spiWord f (f.length - 1) &&& 0xFF) && spiAdmits s.toDev op

/-- The response that waits for the next frame: its code, its words, the count of frames, and its own CRC (R521). -/
def spiReply (code : Nat) (w : List Word32) (s : State) : Option (Nat × List Word32) :=
  let b := BitVec.ofNat 32 (code * 2 ^ 24 + w.length * 2 ^ 16 + (s.spi.frames + 1).toNat % 2 ^ 16) :: w
  some (code, b ++ [spiFinal b])
abbrev spiAnswers (code : Nat) (w : List Word32) (s u : State) : Prop := u.spi.pend = spiReply code w s ∧ u.spi.frames = s.spi.frames + 1

/-- R453, R520 to R522: the frames of the management SPI, their checks and their responses. -/
def Obligations.SpiFramesRun : Prop :=
  (∀ (f : List Word32) (s : State), spiFrameGoes 0 f s = true → Gives (exec (.spiNop f false) s) (fun u => spiAnswers 0 [] s u ∧ u.spi.errs = s.spi.errs))
  ∧ (∀ (f : List Word32) (s : State), spiFrameGoes 1 f s = true →
    (∀ i, i < spiN f → inSnapshot (spiAddr f + 4 * i) = true) →
    Gives (exec (.spiRead f false) s) (fun u =>
      spiAnswers 0 ((List.range (spiN f)).map (fun i => snapWord s.toDev (spiAddr f + 4 * i))) s u ∧ u.mem = s.mem))
  ∧ (∀ (f : List Word32) (s : State), spiFrameGoes 2 f s = true → spiAddr f = pageBase 179 + 0x080 → regGoes spiAcc 179 0x080 s = true →
    Gives (exec (.spiWrite f false) s) (fun u => spiAnswers 0 [] s u ∧ u.pg.lows.getLast? = some (0x5D, pageBase 179 + 0x080, spiWord f 2)))
  ∧ (∀ (f : List Word32) (s : State), spiFrameGoes 2 f s = true → spiAddr f = pageBase 186 + 0x040 → regGoes spiAcc 186 0x040 s = true →
    (spiWord f 2).toNat % 16 ≠ 15 →
    Gives (exec (.spiWrite f false) s) (fun u => u.cpm.pwrReq = (spiWord f 2).extractLsb' 0 4 ∧ u.spi.frames = s.spi.frames + 1
      ∧ u.spi.pend = spiReply 0 [] s))
  ∧ (∀ (f : List Word32) (s : State), spiFrameGoes 2 f s = true → spiWritable (spiAddr f) = false →
    Gives (exec (.spiWrite f false) s) (fun u => spiAnswers 5 [] s u ∧ u.mem = s.mem ∧ u.cpm.pwrReq = s.cpm.pwrReq))
  ∧ (∀ (f : List Word32) (s : State), spiFrameGoes 3 f s = true →
    Gives (exec (.telemCfg f false) s) (fun u => spiAnswers 0 [] s u ∧ u.spi.filter = (spiWord f 2).extractLsb' 0 3))
  ∧ (∀ (f : List Word32) (s : State), spiFrameGoes 5 f s = true →
    Gives (exec (.eventRead f false) s) (fun u => spiAnswers 0 (wordsOfBytes ((spiRecords (spiN f) s.toDev).flatMap evBytes)) s u
      ∧ u.evr = { s.evr with spiPtr :=
          (((spiRecords (spiN f) s.toDev).getLast?).map (fun r => BitVec.ofNat 64 ((r.seq + 1) % seqMod))).getD s.evr.spiPtr }))
  ∧ (∀ (f : List Word32) (s : State), spiFrameGoes 6 f s = true →
    Gives (exec (.spiIdent f false) s) (fun u => spiAnswers 0 (spiIdentWords s.toDev) s u ∧ u.mem = s.mem))
  ∧ (∀ (f : List Word32) (s : State), spiFrameGoes 6 f s = true →
    Gives (exec (.spiIdent f true) s) (fun u => spiAnswers 0x80 (spiIdentWords s.toDev) s u ∧ u.spi.errs = s.spi.errs + 1))
  ∧ (∀ (s : State), portServes s.toDev = true →
    Gives (exec (.spiFrameError .crc) s) (fun u => spiAnswers 1 [] s u ∧ u.spi.errs = s.spi.errs + 1)
    ∧ Gives (exec (.spiFrameError .short) s) (fun u => spiAnswers 2 [] s u ∧ u.spi.errs = s.spi.errs + 1)
    ∧ Gives (exec (.spiFrameError .midWord) s) (fun u => spiAnswers 3 [] s u ∧ u.spi.errs = s.spi.errs + 1)
    ∧ Gives (exec (.spiFrameError .form) s) (fun u => spiAnswers 4 [] s u ∧ u.spi.errs = s.spi.errs + 1)
    ∧ Gives (exec (.spiFrameError .busy) s) (fun u => u.spi = { s.spi with frames := s.spi.frames + 1 }))
  ∧ (∀ (f : List Word32) (s : State), portServes s.toDev = true → f ≠ [] → spiOp f = 6 → f.length < spiLen f →
    Gives (exec (.spiIdent f false) s) (fun u => spiAnswers 2 [] s u ∧ u.spi.errs = s.spi.errs + 1))
  ∧ (∀ (f : List Word32) (s : State), portServes s.toDev = true → f ≠ [] → spiOp f = 6 → spiLen f = f.length →
    spiFinal (f.take (f.length - 1)) &&& 0xFF ≠ spiWord f (f.length - 1) &&& 0xFF →
    Gives (exec (.spiIdent f false) s) (fun u => spiAnswers 1 [] s u ∧ u.spi.errs = s.spi.errs + 1))

/-! ## Registers that act and registers that show -/

/-- R135, R221, R482: a write of 1 acts in the worlds that the register names, and reads 1 until what it began ends; from any other
world it is refused, has no effect, and EV_2201 is logged. -/
def Obligations.RegisterActionsKeepTheirWorlds : Prop :=
  (∀ (acc : Access) (s : State), acc.world = .K → regGoes acc 186 8 s = true → s.cpm.power = .ready → s.cpm.warmPending = none →
    Gives (exec (.cpmWarm acc) s) (fun u => u.cpm.power = .closing
      ∧ u.cpm.warmPending = some (if s.die.safe then 5 else 1, acc.master.toNat)))
  ∧ (∀ (acc : Access) (s : State), acc.world ≠ .K → regGoes acc 186 8 s = true → logRoom s = true →
    Gives (exec (.cpmWarm acc) s) (fun u => u.cpm = s.cpm ∧ u.hif = s.hif
      ∧ logged 0x2201 (pageSource 186) (3 * 2 ^ 24 + tagOf acc) ((pageBase 186 + 8) % 2 ^ 32) ((pageBase 186 + 8) / 2 ^ 32 % 256) u = true))
  ∧ (∀ (acc : Access) (s : State), (acc.world = .K ∨ acc.world = .C) → regGoes acc 180 8 s = true →
    Gives (exec (.entKatRun acc) s) (fun u => u.ent.katRunning = true ∧ u.ent.kats.contains .conditioner = true
      ∧ regVal u.toDev 180 8 = 1))
  ∧ (∀ (acc : Access) (s : State), acc.world ≠ .K → acc.world ≠ .C → regGoes acc 180 8 s = true → logRoom s = true →
    Gives (exec (.entKatRun acc) s) (fun u => u.ent = s.ent
      ∧ logged 0x2201 (pageSource 180) (3 * 2 ^ 24 + tagOf acc) ((pageBase 180 + 8) % 2 ^ 32) ((pageBase 180 + 8) / 2 ^ 32 % 256) u = true))
  ∧ (∀ (acc : Access) (r : Region) (s : State), (acc.world = .K ∨ acc.world = .C) → regGoes acc (1 + 17 * r.val) 8 s = true →
    (∀ l, l < 4 → (boltContext s.toDev r l).isNone = true) →
    Gives (exec (.dkFlush acc r) s) (fun u => (regionOf u.toDev r).bolt.dk = []))
  ∧ (∀ (acc : Access) (r : Region) (l : Nat) (s : State), (acc.world = .K ∨ acc.world = .C) → regGoes acc (1 + 17 * r.val) 8 s = true →
    l < 4 → (boltContext s.toDev r l).isSome = true →
    Gives (exec (.dkFlush acc r) s) (fun u => (regionOf u.toDev r).bolt.dkFlush = true ∧ regVal u.toDev (1 + 17 * r.val) 8 = 1))
  ∧ (∀ (acc : Access) (r : Region) (s : State), acc.world ≠ .K → acc.world ≠ .C → regGoes acc (1 + 17 * r.val) 8 s = true → logRoom s = true →
    Gives (exec (.dkFlush acc r) s) (fun u => (regionOf u.toDev r).bolt = (regionOf s.toDev r).bolt
      ∧ logged 0x2201 (pageSource (1 + 17 * r.val)) (3 * 2 ^ 24 + tagOf acc) ((pageBase (1 + 17 * r.val) + 8) % 2 ^ 32)
        ((pageBase (1 + 17 * r.val) + 8) / 2 ^ 32 % 256) u = true))

/-- R387, R439, R499: three status registers, bit by bit; the bits above are reserved and read as zero. -/
def Obligations.StatusRegistersShow : Prop :=
  (∀ (s : State), let w := regVal s.toDev 177 0x00C
    w.getLsbD 3 = s.tmp.calibrating.isSome ∧ w.getLsbD 2 = s.tmp.hold ∧ w.getLsbD 1 = s.tmp.dieSafe ∧ w.getLsbD 0 = dieRuns s.toDev ∧ w >>> 4 = 0)
  ∧ (∀ (s : State), let w := regVal s.toDev 188 0x00C
    w.getLsbD 1 = s.die.safe ∧ w.getLsbD 0 = blkReady s.toDev .spine ∧ w >>> 2 = 0)
  ∧ (∀ (s : State), let w := regVal s.toDev 190 0x00C
    w.getLsbD 1 = (!s.svc.actions.isEmpty || s.svc.fw.isSome) ∧ w.getLsbD 0 = (s.cpm.power == .ready) ∧ w >>> 6 = 0)
  ∧ (∀ (x : FwSwitch) (s : State), s.svc.fw = some x → x.region < 4 →
    (regVal s.toDev 190 0x00C).extractLsb' 2 2 = BitVec.ofNat 2 x.region
      ∧ (regVal s.toDev 190 0x00C).extractLsb' 4 2 = (if x.reversing then 3 else 2))
  ∧ (∀ (s : State), s.svc.fw = none → (regVal s.toDev 190 0x00C).extractLsb' 2 4 = 0)

/-! ## Statements made of parts -/

/-- R274, R275, R280: single and double cells, division and its trap. -/
def Obligations.ArithmeticCompletes : Prop := SingleCellArithmeticCompletes ∧ DoubleCellArithmeticCompletes ∧ DivisionCompletesOrTraps

/-- R273, R276, R278, R279: the stack moves, immediates, PICK and DEPTH, the return stack, branches, calls, returns and the long forms. -/
def Obligations.StackOpsAndControlComplete : Prop := StackMovesComplete ∧ ImmediatesComplete ∧ ControlTransfersComplete ∧ LongFormsComplete

/-- R269, R272, R278, R282, R284: what traps, with its cause, kind and segment. -/
def Obligations.InstructionsAndAccessesTrap : Prop := BadInstructionsTrap ∧ BadAccessesTrap

/-- R277, R279: loads and stores. -/
def Obligations.LoadsAndStoresReachMemory : Prop := LoadsReadMemory ∧ StoresWriteMemory

/-- R288 to R291, R296, R303: waits, events, YIELD and EXIT. -/
def Obligations.WaitsYieldAndExitComplete : Prop := WaitsAndEventsComplete ∧ YieldExitAndWake

/-- R210, R279, R286: what a task reads of itself, and random bytes. -/
def Obligations.TaskConstantsAndRandomComplete : Prop := TaskConstantsComplete ∧ RandomOperationsComplete

/-- R285, R286, R373: issues to a coprocessor, descriptor lists and events. -/
def Obligations.IssuesDmaAndEventsComplete : Prop := IssuesComplete ∧ DmaAndEventOperationsComplete

/-- R43, R49 to R54: functions and their queues' indices. -/
def Obligations.FunctionsAndDoorbellsAct : Prop := FunctionEnableAndDisable ∧ DoorbellsMoveIndices

/-- R54 to R57, R61 to R63, R68: entries in, completions out. -/
def Obligations.EntriesAreFetchedAndCompleted : Prop := EntriesAreFetchedInSequence ∧ CompletionsPost

/-- R64 to R67, R74 to R76: tenants, and how sessions and functions end. -/
def Obligations.TenantsSessionsAndFunctionsEnd : Prop := TenantCommandsComplete ∧ SessionsAndFunctionsEnd
end

