-- ==== Sys2Proof/Laws/State.lean ====
section
/-! SUPPORT. What an update of one part does to each part of the device, and what an update of the device does to a state. -/

namespace Sys2Proof.Machine

variable (d : Dev) (s : State)

section
variable (f : DieS → DieS)
@[simp] theorem onDie_die : (onDie f d).die = f d.die := rfl
@[simp] theorem onDie_lc : (onDie f d).lc = d.lc := rfl
@[simp] theorem onDie_hif : (onDie f d).hif = d.hif := rfl
@[simp] theorem onDie_ks : (onDie f d).ks = d.ks := rfl
@[simp] theorem onDie_pol : (onDie f d).pol = d.pol := rfl
@[simp] theorem onDie_brl : (onDie f d).brl = d.brl := rfl
@[simp] theorem onDie_ent : (onDie f d).ent = d.ent := rfl
@[simp] theorem onDie_vlt : (onDie f d).vlt = d.vlt := rfl
@[simp] theorem onDie_apl : (onDie f d).apl = d.apl := rfl
@[simp] theorem onDie_crd : (onDie f d).crd = d.crd := rfl
@[simp] theorem onDie_kw : (onDie f d).kw = d.kw := rfl
@[simp] theorem onDie_dma : (onDie f d).dma = d.dma := rfl
@[simp] theorem onDie_spn : (onDie f d).spn = d.spn := rfl
@[simp] theorem onDie_nvm : (onDie f d).nvm = d.nvm := rfl
@[simp] theorem onDie_bat : (onDie f d).bat = d.bat := rfl
@[simp] theorem onDie_tmp : (onDie f d).tmp = d.tmp := rfl
@[simp] theorem onDie_evr : (onDie f d).evr = d.evr := rfl
@[simp] theorem onDie_cpm : (onDie f d).cpm = d.cpm := rfl
@[simp] theorem onDie_svc : (onDie f d).svc = d.svc := rfl
@[simp] theorem onDie_pg : (onDie f d).pg = d.pg := rfl
@[simp] theorem onDie_spi : (onDie f d).spi = d.spi := rfl
@[simp] theorem onDie_free : (onDie f d).free = d.free := rfl
end

section
variable (f : LcS → LcS)
@[simp] theorem onLc_die : (onLc f d).die = d.die := rfl
@[simp] theorem onLc_lc : (onLc f d).lc = f d.lc := rfl
@[simp] theorem onLc_hif : (onLc f d).hif = d.hif := rfl
@[simp] theorem onLc_ks : (onLc f d).ks = d.ks := rfl
@[simp] theorem onLc_pol : (onLc f d).pol = d.pol := rfl
@[simp] theorem onLc_brl : (onLc f d).brl = d.brl := rfl
@[simp] theorem onLc_ent : (onLc f d).ent = d.ent := rfl
@[simp] theorem onLc_vlt : (onLc f d).vlt = d.vlt := rfl
@[simp] theorem onLc_apl : (onLc f d).apl = d.apl := rfl
@[simp] theorem onLc_crd : (onLc f d).crd = d.crd := rfl
@[simp] theorem onLc_kw : (onLc f d).kw = d.kw := rfl
@[simp] theorem onLc_dma : (onLc f d).dma = d.dma := rfl
@[simp] theorem onLc_spn : (onLc f d).spn = d.spn := rfl
@[simp] theorem onLc_nvm : (onLc f d).nvm = d.nvm := rfl
@[simp] theorem onLc_bat : (onLc f d).bat = d.bat := rfl
@[simp] theorem onLc_tmp : (onLc f d).tmp = d.tmp := rfl
@[simp] theorem onLc_evr : (onLc f d).evr = d.evr := rfl
@[simp] theorem onLc_cpm : (onLc f d).cpm = d.cpm := rfl
@[simp] theorem onLc_svc : (onLc f d).svc = d.svc := rfl
@[simp] theorem onLc_pg : (onLc f d).pg = d.pg := rfl
@[simp] theorem onLc_spi : (onLc f d).spi = d.spi := rfl
@[simp] theorem onLc_free : (onLc f d).free = d.free := rfl
end

section
variable (f : HifS → HifS)
@[simp] theorem onHif_die : (onHif f d).die = d.die := rfl
@[simp] theorem onHif_lc : (onHif f d).lc = d.lc := rfl
@[simp] theorem onHif_hif : (onHif f d).hif = f d.hif := rfl
@[simp] theorem onHif_ks : (onHif f d).ks = d.ks := rfl
@[simp] theorem onHif_pol : (onHif f d).pol = d.pol := rfl
@[simp] theorem onHif_brl : (onHif f d).brl = d.brl := rfl
@[simp] theorem onHif_ent : (onHif f d).ent = d.ent := rfl
@[simp] theorem onHif_vlt : (onHif f d).vlt = d.vlt := rfl
@[simp] theorem onHif_apl : (onHif f d).apl = d.apl := rfl
@[simp] theorem onHif_crd : (onHif f d).crd = d.crd := rfl
@[simp] theorem onHif_kw : (onHif f d).kw = d.kw := rfl
@[simp] theorem onHif_dma : (onHif f d).dma = d.dma := rfl
@[simp] theorem onHif_spn : (onHif f d).spn = d.spn := rfl
@[simp] theorem onHif_nvm : (onHif f d).nvm = d.nvm := rfl
@[simp] theorem onHif_bat : (onHif f d).bat = d.bat := rfl
@[simp] theorem onHif_tmp : (onHif f d).tmp = d.tmp := rfl
@[simp] theorem onHif_evr : (onHif f d).evr = d.evr := rfl
@[simp] theorem onHif_cpm : (onHif f d).cpm = d.cpm := rfl
@[simp] theorem onHif_svc : (onHif f d).svc = d.svc := rfl
@[simp] theorem onHif_pg : (onHif f d).pg = d.pg := rfl
@[simp] theorem onHif_spi : (onHif f d).spi = d.spi := rfl
@[simp] theorem onHif_free : (onHif f d).free = d.free := rfl
end

section
variable (f : KsS → KsS)
@[simp] theorem onKs_die : (onKs f d).die = d.die := rfl
@[simp] theorem onKs_lc : (onKs f d).lc = d.lc := rfl
@[simp] theorem onKs_hif : (onKs f d).hif = d.hif := rfl
@[simp] theorem onKs_ks : (onKs f d).ks = f d.ks := rfl
@[simp] theorem onKs_pol : (onKs f d).pol = d.pol := rfl
@[simp] theorem onKs_brl : (onKs f d).brl = d.brl := rfl
@[simp] theorem onKs_ent : (onKs f d).ent = d.ent := rfl
@[simp] theorem onKs_vlt : (onKs f d).vlt = d.vlt := rfl
@[simp] theorem onKs_apl : (onKs f d).apl = d.apl := rfl
@[simp] theorem onKs_crd : (onKs f d).crd = d.crd := rfl
@[simp] theorem onKs_kw : (onKs f d).kw = d.kw := rfl
@[simp] theorem onKs_dma : (onKs f d).dma = d.dma := rfl
@[simp] theorem onKs_spn : (onKs f d).spn = d.spn := rfl
@[simp] theorem onKs_nvm : (onKs f d).nvm = d.nvm := rfl
@[simp] theorem onKs_bat : (onKs f d).bat = d.bat := rfl
@[simp] theorem onKs_tmp : (onKs f d).tmp = d.tmp := rfl
@[simp] theorem onKs_evr : (onKs f d).evr = d.evr := rfl
@[simp] theorem onKs_cpm : (onKs f d).cpm = d.cpm := rfl
@[simp] theorem onKs_svc : (onKs f d).svc = d.svc := rfl
@[simp] theorem onKs_pg : (onKs f d).pg = d.pg := rfl
@[simp] theorem onKs_spi : (onKs f d).spi = d.spi := rfl
@[simp] theorem onKs_free : (onKs f d).free = d.free := rfl
end

section
variable (f : PolicyS → PolicyS)
@[simp] theorem onPol_die : (onPol f d).die = d.die := rfl
@[simp] theorem onPol_lc : (onPol f d).lc = d.lc := rfl
@[simp] theorem onPol_hif : (onPol f d).hif = d.hif := rfl
@[simp] theorem onPol_ks : (onPol f d).ks = d.ks := rfl
@[simp] theorem onPol_pol : (onPol f d).pol = f d.pol := rfl
@[simp] theorem onPol_brl : (onPol f d).brl = d.brl := rfl
@[simp] theorem onPol_ent : (onPol f d).ent = d.ent := rfl
@[simp] theorem onPol_vlt : (onPol f d).vlt = d.vlt := rfl
@[simp] theorem onPol_apl : (onPol f d).apl = d.apl := rfl
@[simp] theorem onPol_crd : (onPol f d).crd = d.crd := rfl
@[simp] theorem onPol_kw : (onPol f d).kw = d.kw := rfl
@[simp] theorem onPol_dma : (onPol f d).dma = d.dma := rfl
@[simp] theorem onPol_spn : (onPol f d).spn = d.spn := rfl
@[simp] theorem onPol_nvm : (onPol f d).nvm = d.nvm := rfl
@[simp] theorem onPol_bat : (onPol f d).bat = d.bat := rfl
@[simp] theorem onPol_tmp : (onPol f d).tmp = d.tmp := rfl
@[simp] theorem onPol_evr : (onPol f d).evr = d.evr := rfl
@[simp] theorem onPol_cpm : (onPol f d).cpm = d.cpm := rfl
@[simp] theorem onPol_svc : (onPol f d).svc = d.svc := rfl
@[simp] theorem onPol_pg : (onPol f d).pg = d.pg := rfl
@[simp] theorem onPol_spi : (onPol f d).spi = d.spi := rfl
@[simp] theorem onPol_free : (onPol f d).free = d.free := rfl
end

section
variable (f : BrlS → BrlS)
@[simp] theorem onBrl_die : (onBrl f d).die = d.die := rfl
@[simp] theorem onBrl_lc : (onBrl f d).lc = d.lc := rfl
@[simp] theorem onBrl_hif : (onBrl f d).hif = d.hif := rfl
@[simp] theorem onBrl_ks : (onBrl f d).ks = d.ks := rfl
@[simp] theorem onBrl_pol : (onBrl f d).pol = d.pol := rfl
@[simp] theorem onBrl_brl : (onBrl f d).brl = f d.brl := rfl
@[simp] theorem onBrl_ent : (onBrl f d).ent = d.ent := rfl
@[simp] theorem onBrl_vlt : (onBrl f d).vlt = d.vlt := rfl
@[simp] theorem onBrl_apl : (onBrl f d).apl = d.apl := rfl
@[simp] theorem onBrl_crd : (onBrl f d).crd = d.crd := rfl
@[simp] theorem onBrl_kw : (onBrl f d).kw = d.kw := rfl
@[simp] theorem onBrl_dma : (onBrl f d).dma = d.dma := rfl
@[simp] theorem onBrl_spn : (onBrl f d).spn = d.spn := rfl
@[simp] theorem onBrl_nvm : (onBrl f d).nvm = d.nvm := rfl
@[simp] theorem onBrl_bat : (onBrl f d).bat = d.bat := rfl
@[simp] theorem onBrl_tmp : (onBrl f d).tmp = d.tmp := rfl
@[simp] theorem onBrl_evr : (onBrl f d).evr = d.evr := rfl
@[simp] theorem onBrl_cpm : (onBrl f d).cpm = d.cpm := rfl
@[simp] theorem onBrl_svc : (onBrl f d).svc = d.svc := rfl
@[simp] theorem onBrl_pg : (onBrl f d).pg = d.pg := rfl
@[simp] theorem onBrl_spi : (onBrl f d).spi = d.spi := rfl
@[simp] theorem onBrl_free : (onBrl f d).free = d.free := rfl
end

section
variable (f : EntS → EntS)
@[simp] theorem onEnt_die : (onEnt f d).die = d.die := rfl
@[simp] theorem onEnt_lc : (onEnt f d).lc = d.lc := rfl
@[simp] theorem onEnt_hif : (onEnt f d).hif = d.hif := rfl
@[simp] theorem onEnt_ks : (onEnt f d).ks = d.ks := rfl
@[simp] theorem onEnt_pol : (onEnt f d).pol = d.pol := rfl
@[simp] theorem onEnt_brl : (onEnt f d).brl = d.brl := rfl
@[simp] theorem onEnt_ent : (onEnt f d).ent = f d.ent := rfl
@[simp] theorem onEnt_vlt : (onEnt f d).vlt = d.vlt := rfl
@[simp] theorem onEnt_apl : (onEnt f d).apl = d.apl := rfl
@[simp] theorem onEnt_crd : (onEnt f d).crd = d.crd := rfl
@[simp] theorem onEnt_kw : (onEnt f d).kw = d.kw := rfl
@[simp] theorem onEnt_dma : (onEnt f d).dma = d.dma := rfl
@[simp] theorem onEnt_spn : (onEnt f d).spn = d.spn := rfl
@[simp] theorem onEnt_nvm : (onEnt f d).nvm = d.nvm := rfl
@[simp] theorem onEnt_bat : (onEnt f d).bat = d.bat := rfl
@[simp] theorem onEnt_tmp : (onEnt f d).tmp = d.tmp := rfl
@[simp] theorem onEnt_evr : (onEnt f d).evr = d.evr := rfl
@[simp] theorem onEnt_cpm : (onEnt f d).cpm = d.cpm := rfl
@[simp] theorem onEnt_svc : (onEnt f d).svc = d.svc := rfl
@[simp] theorem onEnt_pg : (onEnt f d).pg = d.pg := rfl
@[simp] theorem onEnt_spi : (onEnt f d).spi = d.spi := rfl
@[simp] theorem onEnt_free : (onEnt f d).free = d.free := rfl
end

section
variable (f : VltS → VltS)
@[simp] theorem onVlt_die : (onVlt f d).die = d.die := rfl
@[simp] theorem onVlt_lc : (onVlt f d).lc = d.lc := rfl
@[simp] theorem onVlt_hif : (onVlt f d).hif = d.hif := rfl
@[simp] theorem onVlt_ks : (onVlt f d).ks = d.ks := rfl
@[simp] theorem onVlt_pol : (onVlt f d).pol = d.pol := rfl
@[simp] theorem onVlt_brl : (onVlt f d).brl = d.brl := rfl
@[simp] theorem onVlt_ent : (onVlt f d).ent = d.ent := rfl
@[simp] theorem onVlt_vlt : (onVlt f d).vlt = f d.vlt := rfl
@[simp] theorem onVlt_apl : (onVlt f d).apl = d.apl := rfl
@[simp] theorem onVlt_crd : (onVlt f d).crd = d.crd := rfl
@[simp] theorem onVlt_kw : (onVlt f d).kw = d.kw := rfl
@[simp] theorem onVlt_dma : (onVlt f d).dma = d.dma := rfl
@[simp] theorem onVlt_spn : (onVlt f d).spn = d.spn := rfl
@[simp] theorem onVlt_nvm : (onVlt f d).nvm = d.nvm := rfl
@[simp] theorem onVlt_bat : (onVlt f d).bat = d.bat := rfl
@[simp] theorem onVlt_tmp : (onVlt f d).tmp = d.tmp := rfl
@[simp] theorem onVlt_evr : (onVlt f d).evr = d.evr := rfl
@[simp] theorem onVlt_cpm : (onVlt f d).cpm = d.cpm := rfl
@[simp] theorem onVlt_svc : (onVlt f d).svc = d.svc := rfl
@[simp] theorem onVlt_pg : (onVlt f d).pg = d.pg := rfl
@[simp] theorem onVlt_spi : (onVlt f d).spi = d.spi := rfl
@[simp] theorem onVlt_free : (onVlt f d).free = d.free := rfl
end

section
variable (f : AplS → AplS)
@[simp] theorem onApl_die : (onApl f d).die = d.die := rfl
@[simp] theorem onApl_lc : (onApl f d).lc = d.lc := rfl
@[simp] theorem onApl_hif : (onApl f d).hif = d.hif := rfl
@[simp] theorem onApl_ks : (onApl f d).ks = d.ks := rfl
@[simp] theorem onApl_pol : (onApl f d).pol = d.pol := rfl
@[simp] theorem onApl_brl : (onApl f d).brl = d.brl := rfl
@[simp] theorem onApl_ent : (onApl f d).ent = d.ent := rfl
@[simp] theorem onApl_vlt : (onApl f d).vlt = d.vlt := rfl
@[simp] theorem onApl_apl : (onApl f d).apl = f d.apl := rfl
@[simp] theorem onApl_crd : (onApl f d).crd = d.crd := rfl
@[simp] theorem onApl_kw : (onApl f d).kw = d.kw := rfl
@[simp] theorem onApl_dma : (onApl f d).dma = d.dma := rfl
@[simp] theorem onApl_spn : (onApl f d).spn = d.spn := rfl
@[simp] theorem onApl_nvm : (onApl f d).nvm = d.nvm := rfl
@[simp] theorem onApl_bat : (onApl f d).bat = d.bat := rfl
@[simp] theorem onApl_tmp : (onApl f d).tmp = d.tmp := rfl
@[simp] theorem onApl_evr : (onApl f d).evr = d.evr := rfl
@[simp] theorem onApl_cpm : (onApl f d).cpm = d.cpm := rfl
@[simp] theorem onApl_svc : (onApl f d).svc = d.svc := rfl
@[simp] theorem onApl_pg : (onApl f d).pg = d.pg := rfl
@[simp] theorem onApl_spi : (onApl f d).spi = d.spi := rfl
@[simp] theorem onApl_free : (onApl f d).free = d.free := rfl
end

section
variable (f : CrdS → CrdS)
@[simp] theorem onCrd_die : (onCrd f d).die = d.die := rfl
@[simp] theorem onCrd_lc : (onCrd f d).lc = d.lc := rfl
@[simp] theorem onCrd_hif : (onCrd f d).hif = d.hif := rfl
@[simp] theorem onCrd_ks : (onCrd f d).ks = d.ks := rfl
@[simp] theorem onCrd_pol : (onCrd f d).pol = d.pol := rfl
@[simp] theorem onCrd_brl : (onCrd f d).brl = d.brl := rfl
@[simp] theorem onCrd_ent : (onCrd f d).ent = d.ent := rfl
@[simp] theorem onCrd_vlt : (onCrd f d).vlt = d.vlt := rfl
@[simp] theorem onCrd_apl : (onCrd f d).apl = d.apl := rfl
@[simp] theorem onCrd_crd : (onCrd f d).crd = f d.crd := rfl
@[simp] theorem onCrd_kw : (onCrd f d).kw = d.kw := rfl
@[simp] theorem onCrd_dma : (onCrd f d).dma = d.dma := rfl
@[simp] theorem onCrd_spn : (onCrd f d).spn = d.spn := rfl
@[simp] theorem onCrd_nvm : (onCrd f d).nvm = d.nvm := rfl
@[simp] theorem onCrd_bat : (onCrd f d).bat = d.bat := rfl
@[simp] theorem onCrd_tmp : (onCrd f d).tmp = d.tmp := rfl
@[simp] theorem onCrd_evr : (onCrd f d).evr = d.evr := rfl
@[simp] theorem onCrd_cpm : (onCrd f d).cpm = d.cpm := rfl
@[simp] theorem onCrd_svc : (onCrd f d).svc = d.svc := rfl
@[simp] theorem onCrd_pg : (onCrd f d).pg = d.pg := rfl
@[simp] theorem onCrd_spi : (onCrd f d).spi = d.spi := rfl
@[simp] theorem onCrd_free : (onCrd f d).free = d.free := rfl
end

section
variable (f : SpnS → SpnS)
@[simp] theorem onSpn_die : (onSpn f d).die = d.die := rfl
@[simp] theorem onSpn_lc : (onSpn f d).lc = d.lc := rfl
@[simp] theorem onSpn_hif : (onSpn f d).hif = d.hif := rfl
@[simp] theorem onSpn_ks : (onSpn f d).ks = d.ks := rfl
@[simp] theorem onSpn_pol : (onSpn f d).pol = d.pol := rfl
@[simp] theorem onSpn_brl : (onSpn f d).brl = d.brl := rfl
@[simp] theorem onSpn_ent : (onSpn f d).ent = d.ent := rfl
@[simp] theorem onSpn_vlt : (onSpn f d).vlt = d.vlt := rfl
@[simp] theorem onSpn_apl : (onSpn f d).apl = d.apl := rfl
@[simp] theorem onSpn_crd : (onSpn f d).crd = d.crd := rfl
@[simp] theorem onSpn_kw : (onSpn f d).kw = d.kw := rfl
@[simp] theorem onSpn_dma : (onSpn f d).dma = d.dma := rfl
@[simp] theorem onSpn_spn : (onSpn f d).spn = f d.spn := rfl
@[simp] theorem onSpn_nvm : (onSpn f d).nvm = d.nvm := rfl
@[simp] theorem onSpn_bat : (onSpn f d).bat = d.bat := rfl
@[simp] theorem onSpn_tmp : (onSpn f d).tmp = d.tmp := rfl
@[simp] theorem onSpn_evr : (onSpn f d).evr = d.evr := rfl
@[simp] theorem onSpn_cpm : (onSpn f d).cpm = d.cpm := rfl
@[simp] theorem onSpn_svc : (onSpn f d).svc = d.svc := rfl
@[simp] theorem onSpn_pg : (onSpn f d).pg = d.pg := rfl
@[simp] theorem onSpn_spi : (onSpn f d).spi = d.spi := rfl
@[simp] theorem onSpn_free : (onSpn f d).free = d.free := rfl
end

section
variable (f : NvmS → NvmS)
@[simp] theorem onNvm_die : (onNvm f d).die = d.die := rfl
@[simp] theorem onNvm_lc : (onNvm f d).lc = d.lc := rfl
@[simp] theorem onNvm_hif : (onNvm f d).hif = d.hif := rfl
@[simp] theorem onNvm_ks : (onNvm f d).ks = d.ks := rfl
@[simp] theorem onNvm_pol : (onNvm f d).pol = d.pol := rfl
@[simp] theorem onNvm_brl : (onNvm f d).brl = d.brl := rfl
@[simp] theorem onNvm_ent : (onNvm f d).ent = d.ent := rfl
@[simp] theorem onNvm_vlt : (onNvm f d).vlt = d.vlt := rfl
@[simp] theorem onNvm_apl : (onNvm f d).apl = d.apl := rfl
@[simp] theorem onNvm_crd : (onNvm f d).crd = d.crd := rfl
@[simp] theorem onNvm_kw : (onNvm f d).kw = d.kw := rfl
@[simp] theorem onNvm_dma : (onNvm f d).dma = d.dma := rfl
@[simp] theorem onNvm_spn : (onNvm f d).spn = d.spn := rfl
@[simp] theorem onNvm_nvm : (onNvm f d).nvm = f d.nvm := rfl
@[simp] theorem onNvm_bat : (onNvm f d).bat = d.bat := rfl
@[simp] theorem onNvm_tmp : (onNvm f d).tmp = d.tmp := rfl
@[simp] theorem onNvm_evr : (onNvm f d).evr = d.evr := rfl
@[simp] theorem onNvm_cpm : (onNvm f d).cpm = d.cpm := rfl
@[simp] theorem onNvm_svc : (onNvm f d).svc = d.svc := rfl
@[simp] theorem onNvm_pg : (onNvm f d).pg = d.pg := rfl
@[simp] theorem onNvm_spi : (onNvm f d).spi = d.spi := rfl
@[simp] theorem onNvm_free : (onNvm f d).free = d.free := rfl
end

section
variable (f : BatS → BatS)
@[simp] theorem onBat_die : (onBat f d).die = d.die := rfl
@[simp] theorem onBat_lc : (onBat f d).lc = d.lc := rfl
@[simp] theorem onBat_hif : (onBat f d).hif = d.hif := rfl
@[simp] theorem onBat_ks : (onBat f d).ks = d.ks := rfl
@[simp] theorem onBat_pol : (onBat f d).pol = d.pol := rfl
@[simp] theorem onBat_brl : (onBat f d).brl = d.brl := rfl
@[simp] theorem onBat_ent : (onBat f d).ent = d.ent := rfl
@[simp] theorem onBat_vlt : (onBat f d).vlt = d.vlt := rfl
@[simp] theorem onBat_apl : (onBat f d).apl = d.apl := rfl
@[simp] theorem onBat_crd : (onBat f d).crd = d.crd := rfl
@[simp] theorem onBat_kw : (onBat f d).kw = d.kw := rfl
@[simp] theorem onBat_dma : (onBat f d).dma = d.dma := rfl
@[simp] theorem onBat_spn : (onBat f d).spn = d.spn := rfl
@[simp] theorem onBat_nvm : (onBat f d).nvm = d.nvm := rfl
@[simp] theorem onBat_bat : (onBat f d).bat = f d.bat := rfl
@[simp] theorem onBat_tmp : (onBat f d).tmp = d.tmp := rfl
@[simp] theorem onBat_evr : (onBat f d).evr = d.evr := rfl
@[simp] theorem onBat_cpm : (onBat f d).cpm = d.cpm := rfl
@[simp] theorem onBat_svc : (onBat f d).svc = d.svc := rfl
@[simp] theorem onBat_pg : (onBat f d).pg = d.pg := rfl
@[simp] theorem onBat_spi : (onBat f d).spi = d.spi := rfl
@[simp] theorem onBat_free : (onBat f d).free = d.free := rfl
end

section
variable (f : TmpS → TmpS)
@[simp] theorem onTmp_die : (onTmp f d).die = d.die := rfl
@[simp] theorem onTmp_lc : (onTmp f d).lc = d.lc := rfl
@[simp] theorem onTmp_hif : (onTmp f d).hif = d.hif := rfl
@[simp] theorem onTmp_ks : (onTmp f d).ks = d.ks := rfl
@[simp] theorem onTmp_pol : (onTmp f d).pol = d.pol := rfl
@[simp] theorem onTmp_brl : (onTmp f d).brl = d.brl := rfl
@[simp] theorem onTmp_ent : (onTmp f d).ent = d.ent := rfl
@[simp] theorem onTmp_vlt : (onTmp f d).vlt = d.vlt := rfl
@[simp] theorem onTmp_apl : (onTmp f d).apl = d.apl := rfl
@[simp] theorem onTmp_crd : (onTmp f d).crd = d.crd := rfl
@[simp] theorem onTmp_kw : (onTmp f d).kw = d.kw := rfl
@[simp] theorem onTmp_dma : (onTmp f d).dma = d.dma := rfl
@[simp] theorem onTmp_spn : (onTmp f d).spn = d.spn := rfl
@[simp] theorem onTmp_nvm : (onTmp f d).nvm = d.nvm := rfl
@[simp] theorem onTmp_bat : (onTmp f d).bat = d.bat := rfl
@[simp] theorem onTmp_tmp : (onTmp f d).tmp = f d.tmp := rfl
@[simp] theorem onTmp_evr : (onTmp f d).evr = d.evr := rfl
@[simp] theorem onTmp_cpm : (onTmp f d).cpm = d.cpm := rfl
@[simp] theorem onTmp_svc : (onTmp f d).svc = d.svc := rfl
@[simp] theorem onTmp_pg : (onTmp f d).pg = d.pg := rfl
@[simp] theorem onTmp_spi : (onTmp f d).spi = d.spi := rfl
@[simp] theorem onTmp_free : (onTmp f d).free = d.free := rfl
end

section
variable (f : EvrS → EvrS)
@[simp] theorem onEvr_die : (onEvr f d).die = d.die := rfl
@[simp] theorem onEvr_lc : (onEvr f d).lc = d.lc := rfl
@[simp] theorem onEvr_hif : (onEvr f d).hif = d.hif := rfl
@[simp] theorem onEvr_ks : (onEvr f d).ks = d.ks := rfl
@[simp] theorem onEvr_pol : (onEvr f d).pol = d.pol := rfl
@[simp] theorem onEvr_brl : (onEvr f d).brl = d.brl := rfl
@[simp] theorem onEvr_ent : (onEvr f d).ent = d.ent := rfl
@[simp] theorem onEvr_vlt : (onEvr f d).vlt = d.vlt := rfl
@[simp] theorem onEvr_apl : (onEvr f d).apl = d.apl := rfl
@[simp] theorem onEvr_crd : (onEvr f d).crd = d.crd := rfl
@[simp] theorem onEvr_kw : (onEvr f d).kw = d.kw := rfl
@[simp] theorem onEvr_dma : (onEvr f d).dma = d.dma := rfl
@[simp] theorem onEvr_spn : (onEvr f d).spn = d.spn := rfl
@[simp] theorem onEvr_nvm : (onEvr f d).nvm = d.nvm := rfl
@[simp] theorem onEvr_bat : (onEvr f d).bat = d.bat := rfl
@[simp] theorem onEvr_tmp : (onEvr f d).tmp = d.tmp := rfl
@[simp] theorem onEvr_evr : (onEvr f d).evr = f d.evr := rfl
@[simp] theorem onEvr_cpm : (onEvr f d).cpm = d.cpm := rfl
@[simp] theorem onEvr_svc : (onEvr f d).svc = d.svc := rfl
@[simp] theorem onEvr_pg : (onEvr f d).pg = d.pg := rfl
@[simp] theorem onEvr_spi : (onEvr f d).spi = d.spi := rfl
@[simp] theorem onEvr_free : (onEvr f d).free = d.free := rfl
end

section
variable (f : CpmS → CpmS)
@[simp] theorem onCpm_die : (onCpm f d).die = d.die := rfl
@[simp] theorem onCpm_lc : (onCpm f d).lc = d.lc := rfl
@[simp] theorem onCpm_hif : (onCpm f d).hif = d.hif := rfl
@[simp] theorem onCpm_ks : (onCpm f d).ks = d.ks := rfl
@[simp] theorem onCpm_pol : (onCpm f d).pol = d.pol := rfl
@[simp] theorem onCpm_brl : (onCpm f d).brl = d.brl := rfl
@[simp] theorem onCpm_ent : (onCpm f d).ent = d.ent := rfl
@[simp] theorem onCpm_vlt : (onCpm f d).vlt = d.vlt := rfl
@[simp] theorem onCpm_apl : (onCpm f d).apl = d.apl := rfl
@[simp] theorem onCpm_crd : (onCpm f d).crd = d.crd := rfl
@[simp] theorem onCpm_kw : (onCpm f d).kw = d.kw := rfl
@[simp] theorem onCpm_dma : (onCpm f d).dma = d.dma := rfl
@[simp] theorem onCpm_spn : (onCpm f d).spn = d.spn := rfl
@[simp] theorem onCpm_nvm : (onCpm f d).nvm = d.nvm := rfl
@[simp] theorem onCpm_bat : (onCpm f d).bat = d.bat := rfl
@[simp] theorem onCpm_tmp : (onCpm f d).tmp = d.tmp := rfl
@[simp] theorem onCpm_evr : (onCpm f d).evr = d.evr := rfl
@[simp] theorem onCpm_cpm : (onCpm f d).cpm = f d.cpm := rfl
@[simp] theorem onCpm_svc : (onCpm f d).svc = d.svc := rfl
@[simp] theorem onCpm_pg : (onCpm f d).pg = d.pg := rfl
@[simp] theorem onCpm_spi : (onCpm f d).spi = d.spi := rfl
@[simp] theorem onCpm_free : (onCpm f d).free = d.free := rfl
end

section
variable (f : SvcS → SvcS)
@[simp] theorem onSvc_die : (onSvc f d).die = d.die := rfl
@[simp] theorem onSvc_lc : (onSvc f d).lc = d.lc := rfl
@[simp] theorem onSvc_hif : (onSvc f d).hif = d.hif := rfl
@[simp] theorem onSvc_ks : (onSvc f d).ks = d.ks := rfl
@[simp] theorem onSvc_pol : (onSvc f d).pol = d.pol := rfl
@[simp] theorem onSvc_brl : (onSvc f d).brl = d.brl := rfl
@[simp] theorem onSvc_ent : (onSvc f d).ent = d.ent := rfl
@[simp] theorem onSvc_vlt : (onSvc f d).vlt = d.vlt := rfl
@[simp] theorem onSvc_apl : (onSvc f d).apl = d.apl := rfl
@[simp] theorem onSvc_crd : (onSvc f d).crd = d.crd := rfl
@[simp] theorem onSvc_kw : (onSvc f d).kw = d.kw := rfl
@[simp] theorem onSvc_dma : (onSvc f d).dma = d.dma := rfl
@[simp] theorem onSvc_spn : (onSvc f d).spn = d.spn := rfl
@[simp] theorem onSvc_nvm : (onSvc f d).nvm = d.nvm := rfl
@[simp] theorem onSvc_bat : (onSvc f d).bat = d.bat := rfl
@[simp] theorem onSvc_tmp : (onSvc f d).tmp = d.tmp := rfl
@[simp] theorem onSvc_evr : (onSvc f d).evr = d.evr := rfl
@[simp] theorem onSvc_cpm : (onSvc f d).cpm = d.cpm := rfl
@[simp] theorem onSvc_svc : (onSvc f d).svc = f d.svc := rfl
@[simp] theorem onSvc_pg : (onSvc f d).pg = d.pg := rfl
@[simp] theorem onSvc_spi : (onSvc f d).spi = d.spi := rfl
@[simp] theorem onSvc_free : (onSvc f d).free = d.free := rfl
end

section
variable (f : PagesS → PagesS)
@[simp] theorem onPg_die : (onPg f d).die = d.die := rfl
@[simp] theorem onPg_lc : (onPg f d).lc = d.lc := rfl
@[simp] theorem onPg_hif : (onPg f d).hif = d.hif := rfl
@[simp] theorem onPg_ks : (onPg f d).ks = d.ks := rfl
@[simp] theorem onPg_pol : (onPg f d).pol = d.pol := rfl
@[simp] theorem onPg_brl : (onPg f d).brl = d.brl := rfl
@[simp] theorem onPg_ent : (onPg f d).ent = d.ent := rfl
@[simp] theorem onPg_vlt : (onPg f d).vlt = d.vlt := rfl
@[simp] theorem onPg_apl : (onPg f d).apl = d.apl := rfl
@[simp] theorem onPg_crd : (onPg f d).crd = d.crd := rfl
@[simp] theorem onPg_kw : (onPg f d).kw = d.kw := rfl
@[simp] theorem onPg_dma : (onPg f d).dma = d.dma := rfl
@[simp] theorem onPg_spn : (onPg f d).spn = d.spn := rfl
@[simp] theorem onPg_nvm : (onPg f d).nvm = d.nvm := rfl
@[simp] theorem onPg_bat : (onPg f d).bat = d.bat := rfl
@[simp] theorem onPg_tmp : (onPg f d).tmp = d.tmp := rfl
@[simp] theorem onPg_evr : (onPg f d).evr = d.evr := rfl
@[simp] theorem onPg_cpm : (onPg f d).cpm = d.cpm := rfl
@[simp] theorem onPg_svc : (onPg f d).svc = d.svc := rfl
@[simp] theorem onPg_pg : (onPg f d).pg = f d.pg := rfl
@[simp] theorem onPg_spi : (onPg f d).spi = d.spi := rfl
@[simp] theorem onPg_free : (onPg f d).free = d.free := rfl
end

section
variable (f : SpiS → SpiS)
@[simp] theorem onSpi_die : (onSpi f d).die = d.die := rfl
@[simp] theorem onSpi_lc : (onSpi f d).lc = d.lc := rfl
@[simp] theorem onSpi_hif : (onSpi f d).hif = d.hif := rfl
@[simp] theorem onSpi_ks : (onSpi f d).ks = d.ks := rfl
@[simp] theorem onSpi_pol : (onSpi f d).pol = d.pol := rfl
@[simp] theorem onSpi_brl : (onSpi f d).brl = d.brl := rfl
@[simp] theorem onSpi_ent : (onSpi f d).ent = d.ent := rfl
@[simp] theorem onSpi_vlt : (onSpi f d).vlt = d.vlt := rfl
@[simp] theorem onSpi_apl : (onSpi f d).apl = d.apl := rfl
@[simp] theorem onSpi_crd : (onSpi f d).crd = d.crd := rfl
@[simp] theorem onSpi_kw : (onSpi f d).kw = d.kw := rfl
@[simp] theorem onSpi_dma : (onSpi f d).dma = d.dma := rfl
@[simp] theorem onSpi_spn : (onSpi f d).spn = d.spn := rfl
@[simp] theorem onSpi_nvm : (onSpi f d).nvm = d.nvm := rfl
@[simp] theorem onSpi_bat : (onSpi f d).bat = d.bat := rfl
@[simp] theorem onSpi_tmp : (onSpi f d).tmp = d.tmp := rfl
@[simp] theorem onSpi_evr : (onSpi f d).evr = d.evr := rfl
@[simp] theorem onSpi_cpm : (onSpi f d).cpm = d.cpm := rfl
@[simp] theorem onSpi_svc : (onSpi f d).svc = d.svc := rfl
@[simp] theorem onSpi_pg : (onSpi f d).pg = d.pg := rfl
@[simp] theorem onSpi_spi : (onSpi f d).spi = f d.spi := rfl
@[simp] theorem onSpi_free : (onSpi f d).free = d.free := rfl
end

section
variable (f : Dev → Dev) (g : List Host.Cell → List Host.Cell)
@[simp] theorem onDev_toDev : (onDev f s).toDev = f s.toDev := rfl
@[simp] theorem onDev_mem : (onDev f s).mem = s.mem := rfl
@[simp] theorem onDev_pending : (onDev f s).pending = s.pending := rfl
@[simp] theorem onMem_toDev : (onMem g s).toDev = s.toDev := rfl
@[simp] theorem onMem_mem : (onMem g s).mem = g s.mem := rfl
@[simp] theorem onMem_pending : (onMem g s).pending = s.pending := rfl
@[simp] theorem doIf_true : doIf true f d = f d := rfl
@[simp] theorem doIf_false : doIf false f d = d := rfl
@[simp] theorem forAll_nil {α : Type} (h : α → Dev → Dev) : forAll [] h d = d := rfl
@[simp] theorem forAll_cons {α : Type} (h : α → Dev → Dev) (x : α) (l : List α) : forAll (x :: l) h d = forAll l h (h x d) := rfl
end

end Sys2Proof.Machine
end

