-- ==== Sys2Proof/Laws/Access.lean ====
section
/-! SUPPORT. What the passage of an access through the keyways does: where it is allowed, only the keyways' counts change. -/

namespace Sys2Proof.Machine

/-- Two device states that differ in their keyway units alone. -/
def SameButKw (d e : Dev) : Prop := e = { d with kw := e.kw }

theorem SameButKw.refl (d : Dev) : SameButKw d d := rfl

theorem SameButKw.trans {a b c : Dev} (h1 : SameButKw a b) (h2 : SameButKw b c) : SameButKw a c := by
  unfold SameButKw at *
  rw [h2, h1]

theorem sameButKw_onKw (u : KwUnit) (f : KwS → KwS) (d : Dev) : SameButKw d (onKw u f d) := by
  unfold SameButKw onKw
  split <;> rfl

theorem kwPass_allowed (x : Stalled) (l : List KwUnit) (d : Dev) (h : (kwPass x l d).1 = .allowed) :
    SameButKw d (kwPass x l d).2 := by
  induction l generalizing d with
  | nil => rfl
  | cons u us ih =>
    unfold kwPass at h ⊢
    cases hv : kwVerdict d u x with
    | some ok =>
      simp only [hv] at h ⊢
      cases ok with
      | true => exact (sameButKw_onKw u _ d).trans (ih _ h)
      | false => cases h
    | none =>
      simp only [hv] at h ⊢
      cases hu : (kwOf d u).updating with
      | true => simp [hu] at h
      | false =>
        simp only [hu] at h ⊢
        cases hj : kwJudge d u x.acc x.addr x.kind with
        | some p => simp [hj] at h
        | none =>
          simp only [hj] at h ⊢
          exact (sameButKw_onKw u _ d).trans (ih _ h)

/-- An access that the keyways let pass has changed their counts alone. -/
theorem kwMeet_allowed (x : Stalled) (d : Dev) (h : (kwMeet x d).1 = .allowed) : SameButKw d (kwMeet x d).2 := by
  have pass : ∀ r : Passage × Dev, r = kwPass x (kwPath x.acc x.addr) d →
      (if r.1 == .stalled && x.again then (Passage.stalled, stallAgain x d) else r).1 = .allowed →
      SameButKw d (if r.1 == .stalled && x.again then (Passage.stalled, stallAgain x d) else r).2 := by
    intro r hr h
    split at h
    · cases h
    · rename_i hc
      simp only [hc]
      rw [hr] at h ⊢
      exact kwPass_allowed x _ d h
  unfold kwMeet at h ⊢
  cases hm : pageAt x.addr with
  | none =>
    simp only [hm] at h ⊢
    exact pass _ rfl h
  | some m =>
    simp only [hm] at h ⊢
    cases hk : isKwPage m with
    | true =>
      simp only [hk, if_true, kwPageCheck] at h ⊢
      split
      · rfl
      · rename_i hc
        simp [hc] at h
    | false =>
      simp only [hk] at h ⊢
      exact pass _ rfl h

theorem kwAccess_allowed (acc : Access) (a : Nat) (kind : AccKind) (size : Nat) (d : Dev)
    (h : (kwAccess acc a kind size d).1 = .allowed) : SameButKw d (kwAccess acc a kind size d).2 := kwMeet_allowed _ d h

end Sys2Proof.Machine
end

