-- ==== Sys2Proof/Laws/Mem.lean ====
section
/-! SUPPORT. Memory: a read after a write, and every memory operation keeps the canonical form. -/

namespace Sys2Proof.Machine

@[simp] theorem Memory.wf_nil : Memory.wf [] := ⟨List.Pairwise.nil, by simp⟩

theorem Memory.wf_tail {c : Host.Cell} {m : List Host.Cell} (h : Memory.wf (c :: m)) : Memory.wf m :=
  ⟨h.1.of_cons, fun x hx => h.2 x (List.mem_cons_of_mem _ hx)⟩

theorem memSet_keys {m : List Host.Cell} {a : Nat} {v : Byte} {c : Host.Cell} (h : c ∈ memSet m a v) : c.1 = a ∨ c ∈ m := by
  induction m with
  | nil =>
    simp only [memSet] at h
    split at h
    · simp at h
    · simp at h
      simp [h]
  | cons p m ih =>
    obtain ⟨a', v'⟩ := p
    simp only [memSet] at h
    split at h
    · split at h
      · exact .inr h
      · rcases List.mem_cons.mp h with rfl | h
        · exact .inl rfl
        · exact .inr h
    · split at h
      · split at h
        · exact .inr (List.mem_cons_of_mem _ h)
        · rcases List.mem_cons.mp h with rfl | h
          · exact .inl rfl
          · exact .inr (List.mem_cons_of_mem _ h)
      · rcases List.mem_cons.mp h with rfl | h
        · exact .inr (List.mem_cons_self)
        · rcases ih h with h | h
          · exact .inl h
          · exact .inr (List.mem_cons_of_mem _ h)

/-- Writing one byte keeps the canonical form. -/
theorem Memory.wf_memSet {m : List Host.Cell} (h : Memory.wf m) (a : Nat) (v : Byte) : Memory.wf (memSet m a v) := by
  induction m with
  | nil =>
    simp only [memSet]
    split
    · exact h
    · rename_i hv
      exact ⟨by simp, by simpa using hv⟩
  | cons p m ih =>
    obtain ⟨a', v'⟩ := p
    have hp := List.pairwise_cons.mp h.1
    have ht := Memory.wf_tail h
    simp only [memSet]
    split
    · rename_i hlt
      split
      · exact h
      · rename_i hv
        refine ⟨List.pairwise_cons.mpr ⟨?_, h.1⟩, ?_⟩
        · intro c hc
          rcases List.mem_cons.mp hc with rfl | hc
          · exact hlt
          · exact Nat.lt_trans hlt (hp.1 c hc)
        · intro c hc
          rcases List.mem_cons.mp hc with rfl | hc
          · exact hv
          · exact h.2 c hc
    · rename_i hlt
      split
      · rename_i heq
        split
        · exact ht
        · rename_i hv
          refine ⟨List.pairwise_cons.mpr ⟨fun c hc => heq ▸ hp.1 c hc, hp.2⟩, ?_⟩
          intro c hc
          rcases List.mem_cons.mp hc with rfl | hc
          · exact hv
          · exact ht.2 c hc
      · rename_i hne
        have ih' := ih ht
        refine ⟨List.pairwise_cons.mpr ⟨?_, ih'.1⟩, ?_⟩
        · intro c hc
          rcases memSet_keys hc with hc | hc
          · simp only [hc]
            omega
          · exact hp.1 c hc
        · intro c hc
          rcases List.mem_cons.mp hc with rfl | hc
          · exact h.2 _ List.mem_cons_self
          · exact ih'.2 c hc

/-- Writing consecutive bytes keeps the canonical form. -/
theorem Memory.wf_memSetN {m : List Host.Cell} (h : Memory.wf m) (a : Nat) (b : Bytes) : Memory.wf (memSetN m a b) := by
  induction b generalizing m a with
  | nil => exact h
  | cons x b ih => exact ih (Memory.wf_memSet h a x) (a + 1)

/-- Keeping some of the cells keeps the canonical form. -/
theorem Memory.wf_filter {m : List Host.Cell} (h : Memory.wf m) (p : Host.Cell → Bool) : Memory.wf (m.filter p) :=
  ⟨h.1.filter p, fun c hc => h.2 c (List.mem_of_mem_filter hc)⟩

/-- Zero-filling keeps the canonical form. -/
theorem Memory.wf_memZero {m : List Host.Cell} (h : Memory.wf m) (a n : Nat) : Memory.wf (memZero m a n) :=
  Memory.wf_filter h _

theorem memGet_of_lt {m : List Host.Cell} (h : m.Pairwise (fun x y => x.1 < y.1)) {a : Nat}
    (ha : ∀ c ∈ m, a < c.1) : memGet m a = memDefault := by
  induction m with
  | nil => rfl
  | cons p m ih =>
    have hp := ha p List.mem_cons_self
    have hne : ¬ p.1 = a := by omega
    simp only [memGet, hne, if_false]
    exact ih (List.pairwise_cons.mp h).2 (fun c hc => ha c (List.mem_cons_of_mem _ hc))

/-- A read after a write of the same address gives the byte written. -/
theorem memGet_memSet_self {m : List Host.Cell} (h : Memory.wf m) (a : Nat) (v : Byte) : memGet (memSet m a v) a = v := by
  induction m with
  | nil =>
    simp only [memSet]
    split
    · rename_i hv
      simp [memGet, hv]
    · simp [memGet]
  | cons p m ih =>
    obtain ⟨a', v'⟩ := p
    have hp := List.pairwise_cons.mp h.1
    simp only [memSet]
    split
    · rename_i hlt
      split
      · rename_i hv
        rw [hv]
        refine memGet_of_lt h.1 (fun c hc => ?_)
        rcases List.mem_cons.mp hc with rfl | hc
        · exact hlt
        · exact Nat.lt_trans hlt (hp.1 c hc)
      · simp [memGet]
    · split
      · rename_i heq
        split
        · rename_i hv
          rw [hv]
          exact memGet_of_lt hp.2 (fun c hc => heq ▸ hp.1 c hc)
        · simp [memGet]
      · rename_i hne
        have : ¬ a' = a := fun e => hne e.symm
        simp only [memGet, this, if_false]
        exact ih (Memory.wf_tail h)

/-- A write leaves every other address alone. -/
theorem memGet_memSet_ne (m : List Host.Cell) {a b : Nat} (v : Byte) (h : b ≠ a) : memGet (memSet m a v) b = memGet m b := by
  have hab : ¬ a = b := fun e => h e.symm
  induction m with
  | nil =>
    simp only [memSet]
    split <;> simp [memGet, hab]
  | cons p m ih =>
    obtain ⟨a', v'⟩ := p
    simp only [memSet]
    split
    · split <;> simp [memGet, hab]
    · split
      · rename_i heq
        split
        · subst heq
          simp [memGet, hab]
        · subst heq
          simp [memGet, hab]
      · simp only [memGet, ih]

/-- A write of consecutive bytes leaves every address outside them alone. -/
theorem memGet_memSetN_outside (m : List Host.Cell) (a : Nat) (b : Bytes) (x : Nat) (h : x < a ∨ a + b.length ≤ x) :
    memGet (memSetN m a b) x = memGet m x := by
  induction b generalizing m a with
  | nil => rfl
  | cons v b ih =>
    simp only [List.length_cons] at h
    rw [memSetN, ih (memSet m a v) (a + 1) (by omega), memGet_memSet_ne m v (by omega)]

/-- The bytes written are read back. -/
theorem memGetN_memSetN {m : List Host.Cell} (h : Memory.wf m) (a : Nat) (b : Bytes) : memGetN (memSetN m a b) a b.length = b := by
  induction b generalizing m a with
  | nil => rfl
  | cons v b ih =>
    have h0 : memGet (memSetN (memSet m a v) (a + 1) b) a = v := by
      rw [memGet_memSetN_outside _ _ _ _ (by omega), memGet_memSet_self h]
    have h1 := ih (Memory.wf_memSet h a v) (a + 1)
    simp only [memGetN, memSetN, List.length_cons, List.range_succ_eq_map, List.map_cons, List.map_map, Nat.add_zero, h0]
    congr 1
    simp only [memGetN] at h1
    conv => rhs; rw [← h1]
    apply List.map_congr_left
    intro i _
    simp only [Function.comp]
    congr 1
    omega

end Sys2Proof.Machine
end

