-- ==== Sys2Proof/Laws/Tab.lean ====
section
/-! SUPPORT. Reading a table after writing it. -/

namespace Sys2Proof.Machine

theorem tget?_tput_self {α : Type} (t : Tab α) (k : Nat) (v : α) : tget? (tput t k v) k = some v := by
  unfold tget?
  induction t with
  | nil => simp [tput]
  | cons p t ih =>
    obtain ⟨k', v'⟩ := p
    by_cases h1 : k < k'
    · simp [tput, h1]
    · by_cases h2 : k = k'
      · simp [tput, h2]
      · simpa [tput, h1, h2, List.lookup_cons, beq_eq_false_iff_ne.mpr h2] using ih

theorem tget?_tput_ne {α : Type} (t : Tab α) {k j : Nat} (v : α) (h : j ≠ k) : tget? (tput t k v) j = tget? t j := by
  unfold tget?
  have hj : (j == k) = false := beq_eq_false_iff_ne.mpr h
  induction t with
  | nil => simp [tput, List.lookup_cons, hj]
  | cons p t ih =>
    obtain ⟨k', v'⟩ := p
    by_cases h1 : k < k'
    · simp [tput, h1, List.lookup_cons, hj]
    · by_cases h2 : k = k'
      · subst h2
        simp [tput, List.lookup_cons, hj]
      · simp only [tput, h1, h2, if_false, List.lookup_cons]
        split
        · rfl
        · exact ih

@[simp] theorem tget_tput_self {α : Type} (t : Tab α) (k : Nat) (v d : α) : tget (tput t k v) k d = v := by
  simp [tget, tget?_tput_self]

theorem tget_tput_ne {α : Type} (t : Tab α) {k j : Nat} (v d : α) (h : j ≠ k) : tget (tput t k v) j d = tget t j d := by
  simp [tget, tget?_tput_ne t v h]

@[simp] theorem tget_tmod_self {α : Type} (t : Tab α) (k : Nat) (d : α) (f : α → α) :
    tget (tmod t k d f) k d = f (tget t k d) := by
  simp [tmod]

theorem tget_tmod_ne {α : Type} (t : Tab α) {k j : Nat} (d e : α) (f : α → α) (h : j ≠ k) :
    tget (tmod t k d f) j e = tget t j e := by
  simp [tmod, tget_tput_ne t _ _ h]

end Sys2Proof.Machine
end

