-- ==== Sys2Proof/Laws/Parts.lean ====
section
/-! SUPPORT. Reading a region, a core, a task, a bank or a slot after an update of one, once for each. -/

namespace Sys2Proof.Machine

/-! ## Regions -/

@[simp] theorem regionOf_onRegion_self (d : Dev) (r : Nat) (f : RegionS → RegionS) :
    regionOf (onRegion r f d) r = f (regionOf d r) := by
  simp [regionOf, onRegion]

theorem regionOf_onRegion_ne (d : Dev) {r q : Nat} (f : RegionS → RegionS) (h : q ≠ r) :
    regionOf (onRegion r f d) q = regionOf d q := by
  simp [regionOf, onRegion, tget_tmod_ne _ _ _ _ h]

/-! ## Cores and tasks -/

@[simp] theorem coreOf_onCore_self (d : Dev) (c : CoreId) (f : CoreS → CoreS) : coreOf (onCore c f d) c = f (coreOf d c) := by
  simp [coreOf, onCore]

theorem coreOf_onCore_ne (d : Dev) {c e : CoreId} (f : CoreS → CoreS) (h : e ≠ c) : coreOf (onCore c f d) e = coreOf d e := by
  by_cases hr : e.region = c.region
  · have hp : e.pos ≠ c.pos := fun hp => h (by cases c; cases e; simp_all)
    have hp' : (e.pos : Nat) ≠ (c.pos : Nat) := fun x => hp (Fin.ext x)
    simp [coreOf, onCore, hr, tget_tmod_ne _ _ _ _ hp']
  · have hr' : (e.region : Nat) ≠ (c.region : Nat) := fun x => hr (Fin.ext x)
    simp [coreOf, onCore, regionOf_onRegion_ne _ _ hr']

@[simp] theorem taskOf_onTask_self (d : Dev) (r t : Nat) (f : Task → Task) : taskOf (onTask r t f d) r t = f (taskOf d r t) := by
  simp [taskOf, onTask, onTmb]

theorem taskOf_onTask_ne (d : Dev) {r t q u : Nat} (f : Task → Task) (h : ¬ (q = r ∧ u = t)) :
    taskOf (onTask r t f d) q u = taskOf d q u := by
  by_cases hr : q = r
  · have hu : u ≠ t := fun e => h ⟨hr, e⟩
    subst hr
    simp [taskOf, onTask, onTmb, tget_tmod_ne _ _ _ _ hu]
  · simp [taskOf, onTask, onTmb, regionOf_onRegion_ne _ _ hr]

@[simp] theorem taskOf_onCore (d : Dev) (c : CoreId) (f : CoreS → CoreS) (r t : Nat) : taskOf (onCore c f d) r t = taskOf d r t := by
  by_cases hr : r = c.region
  · subst hr
    simp [taskOf, onCore]
  · simp [taskOf, onCore, regionOf_onRegion_ne _ _ hr]

@[simp] theorem coreOf_onTask (d : Dev) (r t : Nat) (f : Task → Task) (c : CoreId) : coreOf (onTask r t f d) c = coreOf d c := by
  by_cases hr : (c.region : Nat) = r
  · subst hr
    simp [coreOf, onTask, onTmb]
  · simp [coreOf, onTask, onTmb, regionOf_onRegion_ne _ _ hr]

/-! ## Engines, banks, slots, functions, queue pairs -/

@[simp] theorem engOf_onEng_self (d : Dev) (e : Nat) (f : EngS → EngS) : engOf (onEng e f d) e = f (engOf d e) := by
  simp [engOf, onEng]
@[simp] theorem roleOf_onRole_self (d : Dev) (r : Nat) (f : RoleS → RoleS) : roleOf (onRole r f d) r = f (roleOf d r) := by
  simp [roleOf, onRole]
@[simp] theorem bankOf_onBank_self (d : Dev) (b : Nat) (f : BankS → BankS) : bankOf (onBank b f d) b = f (bankOf d b) := by
  simp [bankOf, onBank]
@[simp] theorem slotOf_onSlot_self (d : Dev) (i : Nat) (f : SlotS → SlotS) : slotOf (onSlot i f d) i = f (slotOf d i) := by
  simp [slotOf, onSlot]
theorem slotOf_onSlot_ne (d : Dev) {i j : Nat} (f : SlotS → SlotS) (h : j ≠ i) : slotOf (onSlot i f d) j = slotOf d j := by
  simp [slotOf, onSlot, tget_tmod_ne _ _ _ _ h]
@[simp] theorem fnOf_onFn_self (d : Dev) (n : Nat) (f : FnS → FnS) : fnOf (onFn n f d) n = f (fnOf d n) := by
  simp [fnOf, onFn]
@[simp] theorem qpOf_onQp_self (d : Dev) (n q : Nat) (f : Qp → Qp) : qpOf (onQp n q f d) n q = f (qpOf d n q) := by
  simp [qpOf, onQp]

end Sys2Proof.Machine
end

