-- ==== Sys2Proof/Laws/Ocord.lean ====
section
/-! SUPPORT. How the parts of an Ocord instruction act on what it works on: the fetch, the checks of an access, and the two
stacks while no spill or fill is due. -/

namespace Sys2Proof.Machine

/-! ## Sequencing -/

section
variable {α β : Type} (o : OcdS)

theorem ocd_bind (m : Ocd α) (f : α → Ocd β) :
    (m >>= f) o = match m o with
      | (.ok a, p) => f a p
      | (.error e, p) => (.error e, p) := by
  have h : (m >>= f) o = (match m o with | (r, p) => ExceptT.bindCont f r p) := rfl
  rw [h]
  cases m o with
  | mk r p => cases r <;> rfl

@[simp] theorem ocd_pure (a : α) : (pure a : Ocd α) o = (.ok a, o) := rfl
@[simp] theorem ocd_get : (get : Ocd OcdS) o = (.ok o, o) := rfl
@[simp] theorem ocd_set (p : OcdS) : (set p : Ocd PUnit) o = (.ok ⟨⟩, p) := rfl
@[simp] theorem ocd_throw (e : OcdEnd) : (throw e : Ocd α) o = (.error e, o) := rfl
@[simp] theorem ocd_trap (cause : Nat) : (ocdTrap cause : Ocd α) o = (.error (.trap cause 0 0 0), o) := rfl
@[simp] theorem ocd_segFault (kind sg off : Nat) : (segFault kind sg off : Ocd α) o = (.error (.trap 3 kind sg off), o) := rfl
@[simp] theorem ocd_onK (f : Task → Task) : onK f o = (.ok (), { o with k := f o.k }) := rfl
@[simp] theorem ocd_after (f : State → State) : after f o = (.ok (), { o with post := o.post ++ [f] }) := rfl
@[simp] theorem ocd_countGroup : countGroup o = (.ok (), { o with groups := o.groups + 1, bound := o.bound.map (· + 12) }) := rfl
@[simp] theorem ocd_takes (n : Nat) : takes n o = (.ok (), { o with bound := o.bound.map (max n) }) := rfl
@[simp] theorem ocd_pop : pop o = (.ok (o.k.ds.headD 0), { o with k := { o.k with ds := o.k.ds.drop 1 } }) := rfl
@[simp] theorem ocd_popR : popR o = (.ok (o.k.rs.headD 0), { o with k := { o.k with rs := o.k.rs.drop 1 } }) := rfl
@[simp] theorem ocd_popD : popD o = (.ok (dbl ((o.k.ds.drop 1).headD 0) (o.k.ds.headD 0)),
    { o with k := { o.k with ds := (o.k.ds.drop 1).drop 1 } }) := rfl

end

/-! ## The stacks with no spill or fill -/

theorem needDs_held {n : Nat} {o : OcdS} (h : n ≤ o.k.ds.length) : needDs n o = (.ok (), o) := by
  have h1 : ¬ dsDepth o.k < n := by unfold dsDepth; omega
  simp [needDs, ocd_bind, h1, fillDs, h]

theorem needRs_held {n : Nat} {o : OcdS} (h : n ≤ o.k.rs.length) : needRs n o = (.ok (), o) := by
  have h1 : ¬ rsDepth o.k < n := by unfold rsDepth; omega
  simp [needRs, ocd_bind, h1, fillRs, h]

/-- Too few entries anywhere: cause 5, with nothing taken. -/
theorem needDs_short {n : Nat} {o : OcdS} (h : dsDepth o.k < n) : needDs n o = (.error (.trap 5 0 0 0), o) := by
  simp [needDs, ocd_bind, h]

theorem needRs_short {n : Nat} {o : OcdS} (h : rsDepth o.k < n) : needRs n o = (.error (.trap 5 0 0 0), o) := by
  simp [needRs, ocd_bind, h]

theorem push_room {v : Word32} {o : OcdS} (h : o.k.ds.length < 32) :
    push v o = (.ok (), { o with k := { o.k with ds := v :: o.k.ds } }) := by
  have h1 : ¬ 32 ≤ o.k.ds.length := by omega
  simp [push, ocd_bind, h1]

theorem pushR_room {v : Word32} {o : OcdS} (h : o.k.rs.length < 16) :
    pushR v o = (.ok (), { o with k := { o.k with rs := v :: o.k.rs } }) := by
  have h1 : ¬ 16 ≤ o.k.rs.length := by omega
  simp [pushR, ocd_bind, h1]

theorem pushD_room {v : Word64} {o : OcdS} (h : o.k.ds.length < 31) :
    pushD v o = (.ok (), { o with k := { o.k with ds := dhi v :: dlo v :: o.k.ds } }) := by
  have h1 : o.k.ds.length < 32 := by omega
  have h2 : (dlo v :: o.k.ds).length < 32 := by simp only [List.length_cons]; omega
  simp [pushD, ocd_bind, push_room h1]
  exact push_room (o := { o with k := { o.k with ds := dlo v :: o.k.ds } }) h2

/-! ## Accesses -/

/-- Two working states that differ in the keyways' counts and the bound of the cycles alone. -/
def OcdSame (o p : OcdS) : Prop :=
  SameButKw o.s.toDev p.s.toDev ∧ p = { o with s := { o.s with toDev := p.s.toDev }, bound := p.bound }

theorem OcdSame.refl (o : OcdS) : OcdSame o o := ⟨rfl, rfl⟩

theorem OcdSame.trans {a b c : OcdS} (h1 : OcdSame a b) (h2 : OcdSame b c) : OcdSame a c := by
  refine ⟨h1.1.trans h2.1, ?_⟩
  rw [h2.2, h1.2]

theorem passAll_ok {sg off : Nat} {kind : AccKind} {l : List (Nat × Nat)} {o p : OcdS}
    (h : passAll sg off kind l o = (.ok (), p)) : OcdSame o p := by
  induction l generalizing o with
  | nil =>
    cases h
    exact OcdSame.refl _
  | cons a as ih =>
    simp only [passAll, ocd_bind, ocd_get] at h
    cases hr : (kwMeet (ownAccess o sg off a.1 kind (Nat.log2 a.2)) o.s.toDev).1 with
    | allowed =>
      simp only [hr, ocd_bind, ocd_set] at h
      exact OcdSame.trans ⟨kwMeet_allowed _ _ hr, rfl⟩ (ih h)
    | denied =>
      simp only [hr, ocd_bind, ocd_set] at h
      cases h
    | stalled =>
      simp only [hr] at h
      cases h

/-- The bound of the cycles changes nothing else. -/
theorem accessTakes_ok {ms : Bool} {a : Nat} {kind : AccKind} {o p : OcdS} (h : accessTakes ms a kind o = (.ok (), p)) :
    OcdSame o p := by
  cases h
  exact ⟨rfl, rfl⟩

/-- An access that is allowed changes the keyways' counts and the bound alone, and has passed the checks of R282. -/
theorem access_ok {sg : Nat} {right : Right} {off len align : Nat} {kind : AccKind} {o p : OcdS}
    (h : access sg right off len align kind o = (.ok (), p)) : OcdSame o p ∧ segCheck o.k sg right off len align = none := by
  simp only [access, ocd_bind, ocd_get] at h
  cases hs : segCheck o.k sg right off len align with
  | some kd =>
    simp only [hs] at h
    cases h
  | none =>
    simp only [hs, ocd_bind] at h
    refine ⟨?_, rfl⟩
    have ht : ∃ q, accessTakes (segOf o.k sg).ms ((segOf o.k sg).base + off) kind o = (.ok (), q) ∧ OcdSame o q := ⟨_, rfl, rfl, rfl⟩
    obtain ⟨q, hq, hsame⟩ := ht
    rw [hq] at h
    simp only at h
    split at h
    · cases h
      exact hsame
    · exact hsame.trans (passAll_ok h)

/-- A fetch that passes moves the program counter past the instruction. -/
theorem fetchIns_ok {len : Nat} {o p : OcdS} (h : fetchIns len o = (.ok (), p)) :
    OcdSame { o with k := { o.k with pc := o.k.pc + BitVec.ofNat 32 len } } p := by
  simp only [fetchIns, ocd_bind, ocd_get] at h
  cases ha : access sgCS .x o.k.pc.toNat len 2 .execute o with
  | mk r q =>
    cases r with
    | error e =>
      simp only [ha] at h
      cases h
    | ok u =>
      simp only [ha, ocd_onK] at h
      obtain ⟨hs, hq⟩ := (access_ok ha).1
      cases h
      refine ⟨hs, ?_⟩
      rw [hq]

end Sys2Proof.Machine
end

