-- ==== Sys2Proof/Tests/Slice0.lean ====
section
/-! SUPPORT. The model's own tests: an ill-formed command for each check of well-formedness, the manual's examples, a few single
steps, and for every statement states and operands that meet its hypotheses. -/

set_option Elab.async false
set_option synthInstance.maxSize 4000
set_option synthInstance.maxHeartbeats 400000
set_option maxRecDepth 100000
set_option linter.unusedVariables false

open Sys2Proof Sys2Proof.Machine

/-! ## States to test on -/

def wSeg (rights : Byte) (base limit : Nat) : Seg := { base := base, limit := limit, rights := rights, world := .K, tenant := 0 }
def wTask (ds rs : List Word32) : Task := {
  state := .running, owner := ⟨.K, 0⟩, ds := ds, rs := rs, rsp := 1024, pc := 16, priority := 3, home := 0
  segs := [wSeg 4 (regionBase 0) 0xFFF, wSeg 3 (regionBase 0 + 0x1000) 0xFFF, wSeg 3 (regionBase 0 + 0x2000) 1023,
    wSeg 8 (regionBase 0 + 0x3000) 0xFF, { wSeg 3 0 0xFFFF with ms := true }], inLen := 64, outCap := 64
  inSeg := [(0x1000, 64)], outSeg := [(0x2000, 64)] }
/-- Region 0 in service, its core 0 running task 0 with the given stacks. -/
def wState (ds rs : List Word32) : State :=
  { die := { regions := [(0, { phase := .up, tmb := { tasks := [(0, wTask ds rs)] }, cores := [(0, { task := some 0 })] })] }
    cpm := { power := .ready } }
def wc : CoreId := ⟨0, 0⟩
/-- Another task, waiting for an event of slot 0. -/
def wTwo (ds : List Word32) : State :=
  let tasks := [(0, wTask ds []), (5, { wTask [] [] with state := .waiting, wait := .event })]
  { wState ds [] with die := { regions := [(0, { phase := .up, cores := [(0, { task := some 0 })], tmb := { tasks := tasks } })] } }
def wTasks (k : Task) : State :=
  { wState [] [] with die := { regions := [(0, { phase := .up, tmb := { tasks := [(0, k)] }, cores := [(0, { task := some 0 })] })] } }
def wTime (t : Nat) (s : State) : State := { s with cpm := { s.cpm with timebase := t } }
def wDrbg (b : Bytes) (s : State) : State := onDev (onDrbg 0 (fun g => { g with queue := b, stopped := false })) s
def wUp : State := { cpm := { power := .ready } }
/-- The same in a state that accepts class CRD. -/
def wProv : State := { wUp with lc := { state := .provisioned } }
def wHif (h : HifS) : State := { wUp with hif := h }
/-- The die with one command of the host. -/
def wCmd (c : Cmd) (s : State) : State := onDev (onHif (fun h => { h with cmds := [c], nextCid := c.cid + 1 })) s
/-- A command of a code with its parameter bytes, which start at entry offset 64. -/
def wc1 (code : Nat) (p : Bytes) : Cmd := { cid := 1, code := code, seq := 1, params := fit p 64 }
def wReadRes : Res := { status := stOk, detail := 0, outLen := 4, result := 0, out := [1, 2, 3, 4] }
/-- A software read of core 0's coprocessor 5 that has ended. -/
def wReadDone : Cmd := {
  cid := 1, code := 0xFF05, stage := .done wReadRes
  origin := .task { region := 0, task := 0, cp := 5, resSeg := 0, resOff := 0, hs := none, number := coreMaster wc, issue := 0 } }
def hr0 : HostRead := ⟨[], [], [], [], [], none⟩
def wQp : Qp := { live := true, sqDepth := 4, cqDepth := 4, sqTail := 2 }
def aK : Access := ⟨.K, 0, 0x10, 0⟩
def aC : Access := ⟨.C, 0, 0x50, 0⟩
/-- Region 0 with two tasks homed at slot 0. -/
def wPair (k0 k1 : Task) (core : Option Nat) : State :=
  { wUp with die := { regions := [(0, { phase := .up, cores := [(0, { task := core })], tmb := { tasks := [(0, k0), (5, k1)] } })] } }
def tReady (p : Nat) (stamp : Nat) : Task := { wTask [] [] with state := .ready, priority := p, stamp := stamp }
def tRun (p : Nat) : Task := { wTask [] [] with priority := p }
def wTaskIn (k : Task) : State := wPair k {} none

def wSess (x : Sess) (s : State) : State := onDev (onHif (fun h => { h with sess := [(3, x)] })) s
/-- An image of R311 with 64 bytes of code. -/
def wImage : Bytes :=
  ascii "ZAPI" ++ [1, 0, 0, 0] ++ zeros 8 ++ natLE 64 4 ++ zeros 8 ++ natLE 64 4 ++ natLE 256 4 ++ [1, 0, 1, 0] ++ zeros 4 ++ [0, 3, 0, 0]
    ++ natLE 1 4 ++ zeros (12672 - 52)
def wApp : Applet := { parseApplet wImage with inst := 7, rec_ := 0 }
def wImageIn : HostRead := { hr0 with data := wImage }
/-- Members of the store that hold every position, so that it takes writes. -/
def wStore (s : State) : State := onDev (onNvm (fun n => { n with positions := (List.range 10).map some })) s
def wRegions : DieS := { regions := [(0, { phase := .up })] }
def wApl (l : List Applet) : State := wStore { wUp with die := wRegions, apl := { chain := some (zeros 2696), applets := l, nextInst := 8 } }
def wSlot (x : SlotS) (s : State) : State := onDev (onSlot 0 (fun _ => x)) s
def wCardUp (x : SlotS) : SlotS := { x with detLow := true, vccEnN := false, rst := true, clkOn := true }
/-- An answer to reset that offers T=1 and nothing else. -/
def wAtr : Bytes := [0x3B, 0x80, 0x01, 0x81]
/-- A resident session key of 16-byte AES, and what is made from it. -/
def wKey : Key := {
  entry := 1, owner := ⟨.C, 0⟩, index := 1, gen := 1, hint := 0, alg := 0x02, lenBytes := 16, life := 0, usage := 0xFFFF, export_ := 2
  pinned := false, depth := 0, derived := false, ancCeremony := false, ancImported := false, ancGenerated := true, dest := 31
  mat := zeros 16, stored := [], kcv := [], created := 0, session := 0, resident := true, spilled := false, inBuffer := false
  lost := false, persistSlot := none }
def wCustKey : Key := { wKey with owner := ⟨.K, 0⟩, alg := 0x31, mat := natBE 1 48, lenBytes := 48, usage := 0 }
def wKeys (l : List Key) (s : State) : State := onDev (onKs (fun k => { k with keys := l })) s
/-- Every region in service. -/
def wFour : State := { wUp with die := { regions := (List.range 4).map (fun r => (r, { phase := .up })) } }
/-- Region 0's DRBG serves requests. -/
def wServe (s : State) : State :=
  onDev (onDrbg 0 (fun g => { g with instantiated := true, katPassed := true, reqsLeft := 2 ^ 20, key := zeros 32, v := zeros 16 })) s
def wSwitch : Bytes := [0xE7, 0x4D, 4, 16, 60, 0x82]
def wCeremony (kind : Nat) (turns : List Nat) : Ceremony := {
  cid := 1, kind := kind, alg := 3, keyIndex := 0, k := 2, taken := 0, refused := 0, mask := 0, keyId := zeros 16, kcv := zeros 3, lenBytes := 32
  acc := zeros 32, comps := if kind = 2 then [zeros 32, zeros 32] else [], turns := turns }
def wCer (c : Ceremony) (s : State) : State := onDev (cerOpen c) s
def wEnrol (s : State) : State := { s with lc := { s.lc with enrol := some { cid := 1, enrol := true, m := 2, n := 3, base := 4, cards := [] } } }
/-- The handle of a key of the die at reset. -/
def wHand (k : Key) : Word64 := BitVec.ofNat 64 (handleOf wUp.toDev k)
def wKey2 : Key := { wKey with entry := 2, index := 2 }
def wKeyT : Key := { wKey with alg := 8, mat := oddParity (natBE 0x123456789 16) }
def wBlockHead : KbHeader := {
  version := chr 'D', usage := ascii "P0", alg := chr 'A', mode := chr 'E', keyVer := ascii "00", exp_ := chr 'E', nOpt := ascii "00", rsv := ascii "00", opts := [] }
def wBlock : Bytes := kbWrap wKey.mat wBlockHead (natBE 5 16) (zeros 16)
/-- A command of a code on the key `wKey`, with its input. -/
def wK1 (code : Nat) (p : Bytes) (n : Nat) : Cmd := { wc1 code p with ha := wHand wKey, outCap := 256, inLen := n }
def wKS (l : List Key) (c : Cmd) : State := wKeys l (wCmd c wUp)
def hrD (b : Bytes) : HostRead := { hr0 with data := b }
/-- Parameter bytes from their entry offsets. -/
def wP (l : List (Nat × Bytes)) : Bytes :=
  tabulate 64 (fun i => (l.findSome? (fun p => if p.1 ≤ i + 64 then p.2[i + 64 - p.1]? else none)).getD 0)
def wDie (s : State) : State := { s with die := wRegions }
/-- A die with keys whose only command waits at a place. -/
def wAt (loc : Loc) (l : List Key) (c : Cmd) : State := wServe (wKeys l (wCmd { c with loc := loc } (wDie wUp)))
def wPan : Bytes := [0x12, 0x34, 0x56, 0x78, 0x90, 0x12, 0xFF, 0xFF, 0xFF, 0xFF]
def wPanD : List Nat := [1, 2, 3, 4, 5, 6, 7, 8, 9, 0, 1, 2]
def wPin : List Nat := [1, 2, 3, 4]
def wKeyT2 : Key := { wKeyT with entry := 2, index := 2 }
def wDig (code : Nat) (ka kb : Key) (l : List (Nat × Bytes)) (n : Nat) : Cmd :=
  { wc1 code (wP l) with ha := wHand ka, hb := wHand kb, outCap := 256, inLen := n }
def wPinBlk : Bytes := fit (pinEncipher 0 wKeyT.mat wPanD wPin []) 16
def wEntry : DkEntry := ⟨wKey.owner, 1, 1, 0, zeros 8, 0, zeros 16⟩
/-- A host fragment of plain bytes, alone in its list; and one that names a key. -/
def wFrag (b : Bytes) : Frag := ⟨natLE 64 8 ++ natLE b.length 4 ++ natLE 3 4 ++ zeros 16, b, none⟩
def wFragKey (k : Key) : Frag := ⟨natLE (wHand k).toNat 8 ++ natLE k.lenBytes 4 ++ natLE (3 + 16 + 32) 4 ++ zeros 16, [], none⟩
def hrF (f : Frag) : HostRead := { hr0 with frags := [f] }
/-- A command in context 1 of lane 0 with `n` steps to go. -/
def wAbs (n : Nat) (keys : List Key) (fs : List Frag) (c : Cmd) : Cmd :=
  { c with stage := .running, loc := .digCtx 0 0 1 n, scratch := [0, n, 0, 0, 0], taken := keys, taskFrags := fs, inPtr := 64 }
def wKeyH : Key := { wKey with alg := 0x10 }
def wKeyM : Key := { wKey with alg := 0x11 }
def wSrc (n : Nat) (x : SrcS) (s : State) : State := onDev (onSrc n (fun _ => x)) s
/-- Samples that alternate. -/
def wNoise (n : Nat) : Bytes := List.replicate n 0x55
def wEnt (e : EntS) (s : State) : State := { s with ent := e }
def wRead (pr n : Nat) : Cmd := { wc1 0x601 [] with stage := .running, scratch := [0, n, pr] }
def wBrl (b : BrlS) (s : State) : State := { s with brl := { b with ucodeA := some shippedUcode } }
/-- The same past LC_PROVISION, where engines without a role are spares. -/
def wBrlP (b : BrlS) (s : State) : State := { wBrl b s with lc := { state := .provisioned } }
def wBusy : Tab EngS := (List.range 18).map (fun e => (e, { running := some 99 }))
/-- A PKC command of world C's host function. -/
def wPkc (code : Nat) (l : List (Nat × Bytes)) (n cap : Nat) : Cmd := { wc1 code (wP l) with inLen := n, outCap := cap }
def wProg (id : Nat) : ProgEntry := (progIn shippedUcode.cat id).getD ⟨0, [], 0, 0, 0, 0, 0, 0, 0, 0⟩
def wItem (n : Nat) : WsItem := ⟨1, false, 0, 0, 8 * n, zeros n⟩
def wWs : Workspace := ⟨0, 2, 3, 16, false, [(0, wItem 256), (1, wItem 4), (2, wItem 256), (5, { wItem 32 with secret := true, exportCap := 1 })], List.range 16⟩
def wJob : Cmd := { wPkc 0x401 [(64, [0x11, 1])] 516 256 with stage := .running, loc := .engine 2, scratch := [1, 0, 2, 0, 0, 0] }
def wRun (c : Cmd) : State := wBrl { engs := [(2, { running := some 1 })] } (wCmd c wUp)
def wImg : Bytes := ascii "ZBMI" ++ natLE 2 4 ++ natLE 1 4 ++ natLE 64 4 ++ natLE 1 4 ++ natLE 64 4 ++ natLE 64 4 ++ zeros (262144 - 28)
def wVlt (v : VltS) (s : State) : State := { s with vlt := v }
/-- An L1 node of generation 1 whose first minor is as given. -/
def wNode (m : Nat) : Node := ⟨m :: List.replicate 63 0, 2 ^ 48⟩
def wPart : Part := { owner := 1, state := 3, gen := 1, key := zeros 32 }
def wVault (n : Node) : VltS := { parts := [(0, wPart), (63, { owner := 0x80, state := 3, gen := 1, key := zeros 32 })], cache := [⟨1, 0, n, false, 0⟩], ready := true, openEpoch := 5 }
/-- A VLT command of function 1. -/
def wV (code : Nat) (l : List (Nat × Bytes)) (n cap : Nat) : Cmd := { wPkc code l n cap with owner := ⟨.T, 1⟩, fn := 1 }
def wReq (kind : Nat) : VReq := { id := 1, kind, fn := 1, part := 0, epoch := 0, index := 0, mask := 0, nodes := [], payload := [], posted := true, waiters := [], held := false }
def wHook : Cmd := { wV 0x703 [] 0 8192 with stage := .running }
def wTmp (t : TmpS) (s : State) : State := { s with tmp := t }
def wEvr (e : EvrS) (s : State) : State := { s with evr := e }
def wRec (n : Nat) : EvRec := ⟨0x5103, 0x50, 1, false, false, false, n, 0, 0, 0, 0, 0, 0, 1, true, 0⟩
/-- Grades of 0 for class 7 and of 2 for classes 2 and 8. -/
def wGrades (g : Nat) (s : State) : State := onDev (onNvm (fun n => { n with rwp := [(2, { rwpNew 2 with value := BitVec.ofNat 32 g })] })) s
def wNvm (n : NvmS) : State := { wUp with nvm := n }
/-- A bank and position per position, a record of three pages with its first written, and a fixed record. -/
def wNv : NvmS := {
  ready := true, banks := (List.range 12).map (fun b => (b, {})), positions := (List.range 10).map some
  recs := [(0x01000001, { version := 1, pages := 3, stripes := [17800, 17801, 17802], writing := [17803] }), (0x05000002, { version := 1, pages := 1, stripes := [], writing := [] })]
  stripeWrites := [(17800, 5), (17801, 60000), (17802, 60001), (17803, 1), (17804, 899999)] }
def wSvc (p : Bytes) : State := wCmd (wc1 0x1B0 p) { wUp with die := { regions := (List.range 4).map (fun r => (r, { phase := .up })) } }
/-- A die whose region 2 is in a phase, with service actions and a command that runs. -/
def wReg (x : RegionS) (l : List SvcAction) : State :=
  { wCmd { wc1 0x1B0 [] with stage := .running } { wUp with die := { regions := [(0, { phase := .up }), (2, x)] } } with svc := { actions := l } }
def wAct (n : Nat) : SvcAction := { action := n, region := 2, operand := 2, drainMs := 5, cid := 1 }
def wReset (l : List (Blk × Nat)) (s : State) : State := onDev (onDie (fun x => { x with resetting := l })) s
def wPow (p : Power) : State := { wUp with cpm := { power := p } }
def wFwImg : ImageRec := ⟨2, 1, false, [], []⟩
def wFw (p : Bytes) (n : Nat) : State :=
  wCmd { wc1 0x153 p with inLen := n } (wStore { wUp with svc := { fwA := some ⟨1, 0, false, [], []⟩, fwB := some wFwImg }, die := { regions := [(2, { phase := .up })] } })
def wFwNew : Bytes := ascii "ZKFW" ++ natLE 3 4 ++ natLE 1 4 ++ natLE 0 4 ++ zeros 48 ++ zeros 4736
def wBoot (a b : Bool) : BootReport := { bootClean with imageAFails := a, imageBFails := b }
def wSpi (w : List Word32) : List Word32 := w ++ [spiFinal w]
def wMonUp : State := wDie { wUp with lc := { wUp.lc with state := .develop } }
def wRom : State := wStore { wPow .noImage with svc := { wUp.svc with bootRom := true } }
def wDescB (ctrl : Nat) : Bytes := natLE 0x1122334455667788 8 ++ natLE (regionBase 0 + 0x4000) 8 ++ natLE 40 4 ++ natLE ctrl 4 ++ zeros 40
/-- Region 0's DMA at work on a list of one descriptor. -/
def wDmaRun (b : Bytes) : State :=
  let s := wDie wUp
  { s with mem := memSetN [] (regionBase 0 + 0x1000) b, dma := [(0, { active := some 2, chans := [(2, { state := .running, cur := regionBase 0 + 0x1000 })] })] }
def wDr : DescRead := ⟨true, none, [], true, 0⟩
/-- A copy or comparison of 40 bytes, the last of its list. -/
def wDescC (op : Nat) : Bytes :=
  natLE (regionBase 0 + 0x3000) 8 ++ natLE (regionBase 0 + 0x4000) 8 ++ natLE 40 4 ++ natLE (op + 5 * 16 + 5 * 128 + 2 ^ 14) 4 ++ zeros 40
def wFill : Bytes := wDescB (1 + 5 * 128 + 2 ^ 14)
def wFillOn : Bytes := natLE 0x1122334455667788 8 ++ natLE (regionBase 0 + 0x4000) 8 ++ natLE 40 4 ++ natLE (1 + 5 * 128) 4 ++ natLE (regionBase 0 + 0x1040) 8 ++ zeros 32
def wKwUp : State := onDev (kwInstall allUnits) wUp
def wKwMon : State := onDev (kwInstall allUnits) wMonUp
/-- The task of core 0 with 32 held data entries, or with 16 held return entries, or with eight data entries spilled. -/
def wFull : State := wState (List.replicate 32 7) []
def wFullR : State := wState [9] (List.replicate 16 7)
def wSpilled : State := { wTasks { wTask [] [] with dsp := 32 } with mem := [(regionBase 0 + 0x2004, 5)] }
def wMeet : State := wTasks { wTask (List.replicate 32 7) [] with dsp := 1008 }
theorem some_of_any {α : Type} {o : Option α} {f : α → Bool} (h : o.any f = true) : ∃ x, o = some x ∧ f x = true := by
  cases o <;> simp_all

/-! ## Well-formedness: a term that each check refuses -/

theorem test_wf_queue_number : (Instr.sqTail 0 64 0).wellFormed = false ∧ (Instr.cqHead 0 64 0).wellFormed = false
    ∧ (Instr.sqPriorityPromote 0 64).wellFormed = false ∧ (Instr.cqCoalTimeout 0 64).wellFormed = false := by decide
theorem test_wf_entry_length : (Instr.sqEntryFetch (.ok (zeros 127))).wellFormed = false := by decide +kernel
theorem test_wf_num_vfs : (Instr.configRequest 0 (.setNumVfs 64)).wellFormed = false := by decide
theorem test_wf_vector : (Instr.msixUnmask 0 (.unmaskVector 256)).wellFormed = false := by decide
theorem test_wf_input_element : (Instr.keyInfo 1 { hr0 with inSg := [⟨0, 2 ^ 32, 0, 0⟩] }).wellFormed = false := by decide
theorem test_wf_output_element : (Instr.keyInfo 1 { hr0 with outSg := [⟨0, 2 ^ 32, 0, 0⟩] }).wellFormed = false := by decide
theorem test_wf_fragment : (Instr.digHash 1 { hr0 with frags := [⟨zeros 31, [], none⟩] }).wellFormed = false := by decide +kernel
theorem test_wf_access_tenant : (Instr.dkFlush ⟨.T, 64, 0, 0⟩ 0).wellFormed = false := by decide
theorem test_wf_access_function : (Instr.dkFlush ⟨.T, 0, 0, 64⟩ 0).wellFormed = false := by decide
theorem test_wf_key_request : (Instr.keyFetch ⟨.bolt, 0, .T, 64, 0, none, 0, none⟩).wellFormed = false
    ∧ (Instr.keyFetch ⟨.bolt, 0, .T, 0, 0, none, 64, none⟩).wellFormed = false := by decide
theorem test_wf_noise_window : (Instr.noiseWindowComplete 0 (zeros 127)).wellFormed = false := by decide +kernel
theorem test_wf_keyway_access : (Instr.keywayCheck aK (2 ^ 40) .read 2).wellFormed = false
    ∧ (Instr.keywayCheck aK 0 .read 9).wellFormed = false ∧ (Instr.keywayCheck ⟨.K, 64, 0, 0⟩ 0 .read 2).wellFormed = false := by decide
theorem test_wf_page_chunk : (Instr.nvmPageRead 0 0 [25]).wellFormed = false := by decide
theorem test_wf_rwp_number : (Instr.rwpRegisterWrite aK 384 0).wellFormed = false
    ∧ (Instr.rwpRegisterWrite ⟨.K, 64, 0, 0⟩ 0 0).wellFormed = false := by decide
theorem test_wf_image_length : (Instr.fwrecover (List.replicate 8388609 0) true).wellFormed = false := by
  simp only [Instr.wellFormed, List.length_replicate]; decide
theorem test_wf_register_target : (Instr.registerWrite aK (.internal (2 ^ 40)) .b4 0).wellFormed = false
    ∧ (Instr.registerWrite aK (.bar 0 (2 ^ 24)) .b4 0).wellFormed = false
    ∧ (Instr.registerWrite ⟨.K, 64, 0, 0⟩ (.internal 0) .b4 0).wellFormed = false := by decide
theorem test_wf_register_read : (Instr.lowWordRead aK (2 ^ 40)).wellFormed = false ∧ (Instr.rcRegisterRead aK (2 ^ 40)).wellFormed = false
    ∧ (Instr.lowWordRead ⟨.K, 64, 0, 0⟩ 0).wellFormed = false := by decide
theorem test_wf_empty_frame : (Instr.spiNop [] false).wellFormed = false ∧ (Instr.spiRead [] false).wellFormed = false
    ∧ (Instr.spiWrite [] false).wellFormed = false ∧ (Instr.telemCfg [] false).wellFormed = false
    ∧ (Instr.eventRead [] false).wellFormed = false ∧ (Instr.spiIdent [] false).wellFormed = false := by decide
theorem test_wf_accepts : (Instr.sqTail 0 63 0).wellFormed = true ∧ (Instr.keywayCheck aK (2 ^ 40 - 1) .read 7).wellFormed = true := by decide

/-! ## Decoding: no row has bits -/

theorem test_decode_none : decodeTableWord 16 0x2000 = none ∧ (State.reset.withFetchWord 16 0x2000).pending = [] := ⟨rfl, rfl⟩

/-! ## The manual's examples -/

/-- Of a next state. -/
def inNext (a : Ans) (f : State → Bool) : Bool := match a with | .next u => f u | _ => false

/-- The SPI example of R522: the CRC-8 of the frame that gates Q3 is 0xCB. -/
theorem test_spi_crc : spiFinal [0x0201000E, 0x00000040, 0x00000008] = 0xCB := by decide +kernel
/-- The record of R453's example, bytes 0 to 27. -/
theorem test_event_record : evHead {
    code := 0x2310, source := 0x80, severity := 2, retain := false, coalesced := true, afterLoss := false
    seq := 0x31A2F, cycles := 0x137, opTime := 0x0A1B2C3D, p1 := 12, p2 := 0x1A2B, p3 := 5, chain := 0, count := 5, isOpen := false }
    = [0x10, 0x23, 0x80, 0x48, 0x2F, 0x1A, 3, 0, 0, 0x37, 1, 0, 0x3D, 0x2C, 0x1B, 0x0A, 12, 0, 0, 0, 0x2B, 0x1A, 0, 0, 5, 0, 0, 0] := by
  decide +kernel
/-- R97's example: the handle 0x9C41_7E05_0203_1A2B. -/
theorem test_handle_fields : hIndex 0x9C417E0502031A2B = 0x1A2B ∧ hGen 0x9C417E0502031A2B = 3 ∧ hHint 0x9C417E0502031A2B = 2
    ∧ hTag 0x9C417E0502031A2B = 0x9C417E05 := by decide
/-- R113's example: index 0x32 is permitted by default, 0xCD weakens. -/
theorem test_policy_default : polIndex 0 3 0 2 = 0x32 ∧ polIndex 3 0 3 1 = 0xCD ∧ polDefault.getD 0x32 0 = 1 ∧ polDefault.getD 0xCD 1 = 0 := by
  decide +kernel
/-- R119's example: the bits of counter 0x91A7 above and below its prefix. -/
theorem test_dukpt_bits : (setBits 8 32 0x91A7).length = 3 ∧ (setBits 0 8 0x91A7).length = 5 := by decide +kernel
/-- R142's example: slots of PRG_MLDSA87_SIGN by engine length. -/
theorem test_run_slots : 52 * runSlots 8192 2 = 416 ∧ 52 * runSlots 8192 3 = 208 ∧ 52 * runSlots 8192 4 = 104 := by decide
/-- R326's example: the ATR of a Norni custodian card. -/
theorem test_atr : (atrParse [0x3B, 0x96, 0x11, 0x81, 0xB1, 0xFE, 0x45, 0x1F, 0x46, 0x80, 0x54, 0x4D, 0x42, 0x01, 0x14, 0x9B]).map
    (fun p => (p.info.ifsc, p.info.bwi, p.info.cwi, p.info.xi, p.info.mbCap)) = some (254, 4, 5, 1, some 20) := by decide +kernel
/-- R70's example, steps 8 and 9: with A = 1, number 0x8000_0001 is stale and 0x12 is a gap. -/
def seqStatus (q : Word32) : List Stage :=
  (classify { cid := 1, code := 1, seq := q } { hif := { ctl := [(0, { a := 1 })] } }).hif.cmds.map (·.stage)
theorem test_sequence_stale : seqStatus 0x80000001 = [.done (resErr 0x0106 0)] := by decide +kernel
theorem test_sequence_gap : seqStatus 0x12 = [.done (resErr 0x010A 0)] := by decide +kernel
theorem test_sequence_held : seqStatus 0x11 = [.held] := by decide +kernel

/-! ## One step of a family -/

/-- The data stack of the task after an instruction. -/
def dsAfter (a : Ans) : List Word32 := match a with | .next u => (coreK wc u).ds | _ => []
/-- FIPS 197, appendix B of its first example key: AES-128. -/
theorem test_aes : blkEnc .aes [0, 1, 2, 3, 4, 5, 6, 7, 8, 9, 10, 11, 12, 13, 14, 15]
    [0x00, 0x11, 0x22, 0x33, 0x44, 0x55, 0x66, 0x77, 0x88, 0x99, 0xAA, 0xBB, 0xCC, 0xDD, 0xEE, 0xFF]
    = [0x69, 0xC4, 0xE0, 0xD8, 0x6A, 0x7B, 0x04, 0x30, 0xD8, 0xCD, 0xB7, 0x80, 0x70, 0xB4, 0xC5, 0x5A] := by decide +kernel
/-- R274: ADD wraps, and the later operand is on top of the stack. -/
theorem test_add_wraps : dsAfter (execAdd wc 0 (wState [2, 0xFFFFFFFF, 7] [])) = [1, 7] := by decide +kernel
theorem test_sub_order : dsAfter (execSub wc 0 (wState [2, 5] [])) = [3] := by decide +kernel
/-- R280: the most negative number by -1. -/
theorem test_divs_wraps : dsAfter (execDivs wc 0 (wState [0xFFFFFFFF, 0x80000000] [])) = [0x80000000] := by decide +kernel
theorem test_mods_sign : dsAfter (execMods wc 0 (wState [2, 0xFFFFFFFD] [])) = [0xFFFFFFFF] := by decide +kernel
theorem test_rot : dsAfter (execRot wc 0 (wState [3, 2, 1] [])) = [1, 3, 2] := by decide +kernel
theorem test_dadd_carries : dsAfter (execDadd wc 0 (wState [0, 1, 0, 0xFFFFFFFF] [])) = [1, 0] := by decide +kernel
theorem test_lit_sign : dsAfter (execLit wc 0x80 (wState [] [])) = [0xFFFFFF80] := by decide +kernel
/-- R278: a branch counts halfwords from the next instruction. -/
theorem test_br_back : inNext (execBr wc 0xFF (wState [] [])) (fun u => (coreK wc u).pc == 16) = true := by decide +kernel
/-- R439: no sensor is watched while por_n is asserted. -/
theorem test_reset_status : regVal State.reset.toDev 177 0x00C = 0 := by decide +kernel
/-- R53: an index beyond the depth puts the pair in error. -/
theorem test_sq_tail_range : inNext (execSqTail 0 1 4 (wHif { fns := [(0, { enable := true })], qps := [(1, wQp)] })) (fun u => (qpOf u.toDev 0 1).err) = true := by
  decide +kernel
/-- R477: one tick on an empty queue. -/
theorem test_idle_tick : inNext (step wUp) (fun u => u.cpm.timebase == 1) = true := by decide +kernel

/-! ## States that meet the statements' hypotheses -/

/-! ### Statements over lists of instructions -/

/-- Eight entries on each stack. -/
def wDeep : State := wState [2, 4, 6, 8, 10, 12, 14, 16] [2, 4, 6, 8]

theorem hyp_OpsComplete : fetches wc 2 wDeep = true
    ∧ (∀ op ∈ shuffleOps ++ singleOps ++ doubleOps, op.need ≤ (coreK wc wDeep).ds.length ∧ (op.f 0 (coreK wc wDeep).ds).length ≤ 32) := by
  decide +kernel

theorem hyp_ShortTaskOpsComplete : let k := { coreK wc wDeep with pc := (coreK wc wDeep).pc + 2 }
    ∀ op ∈ immediateOps ++ returnOps ++ controlOps, op.ok 0 k = true ∧ op.needD 0 ≤ k.ds.length ∧ op.needR 0 ≤ k.rs.length
      ∧ (op.f 0 k).ds.length ≤ 32 ∧ (op.f 0 k).rs.length ≤ 16 := by
  decide +kernel

theorem hyp_LongTaskOpsComplete : fetches wc 4 wDeep = true ∧ (let k := { coreK wc wDeep with pc := (coreK wc wDeep).pc + 4 }
    ∀ op ∈ longOps, op.ok 0 k = true ∧ op.needD 0 ≤ k.ds.length ∧ op.needR 0 ≤ k.rs.length
      ∧ (op.f 0 k).ds.length ≤ 32 ∧ (op.f 0 k).rs.length ≤ 16) := by
  decide +kernel

theorem hyp_StackInstructionsFrame : ∃ u, exec (.add wc 0) wDeep = .next u := ⟨_, rfl⟩

theorem hyp_DivisionCompletesOrTraps : fetches wc 2 wDeep = true ∧ (coreK wc wDeep).ds = [2, 4] ++ [6, 8, 10, 12, 14, 16]
    ∧ fetches wc 2 (wState [0, 4] []) = true ∧ (coreK wc (wState [0, 4] [])).ds = [0, 4] := by
  decide +kernel

theorem hyp_BadInstructionsTrap : fetches wc 2 wDeep = true ∧ fetches wc 4 wDeep = true ∧ (1 : BitVec 8) ≠ 0
    ∧ 32 ≤ (32 : BitVec 8).toNat ∧ 8 ≤ (8 : BitVec 24).toNat ∧ opDefined 0x15 0 = false ∧ 0x15 < 0xE0 ∧ opDefined 0xFF 0 = false
    ∧ 8 ≤ (8 : BitVec 4).toNat ∧ (∀ op ∈ shuffleOps ++ singleOps ++ doubleOps, op.need = 0 ∨ dsDepth (coreK wc (wState [] [])) < op.need)
    ∧ fetches wc 2 (wState [] []) = true := by
  decide +kernel

/-- Segment 1 is the task's data segment; 8 is the offset on top. -/
def wLoad : State := wState [8, 7, 6] []

theorem hyp_LoadsReadMemory : (∀ p ∈ shortLoads, (p.2.2 []).length + 2 ≤ 32 ∧ reaches wc 2 (access 1 .r 8 p.2.1 p.2.1 .read) wLoad = true)
    ∧ (coreK wc wLoad).ds = [8] ++ [7, 6] ∧ inRam (coreK wc wLoad) 1 8 = true ∧ inRam (coreK wc wLoad) 1 0 = true
    ∧ reaches wc 4 (access 1 .r 0 8 8 .read) wLoad = true := by
  decide +kernel

theorem hyp_StoresWriteMemory : (∀ p ∈ shortStores, p.2.2.1 ≤ 2 ∧ reaches wc 2 (access 1 .w 8 p.2.1 p.2.1 .write) wLoad = true)
    ∧ reaches wc 4 (access 1 .w 0 8 8 .write) wLoad = true ∧ 2 ≤ (coreK wc wLoad).ds.length := by
  decide +kernel

/-- An offset beyond the segment fails with kind 1, one that does not fit its width with kind 4. -/
theorem hyp_BadAccessesTrap : fetches wc 2 wLoad = true
    ∧ (∀ p ∈ shortLoads, (segCheck (coreK wc wLoad) 1 .r 0x10000 p.2.1 p.2.1).isSome = true)
    ∧ (∀ p ∈ shortStores, (segCheck (coreK wc wLoad) 1 .w 0x10000 p.2.1 p.2.1).isSome = true ∧ p.2.2.1 ≤ 2) := by
  decide +kernel

/-- A command block of a code in segment 1, its result at offset 0x100, and no handle slots. -/
def wIssue (code : Nat) (slots : List Word32) : State :=
  { wState (slots ++ [0x20000100, 0x20000000]) [] with
    mem := [(regionBase 0 + 0x1000, byte (code % 256)), (regionBase 0 + 0x1001, byte (code / 256))] }

/-- What `IssuesComplete` asks of an issue on core 0, its immediate 0xFFFF. -/
def issueMeets (op : IssueOp) (s : State) : Bool :=
  let k := coreK wc s
  let b := issueBlock wc [] (op.arg k 0) s
  let x := issuedCmd op wc 0xFFFF [] s
  fetches wc 4 s && decide (op.takes ≤ k.ds.length) && decide (k.ds.length ≤ 32) && pointsToData k (op.arg k 0)
    && pointsToData k (op.arg k 1) && (slice b 16 16).all (· = 0) && issueOk (ocdStart wc (coreNo wc s) [] s) op.cp 0xFFFF b x
    && decide (cpOutstanding s.toDev wc.region (coreNo wc s) op.cp < cpLimit op.cp)
    && passes wc [] (issueAccesses op k 0xFFFF x s.toDev) s && (cmdOf? s.toDev s.hif.nextCid).isNone

theorem hyp_IssuesComplete_KS : issueMeets ⟨.ksCmd, 0, 4, false⟩ (wIssue 0x0206 [0xFFFFFFFF, 0xFFFFFFFF]) = true := by decide +kernel
theorem hyp_IssuesComplete_DG : issueMeets ⟨.dgCmd, 1, 3, false⟩ (wIssue 0x0501 [0xFFFFFFFF]) = true := by decide +kernel
theorem hyp_IssuesComplete_BL : issueMeets ⟨.blCmd, 2, 4, true⟩ (wIssue 0x0301 [0xFFFFFFFF, 0xFFFFFFFF]) = true := by decide +kernel
theorem hyp_IssuesComplete_BR : issueMeets ⟨.brCmd, 3, 3, false⟩ (wIssue 0x0410 [0xFFFFFFFF]) = true := by decide +kernel
theorem hyp_IssuesComplete_VL : issueMeets ⟨.vlCmd, 4, 2, true⟩ (wIssue 0x0701 []) = true := by decide +kernel

/-! ### Edwards curve 25519: RFC 8032, 7.1, test vector 1 -/

theorem test_ed25519_public : edPublicKey ed25519 (natBE 0x9d61b19deffd5a60ba844af492ec2cc44449c5697b326919703bac031cae7f60 32)
    = natBE 0xd75a980182b10ab7d54bfed3c964073a0ee172f3daa62325af021a68f707511a 32 := by decide +kernel

/-! ### Statements about the block as a whole -/

theorem hyp_CommandsKeepTheQueue : ∃ c s u, exec c s = .next u := ⟨.fnEnable 0, State.reset, _, rfl⟩

theorem hyp_WellFormedCommandsAnswer : ∃ c : Instr, c.wellFormed = true := ⟨.sqTail 0 63 0, rfl⟩

theorem hyp_StepsKeepMemoryCanonical : ∃ s u, State.Inv s ∧ step s = .next u := ⟨State.reset, _, by unfold State.Inv; decide, rfl⟩

theorem hyp_AddressesBeyondTheMapFault : ∃ a : Addr, 2 ^ 40 ≤ a := ⟨2 ^ 40, Nat.le_refl _⟩

/-! ### Witnesses that are too large to evaluate: a cache of many lines, an image of 256 KB -/

/-- `n` dirty L1 lines. -/
def wLine : Line := ⟨1, 0, wNode 1, true, 0⟩
def wDirty (n : Nat) (l : List Line) : State := wVlt { wVault (wNode 1) with cache := l ++ List.replicate n wLine } wUp

theorem big_find (p : Line → Bool) (n : Nat) (h : p wLine = false) (l : List Line) : (l ++ List.replicate n wLine).find? p = l.find? p := by
  simp [List.find?_append, h]

theorem big_lru (p : Line → Bool) (n : Nat) (h : p wLine = true) (l : List Line) (hl : l.all (fun x => !p x) = true) :
    (l ++ List.replicate (n + 1) wLine).foldl (fun a l => if p l then (match a with
      | none => some l
      | some b => if l.used < b.used then some l else a) else a) none = some wLine := by
  have h1 : ∀ m, (List.replicate m wLine).foldl (fun a l => if p l then (match a with
      | none => some l
      | some b => if l.used < b.used then some l else a) else a) (some wLine) = some wLine := by
    intro m
    induction m with
    | zero => rfl
    | succ m ih => simpa [List.replicate_succ, h] using ih
  have h2 : l.foldl (fun (a : Option Line) l => if p l then (match a with
      | none => some l
      | some b => if l.used < b.used then some l else a) else a) none = none := by
    induction l with
    | nil => rfl
    | cons x l ih => simp only [List.all_cons, Bool.and_eq_true, Bool.not_eq_true'] at hl; simpa [hl.1] using ih hl.2
  rw [List.foldl_append, h2, List.replicate_succ, List.foldl_cons]
  simpa [h] using h1 n

theorem big_count (n : Nat) : dirtyUnpinned (wDirty n []).toDev = n := by
  simp [dirtyUnpinned, count, wDirty, wVlt, wLine, isPinned]

theorem big_line (n k i : Nat) (h : k ≠ 1) : lineOf (wDirty n []).toDev k i = none := by
  have : (1 == k) = false := by simpa using Ne.symm h
  simp [lineOf, wDirty, wVlt, isLine, wLine, this]

theorem big_more (d : Dev) (l : List Line) (hl : l.all (fun x => !x.dirty) = true) (n : Nat) (hs : lineStuck d wLine = false)
    (hc : d.vlt.cache = l ++ List.replicate (n + 1) wLine) :
    lruLine d (fun l => l.dirty && !isPinned l && !lineStuck d l) = some wLine := by
  unfold lruLine
  rw [hc]
  refine big_lru _ n (by rw [hs]; rfl) l ?_
  rw [List.all_eq_true] at hl ⊢
  intro x hx
  have := hl x hx
  simp at this
  simp [this]

theorem big_path (d : Dev) (h6 : nodeIn d 6 0 = none) (h7 : nodeIn d 7 0 = none) :
    pathGo 2 0 5 d = .error [(6, 0), (5, 0), (4, 0), (3, 0), (2, 0)] := by
  rw [pathGo.eq_2]
  simp only [show 2 + 4 = 6 from rfl, show 0 / 64 ^ 4 = 0 from rfl, show 6 + 1 = 7 from rfl, show 0 / 64 = 0 from rfl, h6, h7]
  rfl

theorem big_error (n : Nat) : writeBack (wDirty n []).vlt.openEpoch wLine.level wLine.index (wDirty n []).toDev
    = .error [(6, 0), (5, 0), (4, 0), (3, 0), (2, 0)] := by
  have h := fun k (hk : k ≠ 1) => big_line n k 0 hk
  have hp : pathDepth (wDirty n []).toDev 2 0 = 5 := by
    have : ∀ k, (lineOf (wDirty n []).toDev (2 + k) 0).isSome = false := fun k => by rw [h (2 + k) (by omega)]; rfl
    simp only [pathDepth, Nat.zero_div, this]
    rfl
  have hn : nodeEnsure 2 0 (wDirty n []).toDev = .error [(6, 0), (5, 0), (4, 0), (3, 0), (2, 0)] := by
    have a : ∀ f : VltS → VltS, (∀ v, (f v).cache = v.cache) → ∀ k, k ≠ 1 → nodeIn (onVlt f (wDirty n []).toDev) k 0 = none := by
      intro f hf k hk
      have := h k hk
      unfold lineOf at this
      unfold nodeIn lineOf
      rw [show (onVlt f (wDirty n []).toDev).vlt.cache = (wDirty n []).toDev.vlt.cache from hf _, this]
      rfl
    unfold nodeEnsure
    rw [hp]
    exact big_path _ (a _ (fun _ => rfl) 6 (by decide)) (a _ (fun _ => rfl) 7 (by decide))
  show writeBack _ 1 0 _ = _
  unfold writeBack
  simp only [show 0 / 64 = 0 from rfl]
  rw [show 1 + 1 = 2 from rfl, hn]

theorem big_stuck (n : Nat) : lineStuck (wDirty n []).toDev wLine = false := by
  have : nodeIn (wDirty n []).toDev (wLine.level + 1) (wLine.index / 64) = none := by
    show (lineOf _ 2 0).map (·.node) = none
    rw [big_line _ 2 0 (by decide)]; rfl
  unfold lineStuck
  rw [this]

theorem big_hyp (n : Nat) (h : 128992 < n + 1) : ∃ (l : Line) (m : List (Nat × Nat)) (s : State), 128992 < dirtyUnpinned s.toDev
    ∧ lruLine s.toDev (fun l => l.dirty && !isPinned l && !lineStuck s.toDev l) = some l
    ∧ writeBack (storeEpoch s.toDev) l.level l.index s.toDev = .error m :=
  ⟨wLine, _, wDirty (n + 1) [], by rw [big_count]; exact h, big_more _ [] rfl n (big_stuck _) rfl, big_error (n + 1)⟩

/-- The L2 node above those lines. -/
def wAbove : Line := ⟨2, 0, wNode 1, false, 0⟩

theorem store_cache (e level idx : Nat) (n : Node) (a b : Nat) (d : Dev) : (nodeStore e level idx n a b d).vlt.cache = d.vlt.cache := by
  unfold nodeStore
  dsimp only
  split <;> rfl

theorem line_cache (f : Line → Line) (d : Dev) : (onLine 2 0 f d).vlt.cache = lmod d.vlt.cache (isLine 2 0) f := rfl

theorem below_cache (e : Nat) (par : Node) (d : Dev) :
    (childrenStore e 2 0 [0] par d).vlt.cache = lmod d.vlt.cache (isLine 1 0) (fun l => { l with dirty := false }) := by
  show lmod (nodeStore e 1 0 _ _ _ d).vlt.cache _ _ = _
  rw [store_cache]

theorem wb_plain (e : Nat) (par : Node) (d d1 : Dev) (h1 : nodeEnsure 2 0 d = .ok d1) (h2 : nodeIn d1 2 0 = some par)
    (h3 : ¬ nGen par < (partOf d1 0).gen) (h4 : (nMinor par 0 == 63) = false) :
    writeBack e 1 0 d = .ok (childrenStore e 2 0 [0] (nSetMinor par 0 (nMinor par 0 + 1)) d1
      |> onLine 2 0 (fun l => { l with node := nSetMinor par 0 (nMinor par 0 + 1), dirty := decide (2 ≤ 5) })) := by
  unfold writeBack
  simp only [show 1 + 1 = 2 from rfl, show 0 / 64 = 0 from rfl, show 0 % 64 = 0 from rfl, show nodePart 1 0 = 0 from rfl,
    h1, h2, Option.getD_some, if_neg h3, h4]
  rfl

theorem above_line (n : Nat) (d : Dev) (l : Line) (h : d.vlt.cache = l :: List.replicate n wLine) (hl : isLine 2 0 l = true) :
    lineOf d 2 0 = some l := by
  unfold lineOf
  rw [h, List.find?_cons, hl]

def wTouched (n : Nat) : Dev := lineTouch 2 0 (onVlt (fun v => { v with hits := v.hits + 1 }) (wDirty n [wAbove]).toDev)

theorem big_touch (n : Nat) : nodeEnsure 2 0 (wDirty n [wAbove]).toDev = .ok (wTouched n) := by
  have hp : pathDepth (wDirty n [wAbove]).toDev 2 0 = 0 := by
    unfold pathDepth
    rw [show List.range (7 - 2) = [0, 1, 2, 3, 4] from rfl, List.find?_cons]
    simp only [show 2 + 0 = 2 from rfl, show 0 / 64 ^ 0 = 0 from rfl, above_line n (wDirty n [wAbove]).toDev wAbove rfl rfl]
    rfl
  unfold nodeEnsure
  rw [hp]
  rfl

theorem touched_cache (n : Nat) : (wTouched n).vlt.cache
    = lmod ([wAbove] ++ List.replicate n wLine) (isLine 2 0) (fun l => { l with used := 1 }) := rfl

theorem touched_node (n : Nat) : nodeIn (wTouched n) 2 0 = some (wNode 1) := by
  have : (wTouched n).vlt.cache = { wAbove with used := 1 } :: List.replicate n wLine := by
    rw [touched_cache]
    simp [lmod, wAbove, wLine, isLine]
  unfold nodeIn
  rw [above_line n _ _ this rfl]
  rfl

/-- The first of the lines written back. -/
def wAfter (n : Nat) : Dev := childrenStore 5 2 0 [0] (nSetMinor (wNode 1) 0 (nMinor (wNode 1) 0 + 1)) (wTouched n)
  |> onLine 2 0 (fun l => { l with node := nSetMinor (wNode 1) 0 (nMinor (wNode 1) 0 + 1), dirty := decide (2 ≤ 5) })

theorem big_ok (n : Nat) : writeBack 5 1 0 (wDirty n [wAbove]).toDev = .ok (wAfter n) :=
  wb_plain 5 (wNode 1) _ _ (big_touch n) (touched_node n) (by show ¬ nGen (wNode 1) < 1; decide) (by decide)

theorem big_after (n : Nat) : (wAfter n).vlt.cache = lmod (lmod (lmod ([wAbove] ++ List.replicate n wLine) (isLine 2 0) (fun l => { l with used := 1 }))
      (isLine 1 0) (fun l => { l with dirty := false })) (isLine 2 0)
      (fun l => { l with node := nSetMinor (wNode 1) 0 (nMinor (wNode 1) 0 + 1), dirty := decide (2 ≤ 5) }) := by
  unfold wAfter
  rw [line_cache, below_cache, touched_cache]

theorem big_clean (n : Nat) (d : Dev) (h : d.vlt.cache = lmod (lmod (lmod ([wAbove] ++ List.replicate n wLine) (isLine 2 0)
      (fun l => { l with used := 1 })) (isLine 1 0) (fun l => { l with dirty := false })) (isLine 2 0)
      (fun l => { l with node := nSetMinor (wNode 1) 0 (nMinor (wNode 1) 0 + 1), dirty := decide (2 ≤ 5) })) : dirtyUnpinned d = 1 := by
  unfold dirtyUnpinned count
  rw [h]
  simp [lmod, wAbove, wLine, isLine, isPinned]

theorem big_dirty (n : Nat) : dirtyUnpinned (wDirty n [wAbove]).toDev = n := by
  simp [dirtyUnpinned, count, wDirty, wVlt, wLine, wAbove, isPinned]

theorem big_above (n : Nat) : lineStuck (wDirty n [wAbove]).toDev wLine = false := by
  have : nodeIn (wDirty n [wAbove]).toDev (wLine.level + 1) (wLine.index / 64) = some (wNode 1) := by
    show (lineOf _ 2 0).map (·.node) = _
    rw [above_line n (wDirty n [wAbove]).toDev wAbove rfl rfl]; rfl
  unfold lineStuck
  rw [this]
  show (_ && (nMinor (wNode 1) 0 == 63) && _) = false
  rw [show (nMinor (wNode 1) 0 == 63) = false by decide, Bool.and_false, Bool.false_and]

theorem loop_once (e : Nat) (d d1 : Dev) (f : Nat) (l : Line) (h : 96744 < dirtyUnpinned d)
    (hl : lruLine d (fun l => l.dirty && !isPinned l && !lineStuck d l) = some l)
    (hw : writeBack e l.level l.index d = .ok d1) (h1 : dirtyUnpinned d1 = 1) : writeBackLoop e forcedLine (f + 2) d = d1 := by
  rw [writeBackLoop.eq_2]
  simp only [forcedLine, if_neg (Nat.not_le.mpr h), hl, hw]
  rw [writeBackLoop.eq_2]
  simp [forcedLine, h1]

theorem big_back (n : Nat) (h : 128992 < n + 1) : 128992 < dirtyUnpinned (wDirty (n + 1) [wAbove]).toDev
    ∧ dirtyUnpinned (dirtyBack (wDirty (n + 1) [wAbove])) ≤ 96744 := by
  refine ⟨by rw [big_dirty]; exact h, ?_⟩
  have h1 := big_clean _ _ (big_after (n + 1))
  have hl : 3 * (wDirty (n + 1) [wAbove]).vlt.cache.length = (3 * n + 4) + 2 := by
    rw [show (wDirty (n + 1) [wAbove]).vlt.cache = [wAbove] ++ List.replicate (n + 1) wLine from rfl, List.length_append, List.length_replicate,
      List.length_singleton]
    omega
  unfold dirtyBack
  rw [hl, show storeEpoch (wDirty (n + 1) [wAbove]).toDev = 5 from rfl, loop_once 5 (wDirty (n + 1) [wAbove]).toDev (wAfter (n + 1)) _ wLine (by rw [big_dirty]; omega)
    (big_more _ [wAbove] rfl n (big_above _) rfl) (big_ok (n + 1)) h1, h1]
  decide

/-! The header of an image; what the command reads is filled up with zeros. -/

def wHead : Bytes := ascii "ZBMI" ++ natLE 2 4 ++ natLE 1 4 ++ natLE 64 4 ++ natLE 1 4 ++ natLE 64 4 ++ natLE 64 4

theorem slice_fit (h : Bytes) (m o n : Nat) (hn : o + n ≤ m) : slice (fit h m) o n = slice h o n := by
  unfold fit slice
  refine List.map_congr_left (fun i hi => ?_)
  have : o + i < m := by have := List.mem_range.mp hi; omega
  simp [List.getD, List.getElem?_drop, List.getElem?_map, List.getElem?_range this]

theorem slice_past (h : Bytes) (o n : Nat) (hl : h.length ≤ o) : (slice h o n).all (· = 0) = true := by
  unfold slice
  simp [List.drop_eq_nil_of_le hl]

theorem field_fit (h : Bytes) (m o n : Nat) (hn : o + n ≤ m) : fieldLE (fit h m) o n = fieldLE h o n := by
  unfold fieldLE
  rw [slice_fit _ _ _ _ hn]

theorem fit_length (h : Bytes) (m : Nat) : (fit h m).length = m := by simp [fit, slice]

theorem fit_take (h : Bytes) (m n : Nat) (hn : n ≤ m) : (fit h m).take n = fit h n := by
  unfold fit slice
  rw [← List.map_take, List.take_range, Nat.min_eq_left hn]

theorem head_fields (m : Nat) (hm : 28 ≤ m) : fieldLE (fit wHead m) 4 4 = 2 ∧ fieldLE (fit wHead m) 8 4 = 1 ∧ fieldLE (fit wHead m) 12 4 = 64
    ∧ fieldLE (fit wHead m) 16 2 = 1 ∧ fieldLE (fit wHead m) 20 4 = 64 ∧ fieldLE (fit wHead m) 24 4 = 64 := by
  refine ⟨?_, ?_, ?_, ?_, ?_, ?_⟩ <;> (rw [field_fit _ _ _ _ (by omega)]; decide +kernel)

theorem head_parse : ∃ i, ucodeParse (fit wHead 262144) = some i ∧ i.svn = 1 := by
  obtain ⟨h4, h8, h12, h16, h20, h24⟩ := head_fields 262144 (by decide)
  unfold ucodeParse
  simp only [h4, h8, h12, h16, h20, h24]
  rw [if_pos ⟨fit_length _ _, by rw [fit_take _ _ _ (by decide)]; decide +kernel, by decide, by decide, by decide, by decide, by decide,
    by decide, by decide, by decide⟩]
  exact ⟨_, rfl, rfl⟩

theorem head_zero : ucodeZero (fit wHead 262144) = true := by
  obtain ⟨h4, h8, h12, h16, h20, h24⟩ := head_fields 262144 (by decide)
  unfold ucodeZero ucodeCat
  simp only [h12, h16, h20]
  rw [slice_fit _ _ _ _ (by decide), slice_fit _ _ _ _ (by decide), slice_fit _ _ _ _ (by decide), slice_fit _ _ _ _ (by decide),
    slice_fit _ _ _ _ (by decide), slice_fit _ _ _ _ (by decide), slice_past _ 28 _ (by decide +kernel),
    slice_past _ 0x3F213 _ (by decide +kernel), slice_past _ 0x3F460 _ (by decide +kernel), slice_past _ (64 + 64) _ (by decide +kernel)]
  decide +kernel

def wUcode : State := wStore (wBrl {} (wCmd (wPkc 0x152 [] 262144 0) wUp))

theorem ucode_hyp : ∃ (cid : Nat) (hr : HostRead) (i : ImageRec) (s : State), starts 0x0152 cid hr s = true ∧ zeroFrom cid 64 s = true
    ∧ noHandles cid s = true ∧ imageGood cid hr i s ∧ rwpVal s.toDev rwpUcodeMinsv ≤ i.svn ∧ s.brl.rollPhase = 0 ∧ keepOnly s.toDev = false
    ∧ rwpRefused s.toDev rwpUcodeMinsv = none ∧ logRoom s = true := by
  obtain ⟨i, hi, hv⟩ := head_parse
  refine ⟨1, hrD wHead, i, wUcode, by decide +kernel, by decide +kernel, by decide +kernel, ⟨by decide +kernel, ?_, ?_⟩, ?_, by decide +kernel,
    by decide +kernel, by decide +kernel, by decide +kernel⟩
  · exact hi
  · exact head_zero
  · rw [hv]; decide +kernel

/-! ### Statements clause by clause -/


theorem hyp_StackSpillsAndFills :
    (∃ (c : CoreId) (imm : BitVec 8) (s : State), let k := coreK c s; let b := (k.ds.drop 24).reverse.flatMap (fun w => natLE w.toNat 4); k.ds.length = 32 ∧ k.dsp + 32 ≤ k.rsp ∧ inRam k 2 k.dsp = true ∧ reaches c 2 (access 2 .w k.dsp 32 4 .write) s = true)
    ∧ (∃ (c : CoreId) (s : State) (v : Word32) (r : List Word32), let k := coreK c s; let b := (k.rs.drop 12).flatMap (fun w => natLE w.toNat 4); k.ds = v :: r ∧ k.rs.length = 16 ∧ 16 ≤ k.rsp ∧ k.dsp + 16 ≤ k.rsp ∧ inRam k 2 (k.rsp - 16) = true ∧ reaches c 2 (access 2 .w (k.rsp - 16) 16 4 .write) s = true)
    ∧ (∃ (c : CoreId) (s : State), let k := coreK c s; let b := memGetN s.mem (ramAt k 2 (k.dsp - 32)) 32; k.ds = [] ∧ 32 ≤ k.dsp ∧ inRam k 2 (k.dsp - 32) = true ∧ reaches c 2 (access 2 .r (k.dsp - 32) 32 4 .read) s = true)
    ∧ (∃ (c : CoreId) (imm : BitVec 8) (s : State), fetches c 2 s = true ∧ (coreK c s).ds.length = 32 ∧ (coreK c s).rsp < (coreK c s).dsp + 32) :=
  ⟨⟨wc, 5, wFull, by dsimp only; decide +kernel⟩,
   ⟨wc, wFullR, 9, [], by dsimp only; decide +kernel⟩,
   ⟨wc, wSpilled, by dsimp only; decide +kernel⟩,
   ⟨wc, 5, wMeet, by decide +kernel⟩⟩

theorem hyp_WaitsAndEventsComplete_1 :
    (∃ (c : CoreId) (s : State), fetches c 2 s = true ∧ hasEvent c s = true)
    ∧ (∃ (c : CoreId) (s : State), fetches c 2 s = true ∧ hasEvent c s = false)
    ∧ (∃ (c : CoreId) (s : State) (h l : Word32) (r : List Word32), fetches c 2 s = true ∧ (coreK c s).ds = h :: l :: r ∧ (h ++ l).toNat ≤ nowTb s.toDev)
    ∧ (∃ (c : CoreId) (s : State) (h l : Word32) (r : List Word32), fetches c 2 s = true ∧ (coreK c s).ds = h :: l :: r ∧ nowTb s.toDev < (h ++ l).toNat) :=
  ⟨⟨wc, (wTasks { wTask [1] [] with latch := true }), by decide +kernel⟩,
   ⟨wc, (wState [1] []), by decide +kernel⟩,
   ⟨wc, (wTime 5 (wState [0,5,7] [])), 0, 5, [7], by decide +kernel⟩,
   ⟨wc, (wTime 4 (wState [0,5,7] [])), 0, 5, [7], by decide +kernel⟩⟩

theorem hyp_WaitsAndEventsComplete_2 :
    (∃ (c : CoreId) (s : State) (h l : Word32) (r : List Word32), fetches c 2 s = true ∧ (coreK c s).ds = h :: l :: r ∧ r.length < 32 ∧ hasEvent c s = true)
    ∧ (∃ (c : CoreId) (s : State) (h l : Word32) (r : List Word32), fetches c 2 s = true ∧ (coreK c s).ds = h :: l :: r ∧ r.length < 32 ∧ hasEvent c s = false ∧ (h ++ l).toNat ≤ nowTb s.toDev)
    ∧ (∃ (c : CoreId) (s : State) (h l : Word32) (r : List Word32), fetches c 2 s = true ∧ (coreK c s).ds = h :: l :: r ∧ hasEvent c s = false ∧ nowTb s.toDev < (h ++ l).toNat)
    ∧ (∃ (c : CoreId) (s : State), fetches c 2 s = true ∧ (coreK c s).ds.length ≤ 30) :=
  ⟨⟨wc, (wTasks { wTask [0,5,7] [] with seen := 3 }), 0, 5, [7], by decide +kernel⟩,
   ⟨wc, (wTime 5 (wState [0,5,7] [])), 0, 5, [7], by decide +kernel⟩,
   ⟨wc, (wTime 4 (wState [0,5,7] [])), 0, 5, [7], by decide +kernel⟩,
   ⟨wc, (wTime 0x1200000034 (wState [7] [])), by decide +kernel⟩⟩

theorem hyp_WaitsAndEventsComplete_3 :
    ∃ (c : CoreId) (s : State) (m : Word32) (r : List Word32), fetches c 2 s = true ∧ (coreK c s).ds = m :: r :=
  ⟨wc, (wTwo [0x21,7]), 0x21, [7], by decide +kernel⟩

theorem hyp_YieldExitAndWake :
    (∃ (c : CoreId) (s : State) (m : Word32) (r : List Word32) (t : Nat), fetches c 2 s = true ∧ (coreK c s).ds = m :: r ∧ t ≠ coreNo c s ∧ (taskOf s.toDev c.region t).state = .waiting ∧ (taskOf s.toDev c.region t).ending = none ∧ (taskOf s.toDev c.region t).wait = .event ∧ (taskOf s.toDev c.region t).latch = false ∧ (taskOf s.toDev c.region t).home < 7 ∧ m.getLsbD (taskOf s.toDev c.region t).home = true ∧ (taskOf s.toDev c.region t).seen = homeSev c (taskOf s.toDev c.region t) s)
    ∧ (∃ (c : CoreId) (s : State), fetches c 2 s = true)
    ∧ (∃ (c : CoreId) (s : State), fetches c 2 s = true ∧ solelyRuns c s = true ∧ taskQuiet s.toDev c.region (coreNo c s) = true)
    ∧ (∃ (c : CoreId) (s : State), fetches c 2 s = true ∧ solelyRuns c s = true ∧ taskQuiet s.toDev c.region (coreNo c s) = false) :=
  ⟨⟨wc, (wTwo [0x21,7]), 0x21, [7], 5, by decide +kernel⟩,
   ⟨wc, (wTwo [0x21,7]), by decide +kernel⟩,
   ⟨wc, (wTwo [0x21,7]), by decide +kernel⟩,
   ⟨wc, (onDev (onHif (fun h => { h with cmds := [{ cid := 0, origin := .task { region := 0, task := 0, cp := 0, resSeg := 1, resOff := 0, hs := none, number := 0, issue := 0 } }] })) (wTwo [0x21,7])), by decide +kernel⟩⟩

theorem hyp_TaskConstantsComplete :
    ∃ (c : CoreId) (imm : BitVec 24) (s : State), fetches c 4 s = true ∧ imm.toNat < 8 ∧ (coreK c s).ds.length < 32 :=
  ⟨wc, 0, (wState [] [1,2]), by decide +kernel⟩

theorem hyp_HandleSlotOperationsComplete_1 :
    (∃ (c : CoreId) (s : State) (dst src : Word32) (r : List Word32), (coreK c s).ds = dst :: src :: r ∧ hsRam (coreK c s) dst = true ∧ reaches c 4 (do slotCheck src .read; slotCheck dst .write) s = true ∧ r.length < 32)
    ∧ (∃ (c : CoreId) (s : State) (n : Word32) (r : List Word32), (coreK c s).ds = n :: r ∧ hsRam (coreK c s) n = true ∧ reaches c 4 (slotCheck n .write) s = true ∧ r.length < 32)
    ∧ (∃ (c : CoreId) (s : State) (b a : Word32) (r : List Word32), (coreK c s).ds = b :: a :: r ∧ reaches c 4 (do slotCheck a .read; slotCheck b .read) s = true ∧ r.length < 32)
    ∧ (∃ (c : CoreId) (s : State) (host : List Byte) (n p : Word32) (r : List Word32), (coreK c s).ds = n :: p :: r ∧ ptrSeg p = 4 ∧ ((coreK c s).segs.getD 4 {}).ms = true ∧ hsRam (coreK c s) n = true ∧ reaches c 4 (do access 4 .r (ptrOff p) 8 8 .read; slotCheck n .write) s = true ∧ r.length < 32) :=
  ⟨⟨wc, { wState [3,2,9] [] with mem := [(regionBase 0 + 0x3011, 5)] }, 3, 2, [9], by decide +kernel⟩,
   ⟨wc, { wState [2,9] [] with mem := [(regionBase 0 + 0x3011, 5)] }, 2, [9], by decide +kernel⟩,
   ⟨wc, { wState [3,2,9] [] with mem := [(regionBase 0 + 0x3011, 5)] }, 3, 2, [9], by decide +kernel⟩,
   ⟨wc, (wState [31,0x80000008,9] []), [1,2,3,4,5,6,7,8,9], 31, 0x80000008, [9], by decide +kernel⟩⟩

theorem hyp_HandleSlotOperationsComplete_2 :
    ∃ (c : CoreId) (s : State) (p n : Word32) (r : List Word32), (coreK c s).ds = p :: n :: r ∧ ptrSeg p = 4 ∧ ((coreK c s).segs.getD 4 {}).ms = true ∧ reaches c 4 (do slotCheck n .read; access 4 .w (ptrOff p) 8 8 .write) s = true ∧ r.length < 32 :=
  ⟨wc, { wState [0x88000000,2,9] [] with mem := [(regionBase 0 + 0x3011, 5)] }, 0x88000000, 2, [9], by decide +kernel⟩

theorem hyp_RandomOperationsComplete :
    (∃ (c : CoreId) (s : State), fetches c 4 s = true ∧ (coreK c s).ds.length ≤ 30 ∧ drbgGoes c s = true ∧ 4 ≤ (drbgQueue c s).length)
    ∧ (∃ (c : CoreId) (s : State) (n p : Word32) (r : List Word32), (coreK c s).ds = n :: p :: r ∧ r.length < 32 ∧ 4 ≤ n.toNat ∧ n.toNat ≤ 256 ∧ drbgGoes c s = true ∧ n.toNat ≤ (drbgQueue c s).length ∧ inRam (coreK c s) (ptrSeg p) (ptrOff p) = true ∧ reaches c 4 (access (ptrSeg p) .w (ptrOff p) n.toNat 1 .write) s = true)
    ∧ (∃ (c : CoreId) (s : State) (n p : Word32) (r : List Word32), fetches c 4 s = true ∧ (coreK c s).ds = n :: p :: r ∧ r.length < 32 ∧ (n.toNat < 4 ∨ 256 < n.toNat))
    ∧ (∃ (c : CoreId) (s : State) (x : Cmd) (v : Res), fetches c 4 s = true ∧ (coreK c s).ds.length ≤ 30 ∧ cpRead? s.toDev c = some x ∧ x.stage = .done v) :=
  ⟨⟨wc, (wDrbg [1,2,3,4,5] (wState [] [])), by decide +kernel⟩,
   ⟨wc, (wDrbg [1,2,3,4,5] (wState [4,0x20000011,7] [])), 4, 0x20000011, [7], by decide +kernel⟩,
   ⟨wc, (wDrbg [1,2,3,4,5] (wState [3,0x20000011,7] [])), 3, 0x20000011, [7], by decide +kernel⟩,
   ⟨wc, (wCmd wReadDone (wState [7] [])), wReadDone, wReadRes, by decide +kernel⟩⟩

theorem hyp_DmaAndEventOperationsComplete_1 :
    (∃ (c : CoreId) (s : State) (ch p : Word32) (r : List Word32), fetches c 4 s = true ∧ (coreK c s).ds = ch :: p :: r ∧ r.length < 32 ∧ (8 ≤ ch.toNat ∨ ptrOff p % 64 ≠ 0))
    ∧ (∃ (c : CoreId) (s : State) (ch p : Word32) (r : List Word32), fetches c 4 s = true ∧ (coreK c s).ds = ch :: p :: r ∧ r.length < 32 ∧ ch.toNat < 8 ∧ ptrOff p % 64 = 0 ∧ (coreK c s).dmaGrant.testBit ch.toNat = false)
    ∧ (∃ (c : CoreId) (s : State) (ch p : Word32) (r : List Word32), fetches c 4 s = true ∧ (coreK c s).ds = ch :: p :: r ∧ r.length < 32 ∧ ch.toNat < 8 ∧ ptrOff p % 64 = 0 ∧ (coreK c s).dmaGrant.testBit ch.toNat = true ∧ chBusy (chOf s.toDev c.region ch.toNat) = true)
    ∧ (∃ (c : CoreId) (s : State) (ch p : Word32) (r : List Word32), fetches c 4 s = true ∧ (coreK c s).ds = ch :: p :: r ∧ r.length < 32 ∧ ch.toNat < 8 ∧ ptrOff p % 64 = 0 ∧ (coreK c s).dmaGrant.testBit ch.toNat = true ∧ chBusy (chOf s.toDev c.region ch.toNat) = false) :=
  ⟨⟨wc, (wState [8,0x20000040,7] []), 8, 0x20000040, [7], by decide +kernel⟩,
   ⟨wc, (wState [7,0x20000040,7] []), 7, 0x20000040, [7], by decide +kernel⟩,
   ⟨wc, (onDev (onCh 0 7 (fun c => { c with state := .running })) (wTasks { wTask [7,0x20000040,7] [] with dmaGrant := 0x80 })), 7, 0x20000040, [7], by decide +kernel⟩,
   ⟨wc, (wTasks { wTask [7,0x20000040,7] [] with dmaGrant := 0x80 }), 7, 0x20000040, [7], by decide +kernel⟩⟩

theorem hyp_DmaAndEventOperationsComplete_2 :
    (∃ (c : CoreId) (s : State) (ch : Word32) (r : List Word32), fetches c 4 s = true ∧ (coreK c s).ds = ch :: r ∧ r.length < 32 ∧ ch.toNat < 8)
    ∧ (∃ (c : CoreId) (sev : BitVec 16) (s : State) (code p3 p2 p1 : Word32) (r : List Word32), fetches c 4 s = true ∧ sev.toNat < 8 ∧ (coreK c s).ds = code :: p3 :: p2 :: p1 :: r ∧ r.length < 32 ∧ 0x9000 ≤ code.toNat ∧ code.toNat ≤ 0x9FFF)
    ∧ (∃ (c : CoreId) (sev : BitVec 16) (s : State) (code p3 p2 p1 : Word32) (r : List Word32), fetches c 4 s = true ∧ sev.toNat < 8 ∧ (coreK c s).ds = code :: p3 :: p2 :: p1 :: r ∧ r.length < 32 ∧ (code.toNat < 0x9000 ∨ 0x9FFF < code.toNat))
    ∧ (∃ (c : CoreId) (s : State), fetches c 4 s = true ∧ (coreK c s).ds.length ≤ 30) :=
  ⟨⟨wc, (wState [7,6] []), 7, [6], by decide +kernel⟩,
   ⟨wc, 2, (wState [0x9000,3,2,1,6] []), 0x9000, 3, 2, 1, [6], by decide +kernel⟩,
   ⟨wc, 7, (wState [0xA000,3,2,1,6] []), 0xA000, 3, 2, 1, [6], by decide +kernel⟩,
   ⟨wc, (wState [0x9000] []), by decide +kernel⟩⟩

theorem hyp_DmaAndEventOperationsComplete_3 :
    ∃ (c : CoreId) (s : State) (ch : Word32) (r : List Word32), fetches c 4 s = true ∧ (coreK c s).ds = ch :: r ∧ r.length < 32 ∧ 8 ≤ ch.toNat :=
  ⟨wc, (wState [8,6] []), 8, [6], by decide +kernel⟩

theorem hyp_EmptyQueueTicks :
    (∃ (s : State), s.pending = [] ∧ dieRuns s.toDev = false)
    ∧ (∃ (s : State), s.pending = [] ∧ dieRuns s.toDev = true)
    ∧ (∃ (b : BatS), b.rtcSub + 1 < 100000000)
    ∧ (∃ (b : BatS), 100000000 ≤ b.rtcSub + 1) :=
  ⟨⟨State.reset, by decide +kernel⟩,
   ⟨wUp, by decide +kernel⟩,
   ⟨({ rtcSub := 5 } : BatS), by decide +kernel⟩,
   ⟨({ rtcSub := 99999999 } : BatS), by decide +kernel⟩⟩

theorem hyp_FunctionEnableAndDisable :
    (∃ (f : Fn) (s : State), fnUp s.toDev f = true ∧ (fnOf s.toDev f).stopping = false ∧ (fnOf s.toDev f).enable = false ∧ aqGood f s = true)
    ∧ (∃ (f : Fn) (s : State), fnUp s.toDev f = true ∧ (fnOf s.toDev f).stopping = false ∧ (fnOf s.toDev f).enable = false ∧ aqGood f s = false)
    ∧ (∃ (f : Fn) (s : State), fnUp s.toDev f = true ∧ (fnOf s.toDev f).stopping = true)
    ∧ (∃ (f : Fn) (s : State), fnUp s.toDev f = true ∧ (fnOf s.toDev f).stopping = false ∧ (fnOf s.toDev f).enable = true ∧ (fnOf s.toDev f).enableHeld = false) :=
  ⟨⟨0, (wHif { fns := [(0, { aqCfg := 0x02003001 })] }), by decide +kernel⟩,
   ⟨0, (wHif { fns := [(0, { aqCfg := 0x02000001 })] }), by decide +kernel⟩,
   ⟨0, (wHif { fns := [(0, { stopping := true })] }), by decide +kernel⟩,
   ⟨0, (wHif { fns := [(0, { enable := true })], qps := [(0, wQp), (3, wQp)] }), by decide +kernel⟩⟩

theorem hyp_DoorbellsMoveIndices_1 :
    (∃ (f : Fn) (q : Nat) (v : BitVec 32) (s : State), bellThere s.toDev f q = true ∧ (qpOf s.toDev f q).live = true ∧ (qpOf s.toDev f q).err = false ∧ v.toNat % 4096 < (qpOf s.toDev f q).sqDepth ∧ sqHeld (qpOf s.toDev f q) + ringDist (qpOf s.toDev f q).sqDepth (qpOf s.toDev f q).sqTail (v.toNat % 4096) < (qpOf s.toDev f q).sqDepth)
    ∧ (∃ (f : Fn) (q : Nat) (v : BitVec 32) (s : State), bellThere s.toDev f q = true ∧ (qpOf s.toDev f q).live = true ∧ (qpOf s.toDev f q).err = false ∧ (qpOf s.toDev f q).sqDepth ≤ v.toNat % 4096)
    ∧ (∃ (f : Fn) (q : Nat) (v : BitVec 32) (s : State), bellThere s.toDev f q = true ∧ (qpOf s.toDev f q).live = false)
    ∧ (∃ (f : Fn) (q : Nat) (v : BitVec 32) (s : State), bellThere s.toDev f q = true ∧ (qpOf s.toDev f q).live = true ∧ v.toNat % 4096 < (qpOf s.toDev f q).cqDepth ∧ ringDist (qpOf s.toDev f q).cqDepth (qpOf s.toDev f q).cqHead (v.toNat % 4096) ≤ cqHeld (qpOf s.toDev f q)) :=
  ⟨⟨0, 3, 3, (wHif { qps := [(3, wQp)] }), by decide +kernel⟩,
   ⟨0, 3, 4, (wHif { qps := [(3, wQp)] }), by decide +kernel⟩,
   ⟨0, 3, 1, (wHif {}), by decide +kernel⟩,
   ⟨0, 3, 2, (wHif { qps := [(3, { wQp with cqPost := 2 })] }), by decide +kernel⟩⟩

theorem hyp_DoorbellsMoveIndices_2 :
    ∃ (f : Fn) (q : Nat) (v : BitVec 32) (s : State), bellThere s.toDev f q = true ∧ (qpOf s.toDev f q).live = true ∧ (qpOf s.toDev f q).err = false ∧ (qpOf s.toDev f q).stopping = false ∧ (qpOf s.toDev f q).cqDepth ≤ v.toNat % 4096 :=
  ⟨0, 3, 4, (wHif { qps := [(3, { wQp with cqPost := 2 })] }), by decide +kernel⟩

theorem hyp_EntriesAreFetchedInSequence_1 :
    (∃ (f q : Nat) (b : List Byte) (s : State), fetchesFrom f q s = true ∧ b.length = 128 ∧ entryClean b = true ∧ fieldLE b 4 4 = 0 ∧ ctlClass (fieldLE b 0 2) = true ∧ (ctlOf s.toDev f).cache = [] ∧ s.hif.cmds = [] ∧ BitVec.ofNat 32 (fieldLE b 8 4) = (ctlOf s.toDev f).a + 1)
    ∧ (∃ (f q : Nat) (b : List Byte) (s : State), fetchesFrom f q s = true ∧ b.length = 128 ∧ entryClean b = true ∧ fieldLE b 4 4 = 0 ∧ ctlClass (fieldLE b 0 2) = true ∧ s.hif.cmds = [] ∧ 17 ≤ (BitVec.ofNat 32 (fieldLE b 8 4) - (ctlOf s.toDev f).a).toNat ∧ (BitVec.ofNat 32 (fieldLE b 8 4) - (ctlOf s.toDev f).a).toNat < 2 ^ 31)
    ∧ (∃ (f q : Nat) (s : State), fetchesFrom f q s = true)
    ∧ (∃ (f : Fn) (q : Nat) (s : State), (qpOf s.toDev f q).live = true ∧ 0 < sqHeld (qpOf s.toDev f q) ∧ qpLevel (qpOf s.toDev f q) < 3) :=
  ⟨⟨0, 3, (fit (natLE 0x0C01 2 ++ zeros 6 ++ [1]) 128), (wHif { qps := [(3, wQp)] }), by decide +kernel⟩,
   ⟨0, 3, (fit (natLE 0x0C01 2 ++ zeros 6 ++ [17]) 128), (wHif { qps := [(3, wQp)] }), by decide +kernel⟩,
   ⟨0, 3, (wHif { qps := [(3, wQp)] }), by decide +kernel⟩,
   ⟨0, 3, (wHif { qps := [(3, wQp)] }), by decide +kernel⟩⟩

theorem hyp_EntriesAreFetchedInSequence_2 :
    ∃ (cid : Nat) (s : State), (theCmd cid s).stage = .held ∧ (theCmd cid s).dupOf = none :=
  ⟨1, (wCmd { cid := 1, stage := .held } wUp), by decide +kernel⟩

theorem hyp_CompletionsPost :
    (∃ (cid : Nat) (r : Res) (s : State), posts cid r s = true ∧ (theCmd cid s).flags.getLsbD 3 = true)
    ∧ (∃ (f : Fn) (q : Nat) (s : State), (qpOf s.toDev f q).coalN ≠ 0 ∧ vecSends (fnOf s.toDev f) (qpOf s.toDev f q).vector = true)
    ∧ (∃ (f : Fn) (v : Nat) (s : State), fnUp s.toDev f = true ∧ (fnOf s.toDev f).msixEnable = true ∧ (fnOf s.toDev f).funcMask = false ∧ (fnOf s.toDev f).vecPending = [v])
    ∧ (∃ (f : Fn) (v : Nat) (s : State), fnUp s.toDev f = true) :=
  ⟨⟨1, resOk, (wCmd { cid := 1, qp := 3, stage := .done resOk, flags := 8 } (wHif { qps := [(3, { wQp with cqPost := 3, cqHead := 1 })] })), by decide +kernel⟩,
   ⟨0, 3, (wHif { fns := [(0, { msixEnable := true, vecMasked := [(2, false)] })], qps := [(3, { wQp with vector := 2, coalN := 1 })] }), by decide +kernel⟩,
   ⟨0, 2, (wHif { fns := [(0, { msixEnable := true, vecPending := [2] })] }), by decide +kernel⟩,
   ⟨0, 2, wUp, by decide +kernel⟩⟩

theorem hyp_QueueAndSessionCommandsComplete :
    (∃ (cid : Nat) (hr : HostRead) (s : State), starts 0x0001 cid hr s = true ∧ (theCmd cid s).qp = 0 ∧ 1 ≤ param cid 64 2 s ∧ param cid 64 2 s ≤ qpMax (theCmd cid s).fn ∧ zeroFrom cid 90 s = true ∧ 2 ≤ param cid 66 2 s ∧ param cid 66 2 s ≤ 4096 ∧ 2 ≤ param cid 68 2 s ∧ param cid 68 2 s ≤ 4096 ∧ param cid 70 1 s ≤ vecMax (theCmd cid s).fn ∧ param cid 71 1 s ≤ 3 ∧ param cid 72 8 s % 4096 = 0 ∧ param cid 80 8 s % 4096 = 0 ∧ (qpOf s.toDev (theCmd cid s).fn (param cid 64 2 s)).live = false ∧ (qpOf s.toDev (theCmd cid s).fn (param cid 64 2 s)).stopping = false ∧ (fnOf s.toDev (theCmd cid s).fn).stopping = false)
    ∧ (∃ (cid : Nat) (hr : HostRead) (s : State), starts 0x0002 cid hr s = true ∧ (theCmd cid s).qp = 0 ∧ 1 ≤ param cid 64 2 s ∧ param cid 64 2 s ≤ qpMax (theCmd cid s).fn ∧ zeroFrom cid 66 s = true ∧ (qpOf s.toDev (theCmd cid s).fn (param cid 64 2 s)).live = true ∧ qpBusy s.toDev (theCmd cid s).fn (param cid 64 2 s) = false)
    ∧ (∃ (cid : Nat) (hr : HostRead) (s : State), starts 0x0002 cid hr s = true ∧ (theCmd cid s).qp = 0 ∧ 1 ≤ param cid 64 2 s ∧ param cid 64 2 s ≤ qpMax (theCmd cid s).fn ∧ zeroFrom cid 66 s = true ∧ (qpOf s.toDev (theCmd cid s).fn (param cid 64 2 s)).live = true ∧ s.hif.cmds.any (fun x => isHost x && x.fn == (theCmd cid s).fn && x.qp == param cid 64 2 s && x.session != (theCmd cid s).session && !x.silent) = true)
    ∧ (∃ (cid : Nat) (hr : HostRead) (s : State), starts 0x0010 cid hr s = true ∧ (theCmd cid s).session = 0 ∧ zeroFrom cid 65 s = true ∧ sessCount s.toDev (theCmd cid s).fn < (fnOf s.toDev (theCmd cid s).fn).sessQuota ∧ s.hif.nextFresh < 65536 ∧ param cid 64 1 s < 4 ∧ regionUp s.toDev (param cid 64 1 s) = true) :=
  ⟨⟨1, hr0, (wCmd (wc1 1 ([15, 0] ++ [0, 16] ++ [2, 0] ++ [255, 3] ++ natLE 0x1000 8 ++ natLE 0x2000 8 ++ [1, 2])) wUp), by decide +kernel⟩,
   ⟨1, hr0, (wCmd (wc1 2 [3, 0]) (wHif { qps := [(3, wQp)] })), by decide +kernel⟩,
   ⟨1, hr0, (onDev (onHif (fun h => { h with cmds := wc1 2 [3, 0] :: [{ cid := 4, qp := 3, session := 0x10000 }] })) (wHif { qps := [(3, wQp)] })), by decide +kernel⟩,
   ⟨1, hr0, (wCmd (wc1 0x10 [3, 0]) { wUp with die := { regions := [(3, { phase := .up })] } }), by decide +kernel⟩⟩

theorem hyp_TumblerDispatches :
    (∃ (d : Dev) (r p : Nat) (b : Nat × Task), readyBest d r p = some b)
    ∧ (∃ (c : CoreId) (p t : Nat) (k : Task) (s : State), takesTasks c s = true ∧ homeOf s.toDev c = some p ∧ readyBest s.toDev c.region p = some (t, k) ∧ (coreOf s.toDev c).task = none ∧ awaitsTask s.toDev c p = false ∧ (taskOf s.toDev c.region t).wait = .none)
    ∧ (∃ (c : CoreId) (p t v : Nat) (k : Task) (s : State), takesTasks c s = true ∧ homeOf s.toDev c = some p ∧ readyBest s.toDev c.region p = some (t, k) ∧ (coreOf s.toDev c).task = some v ∧ v ≠ t ∧ (taskOf s.toDev c.region v).state = .running ∧ (taskOf s.toDev c.region v).stop = none ∧ (taskOf s.toDev c.region v).priority < taskLevel k)
    ∧ (∃ (c : CoreId) (p t v : Nat) (k : Task) (s : State), takesTasks c s = true ∧ homeOf s.toDev c = some p ∧ readyBest s.toDev c.region p = some (t, k) ∧ (coreOf s.toDev c).task = some v ∧ (taskOf s.toDev c.region v).stop = none ∧ taskLevel k ≤ (taskOf s.toDev c.region v).priority) :=
  ⟨⟨(wPair (tReady 3 1) (tReady 4 2) none).toDev, 0, 0, (5, tReady 4 2), by decide +kernel⟩,
   ⟨wc, 0, 0, (tReady 3 1), (wPair (tReady 3 1) (tReady 3 2) none), by decide +kernel⟩,
   ⟨wc, 0, 5, 0, (tReady 4 2), (wPair (tRun 3) (tReady 4 2) (some 0)), by decide +kernel⟩,
   ⟨wc, 0, 5, 0, (tReady 3 2), (wPair (tRun 3) (tReady 3 2) (some 0)), by decide +kernel⟩⟩

theorem hyp_TumblerTimersAct_1 :
    (∃ (c : CoreId) (t : Nat) (s : State), (coreOf s.toDev c).task = some t ∧ coreRunning s.toDev c.region t = some c.pos.val ∧ (coreOf s.toDev c).halt = false ∧ insHeld s.toDev c = false ∧ (homedAt s.toDev c.region (taskOf s.toDev c.region t).home).any (fun x => x.2.state == .ready && x.2.ending.isNone && taskLevel x.2 == (taskOf s.toDev c.region t).priority) = true)
    ∧ (∃ (r : Region) (t : Nat) (s : State), (taskOf s.toDev r t).state = .ready ∧ (taskOf s.toDev r t).priority + (taskOf s.toDev r t).age < 14)
    ∧ (∃ (r : Region) (t : Nat) (s : State), (taskOf s.toDev r t).state = .ready ∧ 14 ≤ (taskOf s.toDev r t).priority + (taskOf s.toDev r t).age)
    ∧ (∃ (r : Region) (t : Nat) (s : State), [TaskState.ready, .running, .waiting].contains (taskOf s.toDev r t).state = true ∧ (taskOf s.toDev r t).ending = none ∧ (taskOf s.toDev r t).stop = none ∧ taskHeld s.toDev r t = false ∧ taskQuiet s.toDev r t = true) :=
  ⟨⟨wc, 0, (wPair (tRun 3) (tReady 3 2) (some 0)), by decide +kernel⟩,
   ⟨0, 5, (wPair (tRun 3) (tReady 13 2) (some 0)), by decide +kernel⟩,
   ⟨0, 5, (wPair (tRun 3) (tReady 14 2) (some 0)), by decide +kernel⟩,
   ⟨0, 5, (wPair (tRun 3) (tReady 14 2) (some 0)), by decide +kernel⟩⟩

theorem hyp_TumblerTimersAct_2 :
    (∃ (r : Region) (t : Nat) (s : State), [TaskState.ready, .running, .waiting].contains (taskOf s.toDev r t).state = true ∧ (taskOf s.toDev r t).ending = none ∧ (taskOf s.toDev r t).stop = none ∧ taskHeld s.toDev r t = true)
    ∧ (∃ (r : Region) (t : Nat) (s : State), (taskOf s.toDev r t).ending = some .exit)
    ∧ (∃ (r : Region) (t : Nat) (s : State), (taskOf s.toDev r t).state = .waiting ∧ (taskOf s.toDev r t).ending = none ∧ (taskOf s.toDev r t).wait = .until_)
    ∧ (∃ (r : Region) (t : Nat) (s : State), (taskOf s.toDev r t).state = .waiting ∧ (taskOf s.toDev r t).ending = none ∧ (taskOf s.toDev r t).wait = .eventUntil ∧ eventPending s.toDev r (taskOf s.toDev r t) = false) :=
  ⟨⟨0, 0, (onDev (onKw (.central 2) (fun k => { k with stalled := [⟨aC, 5, .read, 2, none, true, some wc⟩] })) (wPair (tRun 3) (tReady 14 2) (some 0))), by decide +kernel⟩,
   ⟨0, 5, (wPair (tRun 3) { tReady 14 2 with ending := some .exit } (some 0)), by decide +kernel⟩,
   ⟨0, 0, (wTaskIn { tRun 2 with state := .waiting, wait := .until_ }), by decide +kernel⟩,
   ⟨0, 0, (wTaskIn { wTask [4] [] with state := .waiting, wait := .eventUntil }), by decide +kernel⟩⟩

theorem hyp_TumblerTimersAct_3 :
    ∃ (r : Region) (t : Nat) (s : State), (taskOf s.toDev r t).state = .waiting ∧ (taskOf s.toDev r t).ending = none ∧ (taskOf s.toDev r t).wait = .eventUntil ∧ eventPending s.toDev r (taskOf s.toDev r t) = true :=
  ⟨0, 0, (wTaskIn { wTask [4] [] with state := .waiting, wait := .eventUntil, latch := true }), by decide +kernel⟩

theorem hyp_TasksAndTheirCommandsEnd :
    (∃ (r : Region) (t : Nat) (s : State), (taskOf s.toDev r t).state = .done ∧ (taskOf s.toDev r t).stop = none ∧ (cmdOf? s.toDev (taskOf s.toDev r t).call).isSome = true ∧ isDone (theCmd (taskOf s.toDev r t).call s) = false ∧ (fieldLE (replyOf r t s) 0 2 = 0 ∨ (0x8000 ≤ fieldLE (replyOf r t s) 0 2 ∧ fieldLE (replyOf r t s) 0 2 ≤ 0xFFFE)) ∧ fieldLE (replyOf r t s) 4 4 ≤ (taskOf s.toDev r t).outCap)
    ∧ (∃ (r : Region) (t : Nat) (s : State), (taskOf s.toDev r t).state = .cancelled ∧ (taskOf s.toDev r t).stop = none ∧ (cmdOf? s.toDev (taskOf s.toDev r t).call).isSome = true ∧ isDone (theCmd (taskOf s.toDev r t).call s) = false ∧ (taskOf s.toDev r t).ending = some .trap)
    ∧ (∃ (r : Region) (t : Nat) (s : State), (taskOf s.toDev r t).state = .cancelled ∧ (taskOf s.toDev r t).stop = none ∧ (cmdOf? s.toDev (taskOf s.toDev r t).call).isSome = true ∧ isDone (theCmd (taskOf s.toDev r t).call s) = false ∧ (taskOf s.toDev r t).ending = some .cancel)
    ∧ (∃ (cid : Nat) (k : TaskRef) (res : Res) (s : State), (cmdOf? s.toDev cid).isSome = true ∧ (theCmd cid s).origin = .task k ∧ (theCmd cid s).stage = .done res ∧ resultWaits s.toDev k = false ∧ (theCmd cid s).code ≠ 0xFF05 ∧ (resPass k s.toDev).1 = .allowed ∧ inRam (taskOf s.toDev k.region k.task) k.resSeg k.resOff = true) :=
  ⟨⟨0, 0, (wCmd { cid := 1 } { wTaskIn { tRun 2 with state := .done, ending := some .exit, call := 1, outCap := 0x40 } with mem := [(regionBase 0 + 0x1004, 0x40), (regionBase 0 + 0x1008, 5)] }), by decide +kernel⟩,
   ⟨0, 0, (wCmd { cid := 1 } (wTaskIn { tRun 2 with state := .cancelled, ending := some .trap, call := 1 })), by decide +kernel⟩,
   ⟨0, 0, (wCmd { cid := 1 } (wTaskIn { tRun 2 with state := .cancelled, ending := some .cancel, call := 1, started := true })), by decide +kernel⟩,
   ⟨1, { region := 0, task := 0, cp := 1, resSeg := 1, resOff := 32, hs := none, number := 0, issue := 0 }, { resOk with out := [1,2], outLen := 2 }, (wCmd { cid := 1, outPtr := 0x0100000000000100, stage := .done { resOk with out := [1,2], outLen := 2 }, origin := .task { region := 0, task := 0, cp := 1, resSeg := 1, resOff := 32, hs := none, number := 0, issue := 0 } } (wTaskIn (tRun 2))), by decide +kernel⟩⟩

theorem hyp_CoreAndChannelRegistersAct_1 :
    (∃ (acc : Access) (c : CoreId) (s : State), regGoes acc (corePage c) 8 s = true ∧ writerOf acc [.K, .D] s = true)
    ∧ (∃ (acc : Access) (c : CoreId) (s : State), acc.world = .C ∧ regGoes acc (corePage c) 8 s = true ∧ logRoom s = true)
    ∧ (∃ (acc : Access) (i : DmaInst) (ch : Channel) (s : State), regGoes acc (dmaPage i) (0x108 + 0x20 * ch.val) s = true ∧ acc.world = .K ∧ chBusy (chOf s.toDev i ch) = false ∧ dmaDown s.toDev i = false)
    ∧ (∃ (acc : Access) (i : DmaInst) (ch : Channel) (s : State), regGoes acc (dmaPage i) (0x108 + 0x20 * ch.val) s = true ∧ acc.world = .K ∧ (chOf s.toDev i ch).state = .stopping) :=
  ⟨⟨aK, wc, (wPair (tRun 3) (tReady 3 2) (some 0)), by decide +kernel⟩,
   ⟨aC, wc, (onDev (kwInstall allUnits) (wPair (tRun 3) (tReady 3 2) (some 0))), by decide +kernel⟩,
   ⟨aK, 4, 7, wUp, by decide +kernel⟩,
   ⟨aK, 4, 7, (onDev (onCh 4 7 (fun c => { c with state := .stopping })) wUp), by decide +kernel⟩⟩

theorem hyp_CoreAndChannelRegistersAct_2 :
    ∃ (acc : Access) (i : DmaInst) (ch : Channel) (s : State), regGoes acc (dmaPage i) (0x108 + 0x20 * ch.val) s = true ∧ acc.world = .K ∧ (chOf s.toDev i ch).state = .running :=
  ⟨aK, 4, 7, (onDev (onCh 4 7 (fun c => { c with state := .running })) wUp), by decide +kernel⟩

theorem hyp_FabricCommandsAct_1 :
    (∃ (acc : Access) (a : Addr) (k : AccKind) (n : Nat) (u : KwUnit) (s : State), a < 2 ^ 40 ∧ pageAt a = none ∧ kwPath acc a = [u] ∧ (kwOf s.toDev u).updating = false ∧ kwJudge s.toDev u acc a k = none)
    ∧ (∃ (acc : Access) (a : Addr) (k : AccKind) (n cause rule : Nat) (u : KwUnit) (s : State), a < 2 ^ 40 ∧ pageAt a = none ∧ kwPath acc a = [u] ∧ (kwOf s.toDev u).updating = false ∧ kwJudge s.toDev u acc a k = some (cause, rule) ∧ logRoom s = true)
    ∧ (∃ (acc : Access) (u : KwUnit) (s : State), acc.world = .K ∧ (kwOf s.toDev u).updating = false)
    ∧ (∃ (acc : Access) (u : KwUnit) (s : State), acc.world = .K ∧ (kwOf s.toDev u).updating = true ∧ (kwOf s.toDev u).stalled = []) :=
  ⟨⟨⟨.K, 0, 0, 0⟩, (regionBase 0), .write, 2, (.region 0 .k0), wUp, by decide +kernel⟩,
   ⟨aC, (regionBase 0), .write, 2, 1, 63, (.region 0 .k0), wUp, by decide +kernel⟩,
   ⟨aK, (.central 0), wUp, by decide +kernel⟩,
   ⟨aK, (.region 3 .bridge), (onDev (onKw (.region 3 .bridge) (fun k => { k with updating := true, shadow := [(1, {})] })) wUp), by decide +kernel⟩⟩

theorem hyp_FabricCommandsAct_2 :
    (∃ (u : KwUnit) (x : Stalled) (l : List Stalled) (s : State), (kwOf s.toDev u).stalled = x :: l ∧ x.core = none)
    ∧ (∃ (acc : Access) (m : PageNo) (s : State), regGoes acc m 0x1C s = true ∧ acc.world = .K)
    ∧ (∃ (st : Station) (tr : Traffic) (m : Byte) (n : Nat) (s : State), n < 3)
    ∧ (∃ (st : Station) (tr : Traffic) (m : Byte) (n : Nat) (s : State), 3 ≤ n ∧ logRoom s = true ∧ s.die.safe = false) :=
  ⟨⟨(.central 2), ⟨aC, 5, .read, 2, none, false, none⟩, [], (onDev (onKw (.central 2) (fun k => { k with updating := true, stalled := [⟨aC, 5, .read, 2, none, false, none⟩] })) wUp), by decide +kernel⟩,
   ⟨aK, 195, wUp, by decide +kernel⟩,
   ⟨13, .nvmScrub, 5, 2, wUp, by decide +kernel⟩,
   ⟨13, .nvmScrub, 5, 3, wUp, by decide +kernel⟩⟩

theorem hyp_FabricCommandsAct_3 :
    (∃ (p q : Region) (s : State), p.val < q.val)
    ∧ (∃ (r : Region) (p : Port) (n : Nat) (s : State), (regionOf s.toDev r).xbar = [])
    ∧ (∃ (r : Region) (p : Port) (n l : Nat) (s : State), (regionOf s.toDev r).xbar = [(p, n, l)]) :=
  ⟨⟨0, 1, wUp, by decide +kernel⟩,
   ⟨0, .k0, 3, wUp, by decide +kernel⟩,
   ⟨3, .bridge, 3, 3, (onDev (onRegion 3 (fun x => { x with xbar := [(.bridge, 3, 3)] })) wUp), by decide +kernel⟩⟩

theorem hyp_SessionsAndFunctionsEnd_1 :
    (∃ (cid : Nat) (hr : HostRead) (x : Sess) (s : State), starts 0x0011 cid hr s = true ∧ (theCmd cid s).session = 0 ∧ param cid 64 4 s ≠ 0 ∧ zeroFrom cid 68 s = true ∧ sessNamed s.toDev (theCmd cid s).fn (BitVec.ofNat 32 (param cid 64 4 s)) = some x ∧ x.closing = some cid ∧ s.hif.cmds.all (fun c => c.session != BitVec.ofNat 32 (param cid 64 4 s)) = true)
    ∧ (∃ (f : Fn) (s : State), f.val ≠ 0 ∧ fnConfig s.toDev f = true ∧ logRoom s = true)
    ∧ (∃ (s : State), fnConfig s.toDev 0 = true)
    ∧ (∃ (up : Bool) (s : State), s.cpm.power = .ready ∧ logRoom s = true) :=
  ⟨⟨1, hr0, { isOpen := true, gen := 1, closing := some 1 }, (wSess { isOpen := true, gen := 1, closing := some 1 } (wCmd (wc1 0x11 (natLE 0x10003 4)) wUp)), by decide +kernel⟩,
   ⟨2, (wSess { isOpen := true, gen := 1, fn := 2 } (wCmd { wc1 0x11 [] with fn := 2 } (wHif { numVfs := 2, vfEnable := true, qps := [(130, wQp)], fns := [(2, { enable := true, sessQuota := 5 })] }))), by decide +kernel⟩,
   ⟨(wSess { isOpen := true, gen := 1, fn := 2 } (wCmd { wc1 0x11 [] with fn := 2 } (wHif { numVfs := 2, vfEnable := true, qps := [(130, wQp)], fns := [(2, { enable := true, sessQuota := 5 })] }))), by decide +kernel⟩,
   ⟨true, (wSess { isOpen := true, gen := 1, fn := 2 } (wCmd { wc1 0x11 [] with fn := 2, stage := .running } (wHif { numVfs := 2, vfEnable := true, qps := [(130, wQp)], fns := [(2, { enable := true, sessQuota := 5 })] }))), by decide +kernel⟩⟩

theorem hyp_SessionsAndFunctionsEnd_2 :
    (∃ (f : Fn) (q : ConfigReq) (s : State), s.cpm.power = .booting)
    ∧ (∃ (f : Fn) (q : ConfigReq) (s : State), s.cpm.power = .ready ∧ fnThere s.toDev f = true ∧ readsConfig q = false)
    ∧ (∃ (s : State), s.cpm.power = .ready)
    ∧ (∃ (n : Nat) (s : State), s.cpm.power = .ready ∧ n ≤ 63) :=
  ⟨⟨3, (.setNumVfs 2), { cpm := { power := .booting } }, by decide +kernel⟩,
   ⟨0, .other, (wHif { linkUp := false }), by decide +kernel⟩,
   ⟨wUp, by decide +kernel⟩,
   ⟨63, wUp, by decide +kernel⟩⟩

theorem hyp_SessionsAndFunctionsEnd_3 :
    (∃ (on : Bool) (s : State), s.cpm.power = .ready)
    ∧ (∃ (f : Fn) (enable mask : Bool) (s : State), s.cpm.power = .ready ∧ fnThere s.toDev f = true) :=
  ⟨⟨false, (wSess { isOpen := true, gen := 1, fn := 2 } (wCmd { wc1 0x11 [] with fn := 2 } (wHif { numVfs := 2, vfEnable := true, qps := [(130, wQp)], fns := [(2, { enable := true, sessQuota := 5 })] }))), by decide +kernel⟩,
   ⟨2, true, false, (wSess { isOpen := true, gen := 1, fn := 2 } (wCmd { wc1 0x11 [] with fn := 2 } (wHif { numVfs := 2, vfEnable := true, qps := [(130, wQp)], fns := [(2, { enable := true, sessQuota := 5 })] }))), by decide +kernel⟩⟩

theorem hyp_TenantCommandsComplete :
    (∃ (cid : Nat) (hr : HostRead) (s : State), starts 0x0120 cid hr s = true ∧ zeroFrom cid 65 s = true ∧ (theCmd cid s).inLen = 0 ∧ 1 ≤ param cid 64 1 s ∧ param cid 64 1 s ≤ s.hif.numVfs ∧ s.hif.bound.contains (param cid 64 1 s) = false ∧ keepOnly s.toDev = false ∧ logRoom s = true)
    ∧ (∃ (cid : Nat) (hr : HostRead) (s : State), starts 0x0121 cid hr s = true ∧ zeroFrom cid 65 s = true ∧ (theCmd cid s).inLen = 0 ∧ 1 ≤ param cid 64 1 s ∧ param cid 64 1 s ≤ 63 ∧ s.hif.bound.contains (param cid 64 1 s) = true ∧ keepOnly s.toDev = false ∧ s.vlt.commit = none ∧ s.hif.cmds.all (fun c => c.fn != param cid 64 1 s) = true)
    ∧ (∃ (cid : Nat) (hr : HostRead) (s : State), starts 0x0122 cid hr s = true ∧ zeroIn cid 65 68 s = true ∧ zeroFrom cid 72 s = true ∧ (theCmd cid s).inLen = 0 ∧ param cid 64 1 s ≤ 63 ∧ param cid 68 4 s ≤ 65536 ∧ keepOnly s.toDev = false) :=
  ⟨⟨1, hr0, (wStore (wCmd (wc1 0x120 [2]) (wHif { numVfs := 2, vfEnable := true }))), by decide +kernel⟩,
   ⟨1, hr0, (wStore (wSess { isOpen := true, gen := 1, fn := 63 } (wCmd (wc1 0x121 [63]) (wHif { numVfs := 63, vfEnable := true, bound := [63] })))), by decide +kernel⟩,
   ⟨1, hr0, (wStore (wCmd (wc1 0x122 ([63, 0, 0, 0] ++ natLE 65536 4)) wUp)), by decide +kernel⟩⟩

theorem hyp_AppletImagesAreManaged :
    (∃ (cid : Nat) (hr : HostRead) (s : State), starts 0x0801 cid hr s = true ∧ zeroFrom cid 64 s = true ∧ noHandles cid s = true ∧ imageFits (inputOf cid hr s) s = true ∧ imageHasRoom (inputOf cid hr s) s = true ∧ currentImage s.toDev (parseApplet (inputOf cid hr s)).id = none ∧ count s.apl.applets (fun x => !x.old) < 32 ∧ appletOf s.toDev s.apl.nextInst = none)
    ∧ (∃ (cid : Nat) (hr : HostRead) (o : Applet) (s : State), starts 0x0802 cid hr s = true ∧ zeroFrom cid 64 s = true ∧ noHandles cid s = true ∧ imageFits (inputOf cid hr s) s = true ∧ imageHasRoom (inputOf cid hr s) s = true ∧ currentImage s.toDev (parseApplet (inputOf cid hr s)).id = some o ∧ s.apl.applets.all (fun a => !a.old && (a.id != o.id || a.inst == o.inst)) = true ∧ appletOf s.toDev s.apl.nextInst = none)
    ∧ (∃ (cid : Nat) (hr : HostRead) (a : Applet) (s : State), starts 0x0801 cid hr s = true ∧ param cid 64 1 s = 1 ∧ zeroIn cid 65 68 s = true ∧ zeroFrom cid 72 s = true ∧ noHandles cid s = true ∧ currentImage s.toDev (param cid 68 4 s) = some a ∧ (openSess s.toDev).all (fun p => (p.2.applet.map (·.1)) != some a.id) = true ∧ keepOnly s.toDev = false)
    ∧ (∃ (cid : Nat) (hr : HostRead) (s : State), starts 0x0170 cid hr s = true ∧ zeroFrom cid 64 s = true ∧ noHandles cid s = true ∧ (theCmd cid s).inLen = 2696 ∧ (inputOf cid hr s).getD 2592 0 = 4 ∧ (slice (inputOf cid hr s) 2689 3).all (· = 0) = true ∧ keepOnly s.toDev = false) :=
  ⟨⟨1, wImageIn, (wCmd { wc1 0x801 [] with inLen := 12672 } (wApl [])), by decide +kernel⟩,
   ⟨1, wImageIn, wApp, (wCmd { wc1 0x802 [] with inLen := 12672 } (wApl [wApp])), by decide +kernel⟩,
   ⟨1, hr0, wApp, (wCmd (wc1 0x801 [1, 0, 0, 0, 1]) (wApl [wApp])), by decide +kernel⟩,
   ⟨1, { hr0 with data := zeros 2592 ++ [4] ++ zeros 103 }, (wCmd { wc1 0x170 [] with inLen := 2696 } (wApl [])), by decide +kernel⟩⟩

theorem hyp_AppletCallsRun :
    (∃ (cid : Nat) (hr : HostRead) (a : Applet) (x : Sess) (s : State), starts 0x0810 cid hr s = true ∧ zeroIn cid 64 68 s = true ∧ zeroFrom cid 72 s = true ∧ noHandles cid s = true ∧ currentImage s.toDev (param cid 68 4 s) = some a ∧ appletAllows a (theCmd cid s).fn = true ∧ (theCmd cid s).session ≠ 0 ∧ sessOfCmd cid s = some x ∧ x.applet = none)
    ∧ (∃ (cid : Nat) (hr : HostRead) (x : Sess) (s : State), starts 0x0811 cid hr s = true ∧ zeroFrom cid 64 s = true ∧ noHandles cid s = true ∧ (theCmd cid s).session ≠ 0 ∧ sessOfCmd cid s = some x ∧ x.applet.isSome = true)
    ∧ (∃ (cid t p base id inst : Nat) (hr : HostRead) (a : Applet) (i : Inst) (x : Sess) (s : State), startsAs true 0x0812 cid hr s = true ∧ zeroFrom cid 72 s = true ∧ noHandles cid s = true ∧ param cid 66 1 s ≤ 3 ∧ param cid 67 1 s = 0 ∧ param cid 68 4 s ≤ 60000 ∧ (theCmd cid s).inLen ≤ 0x08000000 ∧ (theCmd cid s).outCap ≤ 0x08000000 ∧ (theCmd cid s).session ≠ 0 ∧ sessOfCmd cid s = some x ∧ x.applet = some (id, inst) ∧ appletOf s.toDev inst = some a ∧ param cid 64 2 s < a.entries.length ∧ instOf s.toDev x.home a.inst = some i ∧ freeTaskNo s.toDev x.home = some t ∧ callPlace s.toDev x.home a = some (p, base) ∧ tmbAdmits s.toDev x.home = true)
    ∧ (∃ (cid r t : Nat) (hr : HostRead) (y : Cmd) (s : State), starts 0x0813 cid hr s = true ∧ zeroIn cid 64 76 s = true ∧ zeroFrom cid 80 s = true ∧ noHandles cid s = true ∧ s.hif.cmds.find? (fun x => sameSession x (theCmd cid s) && x.seq == BitVec.ofNat 32 (param cid 76 4 s) && x.accepted && isAccepted x && x.dupOf.isNone && seqBelow x.seq (theCmd cid s).seq) = some y ∧ y.code = 0x0812 ∧ callTaskNo s.toDev y.cid = some (r, t) ∧ (taskOf s.toDev r t).ending = none ∧ (taskOf s.toDev r t).stop = none ∧ taskHeld s.toDev r t = false ∧ [TaskState.ready, .running, .waiting].contains (taskOf s.toDev r t).state = true ∧ taskQuiet s.toDev r t = true) :=
  ⟨⟨1, hr0, wApp, { isOpen := true, gen := 1 }, (wSess { isOpen := true, gen := 1 } (wCmd { wc1 0x810 [0, 0, 0, 0, 1] with session := 0x10003 } (wApl [wApp]))), by decide +kernel⟩,
   ⟨1, hr0, { isOpen := true, gen := 1, applet := some (1, 7) }, (wSess { isOpen := true, gen := 1, applet := some (1, 7) } (wCmd { wc1 0x811 [] with session := 0x10003 } (wApl [wApp]))), by decide +kernel⟩,
   ⟨1, 0, 0, (localBase 0 0), 1, 7, hr0, wApp, { inst := 7, appletId := 1, version := 0, csBase := regionBase 0, csLen := 64, g1Base := regionBase 0, g1Len := 0, xsBase := regionBase 0, xsLen := 0 }, { isOpen := true, gen := 1, applet := some (1, 7) }, (wSess { isOpen := true, gen := 1, applet := some (1, 7) } (wCmd { wc1 0x812 [0, 0, 3] with session := 0x10003 } { wApl [wApp] with die := { regions := [(0, { phase := .up, tmb := { insts := [{ inst := 7, appletId := 1, version := 0, csBase := regionBase 0, csLen := 64, g1Base := regionBase 0, g1Len := 0, xsBase := regionBase 0, xsLen := 0 }] } })] } })), by decide +kernel⟩,
   ⟨2, 0, 0, hr0, { cid := 1, code := 0x812, session := 0x10003, seq := 1, stage := .running }, (onDev (onHif (fun h => { h with cmds := [{ cid := 1, code := 0x812, session := 0x10003, seq := 1, stage := .running }, { wc1 0x813 (zeros 12 ++ [1]) with cid := 2, session := 0x10003, seq := 2 }] })) (wTaskIn { tReady 3 1 with call := 1 })), by decide +kernel⟩⟩

theorem hyp_LifecycleTransitions :
    (∃ (code cid : Nat) (hr : HostRead) (new : LcState) (s : State), 0x0102 ≤ code ∧ code ≤ 0x0106 ∧ starts code cid hr s = true ∧ zeroFrom cid 64 s = true ∧ (theCmd cid s).inLen = 0 ∧ s.lc.transition = none ∧ lcTarget s.lc.state code = some new ∧ (code ≠ 0x0106 ∨ tokenRetires s.toDev = false) ∧ (code ≠ 0x0104 ∨ mayOperate s = true))
    ∧ (∃ (code cid : Nat) (hr : HostRead) (new : LcState) (s : State), (code = 0x0101 ∨ code = 0x0106) ∧ starts code cid hr s = true ∧ zeroFrom cid 64 s = true ∧ (theCmd cid s).inLen = 4800 ∧ s.lc.transition = none ∧ lcTarget s.lc.state code = some new ∧ (code = 0x0101 ∨ tokenRetires s.toDev = true) ∧ logRoom s = true)
    ∧ (∃ (t : Transition) (s : State), s.lc.transition = some t ∧ t.intent = true ∧ s.cpm.power = .ready ∧ s.cpm.warmPending = none)
    ∧ (∃ (t : Transition) (s : State), s.lc.transition = some t ∧ t.intent = false ∧ s.hif.cmds.any (lcOpen s.toDev t.cid) = true) :=
  ⟨⟨0x0102, 1, hr0, .develop, (wCmd (wc1 0x0102 []) { wUp with lc := { state := .provisioned } }), by decide +kernel⟩,
   ⟨0x0101, 1, hr0, .provisioned, (wCmd { wc1 0x0101 [] with inLen := 4800 } wUp), by decide +kernel⟩,
   ⟨⟨.operational, .quarantine, 1, 0, true⟩, (wCmd { wc1 0x0105 [] with stage := .running } { wUp with lc := { state := .operational, transition := some ⟨.operational, .quarantine, 1, 0, true⟩ }, mem := [(regionBase 0, 1)] }), by decide +kernel⟩,
   ⟨⟨.operational, .quarantine, 9, 0, false⟩, (wCmd { wc1 0x0201 [] with stage := .running } { wUp with lc := { state := .operational, transition := some ⟨.operational, .quarantine, 9, 0, false⟩ } }), by decide +kernel⟩⟩

theorem hyp_CustodianCommandsComplete_1 :
    (∃ (cid : Nat) (hr : HostRead) (s : State), starts 0x0110 cid hr s = true ∧ zeroFrom cid 68 s = true ∧ (theCmd cid s).inLen = 0 ∧ 2 ≤ param cid 64 1 s ∧ param cid 64 1 s ≤ 8 ∧ param cid 64 1 s ≤ param cid 65 1 s ∧ param cid 65 1 s ≤ 16 ∧ (param cid 66 2 s = 0 ∨ (60 ≤ param cid 66 2 s ∧ param cid 66 2 s ≤ 1800)) ∧ s.lc.cards = [] ∧ s.lc.enrol = none)
    ∧ (∃ (cid : Nat) (hr : HostRead) (s : State), starts 0x0111 cid hr s = true ∧ zeroIn cid 65 66 s = true ∧ zeroFrom cid 68 s = true ∧ (theCmd cid s).inLen = 0 ∧ param cid 64 1 s ≤ 15 ∧ s.lc.cards.all (fun p => p.1 != param cid 64 1 s) = true ∧ (param cid 66 2 s = 0 ∨ (60 ≤ param cid 66 2 s ∧ param cid 66 2 s ≤ 1800)) ∧ s.lc.enrol = none)
    ∧ (∃ (e : Enrol) (s : State), s.lc.enrol = some e ∧ (theCmd e.cid s).stage = .running)
    ∧ (∃ (cid : Nat) (hr : HostRead) (s : State), starts 0x0112 cid hr s = true ∧ zeroFrom cid 65 s = true ∧ (theCmd cid s).inLen = 0 ∧ s.lc.cards.any (fun p => p.1 == param cid 64 1 s) = true ∧ s.lc.m < s.lc.cards.length) :=
  ⟨⟨1, hr0, (wCmd (wc1 0x0110 [8, 16, 60, 0]) { wUp with lc := { state := .provisioned } }), by decide +kernel⟩,
   ⟨1, hr0, (wCmd (wc1 0x0111 [15, 0, 8, 7]) { wUp with lc := { state := .provisioned, cards := [(3, [])] } }), by decide +kernel⟩,
   ⟨{ cid := 1, enrol := true, m := 2, n := 3, base := 0, cards := [] }, (wCmd { wc1 0x0110 [] with stage := .running } { wUp with lc := { enrol := some { cid := 1, enrol := true, m := 2, n := 3, base := 0, cards := [] } } }), by decide +kernel⟩,
   ⟨1, hr0, (wCmd (wc1 0x0112 [3]) { wUp with lc := { m := 2, cards := [(3, []), (4, []), (9, [])], quorum := some ⟨0x18, 0, 300⟩ } }), by decide +kernel⟩⟩

theorem hyp_CustodianCommandsComplete_2 :
    (∃ (cid : Nat) (hr : HostRead) (s : State), starts 0x0113 cid hr s = true ∧ zeroFrom cid 65 s = true ∧ (theCmd cid s).inLen = 0 ∧ 2 ≤ param cid 64 1 s ∧ param cid 64 1 s ≤ 8 ∧ param cid 64 1 s ≤ s.lc.cards.length)
    ∧ (∃ (cid : Nat) (hr : HostRead) (s : State), starts 0x0114 cid hr s = true ∧ zeroFrom cid 66 s = true ∧ (theCmd cid s).inLen = 0 ∧ 30 ≤ param cid 64 2 s ∧ param cid 64 2 s ≤ 900 ∧ rwpRefused s.toDev 0 = none ∧ s.nvm.rwpQueue.length < 64)
    ∧ (∃ (cid : Nat) (hr : HostRead) (s : State), starts 0x0115 cid hr s = true ∧ zeroFrom cid 64 s = true ∧ (theCmd cid s).inLen = 0 ∧ s.lc.quorum.isSome = true)
    ∧ (∃ (s : State), s.lc.counted ≠ [] ∧ logRoom s = true) :=
  ⟨⟨1, hr0, (wCmd (wc1 0x0113 [3]) { wUp with lc := { m := 2, cards := [(3, []), (4, []), (9, [])], quorum := some ⟨0x18, 0, 300⟩ } }), by decide +kernel⟩,
   ⟨1, hr0, (wCmd (wc1 0x0114 [30, 0]) wUp), by decide +kernel⟩,
   ⟨1, hr0, (wCmd (wc1 0x0115 []) { wUp with lc := { quorum := some ⟨0x18, 0, 300⟩ } }), by decide +kernel⟩,
   ⟨{ wUp with lc := { counted := [2] } }, by decide +kernel⟩⟩

theorem hyp_CustodianCommandsComplete_3 :
    (∃ (q : Quorum) (s : State), s.lc.quorum = some q ∧ logRoom s = true)
    ∧ (∃ (cid : Nat) (hr : HostRead) (s : State), starts 0x0C01 cid hr s = true ∧ zeroFrom cid 64 s = true ∧ noHandles cid s = true ∧ (theCmd cid s).inPtr = 0 ∧ (theCmd cid s).inLen = 0 ∧ 64 ≤ (theCmd cid s).outCap) :=
  ⟨⟨⟨0x18, 0, 300⟩, { wUp with lc := { quorum := some ⟨0x18, 0, 300⟩ } }, by decide +kernel⟩,
   ⟨1, hr0, (wCmd { wc1 0x0C01 [] with outCap := 64 } wUp), by decide +kernel⟩⟩

theorem hyp_CardsAreActivated_1 :
    (∃ (sl : Slot) (s : State), (slotIn sl s).detLow = false ∧ (slotIn sl s).state = .empty)
    ∧ (∃ (sl : Slot) (c : Nat) (s : State), cardsServed s.toDev = true ∧ (slotIn sl s).state = .debounce ∧ (slotIn sl s).detLow = true ∧ classAbove (slotIn sl s) 0 (fun _ => true) = some c)
    ∧ (∃ (sl : Slot) (s : State), cardsServed s.toDev = true ∧ (slotIn sl s).state = .debounce ∧ (slotIn sl s).detLow = true ∧ classAbove (slotIn sl s) 0 (fun _ => true) = none ∧ logRoom s = true)
    ∧ (∃ (sl : Slot) (c : Nat) (s : State), (slotIn sl s).state = .atr ∧ (slotIn sl s).vccEnN = false ∧ classAbove (slotIn sl s) (slotIn sl s).cls (fun _ => true) = some c) :=
  ⟨⟨0, wUp, by decide +kernel⟩,
   ⟨0, 1, (wSlot { detLow := true, state := .debounce } wProv), by decide +kernel⟩,
   ⟨0, (wSlot { detLow := true, state := .debounce, cfg := 0 } wProv), by decide +kernel⟩,
   ⟨0, 2, (wSlot (wCardUp { state := .atr, cls := 1 }) wUp), by decide +kernel⟩⟩

theorem hyp_CardsAreActivated_2 :
    (∃ (sl : Slot) (b : List Byte) (ok : Bool) (s : State), (slotIn sl s).state = .atr ∧ (slotIn sl s).vccEnN = false ∧ (ok = false ∨ (atrParse b).isNone = true) ∧ (slotIn sl s).badAtrs = 0)
    ∧ (∃ (sl : Slot) (b : List Byte) (i : AtrInfo) (s : State), (slotIn sl s).state = .atr ∧ (atrParse b).map (fun p => (p.info, p.protocolBad, p.classes)) = some (i, false, none) ∧ i.specific = false ∧ i.mbCap = none ∧ (i.ta1 = none ∨ i.ta1 = some 0x11))
    ∧ (∃ (sl : Slot) (s : State), (slotIn sl s).detLow = true ∧ (slotIn sl s).vccEnN = false ∧ (slotIn sl s).state ≠ .stopping)
    ∧ (∃ (sl : Slot) (s : State), (slotIn sl s).state = .stopping) :=
  ⟨⟨0, [1, 2], true, (wSlot (wCardUp { state := .atr, cls := 1 }) wUp), by decide +kernel⟩,
   ⟨0, wAtr, {}, (wSlot (wCardUp { state := .atr, cls := 1 }) wUp), by decide +kernel⟩,
   ⟨0, (wSlot (wCardUp { state := .ready, cls := 1 }) wUp), by decide +kernel⟩,
   ⟨0, (wSlot (wCardUp { state := .stopping, andThen := .again }) wUp), by decide +kernel⟩⟩

theorem hyp_CardsAreActivated_3 :
    (∃ (sl : Slot) (s : State), (slotIn sl s).state = .activating ∧ (slotIn sl s).vccEnN = true ∧ (slotIn sl s).andThen = .againLater)
    ∧ (∃ (sl : Slot) (s : State), (slotIn sl s).vccEnN = false ∧ (slotIn sl s).path ≠ 0 ∧ (slotIn sl s).info.xi ≠ 0 ∧ (slotIn sl s).await = .none ∧ (slotIn sl s).clkOn = true)
    ∧ (∃ (acc : Access) (sl : Slot) (s : State), regGoes acc (182 + sl.val) 8 s = true ∧ (acc.world = .K ∨ acc.world = .C)) :=
  ⟨⟨0, (wSlot { state := .activating, andThen := .againLater } wUp), by decide +kernel⟩,
   ⟨0, (wSlot (wCardUp { state := .ready, path := 3, info := { xi := 1 } }) wUp), by decide +kernel⟩,
   ⟨aK, 0, (wSlot (wCardUp { state := .ready, path := 3 }) wUp), by decide +kernel⟩⟩

theorem hyp_CardLinksRun_1 :
    (∃ (sl : Slot) (s : State), (slotIn sl s).await = .switchReply ∧ canDraw s = true)
    ∧ (∃ (sl : Slot) (b : List Byte) (s : State), (slotIn sl s).await = .switchReply ∧ b ≠ (slotIn sl s).sent ∧ logRoom s = true)
    ∧ (∃ (sl : Slot) (s : State), (slotIn sl s).await = .checkEcho ∧ (slotIn sl s).sent ≠ [])
    ∧ (∃ (sl : Slot) (s : State), ((slotIn sl s).await = .switchReply ∨ (slotIn sl s).await = .checkEcho) ∧ logRoom s = true) :=
  ⟨⟨0, (wSlot (wCardUp { state := .speed, await := .switchReply, sent := wSwitch }) (wServe wUp)), by decide +kernel⟩,
   ⟨0, [1], (wSlot (wCardUp { state := .speed, await := .switchReply, sent := wSwitch }) wUp), by decide +kernel⟩,
   ⟨0, (wSlot (wCardUp { state := .speed, await := .checkEcho, sent := wSwitch }) wUp), by decide +kernel⟩,
   ⟨0, (wSlot (wCardUp { state := .speed, await := .checkEcho, sent := wSwitch }) wUp), by decide +kernel⟩⟩

theorem hyp_CardLinksRun_2 :
    (∃ (sl : Slot) (r : Nat × Nat) (s : State), (slotIn sl s).await = .pps ∧ ratesOf (slotIn sl s) ((slotIn sl s).sent.getD 2 0) = some r)
    ∧ (∃ (sl : Slot) (b : List Byte) (s : State), (slotIn sl s).await = .pps ∧ b ≠ (slotIn sl s).sent ∧ ppsDeclines b = true)
    ∧ (∃ (sl : Slot) (s : State), (slotIn sl s).await = .pps ∧ (slotIn sl s).vccEnN = false ∧ (slotIn sl s).state ≠ .stopping)
    ∧ (∃ (sl : Slot) (s : State), (slotIn sl s).await = .ifs ∧ (slotIn sl s).info.crc = false) :=
  ⟨⟨0, (16, 92), (wSlot (wCardUp { state := .speed, await := .pps, sent := [0xFF, 0x11, 0x13, 0xFD] }) wUp), by decide +kernel⟩,
   ⟨0, [0xFF, 0x01, 0xFE], (wSlot (wCardUp { state := .speed, await := .pps, sent := [0xFF, 0x11, 0x13, 0xFD] }) wUp), by decide +kernel⟩,
   ⟨0, (wSlot (wCardUp { state := .speed, await := .pps, sent := [0xFF, 0x11, 0x13, 0xFD] }) wUp), by decide +kernel⟩,
   ⟨0, (wSlot (wCardUp { state := .auth, path := 3, await := .ifs }) wUp), by decide +kernel⟩⟩

theorem hyp_CardLinksRun_3 :
    (∃ (sl : Slot) (n : Byte) (s : State), t1Waits (slotIn sl s) = true ∧ (slotIn sl s).info.crc = false ∧ 1 ≤ n.toNat ∧ n.toNat ≤ 254)
    ∧ (∃ (sl : Slot) (s : State), isApdu (slotIn sl s).await = true ∧ (slotIn sl s).retrans < 3)
    ∧ (∃ (sl : Slot) (s : State), isApdu (slotIn sl s).await = true ∧ 3 ≤ (slotIn sl s).retrans)
    ∧ (∃ (sl : Slot) (s : State), (slotIn sl s).await = .resynch ∧ 3 ≤ (slotIn sl s).resynchs ∧ logRoom s = true) :=
  ⟨⟨0, 1, (wSlot (wCardUp { state := .auth, path := 3, await := .select }) wUp), by decide +kernel⟩,
   ⟨0, (wSlot (wCardUp { state := .auth, path := 3, await := .select, retrans := 2 }) wUp), by decide +kernel⟩,
   ⟨0, (wSlot (wCardUp { state := .auth, path := 3, await := .select, retrans := 3 }) wUp), by decide +kernel⟩,
   ⟨0, (wSlot (wCardUp { state := .auth, path := 3, await := .resynch, resynchs := 3 }) wUp), by decide +kernel⟩⟩

theorem hyp_CardLinksRun_4 :
    ∃ (sl : Slot) (s : State), t1Waits (slotIn sl s) = true ∧ logRoom s = true :=
  ⟨0, (wSlot (wCardUp { state := .auth, path := 3, await := .select }) wUp), by decide +kernel⟩

theorem hyp_CustodianProtocolRuns_1 :
    (∃ (sl : Slot) (data : List Byte) (i : Nat) (k : Bytes) (s : State), crdAdmitted s.toDev = true ∧ (slotIn sl s).await = .select ∧ s.lc.state ≠ .quarantine ∧ bindIndex s.toDev sl = some i ∧ custodianKey s.toDev = some k)
    ∧ (∃ (sl : Slot) (data : List Byte) (s : State), crdAdmitted s.toDev = true ∧ (slotIn sl s).await = .select ∧ s.lc.enrol = none ∧ canDraw s = true)
    ∧ (∃ (sl : Slot) (data : List Byte) (e : Enrol) (i : Nat) (s : State), crdAdmitted s.toDev = true ∧ (slotIn sl s).await = .bindResp ∧ data.length = 97 ∧ (slotIn sl s).regIndex = some i ∧ s.lc.enrol = some e ∧ boundAs s.toDev data = none ∧ registeredAs s.toDev data = none ∧ canDraw s = true)
    ∧ (∃ (sl : Slot) (data : List Byte) (i : Nat) (s : State), crdAdmitted s.toDev = true ∧ (slotIn sl s).await = .authInit ∧ data.length = 322 ∧ s.lc.enrol = none ∧ registeredAs s.toDev (data.take 97) = some i ∧ (slotIn sl s).cardKey = [] ∧ canDraw s = true ∧ logRoom s = true) :=
  ⟨⟨0, [], 4, (natBE 1 48), (wEnrol (wKeys [wCustKey] (wSlot (wCardUp { state := .auth, path := 3, await := .select }) wProv))), by decide +kernel⟩,
   ⟨0, [], (wServe (wSlot (wCardUp { state := .auth, path := 3, await := .select }) wProv)), by decide +kernel⟩,
   ⟨0, (zeros 97), { cid := 1, enrol := true, m := 2, n := 3, base := 4, cards := [] }, 4, (wServe (wEnrol (wSlot (wCardUp { state := .bind, path := 3, await := .bindResp, regIndex := some 4 }) wProv))), by decide +kernel⟩,
   ⟨0, (zeros 322), 3, (wServe (wSlot (wCardUp { state := .auth, path := 3, await := .authInit }) { wUp with lc := { state := .provisioned, cards := [(3, zeros 97)] } })), by decide +kernel⟩⟩

theorem hyp_CustodianProtocolRuns_2 :
    (∃ (sl : Slot) (i : Nat) (s : State), crdAdmitted s.toDev = true ∧ (slotIn sl s).await = .authFinish ∧ (slotIn sl s).regIndex = some i ∧ s.lc.enrol = none ∧ (registeredAs s.toDev (slotIn sl s).cardKey).isSome = true ∧ s.lc.quorum = none ∧ s.lc.counted.contains i = false ∧ s.lc.counted.length + 1 < s.lc.m ∧ s.crd.cer = none)
    ∧ (∃ (sl : Slot) (i : Nat) (s : State), crdAdmitted s.toDev = true ∧ (slotIn sl s).await = .authFinish ∧ (slotIn sl s).regIndex = some i ∧ s.lc.enrol = none ∧ (registeredAs s.toDev (slotIn sl s).cardKey).isSome = true ∧ s.lc.quorum = none ∧ s.lc.counted.contains i = false ∧ s.lc.m ≤ s.lc.counted.length + 1 ∧ s.crd.cer = none)
    ∧ (∃ (sl : Slot) (data comp : List Byte) (c : Ceremony) (s : State), crdAdmitted s.toDev = true ∧ (slotIn sl s).await = .getComponent ∧ turnOf s.toDev sl = some c ∧ c.kind = 1 ∧ c.taken + 1 < c.k ∧ openProtected (slotIn sl s) .getComponent data = some (comp ++ keyKcv c.alg comp) ∧ comp.length = c.lenBytes ∧ (keyKcv c.alg comp).length = 3)
    ∧ (∃ (sl : Slot) (data m : List Byte) (c : Ceremony) (s : State), crdAdmitted s.toDev = true ∧ (slotIn sl s).await = .putComponent ∧ turnOf s.toDev sl = some c ∧ c.taken + 1 < c.k ∧ openProtected (slotIn sl s) .putComponent data = some m) :=
  ⟨⟨0, 3, (wSlot (wCardUp { state := .auth, path := 3, await := .authFinish, regIndex := some 3, ksm := zeros 32, cardKey := zeros 97 }) { wUp with lc := { cards := [(3, zeros 97)], state := .provisioned, m := 2 } }), by decide +kernel⟩,
   ⟨0, 3, (wSlot (wCardUp { state := .auth, path := 3, await := .authFinish, regIndex := some 3, ksm := zeros 32, cardKey := zeros 97 }) { wUp with lc := { cards := [(3, zeros 97)], state := .provisioned, m := 2, counted := [5] } }), by decide +kernel⟩,
   ⟨0, (let e := gcmEnc (zeros 32) (gcmIv 0x02 1) [0x84, 0x20, 0, 0] (zeros 32 ++ keyKcv 3 (zeros 32)); e.1 ++ e.2), (zeros 32), (wCeremony 1 [0]), (wCer (wCeremony 1 [0]) (wSlot (wCardUp { state := .turn, path := 3, await := .getComponent, regIndex := some 3, ksm := zeros 32, ctrIn := 1 }) { wUp with lc := { state := .provisioned, m := 2 } })), by decide +kernel⟩,
   ⟨0, (gcmEnc (zeros 32) (gcmIv 0x02 1) [0x84, 0x22, 0, 0] []).2, [], (wCeremony 2 [0]), (wCer (wCeremony 2 [0]) (wSlot (wCardUp { state := .turn, path := 3, await := .putComponent, regIndex := some 3, ksm := zeros 32, ctrIn := 1 }) { wUp with lc := { state := .provisioned, m := 2 } })), by decide +kernel⟩⟩

theorem hyp_CustodianProtocolRuns_3 :
    ∃ (sl : Slot) (data : List Byte) (sw : BitVec 16) (s : State), crdAdmitted s.toDev = true ∧ (slotIn sl s).await = .cardDone ∧ sw ≠ 0x9000 ∧ s.crd.cer = none :=
  ⟨0, [], 0x6A82, (wSlot (wCardUp { state := .done, path := 3, await := .cardDone, regIndex := some 3, ksm := zeros 32, ctrIn := 1 }) { wUp with lc := { state := .provisioned, m := 2 } }), by decide +kernel⟩

theorem hyp_CeremonyCommandsComplete :
    (∃ (cid : Nat) (hr : HostRead) (s : State), starts 0x0180 cid hr s = true ∧ zeroFrom cid 95 s = true ∧ noHandles cid s = true ∧ 2 ≤ param cid 73 1 s ∧ param cid 73 1 s ≤ 8 ∧ (param cid 74 2 s = 0 ∨ (60 ≤ param cid 74 2 s ∧ param cid 74 2 s ≤ 1800)) ∧ isSym (param cid 64 1 s) = true ∧ (param cid 65 1 s = 1 ∨ param cid 65 1 s = 2) ∧ param cid 66 1 s ≤ 2 ∧ param cid 67 1 s < 2 ∧ (BitVec.ofNat 16 (param cid 68 2 s)).getLsbD uCeremony = true ∧ usageOk (param cid 64 1 s) .C (BitVec.ofNat 16 (param cid 68 2 s)) = true ∧ param cid 70 2 s < 32 ∧ 32 ≤ (theCmd cid s).outCap ∧ s.crd.cer = none)
    ∧ (∃ (cid : Nat) (hr : HostRead) (k : Key) (s : State), starts 0x0181 cid hr s = true ∧ zeroIn cid 64 73 s = true ∧ zeroFrom cid 92 s = true ∧ (theCmd cid s).hb = 0 ∧ 2 ≤ param cid 73 1 s ∧ param cid 73 1 s ≤ 8 ∧ (param cid 74 2 s = 0 ∨ (60 ≤ param cid 74 2 s ∧ param cid 74 2 s ≤ 1800)) ∧ s.crd.cer = none ∧ names cid (handA cid s) k .wrap (some uCeremony) s = true ∧ isSym k.alg = true ∧ k.export_ ≠ 0 ∧ k.mat.length ≤ 512 ∧ canDraw s = true)
    ∧ (∃ (cid : Nat) (hr : HostRead) (c : Ceremony) (s : State), starts 0x0182 cid hr s = true ∧ zeroFrom cid 64 s = true ∧ noHandles cid s = true ∧ s.crd.cer = some c ∧ c.cid ≠ cid ∧ logRoom s = true)
    ∧ (∃ (c : Ceremony) (s : State), s.crd.cer = some c ∧ (theCmd c.cid s).stage = .running ∧ logRoom s = true) :=
  ⟨⟨1, hr0, (wCmd { wc1 0x180 ([3, 1, 2, 0] ++ natLE (2 ^ uCeremony) 2 ++ [31, 0, 0, 2, 60, 0]) with outCap := 32 } wUp), by decide +kernel⟩,
   ⟨1, hr0, { wKey with alg := 3, mat := zeros 32, lenBytes := 32 }, (wServe (wKeys [{ wKey with alg := 3, mat := zeros 32, lenBytes := 32 }] (wCmd { wc1 0x181 (zeros 9 ++ [2, 60, 0]) with ha := wHand wKey } wUp))), by decide +kernel⟩,
   ⟨2, hr0, (wCeremony 1 []), (wCer (wCeremony 1 []) (wCmd { wc1 0x182 [] with cid := 2 } wUp)), by decide +kernel⟩,
   ⟨(wCeremony 1 []), (wCer (wCeremony 1 []) (wCmd { wc1 0x180 [] with stage := .running } wUp)), by decide +kernel⟩⟩

theorem hyp_KeyCommandsComplete_1 :
    (∃ (cid : Nat) (hr : HostRead) (s : State), starts 0x0201 cid hr s = true ∧ (theCmd cid s).scratch = [] ∧ zeroIn cid 73 80 s = true ∧ zeroFrom cid 80 s = true ∧ noHandles cid s = true ∧ isSym (param cid 64 1 s) = true ∧ attrsGood cid (param cid 64 1 s) s = true ∧ 32 ≤ (theCmd cid s).outCap ∧ roomFor cid (param cid 65 1 s) ((algLen (param cid 64 1 s)).getD 0) (param cid 67 1 s == 1) s = true ∧ canDraw s = true)
    ∧ (∃ (cid : Nat) (hr : HostRead) (k : Key) (h : KbHeader) (key : Bytes) (a x : Nat) (us : BitVec 16) (s : State), starts 0x0202 cid hr s = true ∧ param cid 64 1 s = 0 ∧ param cid 66 1 s = 0 ∧ zeroIn cid 68 70 s = true ∧ zeroFrom cid 73 s = true ∧ param cid 67 1 s < 2 ∧ param cid 70 2 s < 32 ∧ (theCmd cid s).hb = 0 ∧ param cid 65 1 s ≤ 2 ∧ (param cid 65 1 s ≠ 2 ∨ isHost (theCmd cid s) = true) ∧ 32 ≤ (theCmd cid s).outCap ∧ names cid (handA cid s) k .wrap (some uKekUnwrap) s = true ∧ isSym k.alg = true ∧ kbParse (inputOf cid hr s) = some h ∧ ((h.version = chr 'D' ∧ isAes k.alg = true) ∨ (h.version = chr 'B' ∧ isTdes k.alg = true)) ∧ kbUnwrap k.mat h (inputOf cid hr s) = some key ∧ kbUsage h.usage h.mode = some us ∧ kbExport h.exp_ = some x ∧ kbAlgCode h.alg key.length = some a ∧ usageOk a (theCmd cid s).owner.world us = true ∧ roomFor cid (param cid 65 1 s) key.length (param cid 67 1 s == 1) s = true)
    ∧ (∃ (cid : Nat) (hr : HostRead) (k : Key) (m : Bytes) (s : State), starts 0x0203 cid hr s = true ∧ zeroFrom cid 74 s = true ∧ (theCmd cid s).hb = 0 ∧ attrsGood cid (param cid 64 1 s) s = true ∧ 32 ≤ (theCmd cid s).outCap ∧ names cid (handA cid s) k .wrap (some uKekUnwrap) s = true ∧ isAes k.alg = true ∧ ((param cid 73 1 s = 2 ∧ kwUnwrap k.mat (inputOf cid hr s) = some m) ∨ (param cid 73 1 s = 3 ∧ kwpUnwrap k.mat (inputOf cid hr s) = some m)) ∧ param cid 68 2 s &&& 0x6000 = 0 ∧ algLenOk (param cid 64 1 s) m.length = true ∧ roomFor cid (param cid 65 1 s) m.length (param cid 67 1 s == 1) s = true)
    ∧ (∃ (cid : Nat) (hr : HostRead) (k kek : Key) (s : State), starts 0x0204 cid hr s = true ∧ zeroIn cid 64 73 s = true ∧ zeroFrom cid 74 s = true ∧ param cid 73 1 s = 2 ∧ names cid (handA cid s) k .wrap none s = true ∧ names cid (handB cid s) kek .wrap (some uKekWrap) (onDev (keyTouch k.entry) s) = true ∧ isAes kek.alg = true ∧ k.export_ = 2 ∧ algStrength k.alg k.lenBytes ≤ algStrength kek.alg kek.lenBytes ∧ k.lenBytes % 8 = 0 ∧ 16 ≤ k.lenBytes ∧ (kwWrap kek.mat k.mat).length ≤ (theCmd cid s).outCap) :=
  ⟨⟨1, hr0, (wServe (wCmd { wc1 0x201 ([1, 1, 2, 1, 0, 0, 31, 0]) with outCap := 32 } wUp)), by decide +kernel⟩,
   ⟨1, (hrD wBlock), wKey, wBlockHead, (natBE 5 16), 1, 1, 4, (wKS [wKey] (wK1 0x202 [0, 1, 0, 0, 0, 0, 31, 0] wBlock.length)), by decide +kernel⟩,
   ⟨1, (hrD (kwWrap wKey.mat (natBE 5 16))), wKey, (natBE 5 16), (wKS [wKey] (wK1 0x203 [1, 1, 2, 0, 1, 0, 31, 0, 0, 2] 24)), by decide +kernel⟩,
   ⟨1, hr0, wKey, wKey2, (wKS [wKey, wKey2] { wK1 0x204 [0, 0, 0, 0, 0, 0, 0, 0, 0, 2] 0 with hb := wHand wKey2 }), by decide +kernel⟩⟩

theorem hyp_KeyCommandsComplete_2 :
    (∃ (cid : Nat) (hr : HostRead) (k : Key) (s : State), starts 0x0205 cid hr s = true ∧ zeroFrom cid 64 s = true ∧ (theCmd cid s).hb = 0 ∧ keyLookup s.toDev (theCmd cid s).owner (theCmd cid s).session (handA cid s) = some k ∧ (k.life = 2 → keepOnly s.toDev = false) ∧ (theCmd cid s).waitOn = [] ∧ s.ks.asks = [] ∧ spillOpen s.toDev k = false ∧ dukptOpen s.toDev k = false)
    ∧ (∃ (cid : Nat) (hr : HostRead) (k : Key) (s : State), starts 0x0206 cid hr s = true ∧ zeroFrom cid 64 s = true ∧ (theCmd cid s).hb = 0 ∧ 32 ≤ (theCmd cid s).outCap ∧ keyLookup s.toDev (theCmd cid s).owner (theCmd cid s).session (handA cid s) = some k)
    ∧ (∃ (cid : Nat) (hr : HostRead) (k : Key) (s : State), starts 0x0207 cid hr s = true ∧ zeroIn cid 64 66 s = true ∧ zeroFrom cid 72 s = true ∧ (theCmd cid s).hb = 0 ∧ param cid 67 1 s < 2 ∧ param cid 70 2 s < 32 ∧ keyLookup s.toDev (theCmd cid s).owner (theCmd cid s).session (handA cid s) = some k ∧ keyIn k.entry s = some k ∧ k.lost = false ∧ k.life ≠ 2 ∧ subMask (BitVec.ofNat 16 (param cid 68 2 s)) k.usage = true ∧ subMask (BitVec.ofNat 16 (param cid 70 2 s)) k.dest = true ∧ param cid 66 1 s ≤ k.export_ ∧ (k.pinned = true ∨ param cid 67 1 s = 0 ∨ slotsPinned s.toDev + keySpan k ≤ 49152))
    ∧ (∃ (cid : Nat) (hr : HostRead) (k : Key) (s : State), starts 0x0208 cid hr s = true ∧ zeroIn cid 64 70 s = true ∧ zeroFrom cid 73 s = true ∧ (theCmd cid s).hb = 0 ∧ param cid 70 2 s < 32 ∧ isHost (theCmd cid s) = true ∧ 32 ≤ (theCmd cid s).outCap ∧ keyLookup s.toDev (theCmd cid s).owner (theCmd cid s).session (handA cid s) = some k ∧ k.lost = false ∧ k.resident = true ∧ roomFor cid 2 k.lenBytes k.pinned s = true ∧ spanOf k.lenBytes = keySpan k) :=
  ⟨⟨1, hr0, wKey, (wKS [wKey, wKey2] (wK1 0x205 [] 0)), by decide +kernel⟩,
   ⟨1, hr0, wKey, (wKS [wKey, wKey2] (wK1 0x206 [] 0)), by decide +kernel⟩,
   ⟨1, hr0, wKey, (wKS [wKey, wKey2] (wK1 0x207 [0, 0, 1, 1, 3, 0, 1, 0] 0)), by decide +kernel⟩,
   ⟨1, hr0, wKey, (wStore (wKS [wKey, wKey2] (wK1 0x208 [0, 0, 0, 0, 0, 0, 1, 0, 3] 0))), by decide +kernel⟩⟩

theorem hyp_KeyCommandsComplete_3 :
    (∃ (cid : Nat) (hr : HostRead) (s : State), starts 0x0130 cid hr s = true ∧ zeroFrom cid 71 s = true ∧ param cid 70 1 s ≤ 63 ∧ param cid 64 4 s ≤ 65536 ∧ param cid 68 2 s ≤ 4096 ∧ keepOnly s.toDev = false)
    ∧ (∃ (q : KeyReq) (k : Key) (s : State), keyLookup s.toDev ⟨q.world, q.tenant⟩ q.session q.handle.toNat = some k ∧ k.lost = false ∧ k.resident = true ∧ k.dest.getLsbD (destBit q.kind) = true ∧ (q.use.all (fun b => k.usage.getLsbD b)) = true ∧ (q.suits.all (fun l => l.contains (k.alg, k.lenBytes))) = true)
    ∧ (∃ (q : KeyReq) (s : State), keyLookup s.toDev ⟨q.world, q.tenant⟩ q.session q.handle.toNat = none ∧ logRoom s = true)
    ∧ (∃ (cid : Nat) (s : State), (theCmd cid s).waitOn.contains waitP63 = true ∧ isDone (theCmd cid s) = false) :=
  ⟨⟨1, hr0, (wStore (wCmd (wc1 0x130 [100, 0, 0, 0, 7, 0, 5]) wUp)), by decide +kernel⟩,
   ⟨⟨.bolt, wHand wKey, .C, 0, 0, some 2, 0, none⟩, wKey, (wKS [wKey] (wK1 0x206 [] 0)), by decide +kernel⟩,
   ⟨⟨.bolt, wHand wKey2, .C, 0, 0, some 2, 0, none⟩, (wKS [wKey] (wK1 0x206 [] 0)), by decide +kernel⟩,
   ⟨1, (wKS [] { wK1 0x206 [] 0 with waitOn := [waitP63] }), by decide +kernel⟩⟩

theorem hyp_KeyCommandsComplete_4 :
    (∃ (k : Key) (b m : Bytes) (s : State), keyIn k.entry s = some k ∧ k.spilled = true ∧ spillMaterial s.toDev k b = some m ∧ s.ks.asks = [] ∧ keySpan k ≤ slotsFree s.toDev)
    ∧ (∃ (k : Key) (s : State), keyIn k.entry s = some k ∧ k.spilled = true ∧ s.ks.asks = [] ∧ logRoom s = true)
    ∧ (∃ (k : Key) (s : State), keyIn k.entry s = some k ∧ k.life = 2 ∧ k.resident = false ∧ k.lost = false ∧ s.bat.keyErased = false ∧ recLost s.toDev (keyRecId k) = false ∧ s.ks.asks = [] ∧ keySpan k ≤ slotsFree s.toDev)
    ∧ (∃ (k : Key) (s : State), keyIn k.entry s = some k ∧ k.life = 2 ∧ k.resident = false ∧ k.lost = false ∧ s.ks.asks = [] ∧ logRoom s = true) :=
  ⟨⟨{ wKey with resident := false, spilled := true, mat := [] }, (spillRecord wKey (kwpWrap (zeros 32) (natBE 5 16))), (natBE 5 16), (onDev (onKs (fun x => { x with spillKey := zeros 32 })) (wKS [{ wKey with resident := false, spilled := true, mat := [] }] (wK1 0x206 [] 0))), by decide +kernel⟩,
   ⟨{ wKey with resident := false, spilled := true, mat := [] }, (wKS [{ wKey with resident := false, spilled := true, mat := [] }] (wK1 0x206 [] 0)), by decide +kernel⟩,
   ⟨{ wKey with resident := false, life := 2, mat := [], stored := natBE 5 16, persistSlot := some 0 }, (wStore (wKS [{ wKey with resident := false, life := 2, mat := [], stored := natBE 5 16, persistSlot := some 0 }] (wK1 0x206 [] 0))), by decide +kernel⟩,
   ⟨{ wKey with resident := false, life := 2, mat := [], stored := natBE 5 16, persistSlot := some 0 }, (wStore (wKS [{ wKey with resident := false, life := 2, mat := [], stored := natBE 5 16, persistSlot := some 0 }] (wK1 0x206 [] 0))), by decide +kernel⟩⟩

theorem hyp_PinCommandsComplete_1 :
    (∃ (cid : Nat) (hr : HostRead) (r : Region) (lvl : Nat) (ka kb : Key) (pan pin : List Nat) (rnd : Bytes) (s : State), starts 0x0301 cid hr s = true ∧ headsBolt cid r lvl s = true ∧ param cid 65 1 s ≤ 3 ∧ zeroIn cid 67 68 s = true ∧ zeroIn cid 78 80 s = true ∧ zeroFrom cid 96 s = true ∧ panIs cid (usesPan (param cid 64 1 s) || usesPan (param cid 65 1 s)) pan s = true ∧ blockGood cid (param cid 64 1 s) 80 s = true ∧ fmtBlock (param cid 65 1 s) ≤ (theCmd cid s).outCap ∧ names cid (handA cid s) ka .bolt (some uPinDec) s = true ∧ fmtAlgOk (param cid 64 1 s) ka.alg = true ∧ namesNext cid ka kb .bolt (some uPinEnc) s = true ∧ fmtAlgOk (param cid 65 1 s) kb.alg = true ∧ policyAdmits r (param cid 64 1 s) (param cid 65 1 s) ka.alg kb.alg s = true ∧ pinDecipher (param cid 64 1 s) ka.mat pan (blockAt cid 80 s) = some pin ∧ fillOf r (param cid 65 1 s) s = some rnd)
    ∧ (∃ (cid : Nat) (hr : HostRead) (r : Region) (lvl : Nat) (ka kb : Key) (pan p1 p2 : List Nat) (s : State), starts 0x0302 cid hr s = true ∧ headsBolt cid r lvl s = true ∧ zeroIn cid 67 68 s = true ∧ zeroIn cid 78 80 s = true ∧ zeroFrom cid 112 s = true ∧ panIs cid (usesPan (param cid 64 1 s) || usesPan (param cid 65 1 s)) pan s = true ∧ blockGood cid (param cid 64 1 s) 80 s = true ∧ blockGood cid (param cid 65 1 s) 96 s = true ∧ names cid (handA cid s) ka .bolt (some uPinDec) s = true ∧ fmtAlgOk (param cid 64 1 s) ka.alg = true ∧ namesNext cid ka kb .bolt (some uPinVerify) s = true ∧ fmtAlgOk (param cid 65 1 s) kb.alg = true ∧ pinDecipher (param cid 64 1 s) ka.mat pan (blockAt cid 80 s) = some p1 ∧ pinDecipher (param cid 65 1 s) kb.mat pan (blockAt cid 96 s) = some p2)
    ∧ (∃ (cid : Nat) (hr : HostRead) (r : Region) (lvl : Nat) (ka kb : Key) (pan off : List Nat) (rnd : Bytes) (s : State), starts 0x0303 cid hr s = true ∧ headsBolt cid r lvl s = true ∧ param cid 65 1 s ≤ 3 ∧ zeroIn cid 64 65 s = true ∧ zeroIn cid 78 96 s = true ∧ zeroFrom cid 112 s = true ∧ panIs cid true pan s = true ∧ offsetIs cid off s = true ∧ fmtBlock (param cid 65 1 s) ≤ (theCmd cid s).outCap ∧ names cid (handA cid s) ka .bolt (some uPinVerify) s = true ∧ isAes ka.alg = true ∧ namesNext cid ka kb .bolt (some uPinEnc) s = true ∧ fmtAlgOk (param cid 65 1 s) kb.alg = true ∧ fillOf r (param cid 65 1 s) s = some rnd)
    ∧ (∃ (cid : Nat) (hr : HostRead) (r : Region) (lvl : Nat) (ka kb : Key) (pan off pin : List Nat) (s : State), starts 0x0304 cid hr s = true ∧ headsBolt cid r lvl s = true ∧ zeroIn cid 65 66 s = true ∧ zeroIn cid 78 80 s = true ∧ zeroFrom cid 112 s = true ∧ panIs cid true pan s = true ∧ offsetIs cid off s = true ∧ blockGood cid (param cid 64 1 s) 80 s = true ∧ names cid (handA cid s) ka .bolt (some uPinDec) s = true ∧ fmtAlgOk (param cid 64 1 s) ka.alg = true ∧ namesNext cid ka kb .bolt (some uPinVerify) s = true ∧ isAes kb.alg = true ∧ pinDecipher (param cid 64 1 s) ka.mat pan (blockAt cid 80 s) = some pin) :=
  ⟨⟨1, hr0, 0, 1, wKeyT, wKeyT2, wPanD, wPin, [], (wAt (.boltQ 0 1) [wKeyT, wKeyT2] (wDig 0x301 wKeyT wKeyT2 [(66, [12]), (68, wPan), (80, wPinBlk)] 0)), by decide +kernel⟩,
   ⟨1, hr0, 0, 1, wKeyT, wKeyT2, wPanD, wPin, wPin, (wAt (.boltQ 0 1) [wKeyT, wKeyT2] (wDig 0x302 wKeyT wKeyT2 [(66, [12]), (68, wPan), (80, wPinBlk), (96, wPinBlk)] 0)), by decide +kernel⟩,
   ⟨1, hr0, 0, 1, wKey, wKeyT2, wPanD, [0,0,0,0], [], (wAt (.boltQ 0 1) [wKey, wKeyT2] (wDig 0x303 wKey wKeyT2 [(66, [12]), (67, [4]), (68, wPan), (96, [0, 0, 0xFF, 0xFF, 0xFF, 0xFF])] 0)), by decide +kernel⟩,
   ⟨1, hr0, 0, 1, wKeyT, wKey2, wPanD, [0,0,0,0], wPin, (wAt (.boltQ 0 1) [wKeyT, wKey2] (wDig 0x304 wKeyT wKey2 [(66, [12]), (67, [4]), (68, wPan), (80, wPinBlk), (96, [0, 0, 0xFF, 0xFF, 0xFF, 0xFF])] 0)), by decide +kernel⟩⟩

theorem hyp_PinCommandsComplete_2 :
    ∃ (cid : Nat) (hr : HostRead) (r : Region) (lvl kind wk ctr : Nat) (ikid : Bytes) (ka kb : Key) (pan pin : List Nat) (rnd : Bytes) (s : State), starts 0x0310 cid hr s = true ∧ headsBolt cid r lvl s = true ∧ param cid 65 1 s ≤ 3 ∧ zeroIn cid 67 68 s = true ∧ zeroIn cid 78 80 s = true ∧ zeroIn cid 96 112 s = true ∧ panIs cid (usesPan (param cid 64 1 s) || usesPan (param cid 65 1 s)) pan s = true ∧ blockGood cid (param cid 64 1 s) 80 s = true ∧ fmtBlock (param cid 65 1 s) ≤ (theCmd cid s).outCap ∧ dukptIs cid kind wk ikid ctr s = true ∧ (regionOf s.toDev r).bolt.dk = [] ∧ names cid (handA cid s) ka .bolt (some uDerive) s = true ∧ baseGood kind wk ka = true ∧ fmtAlgOk (param cid 64 1 s) (wkAlg kind wk) = true ∧ namesNext cid ka kb .bolt (some uPinEnc) s = true ∧ fmtAlgOk (param cid 65 1 s) kb.alg = true ∧ policyAdmits r (param cid 64 1 s) (param cid 65 1 s) (wkAlg kind wk) kb.alg s = true ∧ pinDecipher (param cid 64 1 s) (workKey kind wk .pin ka.mat ikid ctr) pan (blockAt cid 80 s) = some pin ∧ fillOf r (param cid 65 1 s) s = some rnd :=
  ⟨1, hr0, 0, 1, 1, 0, 1, [1,2,3,4,5,6,7,0,0,0], wKeyT, wKeyT2, wPanD, wPin, [], (wAt (.boltQ 0 1) [wKeyT, wKeyT2] (wDig 0x310 wKeyT wKeyT2 [(66, [12]), (68, wPan), (80, fit (pinEncipher 0 (workKey 1 0 .pin wKeyT.mat [1,2,3,4,5,6,7,0,0,0] 1) wPanD wPin []) 16), (112, [1,2,3,4,5,6,7,0,0,1]), (125, [1])] 0)), by decide +kernel⟩

theorem hyp_BoltCommandsComplete_1 :
    (∃ (cid : Nat) (hr : HostRead) (r : Region) (lvl : Nat) (k : Key) (s : State), headsBolt cid r lvl s = true ∧ param cid 66 1 s = 0 ∧ zeroFrom cid 112 s = true)
    ∧ (∃ (cid : Nat) (hr : HostRead) (r : Region) (lvl kind wk ctr : Nat) (ikid : Bytes) (k : Key) (s : State), headsBolt cid r lvl s = true ∧ param cid 66 1 s ≤ 1 ∧ dukptIs cid kind wk ikid ctr s = true ∧ (regionOf s.toDev r).bolt.dk = [] ∧ names cid (handA cid s) k .bolt (some uDerive) s = true ∧ baseGood kind wk k = true)
    ∧ (∃ (cid : Nat) (hr : HostRead) (r : Region) (lvl kind wk ctr : Nat) (ikid : Bytes) (k : Key) (e : DkEntry) (s : State), headsBolt cid r lvl s = true ∧ param cid 66 1 s ≤ 1 ∧ dukptIs cid kind wk ikid ctr s = true ∧ names cid (handA cid s) k .bolt (some uDerive) s = true ∧ baseGood kind wk k = true ∧ dkFind (regionOf s.toDev r).bolt k kind ikid (ctr - ctr % 256) = some e ∧ starts 0x0311 cid hr s = true ∧ macGood cid false (wkAlg kind wk) s = true)
    ∧ (∃ (cid : Nat) (hr : HostRead) (r : Region) (lvl method : Nat) (k : Key) (pan : List Nat) (sk : Bytes) (s : State), starts 0x0330 cid hr s = true ∧ headsBolt cid r lvl s = true ∧ param cid 64 1 s = 1 + 2 * method ∧ (method = 1 ∨ method = 2) ∧ zeroIn cid 77 78 s = true ∧ zeroIn cid 95 96 s = true ∧ zeroFrom cid 104 s = true ∧ handB cid s = 0 ∧ 1 ≤ (theCmd cid s).inLen ∧ (theCmd cid s).inLen ≤ 256 ∧ panOf (param cid 65 1 s) (parB (theCmd cid s) 66 10) = some pan ∧ (nibbles (parB (theCmd cid s) 76 1)).all (· ≤ 9) = true ∧ param cid 94 1 s ≤ 8 ∧ zeroIn cid (96 + param cid 94 1 s) 104 s = true ∧ 8 ≤ (theCmd cid s).outCap ∧ names cid (handA cid s) k .bolt (some uEmvMk) s = true ∧ (isAes k.alg = true ∨ k.alg = 8) ∧ sk = emvSession k.alg (emvMaster k.alg k.mat pan (nibbles (parB (theCmd cid s) 76 1))) (parB (theCmd cid s) 78 2)) :=
  ⟨⟨1, (hrD [1,2,3]), 0, 1, wKey, (wAt (.boltQ 0 1) [wKey] { wDig 0x320 wKey wKey [(64, [4, 8])] 3 with hb := 0 }), by decide +kernel⟩,
   ⟨1, (hrD [1,2,3]), 0, 1, 0, 1, 5, (zeros 8), wKey, (wAt (.boltQ 0 1) [wKey] { wDig 0x311 wKey wKey [(64, [4, 8, 1]), (123, [5]), (124, [1])] 3 with hb := 0 }), by decide +kernel⟩,
   ⟨1, (hrD [1,2,3]), 0, 1, 0, 1, 5, (zeros 8), wKey, wEntry, (onDev (onBolt 0 (fun b => { b with dk := [wEntry] })) (wAt (.boltQ 0 1) [wKey] { wDig 0x311 wKey wKey [(64, [4, 8, 1]), (123, [5]), (124, [1])] 3 with hb := 0 })), by decide +kernel⟩,
   ⟨1, (hrD [1,2,3]), 0, 1, 1, wKeyT, wPanD, (emvSession 8 (emvMaster 8 wKeyT.mat wPanD [0, 0]) [0, 1]), (wAt (.boltQ 0 1) [wKeyT] { wDig 0x330 wKeyT wKey [(64, [3, 12]), (66, wPan), (78, [0, 1]), (80, emvMac 8 (emvSession 8 (emvMaster 8 wKeyT.mat wPanD [0, 0]) [0, 1]) [1,2,3])] 3 with hb := 0 }), by decide +kernel⟩⟩

theorem hyp_BoltCommandsComplete_2 :
    (∃ (cid : Nat) (hr : HostRead) (r : Region) (lvl a : Nat) (ka kb : Key) (h : KbHeader) (key pad : Bytes) (s : State), starts 0x0340 cid hr s = true ∧ headsBolt cid r lvl s = true ∧ zeroFrom cid 64 s = true ∧ 16 ≤ (theCmd cid s).inLen ∧ (theCmd cid s).inLen ≤ 1024 ∧ names cid (handA cid s) ka .bolt (some uKekUnwrap) s = true ∧ isSym ka.alg = true ∧ namesNext cid ka kb .bolt (some uKekWrap) s = true ∧ isSym kb.alg = true ∧ opensTo cid hr ka h key a s = true ∧ h.exp_ ≠ chr 'N' ∧ algStrength a key.length ≤ algStrength kb.alg kb.lenBytes ∧ kbLen h key.length ≤ (theCmd cid s).outCap ∧ isAes kb.alg = isAes ka.alg ∧ (draw r (kbPadLen h.version key.length) s.toDev).1 = some pad)
    ∧ (∃ (cid : Nat) (hr : HostRead) (r : Region) (lvl : Nat) (k : Key) (s : State), starts 0x0341 cid hr s = true ∧ headsBolt cid r lvl s = true ∧ 2 ≤ param cid 65 1 s ∧ param cid 65 1 s ≤ 8 ∧ param cid 66 1 s ≤ 1 ∧ zeroFrom cid 67 s = true ∧ handB cid s = 0 ∧ param cid 65 1 s ≤ (theCmd cid s).outCap ∧ isSym k.alg = true ∧ param cid 64 1 s = 0 ∧ names cid (handA cid s) k .bolt none s = true)
    ∧ (∃ (cid : Nat) (hr : HostRead) (r : Region) (lvl a : Nat) (k : Key) (h : KbHeader) (key : Bytes) (s : State), starts 0x0341 cid hr s = true ∧ headsBolt cid r lvl s = true ∧ 2 ≤ param cid 65 1 s ∧ param cid 65 1 s ≤ 8 ∧ param cid 66 1 s ≤ 1 ∧ zeroFrom cid 67 s = true ∧ handB cid s = 0 ∧ param cid 65 1 s ≤ (theCmd cid s).outCap ∧ isSym k.alg = true ∧ param cid 64 1 s = 1 ∧ 16 ≤ (theCmd cid s).inLen ∧ (theCmd cid s).inLen ≤ 256 ∧ names cid (handA cid s) k .bolt (some uKekUnwrap) s = true ∧ opensTo cid hr k h key a s = true ∧ isSym a = true)
    ∧ (∃ (r : Region) (l n : Nat) (c : Cmd) (res : Res) (s : State), boltRunning s.toDev r = some l ∧ boltContext s.toDev r l = some (c, n) ∧ c.ready = some res ∧ cmdOf? s.toDev c.cid = some c ∧ c.stage = .running ∧ c.code / 256 = 3 ∧ s.pol.pend = []) :=
  ⟨⟨1, (hrD wBlock), 0, 1, 1, wKey, wKey2, wBlockHead, (natBE 5 16), ((draw 0 14 (wServe (wDie wUp)).toDev).1.getD []), (wAt (.boltQ 0 1) [wKey, wKey2] (wDig 0x340 wKey wKey2 [] wBlock.length)), by decide +kernel⟩,
   ⟨1, hr0, 0, 1, wKey, (wAt (.boltQ 0 1) [wKey] { wDig 0x341 wKey wKey [(64, [0, 3, 0])] 0 with hb := 0 }), by decide +kernel⟩,
   ⟨1, (hrD wBlock), 0, 1, 1, wKey, wBlockHead, (natBE 5 16), (wAt (.boltQ 0 1) [wKey] { wDig 0x341 wKey wKey [(64, [1, 3, 1])] wBlock.length with hb := 0 }), by decide +kernel⟩,
   ⟨0, 1, 1, { wDig 0x320 wKey wKey [] 0 with ready := some resOk, loc := .boltCtx 0 1 1, stage := .running }, resOk, (wAt (.boltCtx 0 1 1) [] { wDig 0x320 wKey wKey [] 0 with ready := some resOk, stage := .running }), by decide +kernel⟩⟩

theorem hyp_BoltCommandsComplete_3 :
    (∃ (cid : Nat) (r : Region) (lvl : Nat) (s : State), (theCmd cid s).loc = .boltQ r lvl ∧ (theCmd cid s).stage = .waiting ∧ lvl < 3 ∧ (cmdOf? s.toDev cid).isSome = true)
    ∧ (∃ (cid : Nat) (hr : HostRead) (s : State), starts 0x0140 cid hr s = true ∧ zeroFrom cid 64 s = true ∧ (theCmd cid s).inLen = 256 ∧ ((List.range 256).all (fun i => decide ((inputOf cid hr s).getD i 0 < 4) && (polValid i || (inputOf cid hr s).getD i 0 == 0))) = true ∧ keepOnly s.toDev = false ∧ ((List.finRange 4).all (fun r => (List.range 4).all (fun l => (boltContext s.toDev r l).isNone))) = true)
    ∧ (∃ (acc : Access) (r : Region) (s : State), regGoes acc (1 + 17 * r.val) 8 s = true ∧ (acc.world = .K ∨ acc.world = .C)) :=
  ⟨⟨1, 0, 2, (wAt (.boltQ 0 2) [] (wDig 0x320 wKey wKey [] 0)), by decide +kernel⟩,
   ⟨1, (hrD polDefault), (wStore (wAt .none [] (wDig 0x140 wKey wKey [] 256))), by decide +kernel⟩,
   ⟨aK, 1, (wAt .none [] (wDig 0x140 wKey wKey [] 256)), by decide +kernel⟩⟩

theorem hyp_DigestCommandsComplete_1 :
    (∃ (cid : Nat) (hr : HostRead) (r : Region) (l : Lane) (lvl : Nat) (s : State), startsDig 0x0501 cid hr s = true ∧ headsDig cid r l lvl s = true ∧ digGood cid s = true ∧ isHashAlg (param cid 64 1 s) = true ∧ handA cid s = 0 ∧ param cid 65 1 s = 0 ∧ param cid 66 2 s = 0 ∧ zeroIn cid 80 90 s = true ∧ ((isShake (param cid 64 1 s) = true ∧ 1 ≤ param cid 68 4 s ∧ param cid 68 4 s ≤ 65536 ∧ param cid 68 4 s ≤ (theCmd cid s).outCap) ∨ (isShake (param cid 64 1 s) = false ∧ param cid 68 4 s = 0 ∧ digLen (param cid 64 1 s) ≤ (theCmd cid s).outCap)))
    ∧ (∃ (cid : Nat) (hr : HostRead) (r : Region) (l : Lane) (lvl n : Nat) (s : State), startsDig 0x0501 cid hr s = true ∧ headsDig cid r l lvl s = true ∧ digGood cid s = true ∧ isHashAlg (param cid 64 1 s) = true ∧ handA cid s = 0 ∧ param cid 65 1 s = 1 ∧ param cid 66 2 s = 0 ∧ param cid 68 4 s = 0 ∧ toKeyGood cid n s = true ∧ (isShake (param cid 64 1 s) = true ∨ n ≤ digLen (param cid 64 1 s)))
    ∧ (∃ (cid : Nat) (hr : HostRead) (r : Region) (l : Lane) (lvl : Nat) (k : Key) (s : State), headsDig cid r l lvl s = true ∧ digGood cid s = true ∧ isMacAlg (param cid 64 1 s) = true ∧ param cid 65 1 s = 0 ∧ zeroIn cid 80 90 s = true ∧ param cid 66 2 s ≤ (if isKmacAlg (param cid 64 1 s) then 256 else 0) ∧ 4 ≤ param cid 68 4 s ∧ param cid 68 4 s ≤ (if isKmacAlg (param cid 64 1 s) then 64 else digLen (param cid 64 1 s)) ∧ digKeyOk (param cid 64 1 s) k.alg = true ∧ param cid 68 4 s ≤ (theCmd cid s).outCap)
    ∧ (∃ (cid : Nat) (hr : HostRead) (r : Region) (l : Lane) (lvl n : Nat) (k : Key) (s : State), startsDig 0x0504 cid hr s = true ∧ headsDig cid r l lvl s = true ∧ digGood cid s = true ∧ isMacAlg (param cid 64 1 s) = true ∧ param cid 65 1 s = 0 ∧ param cid 68 4 s = 0 ∧ param cid 66 2 s ≤ 256 ∧ toKeyGood cid n s = true ∧ names cid (handA cid s) k .digest (some uDerive) s = true ∧ digKeyOk (param cid 64 1 s) k.alg = true) :=
  ⟨⟨1, (hrF (wFrag [97, 98, 99])), 0, 0, 1, (wAt (.digQ 0 0 1) [] { wDig 0x501 wKey wKey [(64, [1]), (72, [3])] 0 with inPtr := 64, ha := 0, hb := 0, outCap := 64 }), by decide +kernel⟩,
   ⟨1, (hrF (wFragKey wKey)), 0, 0, 1, 16, (wAt (.digQ 0 0 1) [wKey] { wDig 0x501 wKey wKey [(64, [1, 1]), (72, [16]), (80, [1, 0, 2, 5, 1, 0, 31])] 0 with inPtr := 64, ha := 0, hb := 0 }), by decide +kernel⟩,
   ⟨1, (hrF (wFrag [97, 98, 99])), 0, 0, 1, wKeyH, (wAt (.digQ 0 0 1) [wKeyH] { wDig 0x502 wKey wKey [(64, [0x21]), (68, [32]), (72, [3])] 0 with inPtr := 64, hb := 0 }), by decide +kernel⟩,
   ⟨1, (hrF (wFrag [97, 98, 99])), 0, 0, 1, 16, wKeyH, (wAt (.digQ 0 0 1) [wKeyH] { wDig 0x504 wKey wKey [(64, [0x21]), (66, [1]), (72, [3]), (80, [8, 0, 2, 5, 1, 0, 31])] 0 with inPtr := 64, hb := 0 }), by decide +kernel⟩⟩

theorem hyp_DigestCommandsComplete_2 :
    (∃ (c : Cmd) (r : Region) (l : Lane) (v n : Nat) (s : State), absorbs c r l v n s = true ∧ 1 < n ∧ fragsPlain c = true)
    ∧ (∃ (c : Cmd) (r : Region) (l : Lane) (v n : Nat) (s : State), absorbs c r l v n s = true ∧ n ≤ 1 ∧ fragsPlain c = true)
    ∧ (∃ (c : Cmd) (r : Region) (l : Lane) (v n : Nat) (f : Frag) (k : Key) (m : Bytes) (s : State), absorbs c r l v n s = true ∧ n ≤ 1 ∧ fragsForm c = true ∧ c.code = 0x0501 ∧ par c 65 1 = 1 ∧ c.taskFrags = [f] ∧ c.taskIn = [] ∧ c.taken = [] ∧ fragKind f = 2 ∧ names c.cid (fragSource f) k .digest (some uDerive) s = true ∧ fragLen f = k.lenBytes ∧ k.mat.length = k.lenBytes ∧ m = digHashOut (par c 64 1) ((newKeyLen c).getD 0) k.mat ∧ roomFor c.cid (par c 81 1) m.length false s = true ∧ par c 81 1 ≤ 1)
    ∧ (∃ (c : Cmd) (r : Region) (l : Lane) (v n : Nat) (k : Key) (mat : Bytes) (s : State), absorbs c r l v n s = true ∧ n ≤ 1 ∧ fragsPlain c = true ∧ c.code = 0x0504 ∧ c.taken = [k] ∧ mat = (match digHash? (par c 64 1) with | some h => kdfCtr (.hmac h) k.mat ((messageOf c).take (par c 66 2)) ((messageOf c).drop (par c 66 2)) ((newKeyLen c).getD 0) | none => digMacOut (par c 64 1) k.mat ((messageOf c).take (par c 66 2)) ((messageOf c).drop (par c 66 2)) ((newKeyLen c).getD 0)) ∧ roomFor c.cid (par c 81 1) mat.length false s = true ∧ par c 81 1 ≤ 1) :=
  ⟨⟨(wAbs 2 [] [wFrag [97, 98, 99]] (wDig 0x501 wKey wKey [(64, [1]), (72, [3])] 0)), 0, 0, 1, 2, (wAt (.digCtx 0 0 1 2) [wKey] (wAbs 2 [] [wFrag [97, 98, 99]] (wDig 0x501 wKey wKey [(64, [1]), (72, [3])] 0))), by decide +kernel⟩,
   ⟨(wAbs 1 [] [wFrag [97, 98, 99]] (wDig 0x501 wKey wKey [(64, [1]), (72, [3])] 0)), 0, 0, 1, 1, (wAt (.digCtx 0 0 1 1) [wKey] (wAbs 1 [] [wFrag [97, 98, 99]] (wDig 0x501 wKey wKey [(64, [1]), (72, [3])] 0))), by decide +kernel⟩,
   ⟨(wAbs 1 [] [wFragKey wKey] (wDig 0x501 wKey wKey [(64, [1, 1]), (72, [16]), (80, [1, 0, 2, 5, 1, 0, 31])] 0)), 0, 0, 1, 1, (wFragKey wKey), wKey, (digHashOut 1 16 (zeros 16)), (wAt (.digCtx 0 0 1 1) [wKey] (wAbs 1 [] [wFragKey wKey] (wDig 0x501 wKey wKey [(64, [1, 1]), (72, [16]), (80, [1, 0, 2, 5, 1, 0, 31])] 0))), by decide +kernel⟩,
   ⟨(wAbs 1 [wKeyH] [wFrag [97, 98, 99]] (wDig 0x504 wKey wKey [(64, [0x21]), (66, [1]), (72, [3]), (80, [8, 0, 2, 5, 1, 0, 31])] 0)), 0, 0, 1, 1, wKeyH, (kdfCtr (.hmac .sha256) (zeros 16) [97] [98, 99] 16), (wAt (.digCtx 0 0 1 1) [wKeyH] (wAbs 1 [wKeyH] [wFrag [97, 98, 99]] (wDig 0x504 wKey wKey [(64, [0x21]), (66, [1]), (72, [3]), (80, [8, 0, 2, 5, 1, 0, 31])] 0))), by decide +kernel⟩⟩

theorem hyp_DigestCommandsComplete_3 :
    (∃ (r : Region) (l : Lane) (v n : Nat) (c : Cmd) (res : Res) (s : State), digRunning s.toDev r l = some v ∧ digContext s.toDev r l v = some (c, n) ∧ c.ready = some res ∧ cmdOf? s.toDev c.cid = some c ∧ c.stage = .running ∧ c.code / 256 = 5)
    ∧ (∃ (cid : Nat) (r : Region) (l : Lane) (lvl : Nat) (s : State), (theCmd cid s).loc = .digQ r l lvl ∧ (theCmd cid s).stage = .waiting ∧ lvl < 3 ∧ (cmdOf? s.toDev cid).isSome = true) :=
  ⟨⟨0, 1, 1, 1, { wDig 0x501 wKey wKey [] 0 with ready := some resOk, loc := .digCtx 0 1 1 1, stage := .running }, resOk, (wAt (.digCtx 0 1 1 1) [] { wDig 0x501 wKey wKey [] 0 with ready := some resOk, stage := .running }), by decide +kernel⟩,
   ⟨1, 0, 0, 0, (wAt (.digQ 0 0 0) [] (wDig 0x501 wKey wKey [] 0)), by decide +kernel⟩⟩

theorem hyp_EntropyRuns_1 :
    (∃ (n : Source) (w : Bytes) (s : State), supplies n s = true ∧ w.length = 128 ∧ windowRuns n w s = 0 ∧ aptFails (sampleBits w) = false)
    ∧ (∃ (n : Source) (w : Bytes) (s : State), supplies n s = true ∧ w.length = 128 ∧ (recentFails s.toDev n).length < 4 ∧ logRoom s = true)
    ∧ (∃ (n : Source) (w : Bytes) (s : State), supplies n s = true ∧ w.length = 128 ∧ 4 ≤ (recentFails s.toDev n).length ∧ logRoom s = true ∧ windowRuns n w s ≠ 0)
    ∧ (∃ (n : Source) (s : State), (sourceIn n s).isolated = true) :=
  ⟨⟨0, (wNoise 128), (wSrc 0 { startup := false } wUp), by decide +kernel⟩,
   ⟨7, (zeros 128), (wSrc 7 { startup := false } wUp), by decide +kernel⟩,
   ⟨0, (zeros 128), (wSrc 0 { startup := false, failTimes := [0, 0, 0] } wUp), by decide +kernel⟩,
   ⟨0, (wSrc 0 { startup := false, isolated := true } wUp), by decide +kernel⟩⟩

theorem hyp_EntropyRuns_2 :
    (∃ (n : Source) (w : Bytes) (s : State), (sourceIn n s).startup = true ∧ (sourceIn n s).heldOut = false ∧ w.length = 512 ∧ startRuns w = 0 ∧ startSkewed w = false ∧ (sourceIn n s).isolated = true ∧ logRoom s = true)
    ∧ (∃ (n : Source) (w : Bytes) (cid : Nat) (c : Cmd) (s : State), (sourceIn n s).startup = true ∧ (sourceIn n s).heldOut = false ∧ w.length = 512 ∧ startRuns w = 0 ∧ startSkewed w = false ∧ s.ent.injectCid = some cid ∧ cmdOf? s.toDev cid = some c ∧ c.stage = .running ∧ ((List.range 8).all (fun m => m == n.val || !(sourceIn m s).injecting)) = true)
    ∧ (∃ (raw : Bytes) (d : Dev) (s : State), s.ent.stopped = false ∧ blkResetting s.toDev .conditioner = false ∧ takeUnits 16 s.toDev = some (raw, d) ∧ s.ent.reseedQ = [] ∧ s.ent.reservoir.length < 32 ∧ s.ks.keyDue = false)
    ∧ (∃ (r : Region) (b : Bytes) (l : List Bytes) (s : State), (drbgIn r s).instantiated = true ∧ s.ent.reservoir = b :: l) :=
  ⟨⟨0, (wNoise 512), (wSrc 0 { isolated := true } wUp), by decide +kernel⟩,
   ⟨0, (wNoise 512), 1, { wc1 0x610 [1] with stage := .running, scratch := [7], taskOut := [1, 2] }, (wSrc 0 { injecting := true, isolated := true } (wEnt { injectCid := some 1 } (wCmd { wc1 0x610 [1] with stage := .running, scratch := [7], taskOut := [1, 2] } wUp))), by decide +kernel⟩,
   by
    obtain ⟨⟨raw, d⟩, h, _⟩ := some_of_any (o := takeUnits 16 (wSrc 0 { startup := false, windows := wNoise 128 } wUp).toDev) (f := fun _ => true) (by decide +kernel)
    exact ⟨raw, d, (wSrc 0 { startup := false, windows := wNoise 128 } wUp), by decide +kernel, by decide +kernel, h, by decide +kernel, by decide +kernel, by decide +kernel⟩,
   ⟨0, (zeros 32), [], (wServe (wEnt { reservoir := [zeros 32] } wUp)), by decide +kernel⟩⟩

theorem hyp_EntropyRuns_3 :
    (∃ (r : Region) (s : State), (drbgIn r s).instantiated = true ∧ s.ent.reservoir = [] ∧ s.ent.stopped = true ∧ (drbgIn r s).noSeed = false ∧ logRoom s = true)
    ∧ (∃ (r : Region) (s : State), drbgServes s.toDev r = true ∧ (drbgIn r s).queue.length ≤ 3584 ∧ 1 < (drbgIn r s).reqsLeft ∧ noReads r s = true ∧ (drbgIn r s).katRunning = false)
    ∧ (∃ (r : Region) (c : Cmd) (b : Bytes) (l : List Bytes) (s : State), drbgReseeds s.toDev r = true ∧ readNext s.toDev r = some c ∧ cmdOf? s.toDev c.cid = some c ∧ c.taskOut = [] ∧ readLen c ≤ 512 ∧ s.ent.reservoir = b :: l)
    ∧ (∃ (cid : Nat) (s : State), (cmdOf? s.toDev cid).isSome = true ∧ isRead (readRegion (theCmd cid s)) false (theCmd cid s) = true) :=
  ⟨⟨0, (wServe (wEnt { stopped := true } wUp)), by decide +kernel⟩,
   ⟨0, (wServe wUp), by decide +kernel⟩,
   ⟨0, (wRead 1 5), (zeros 32), [], (wServe (wEnt { reservoir := [zeros 32] } (wCmd (wRead 1 5) wUp))), by decide +kernel⟩,
   ⟨1, (wServe (wCmd (wRead 0 5) wUp)), by decide +kernel⟩⟩

theorem hyp_EntropyRuns_4 :
    (∃ (cid : Nat) (hr : HostRead) (r : Region) (n : Nat) (s : State), starts 0x0601 cid hr s = true ∧ noInput cid s = true ∧ n = param cid 64 4 s ∧ 1 ≤ n ∧ n ≤ 65536 ∧ n ≤ (theCmd cid s).outCap ∧ zeroFrom cid 69 s = true ∧ r = (if (theCmd cid s).session = 0 then fullestQueue s.toDev else sessHome s.toDev (theCmd cid s).session.toNat))
    ∧ (∃ (cid : Nat) (hr : HostRead) (s : State), starts 0x0610 cid hr s = true ∧ noHandles cid s = true ∧ zeroFrom cid 65 s = true ∧ param cid 64 1 s ≠ 0 ∧ (theCmd cid s).inLen % 128 = 0 ∧ 128 ≤ (theCmd cid s).inLen ∧ (theCmd cid s).inLen ≤ 65536 ∧ (theCmd cid s).inLen / 4 ≤ (theCmd cid s).outCap ∧ s.ent.injectCid = none)
    ∧ (∃ (cid : Nat) (hr : HostRead) (s : State), starts 0x0620 cid hr s = true ∧ noInput cid s = true ∧ zeroFrom cid 64 s = true ∧ s.ent.katCid = none ∧ katParts s.toDev = allKats)
    ∧ (∃ (acc : Access) (s : State), regGoes acc 180 8 s = true ∧ (acc.world = .K ∨ acc.world = .C)) :=
  ⟨⟨1, hr0, 0, 4, (wDrbg [1, 2, 3, 4, 5] (wServe (wCmd { wc1 0x601 [4] with outCap := 8 } wUp))), by decide +kernel⟩,
   ⟨1, (hrD (zeros 128)), (wCmd { wc1 0x610 [129] with outCap := 32, inLen := 128 } wUp), by decide +kernel⟩,
   ⟨1, hr0, (wCmd (wc1 0x620 []) wFour), by decide +kernel⟩,
   ⟨aK, wUp, by decide +kernel⟩⟩

theorem hyp_EntropyRuns_5 :
    (∃ (acc : Access) (r : Region) (s : State), regGoes acc (3 + 17 * r.val) 8 s = true ∧ (acc.world = .K ∨ acc.world = .C) ∧ regionRuns s.toDev r = true)
    ∧ (∃ (t : KatTarget) (s : State), s.ent.kats.contains t = true ∧ katCanEnd s.toDev t = true ∧ s.ent.katCid = none)
    ∧ (∃ (cid : Nat) (t : KatTarget) (s : State), s.ent.kats = [t] ∧ katCanEnd s.toDev t = true ∧ s.ent.katCid = some cid ∧ (theCmd cid s).stage = .running ∧ s.ent.katFails = 0 ∧ (cmdOf? s.toDev cid).isSome = true)
    ∧ (∃ (stage : Nat) (s : State), s.ent.kats.contains .conditioner = true ∧ stage ≠ 0 ∧ logRoom s = true) :=
  ⟨⟨aK, 0, (wDie wUp), by decide +kernel⟩,
   ⟨(.drbg 2), (wEnt { kats := [.conditioner, .drbg 2] } wFour), by decide +kernel⟩,
   ⟨1, (.drbg 2), (wEnt { kats := [.drbg 2], katCid := some 1 } (wCmd { wc1 0x620 [] with stage := .running } wFour)), by decide +kernel⟩,
   ⟨3, (wEnt { kats := [.conditioner] } wUp), by decide +kernel⟩⟩

theorem hyp_EntropyRuns_6 :
    ∃ (r : Region) (stage : Nat) (s : State), s.ent.kats.contains (.drbg r) = true ∧ katCanEnd s.toDev (.drbg r) = true ∧ stage ≠ 0 ∧ logRoom s = true :=
  ⟨0, 3, (wEnt { kats := [.drbg 0] } (wDie wUp)), by decide +kernel⟩

theorem hyp_PkcCommandsComplete_1 :
    (∃ (cid : Nat) (hr : HostRead) (p : ProgEntry) (l : List Nat) (s : State), starts 0x0401 cid hr s = true ∧ (theCmd cid s).scratch = [] ∧ runsProg cid p s ∧ allBusy s = true ∧ zeroFrom cid 76 s = true ∧ operandLens p.id (theCmd cid s).inLen = some l ∧ ((pSecretOut p = true ∧ secretGood cid (secretLen p.id) s = true ∧ (resultLens p.id).sum + 32 ≤ (theCmd cid s).outCap) ∨ (pSecretOut p = false ∧ zeroIn cid 68 76 s = true ∧ (resultLens p.id).sum ≤ (theCmd cid s).outCap)))
    ∧ (∃ (cid : Nat) (hr : HostRead) (p : ProgEntry) (s : State), starts 0x0201 cid hr s = true ∧ (theCmd cid s).scratch = [] ∧ zeroIn cid 73 76 s = true ∧ zeroFrom cid 80 s = true ∧ noHandles cid s = true ∧ isAsym (param cid 64 1 s) = true ∧ attrsGood cid (param cid 64 1 s) s = true ∧ (if isRsa (param cid 64 1 s) then param cid 76 4 s = 0 ∨ (param cid 76 4 s % 2 = 1 ∧ 65537 ≤ param cid 76 4 s) else param cid 76 4 s = 0) ∧ 32 + keygenPubLen (param cid 64 1 s) ≤ (theCmd cid s).outCap ∧ roomFor cid (param cid 65 1 s) ((algLen (param cid 64 1 s)).getD 0) (param cid 67 1 s == 1) s = true ∧ progFind s.toDev (keygenProg (param cid 64 1 s)) = some p ∧ (List.range 18).any (eligible s.toDev p) = true ∧ allBusy s = true)
    ∧ (∃ (cid : Nat) (hr : HostRead) (t : Cmd) (s : State), starts 0x0402 cid hr s = true ∧ noHandles cid s = true ∧ zeroIn cid 64 76 s = true ∧ zeroFrom cid 80 s = true ∧ s.hif.cmds.find? (fun x => x.session == (theCmd cid s).session && x.fn == (theCmd cid s).fn && isHost x == isHost (theCmd cid s) && x.seq == BitVec.ofNat 32 (param cid 76 4 s) && x.cid != cid && x.dupOf.isNone && x.accepted && isAccepted x) = some t ∧ cmdOf? s.toDev t.cid = some t ∧ classOf t.code = 4 ∧ jobCancelled t = false ∧ t.stage = .waiting)
    ∧ (∃ (cid : Nat) (hr : HostRead) (s : State), starts 0x0403 cid hr s = true ∧ noHandles cid s = true ∧ zeroFrom cid 64 s = true ∧ (curCat s.toDev).length ≤ (theCmd cid s).outCap) :=
  ⟨⟨1, (hrD (zeros 516)), (wProg 0x111), [256, 4, 256], (wBrl { engs := wBusy } (wCmd (wPkc 0x401 [(64, [0x11, 1])] 516 256) wUp)), by decide +kernel⟩,
   ⟨1, hr0, (wProg 0x231), (wBrl { engs := wBusy } (wCmd (wPkc 0x201 [(64, [0x30, 1]), (68, [0, 4, 31])] 0 200) wUp)), by decide +kernel⟩,
   ⟨1, hr0, { wPkc 0x401 [] 0 0 with cid := 2, seq := 7, scratch := [1], loc := .shortQ 1 }, (onDev (onHif (fun h => { h with cmds := [{ wPkc 0x402 [(76, [7])] 0 0 with seq := 8, prio := 0 }, { wPkc 0x401 [] 0 0 with cid := 2, seq := 7, scratch := [1], loc := .shortQ 1 }] })) wUp), by decide +kernel⟩,
   ⟨1, hr0, (wBrl {} (wCmd (wPkc 0x403 [] 0 16384) wUp)), by decide +kernel⟩⟩

theorem hyp_PkcCommandsComplete_2 :
    (∃ (cid : Nat) (hr : HostRead) (n code : Nat) (s : State), starts 0x0410 cid hr s = true ∧ noHandles cid s = true ∧ zeroIn cid 64 80 s = true ∧ zeroFrom cid 84 s = true ∧ n = param cid 80 2 s ∧ lenCode? (param cid 82 2 s) = some code ∧ 1 ≤ n ∧ n ≤ wsArea code ∧ wsIn cid s = none ∧ wsBehind s.toDev (theCmd cid s) = false ∧ ((wsRoles s.toDev code).any (fun p => decide (n ≤ wsArea code - wsUsed s.toDev p.2))) = true)
    ∧ (∃ (cid : Nat) (hr : HostRead) (w : Workspace) (s : State), starts 0x0411 cid hr s = true ∧ inTurnWith cid w s = true ∧ zeroIn cid 64 84 s = true ∧ zeroFrom cid 88 s = true ∧ 1 ≤ param cid 86 2 s ∧ param cid 86 2 s ≤ 8192 ∧ (theCmd cid s).inLen = (param cid 86 2 s + 7) / 8 ∧ runFits w (param cid 84 2 s) (runSlots (param cid 86 2 s) w.len) [param cid 84 2 s] = true)
    ∧ (∃ (cid : Nat) (hr : HostRead) (w : Workspace) (p : ProgEntry) (lens : List Nat) (runs : List (Nat × Nat)) (s : State), starts 0x0412 cid hr s = true ∧ (theCmd cid s).scratch = [] ∧ runsProg cid p s ∧ allBusy s = true ∧ zeroIn cid 68 88 s = true ∧ zeroFrom cid 120 s = true ∧ wsIn cid s = some w ∧ wsCouldRun s.toDev p w.engine = true ∧ w.void = false ∧ wsBehind s.toDev (theCmd cid s) = false ∧ lens = (jobOps s.toDev (theCmd cid s) p).map (·.length) ∧ operandLens p.id lens.sum = some lens ∧ ((List.range 8).all (fun i => if i < p.nIn then w.items.any (fun x => x.1 == param cid (88 + 2 * i) 2 s) else param cid (88 + 2 * i) 2 s == 0xFFFF)) = true ∧ runs = outRuns (theCmd cid s) w.len (resultLens p.id ++ (if pSecretOut p then [secretLen p.id] else [])) ∧ ((List.range 8).all (fun i => decide (i < runs.length) || param cid (104 + 2 * i) 2 s == 0xFFFF)) = true ∧ (runs.all (fun r => runFits w r.1 r.2 ((List.range 8).map (fun i => param cid (104 + 2 * i) 2 s) ++ (List.range 8).map (fun i => param cid (88 + 2 * i) 2 s)))) = true ∧ (runs.all (fun r => decide (count runs (fun q => decide (q.1 < r.1 + r.2) && decide (r.1 < q.1 + q.2)) ≤ 1))) = true)
    ∧ (∃ (cid : Nat) (hr : HostRead) (w : Workspace) (i : WsItem) (s : State), starts 0x0413 cid hr s = true ∧ inTurnWith cid w s = true ∧ zeroIn cid 64 84 s = true ∧ zeroFrom cid 86 s = true ∧ tget? w.items (param cid 84 2 s) = some i) :=
  ⟨⟨1, hr0, 5, 3, (wBrl {} (wCmd (wPkc 0x410 [(80, [5, 0, 0, 8])] 0 16384) wUp)), by decide +kernel⟩,
   ⟨1, (hrD (zeros 256)), wWs, (wBrl { ws := [wWs] } (wCmd (wPkc 0x411 [(84, [3, 0, 0, 8])] 256 0) wUp)), by decide +kernel⟩,
   ⟨1, hr0, wWs, (wProg 0x111), [256, 4, 256], [(7, 1)], (wBrl { ws := [wWs], engs := wBusy } (wCmd (wPkc 0x412 [(64, [0x11, 1]), (88, [0, 0, 1, 0, 2, 0] ++ List.replicate 10 0xFF), (104, [7, 0] ++ List.replicate 14 0xFF)] 0 0) wUp)), by decide +kernel⟩,
   ⟨1, hr0, wWs, (wItem 256), (wBrl { ws := [wWs] } (wCmd (wPkc 0x413 [(84, [2])] 0 256) wUp)), by decide +kernel⟩⟩

theorem hyp_PkcCommandsComplete_3 :
    (∃ (cid : Nat) (hr : HostRead) (w : Workspace) (s : State), starts 0x0414 cid hr s = true ∧ inTurnWith cid w s = true ∧ zeroIn cid 64 84 s = true ∧ zeroFrom cid 88 s = true ∧ 1 ≤ param cid 86 2 s ∧ param cid 84 2 s + param cid 86 2 s ≤ w.slots ∧ ((List.range (param cid 86 2 s)).all (fun i => match itemAt w (param cid 84 2 s + i) with | some p => decide (param cid 84 2 s ≤ p.1) && decide (p.1 + p.2.count ≤ param cid 84 2 s + param cid 86 2 s) | none => true)) = true)
    ∧ (∃ (cid : Nat) (hr : HostRead) (w : Workspace) (i : WsItem) (s : State), starts 0x0415 cid hr s = true ∧ inTurnWith cid w s = true ∧ zeroIn cid 64 68 s = true ∧ zeroIn cid 76 84 s = true ∧ zeroFrom cid 86 s = true ∧ tget? w.items (param cid 84 2 s) = some i ∧ i.secret = true ∧ secretGood cid i.data.length s = true ∧ 32 ≤ (theCmd cid s).outCap ∧ roomFor cid (param cid 73 1 s) i.data.length false s = true)
    ∧ (∃ (cid : Nat) (hr : HostRead) (s : State), starts 0x0416 cid hr s = true ∧ noHandles cid s = true ∧ zeroFrom cid 64 s = true ∧ wsBehind s.toDev (theCmd cid s) = false ∧ (wsIn cid s).isSome = true)
    ∧ (∃ (cid : Nat) (hr : HostRead) (p : ProgEntry) (l : List Nat) (e : Engine) (r : Role) (s : State), starts 0x0401 cid hr s = true ∧ (theCmd cid s).scratch = [] ∧ runsProg cid p s ∧ noJobs s = true ∧ zeroFrom cid 68 s = true ∧ operandLens p.id (theCmd cid s).inLen = some l ∧ (resultLens p.id).sum ≤ (theCmd cid s).outCap ∧ p.keyUse = 255 ∧ needsDraw p = false ∧ pSecretOut p = false ∧ (poolOn s.toDev = false ∨ (isPoolRole r.val = false ∧ pLong p = false)) ∧ roleServed s.toDev e = some r.val ∧ engIdle s.toDev e = true ∧ eligible s.toDev p e = true ∧ (List.range 18).all (fun x => x == e.val || !engIdle s.toDev x) = true) :=
  ⟨⟨1, hr0, wWs, (wBrl { ws := [wWs] } (wCmd (wPkc 0x414 [(84, [1, 0, 2])] 0 256) wUp)), by decide +kernel⟩,
   ⟨1, hr0, wWs, { wItem 32 with secret := true, exportCap := 1 }, (wBrl { ws := [wWs] } (wCmd (wPkc 0x415 [(68, [0, 2, 31, 0, 1, 1, 0x11]), (84, [5])] 0 256) wUp)), by decide +kernel⟩,
   ⟨1, hr0, (wBrl { ws := [wWs] } (wCmd (wPkc 0x416 [] 0 256) wUp)), by decide +kernel⟩,
   ⟨1, (hrD (natBE (2 ^ 2047 + 1) 256 ++ natBE 3 4 ++ natBE 2 256)), (wProg 0x111), [256, 4, 256], 2, 2, (wBrl { engs := wBusy.filter (fun q => q.1 != 2) } (wCmd (wPkc 0x401 [(64, [0x11, 1])] 516 256) wUp)), by decide +kernel⟩⟩

theorem hyp_BarrelEnginesRun_1 :
    (∃ (e : Engine) (c : Cmd) (p : ProgEntry) (r : Res) (s : State), runsOn e c p s ∧ noJobs s = true ∧ (engIn e s).katDue = false ∧ c.ready = some r)
    ∧ (∃ (e : Engine) (c : Cmd) (p : ProgEntry) (s : State), runsOn e c p s ∧ noJobs s = true ∧ c.ready = none ∧ c.code = 0x0401 ∧ fragSecret c = none)
    ∧ (∃ (e : Engine) (c : Cmd) (p : ProgEntry) (m : Bytes) (s : State), runsOn e c p s ∧ noJobs s = true ∧ c.ready = none ∧ c.code = 0x0201 ∧ fragSecret c = some m ∧ roomFor c.cid (par c 65 1) m.length (par c 67 1 == 1) s = true)
    ∧ (∃ (e : Engine) (c : Cmd) (p : ProgEntry) (slot : Nat) (s : State), runsOn e c p s ∧ noJobs s = true ∧ logRoom s = true) :=
  ⟨⟨2, { wJob with ready := some (resErr stPoint 0) }, (wProg 0x111), (resErr stPoint 0), (wRun { wJob with ready := some (resErr stPoint 0) }), by decide +kernel⟩,
   ⟨2, { wJob with taskFrags := [⟨[0], [1, 2], none⟩] }, (wProg 0x111), (wRun { wJob with taskFrags := [⟨[0], [1, 2], none⟩] }), by decide +kernel⟩,
   ⟨2, { wJob with code := 0x201, params := wP [(64, [0x30, 1]), (68, [0, 4, 31])], taskFrags := [⟨[1], zeros 32, none⟩, ⟨[0], zeros 65, none⟩] }, (wProg 0x231), (zeros 32), (wRun { wJob with code := 0x201, params := wP [(64, [0x30, 1]), (68, [0, 4, 31])], taskFrags := [⟨[1], zeros 32, none⟩, ⟨[0], zeros 65, none⟩] }), by decide +kernel⟩,
   ⟨2, { wJob with params := wP [(64, [1, 1])] }, (wProg 0x101), 7, (wRun { wJob with params := wP [(64, [1, 1])] }), by decide +kernel⟩⟩

theorem hyp_BarrelEnginesRun_2 :
    (∃ (e : Engine) (g : Nat) (s : State), (engIn e s).running = some 0 ∧ noJobs s = true)
    ∧ (∃ (cid l : Nat) (e : Engine) (s : State), (theCmd cid s).stage = .waiting ∧ (cmdOf? s.toDev cid).isSome = true ∧ l < 3)
    ∧ (∃ (cid : Nat) (hr : HostRead) (s : State), starts 0x0150 cid hr s = true ∧ zeroFrom cid 66 s = true ∧ noHandles cid s = true ∧ param cid 64 1 s ≤ 15 ∧ param cid 65 1 s ≤ 5 ∧ keepOnly s.toDev = false)
    ∧ (∃ (r : Role) (e : Engine) (s : State), (roleIn r s).engine = some e ∧ (roleIn r s).lenNext ≠ (roleIn r s).len ∧ engIdle s.toDev e = true ∧ (wsOn s.toDev e).isEmpty = true ∧ (roleIn r s).handover = none ∧ logRoom s = true) :=
  ⟨⟨2, 0x101, (wBrl { engs := [(2, { running := some 0 })] } wUp), by decide +kernel⟩,
   ⟨1, 2, 0, (wCmd { wPkc 0x401 [] 0 0 with loc := .shortQ 2 } wUp), by decide +kernel⟩,
   ⟨1, hr0, (wStore (wCmd (wPkc 0x150 [(64, [15, 5])] 0 0) wUp)), by decide +kernel⟩,
   ⟨2, 2, (wBrl { roles := [(2, { engine := some 2, lenNext := 5 })] } wUp), by decide +kernel⟩⟩

theorem hyp_BarrelEnginesRun_3 :
    (∃ (cid : Nat) (hr : HostRead) (s : State), starts 0x0151 cid hr s = true ∧ zeroFrom cid 65 s = true ∧ noHandles cid s = true ∧ param cid 64 1 s ≤ 1 ∧ keepOnly s.toDev = false ∧ noJobs s = true ∧ logRoom s = true)
    ∧ (∃ (acc : Access) (e : Engine) (s : State), regGoes acc (70 + e.val) 8 s = true ∧ (acc.world = .K ∨ acc.world = .C) ∧ (engIn e s).stopping = false)
    ∧ (∃ (acc : Access) (e : Engine) (c : Cmd) (p : ProgEntry) (s : State), regGoes acc (70 + e.val) 8 s = true ∧ (acc.world = .K ∨ acc.world = .C) ∧ (engIn e s).stopping = false ∧ runsOn e c p s)
    ∧ (∃ (e : Engine) (s : State), (engIn e s).stopping = true ∧ (engIn e s).out = false ∧ (engIn e s).katDue = false ∧ noJobs s = true ∧ blkResetting s.toDev (.barrel e) = false ∧ (engIn e s).heldRole = none) :=
  ⟨⟨1, hr0, (wStore (wCmd (wPkc 0x151 [(64, [0])] 0 0) wUp)), by decide +kernel⟩,
   ⟨aK, 2, (wBrl { ws := [wWs] } wUp), by decide +kernel⟩,
   ⟨aK, 2, wJob, (wProg 0x111), (wRun wJob), by decide +kernel⟩,
   ⟨2, (wBrl { engs := [(2, { stopping := true, aborting := true })] } wUp), by decide +kernel⟩⟩

theorem hyp_BarrelEnginesRun_4 :
    (∃ (sp : Engine) (r : Role) (s : State), isSpare s.toDev sp = true ∧ inHandover s.toDev sp = false ∧ engInService s.toDev sp = true ∧ (roleIn r s).engine = none ∧ s.brl.rollHold ≠ some sp.val ∧ s.brl.rollFor ≠ some r.val ∧ logRoom s = true)
    ∧ (∃ (r : Role) (o sp : Engine) (cid : Nat) (s : State), (roleIn r s).handover = some (sp, cid) ∧ (roleIn r s).engine = some o ∧ o ≠ sp ∧ engIdle s.toDev o = true ∧ engInService s.toDev sp = true ∧ logRoom s = true)
    ∧ (∃ (e : Engine) (s : State), (engIn e s).out = false)
    ∧ (∃ (e sp : Engine) (r : Nat) (s : State), roleHeld s.toDev e = some r ∧ (engIn e s).katDue = true ∧ (roleIn r s).engine = some e ∧ (roleIn r s).handover = none ∧ (sparesFree s.toDev).head? = some sp) :=
  ⟨⟨16, 2, (wBrlP { roles := [(2, { removed := 2 })] } wUp), by decide +kernel⟩,
   ⟨2, 2, 16, 0, (wBrl { roles := [(2, { engine := some 2, handover := some (16, 0) })], ws := [wWs] } wUp), by decide +kernel⟩,
   ⟨2, wUp, by decide +kernel⟩,
   ⟨2, 16, 2, (wBrlP { engs := [(2, { running := some 9, katDue := true })] } wUp), by decide +kernel⟩⟩

theorem hyp_BarrelEnginesRun_5 :
    (∃ (cid : Nat) (hr : HostRead) (i : ImageRec) (s : State), starts 0x0152 cid hr s = true ∧ zeroFrom cid 64 s = true ∧ noHandles cid s = true ∧ imageGood cid hr i s ∧ rwpVal s.toDev rwpUcodeMinsv ≤ i.svn ∧ s.brl.rollPhase = 0 ∧ keepOnly s.toDev = false ∧ rwpRefused s.toDev rwpUcodeMinsv = none ∧ logRoom s = true)
    ∧ (∃ (e : Nat) (s : State), s.brl.rollPhase = 1 ∧ s.brl.rollHold = none ∧ s.die.safe = false ∧ s.tmp.hold = false ∧ (rollSpares s.toDev).find? (engIdle s.toDev) = some e ∧ logRoom s = true)
    ∧ (∃ (cid : Nat) (res : Res) (pass : Bool) (s : State), rollDone s = true ∧ s.brl.rollCid = some cid ∧ (theCmd cid s).stage = .running ∧ (cmdOf? s.toDev cid).isSome = true ∧ logRoom s = true) :=
  ⟨ucode_hyp,
   ⟨16, (wStore (wBrlP { rollPhase := 1, ucodeB := some shippedUcode, rollCid := some 1 } wUp)), by decide +kernel⟩,
   ⟨1, resOk, true, (wStore (wBrlP { rollPhase := 2, engs := (List.range 18).map (fun e => (e, { image := true })), ucodeB := some shippedUcode, rollCid := some 1 } (wCmd { wPkc 0x152 [] 262144 0 with stage := .running } wUp))), by decide +kernel⟩⟩

theorem hyp_VaultDataRuns_1 :
    (∃ (cid : Nat) (hr : HostRead) (n : Node) (s : State), starts 0x0701 cid hr s = true ∧ vltGood cid false s = true ∧ dataGood cid s = true ∧ 4096 ≤ (theCmd cid s).outCap ∧ blockBusy s.toDev (theCmd cid s) (blockOf cid s) = false ∧ (partIn (blockOf cid s / 2 ^ 36) s).suspect.contains (blockOf cid s / 64 ^ 4) = false ∧ leafIs (blockOf cid s) n s ∧ ((theCmd cid s).inLen = 0 ∨ (theCmd cid s).inLen = 4128))
    ∧ (∃ (cid : Nat) (hr : HostRead) (n : Node) (s : State), starts 0x0702 cid hr s = true ∧ vltGood cid false s = true ∧ dataGood cid s = true ∧ (theCmd cid s).inLen = 4096 ∧ 4128 ≤ (theCmd cid s).outCap ∧ (partIn (blockOf cid s / 2 ^ 36) s).pendingGen = false ∧ (partIn (blockOf cid s / 2 ^ 36) s).exhausted = false ∧ s.vlt.commit = none ∧ dirtyLines s.toDev < 196608 ∧ leafIs (blockOf cid s) n s ∧ (partIn (blockOf cid s / 2 ^ 36) s).gen ≤ nGen n)
    ∧ (∃ (entry : Nat) (r : Bytes) (l : List (Nat × Bytes)) (n : Node) (s : State), s.ks.spillBuf = (entry, r) :: l ∧ s.ks.asks = [] ∧ (partIn 63 s).state = 3 ∧ (rekeying s.toDev (spillBlock entry / 64)).isNone = true ∧ leafIs (spillBlock entry) n s ∧ 1 ≤ nGen n ∧ nMinor n (spillBlock entry % 64) < 63)
    ∧ (∃ (cid : Nat) (hr : HostRead) (s : State), starts 0x0703 cid hr s = true ∧ vltGood cid true s = true ∧ zeroFrom cid 64 s = true ∧ 8192 ≤ (theCmd cid s).outCap) :=
  ⟨⟨1, hr0, (wNode 0), (wVlt (wVault (wNode 0)) (wCmd (wV 0x701 [] 0 4096) wUp)), by decide +kernel⟩,
   ⟨1, (hrD (List.replicate 4096 7)), (wNode 1), (wVlt (wVault (wNode 1)) (wCmd (wV 0x702 [] 4096 4128) wUp)), by decide +kernel⟩,
   ⟨0, [1, 2], [], (wNode 1), (onDev (onKs (fun k => { k with spillBuf := [(0, [1, 2])] })) (wVlt { wVault (wNode 1) with cache := [⟨1, 0xFC0000000, wNode 1, false, 0⟩] } wUp)), by decide +kernel⟩,
   ⟨1, hr0, (wCmd (wV 0x703 [] 0 8192) wUp), by decide +kernel⟩⟩

theorem hyp_VaultDataRuns_2 :
    (∃ (r : VReq) (h : Cmd) (s : State), (refillKeys s.toDev).isEmpty = true ∧ s.vlt.reqs.all (fun r => r.kind != 3 || rekeyAlive s.toDev r) = true ∧ s.vlt.reqs.find? (fun r => !r.posted && !r.held && (hookOf s.toDev r.fn).isSome) = some r ∧ hookOf s.toDev r.fn = some h ∧ cmdOf? s.toDev h.cid = some h)
    ∧ (∃ (r : VReq) (s : State), s.vlt.reqs.find? (fun x => x.id == r.id && x.posted && x.supply.isNone && [1, 3, 4, 7].contains x.kind) = some r ∧ logRoom s = true)
    ∧ (∃ (id cid : Nat) (r : VReq) (s : State), s.vlt.reqs.find? (fun x => x.id == id && x.posted && x.supply.isNone && [1, 3, 4, 7].contains x.kind) = some r ∧ r.kind ≠ 7 ∧ (theCmd cid s).waitOn.contains (reqWait r.id) = true ∧ isDone (theCmd cid s) = false)
    ∧ (∃ (fn : Fn) (s : State), starving s.toDev fn ≠ [] ∧ s.vlt.starvedLogged.contains fn.val = false ∧ logRoom s = true) :=
  ⟨⟨(({ wReq 1 with posted := false, nodes := [(1, 0)] } : VReq)), wHook, (wVlt { wVault (wNode 1) with reqs := [{ wReq 1 with posted := false, nodes := [(1, 0)] }] } (wCmd wHook wUp)), by decide +kernel⟩,
   ⟨(wReq 1), (wVlt { wVault (wNode 1) with reqs := [wReq 1] } wUp), by decide +kernel⟩,
   ⟨1, 1, (wReq 1), (wVlt { wVault (wNode 1) with reqs := [wReq 1] } (wCmd { wV 0x701 [] 0 4096 with waitOn := [reqWait 1] } wUp)), by decide +kernel⟩,
   ⟨1, (wVlt { wVault (wNode 1) with reqs := [{ wReq 1 with posted := false }] } wUp), by decide +kernel⟩⟩

theorem hyp_VaultDataRuns_3 :
    (∃ (cid : Nat) (hr : HostRead) (r : VReq) (s : State), starts 0x0704 cid hr s = true ∧ answers cid hr r s = true)
    ∧ (∃ (cid : Nat) (hr : HostRead) (r : VReq) (n : Node) (pts : List (Nat × Bytes)) (s : State), starts 0x0704 cid hr s = true ∧ answers cid hr r s = true ∧ r.kind = 3 ∧ param cid 72 8 s = 0 ∧ 264192 ≤ (theCmd cid s).outCap ∧ nodeIn s.toDev 1 r.index = some n ∧ r.waiters.contains cid = false ∧ commitHolds s.toDev = false ∧ rekeyOpen s.toDev r n (entriesOf cid hr r s) = .ok pts)
    ∧ (∃ (cid : Nat) (hr : HostRead) (r : VReq) (n : Node) (k : Key) (s : State), starts 0x0704 cid hr s = true ∧ answers cid hr r s = true ∧ r.kind = 4 ∧ param cid 72 8 s = 0 ∧ leafIs r.index n s ∧ nBlank n (r.index % 64) = true ∧ keyIn (r.index % 2 ^ 36) s = some k ∧ k.spilled = true ∧ (theCmd cid s).waitOn = []) :=
  ⟨⟨1, (hrD (nodeEntry (wVlt (wVault (wNode 1)) wUp).toDev 1 5 (wNode 3) (2 ^ 48) 2)), { wReq 1 with nodes := [(1, 5)] }, (wVlt { wVault (wNode 1) with reqs := [{ wReq 1 with nodes := [(1, 5)] }], cache := [⟨2, 0, ⟨[0, 0, 0, 0, 0, 2], 2 ^ 48⟩, false, 0⟩] } (wCmd (wV 0x704 [(64, [1, 0, 0, 0, 1])] 80 0) wUp)), by decide +kernel⟩,
   ⟨1, (hrD (zeros 0)), { wReq 3 with nodes := [(0, 0)], payload := zeros 4096, waiters := [2] }, (wNode 63), [], (wVlt { wVault (wNode 63) with reqs := [{ wReq 3 with nodes := [(0, 0)], payload := zeros 4096, waiters := [2] }] } (onDev (onHif (fun h => { h with cmds := [wV 0x704 [(64, [1, 0, 0, 0, 3])] 0 264192, { wV 0x702 [] 4096 4128 with cid := 2, waitOn := [reqWait 1] }], nextCid := 3 })) wUp)), by decide +kernel⟩,
   ⟨1, (hrD (natLE (spillBlock 0) 8 ++ zeros 4120)), { wReq 4 with part := 63, index := spillBlock 0 }, { wNode 0 with major := 0 }, { wKey with entry := 0, resident := false, spilled := true }, (wVlt { wVault (wNode 0) with reqs := [{ wReq 4 with part := 63, index := spillBlock 0 }], cache := [⟨1, 0xFC0000000, { wNode 0 with major := 0 }, false, 0⟩] } (wKeys [{ wKey with entry := 0, resident := false, spilled := true }] (wCmd (wV 0x704 [(64, [1, 0, 0, 0, 4])] 4128 0) wUp))), by decide +kernel⟩⟩

theorem hyp_VaultEpochsRun_1 :
    (∃ (cid : Nat) (hr : HostRead) (s : State), starts 0x0705 cid hr s = true ∧ vltGood cid false s = true ∧ zeroFrom cid 64 s = true ∧ (cmdFn (theCmd cid s) = 0 ∨ partsOf s.toDev (cmdFn (theCmd cid s)) ≠ []))
    ∧ (∃ (acc : Access) (s : State), regGoes acc 89 0x040 s = true ∧ (acc.world = .K ∨ acc.world = .C))
    ∧ (∃ (s : State), s.vlt.commit = none ∧ s.vlt.ready = true ∧ (s.vlt.pending ≠ [] ∨ s.vlt.pendingReg = true) ∧ noneHeld s = true ∧ (commitLine (linesBack s)).isNone = true)
    ∧ (∃ (cid : Nat) (s : State), s.vlt.commit = none ∧ s.vlt.ready = true ∧ s.vlt.pending = [cid] ∧ noneHeld s = true ∧ (s.vlt.cache.all (fun l => !l.dirty)) = true ∧ commitAsk s.toDev = [] ∧ keepOnly s.toDev = false ∧ (theCmd cid s).stage = .running ∧ (cmdOf? s.toDev cid).isSome = true) :=
  ⟨⟨1, hr0, (wVlt (wVault (wNode 1)) (wCmd (wV 0x705 [] 0 0) wUp)), by decide +kernel⟩,
   ⟨aK, wUp, by decide +kernel⟩,
   ⟨(wStore (wVlt { wVault (wNode 1) with pending := [1] } (wCmd (wV 0x705 [] 0 0) wUp))), by decide +kernel⟩,
   ⟨1, (wStore (wVlt { wVault (wNode 1) with pending := [1] } (wCmd { wV 0x705 [] 0 0 with stage := .running } wUp))), by decide +kernel⟩⟩

theorem hyp_VaultEpochsRun_2 :
    (∃ (m : CommitS) (s : State), s.vlt.commit = some m ∧ m.step = 5 ∧ keepOnly s.toDev = false ∧ noPendingGen s = true)
    ∧ (∃ (p : Nat) (m : CommitS) (s : State), s.vlt.commit = some m ∧ m.step = 5 ∧ keepOnly s.toDev = false ∧ p < 63 ∧ m.answered.getLsbD p = true ∧ rootStuck p s.vlt.root = false)
    ∧ (∃ (s : State), dirtyUnpinned s.toDev ≤ 128992 ∧ s.vlt.forcing = false)
    ∧ (∃ (l : Line) (m : List (Nat × Nat)) (s : State), 128992 < dirtyUnpinned s.toDev ∧ lruLine s.toDev (fun l => l.dirty && !isPinned l && !lineStuck s.toDev l) = some l ∧ writeBack (storeEpoch s.toDev) l.level l.index s.toDev = .error m) :=
  ⟨⟨⟨5, 5, [], false, 1, []⟩, (wStore (wVlt { wVault (wNode 1) with commit := some ⟨5, 5, [], false, 1, []⟩ } wUp)), by decide +kernel⟩,
   ⟨0, ⟨5, 5, [], false, 1, []⟩, (wStore (wVlt { wVault (wNode 1) with commit := some ⟨5, 5, [], false, 1, []⟩ } wUp)), by decide +kernel⟩,
   ⟨(wVlt (wVault (wNode 1)) wUp), by decide +kernel⟩,
   big_hyp 128992 (by decide)⟩

theorem hyp_VaultEpochsRun_3 :
    (∃ (s : State), 128992 < dirtyUnpinned s.toDev ∧ dirtyUnpinned (dirtyBack s) ≤ 96744)
    ∧ (∃ (cid : Nat) (hr : HostRead) (p o : Nat) (s : State), starts 0x0160 cid hr s = true ∧ zeroFrom cid 66 s = true ∧ noHandles cid s = true ∧ p = param cid 64 1 s ∧ p ≤ 62 ∧ o = param cid 65 1 s ∧ ((1 ≤ o ∧ o ≤ 63 ∧ s.hif.bound.contains o = true) ∨ o = 0x80) ∧ (partIn p s).owner = 0 ∧ keepOnly s.toDev = false ∧ s.vlt.ready = true ∧ s.vlt.commit = none ∧ dirRoom s.toDev worldK = true ∧ persRoom s.toDev worldK = true ∧ slotsPinned s.toDev + spanOf 32 ≤ 49152 ∧ spanOf 32 ≤ slotsFree s.toDev ∧ canDraw s = true)
    ∧ (∃ (cid : Nat) (hr : HostRead) (p : Nat) (s : State), starts 0x0161 cid hr s = true ∧ zeroFrom cid 65 s = true ∧ noHandles cid s = true ∧ p = param cid 64 1 s ∧ p ≤ 62 ∧ (partIn p s).owner ≠ 0 ∧ keepOnly s.toDev = false ∧ s.vlt.ready = true ∧ s.vlt.commit = none ∧ partBusy s.toDev p = false) :=
  ⟨⟨_, big_back 128992 (by decide)⟩,
   ⟨1, hr0, 2, 0x80, (wServe (wStore (wVlt (wVault (wNode 1)) (wCmd (wc1 0x160 [2, 0x80]) wUp)))), by decide +kernel⟩,
   ⟨1, hr0, 0, (wStore (wVlt (wVault (wNode 1)) (wCmd (wc1 0x161 [0]) wUp))), by decide +kernel⟩⟩

theorem hyp_TamperResponds_1 :
    (∃ (c : TamperClass) (i : Nat) (v : BitVec 32) (s : State), tripReady c i s = true ∧ c.val ≠ 1 ∧ tripGrade s.toDev c v.toNat = 0 ∧ logRoom s = true)
    ∧ (∃ (c : TamperClass) (i : Nat) (v : BitVec 32) (s : State), tripReady c i s = true ∧ c.val = 1 ∧ tripGrade s.toDev c v.toNat = 0 ∧ logRoom s = true)
    ∧ (∃ (c : TamperClass) (i : Nat) (v : BitVec 32) (s : State), tripReady c i s = true ∧ tripGrade s.toDev c v.toNat = 1)
    ∧ (∃ (c : TamperClass) (i : Nat) (v : BitVec 32) (s : State), tripReady c i s = true ∧ tripGrade s.toDev c v.toNat = 2) :=
  ⟨⟨7, 1, 5, (wGrades 0 wUp), by decide +kernel⟩,
   ⟨1, 0, 2100, (onDev (onBat (fun b => { b with vbatMv := 3000 })) wUp), by decide +kernel⟩,
   ⟨5, 1, 5, (wGrades (4 ^ 5) (wDie wUp)), by decide +kernel⟩,
   ⟨5, 1, 5, (wGrades (2 * 4 ^ 5) { wDie wUp with mem := [(regionBase 0, 1)] }), by decide +kernel⟩⟩

theorem hyp_TamperResponds_2 :
    (∃ (c : TamperClass) (i : Nat) (v : BitVec 32) (s : State), tripReady c i s = true ∧ tripGrade s.toDev c v.toNat = 3)
    ∧ (∃ (c : TamperClass) (i : Nat) (s : State), batAlone s.toDev = true ∧ batWatches s.toDev c i = true)
    ∧ (∃ (c : TamperClass) (i : Nat) (ms : BitVec 32) (s : State), s.tmp.trips.contains (c.val, i) = true ∧ neverClears c = false ∧ logRoom s = true ∧ s.tmp.hold = false)
    ∧ (∃ (c : TamperClass) (i : Nat) (ms : BitVec 32) (s : State), s.tmp.trips = [(c.val, i)] ∧ neverClears c = false ∧ s.tmp.hold = true ∧ s.cpm.power = .ready ∧ s.cpm.warmPending = none) :=
  ⟨⟨8, 1, 5, (wGrades (3 * 4 ^ 8) { wDie wUp with mem := [(regionBase 0, 1)], bat := { envelope := [1] } }), by decide +kernel⟩,
   ⟨8, 1, { wUp with bat := { onVbat := true } }, by decide +kernel⟩,
   ⟨7, 1, 500, (wTmp { trips := [(7, 1), (7, 2)] } wUp), by decide +kernel⟩,
   ⟨5, 1, 500, (wTmp { trips := [(5, 1)], hold := true } wUp), by decide +kernel⟩⟩

theorem hyp_TamperResponds_3 :
    (∃ (r : Region) (s : State), (regionOf s.toDev r).phase = .halted ∧ (regionOf s.toDev r).cause = 6 ∧ s.die.safe = false ∧ scopeTripped s.toDev (some r.val) = false)
    ∧ (∃ (s : State), s.tmp.dieSafe = true ∧ s.tmp.hold = false ∧ scopeTripped s.toDev none = false ∧ s.cpm.power = .ready ∧ s.cpm.warmPending = none)
    ∧ (∃ (c : TamperClass) (i l : Nat) (s : State), meshWatched s.toDev c i = true ∧ s.tmp.suspects.contains (c.val, i) = false)
    ∧ (∃ (c : TamperClass) (i l : Nat) (s : State), s.tmp.suspects.contains (c.val, i) = true) :=
  ⟨⟨2, (onDev (onRegion 2 (fun x => { x with phase := .halted, cause := 6 })) wUp), by decide +kernel⟩,
   ⟨(wTmp { dieSafe := true } wUp), by decide +kernel⟩,
   ⟨8, 1, 0, wUp, by decide +kernel⟩,
   ⟨8, 1, 0, (wTmp { suspects := [(8, 1)] } wUp), by decide +kernel⟩⟩

theorem hyp_TamperResponds_4 :
    (∃ (k : Sensor) (s : State), seqLive s.toDev = true ∧ s.tmp.calibrating = none ∧ s.tmp.heldOut.contains k.val = false ∧ s.tmp.calCid = none)
    ∧ (∃ (k : Sensor) (cid : Nat) (s : State), seqLive s.toDev = true ∧ s.tmp.calibrating = none ∧ s.tmp.heldOut.contains k.val = false ∧ s.tmp.calCid = some cid)
    ∧ (∃ (k : Sensor) (o : Int) (s : State), s.tmp.calibrating = some k.val ∧ s.tmp.calCid = none)
    ∧ (∃ (k : Sensor) (o : Int) (cid : Nat) (s : State), s.tmp.calibrating = some k.val ∧ s.tmp.calCid = some cid ∧ s.tmp.calPending = [] ∧ (theCmd cid s).stage = .running ∧ (cmdOf? s.toDev cid).isSome = true) :=
  ⟨⟨3, wUp, by decide +kernel⟩,
   ⟨3, 2, (wTmp { calCid := some 2, calPending := [3, 4] } wUp), by decide +kernel⟩,
   ⟨3, (-4), (wTmp { calibrating := some 3 } wUp), by decide +kernel⟩,
   ⟨3, 2, 1, (wTmp { calibrating := some 3, calCid := some 1 } (wCmd { wc1 0x1B0 [8] with stage := .running } wUp)), by decide +kernel⟩⟩

theorem hyp_TamperResponds_5 :
    (∃ (cid : Nat) (hr : HostRead) (w : Word32) (s : State), starts 0x0190 cid hr s = true ∧ w = BitVec.ofNat 32 (param cid 64 4 s) ∧ param cid 64 4 s < 2 ^ 30 ∧ gradeIn w 1 = 0 ∧ param cid 68 1 s < 16 ∧ zeroFrom cid 69 s = true ∧ (gradeClasses.all (fun k => decide (gradeFloor k ≤ gradeIn w k))) = true ∧ gradesMay (param cid 64 4 s) (param cid 68 1 s) s = true ∧ rwpRefused s.toDev rwpGrades = none ∧ rwpRefused s.toDev rwpLoopCfg = none ∧ logRoom s = true)
    ∧ (∃ (cid : Nat) (hr : HostRead) (s : State), starts 0x0191 cid hr s = true ∧ zeroFrom cid 70 s = true ∧ logRoom s = true) :=
  ⟨⟨1, hr0, 0x3FFF6991, (wCmd (wc1 0x190 [0x91, 0x69, 0xFF, 0x3F, 5]) wUp), by decide +kernel⟩,
   ⟨1, hr0, (wCmd (wc1 0x191 [1, 2, 3, 4, 5, 6]) wUp), by decide +kernel⟩⟩

theorem hyp_EventsAreRecorded_1 :
    (∃ (s : State), s.evr.ready = true ∧ s.evr.buf ≠ [] ∧ keepOnly s.toDev = false ∧ s.evr.supNon + s.evr.supRet = 0 ∧ flushQuiet s = true)
    ∧ (∃ (s : State), s.evr.ready = true ∧ s.evr.supNon + s.evr.supRet ≠ 0 ∧ keepOnly s.toDev = false ∧ flushQuiet s = true)
    ∧ (∃ (s : State), s.evr.ready = true ∧ s.evr.buf ≠ [] ∧ keepOnly s.toDev = true)
    ∧ (∃ (acc : Access) (s : State), regGoes acc 179 8 s = true ∧ (acc.world = .K ∨ acc.world = .C) ∧ s.evr.buf ≠ [] ∧ keepOnly s.toDev = false ∧ s.evr.supNon + s.evr.supRet = 0 ∧ flushQuiet s = true) :=
  ⟨⟨(wStore (wEvr { buf := [wRec 4, wRec 5], ready := true } wUp)), by decide +kernel⟩,
   ⟨(wStore (wEvr { buf := [wRec 4], supNon := 3, supRet := 1, ready := true } wUp)), by decide +kernel⟩,
   ⟨(onDev (onNvm (fun n => { n with positions := [] })) (wEvr { buf := [wRec 4], ready := true } wUp)), by decide +kernel⟩,
   ⟨aK, (wStore (wEvr { buf := [wRec 4, wRec 5], ready := true } wUp)), by decide +kernel⟩⟩

theorem hyp_EventsAreRecorded_2 :
    (∃ (acc : Access) (s : State), regGoes acc 179 8 s = true ∧ (acc.world = .K ∨ acc.world = .C) ∧ s.evr.verifying = false)
    ∧ (∃ (s : State), s.evr.ready = true ∧ s.evr.verifying = false)
    ∧ (∃ (s : State), s.evr.verifying = true)
    ∧ (∃ (n k : Nat) (s : State), s.evr.verifying = true ∧ verifyArea (logKey s.toDev) 0 s.evr.gen = some (n, k) ∧ logRoom s = true) :=
  ⟨⟨aK, wUp, by decide +kernel⟩,
   ⟨(wEvr { ready := true } wUp), by decide +kernel⟩,
   ⟨(wEvr { verifying := true, gen := [wRec 4] } wUp), by decide +kernel⟩,
   ⟨6, 1, (wEvr { verifying := true, gen := [wRec 4, wRec 6] } wUp), by decide +kernel⟩⟩

theorem hyp_EventsAreRecorded_3 :
    (∃ (n k : Nat) (s : State), s.evr.verifying = true ∧ verifyArea (logKey s.toDev) 1 s.evr.ret = some (n, k) ∧ logRoom s = true)
    ∧ (∃ (s : State), s.evr.ready = true ∧ rwpRefused s.toDev rwpOpTime = none ∧ rwpVal s.toDev rwpOpTime ≠ s.evr.opTime ∧ s.nvm.rwpQueue.length < 64)
    ∧ (∃ (cid : Nat) (hr : HostRead) (s : State), starts 0x0A01 cid hr s = true ∧ param cid 64 1 s ≤ 1 ∧ param cid 65 1 s ≤ 1 ∧ 32 ≤ (theCmd cid s).outCap ∧ (theCmd cid s).outCap % 32 = 0 ∧ param cid 72 8 s < 2 ^ 40 ∧ zeroIn cid 66 72 s = true ∧ zeroFrom cid 80 s = true)
    ∧ (∃ (cid : Nat) (hr : HostRead) (s : State), starts 0x0A02 cid hr s = true ∧ zeroFrom cid 64 s = true ∧ (theCmd cid s).inPtr = 0 ∧ (theCmd cid s).inLen = 0 ∧ catalogBytes.length ≤ (theCmd cid s).outCap) :=
  ⟨⟨5, 2, (wEvr { verifying := true, ret := [wRec 4, wRec 5] } wUp), by decide +kernel⟩,
   ⟨(wEvr { ready := true, opTime := 60 } wUp), by decide +kernel⟩,
   ⟨1, hr0, (wEvr { gen := [wRec 4, wRec 5] } (wCmd { wc1 0xA01 [] with outCap := 128 } wUp)), by decide +kernel⟩,
   ⟨1, hr0, (wCmd { wc1 0xA02 [] with outCap := 65536 } wUp), by decide +kernel⟩⟩

theorem hyp_EventsAreRecorded_4 :
    ∃ (cid : Nat) (hr : HostRead) (s : State), starts 0x01A0 cid hr s = true ∧ param cid 64 1 s ≤ 1 ∧ zeroFrom cid 65 s = true ∧ keepOnly s.toDev = false ∧ flushQuiet s = true ∧ s.evr.supNon + s.evr.supRet = 0 :=
  ⟨1, hr0, (wStore (wCmd (wc1 0x1A0 [1]) wUp)), by decide +kernel⟩

theorem hyp_RecordPagesRun_1 :
    (∃ (id : BitVec 32) (page t : Nat) (s : State), keepOnly s.toDev = false ∧ isFixedClass (recClass id.toNat) = false ∧ page + 1 < (recOf s.toDev id.toNat).pages ∧ page = (recOf s.toDev id.toNat).writing.length ∧ stripeLowest s.nvm = some t)
    ∧ (∃ (id : BitVec 32) (page t : Nat) (s : State), keepOnly s.toDev = false ∧ isFixedClass (recClass id.toNat) = false ∧ page + 1 = (recOf s.toDev id.toNat).pages ∧ page = (recOf s.toDev id.toNat).writing.length ∧ stripeLowest s.nvm = some t)
    ∧ (∃ (id : BitVec 32) (page : Nat) (s : State), keepOnly s.toDev = false ∧ isFixedClass (recClass id.toNat) = true ∧ page < (recOf s.toDev id.toNat).pages)
    ∧ (∃ (id : BitVec 32) (page b : Nat) (s : State), keepOnly s.toDev = false ∧ isFixedClass (recClass id.toNat) = true ∧ page < (recOf s.toDev id.toNat).pages ∧ (recOf s.toDev id.toNat).writing = [] ∧ bankAt s.nvm 0 (pageStripe id.toNat page s) = some b ∧ logRoom s = true) :=
  ⟨⟨0x01000001, 1, 17792, (wNvm wNv), by decide +kernel⟩,
   ⟨0x01000001, 1, 17792, (wNvm { wNv with recs := [(0x01000001, { version := 1, pages := 2, stripes := [17800], writing := [17803] })] }), by decide +kernel⟩,
   ⟨0x05000002, 0, (wNvm wNv), by decide +kernel⟩,
   ⟨0x05000002, 0, 0, (wNvm wNv), by decide +kernel⟩⟩

theorem hyp_RecordPagesRun_2 :
    (∃ (id : BitVec 32) (page : Nat) (ok : Bool) (s : State), keepOnly s.toDev = true)
    ∧ (∃ (id : BitVec 32) (page p b : Nat) (s : State), readable id.toNat page s = true ∧ missingAt s.nvm (pageStripe id.toNat page s) = [] ∧ p < 8 ∧ bankAt s.nvm p (pageStripe id.toNat page s) = some b ∧ ((List.range 8).all (fun q => q == p || bankAt s.nvm q (pageStripe id.toNat page s) != some b)) = true)
    ∧ (∃ (id : BitVec 32) (page : Nat) (bad : List Nat) (s : State), readable id.toNat page s = true ∧ ((recsAt s.toDev (pageStripe id.toNat page s)).any (fun p => p.1 == id.toNat)) = true ∧ bad.Nodup ∧ bad.all (· < 10) = true ∧ bad.length = 3)
    ∧ (∃ (id : Nat) (s : State), isKeepId id = true) :=
  ⟨⟨0x01000001, 1, true, (wNvm { wNv with positions := (List.range 8).map some ++ [none, none] }), by decide +kernel⟩,
   ⟨0x01000001, 1, 3, 3, (wNvm wNv), by decide +kernel⟩,
   ⟨0x05000002, 0, [0, 3, 9], (wNvm wNv), by decide +kernel⟩,
   ⟨0x1F, (wNvm wNv), by decide +kernel⟩⟩

theorem hyp_StoreMaintenanceRuns_1 :
    (∃ (b : Bank) (s : State), (bankOf s.toDev b).out = false ∧ s.nvm.positions.contains (some b.val) = false ∧ (s.nvm.rebuilds.any (fun r => r.target == b.val)) = false ∧ logRoom s = true)
    ∧ (∃ (b : Bank) (s : State), (bankOf s.toDev b).out = false)
    ∧ (∃ (w : Fin 2) (r : Rebuild) (s : State), dieRuns s.toDev = true ∧ s.nvm.rebuilds[w.val]? = some r ∧ r.done + 1 < 65536)
    ∧ (∃ (w : Fin 2) (r : Rebuild) (s : State), dieRuns s.toDev = true ∧ s.nvm.rebuilds[w.val]? = some r ∧ r.done + 1 = 65536 ∧ r.position < s.nvm.positions.length) :=
  ⟨⟨11, (wNvm wNv), by decide +kernel⟩,
   ⟨3, (wNvm wNv), by decide +kernel⟩,
   ⟨0, ⟨3, 11, 4095, 0, 0⟩, (wNvm { wNv with rebuilds := [⟨3, 11, 4095, 0, 0⟩] }), by decide +kernel⟩,
   ⟨0, ⟨3, 11, 65535, 0, 0⟩, (wNvm { wNv with rebuilds := [⟨3, 11, 65535, 0, 0⟩] }), by decide +kernel⟩⟩

theorem hyp_StoreMaintenanceRuns_2 :
    (∃ (w : Fin 2) (r : Rebuild) (s : State), dieRuns s.toDev = true ∧ s.nvm.rebuilds[w.val]? = some r)
    ∧ (∃ (n : Nat) (s : State), dieRuns s.toDev = true ∧ s.nvm.scrubPos + 1 < 786432 ∧ (bankOf s.toDev (s.nvm.scrubPos / 65536)).out = false)
    ∧ (∃ (c : Option Nat) (s : State), dieRuns s.toDev = true ∧ s.nvm.scrubPos = 786431)
    ∧ (∃ (h : Nat) (s : State), 24 < h ∧ s.nvm.scrubUrgent = false ∧ logRoom s = true) :=
  ⟨⟨0, ⟨3, 11, 17801, 0, 0⟩, (wNvm { wNv with rebuilds := [⟨3, 11, 17801, 0, 0⟩] }), by decide +kernel⟩,
   ⟨0, (wNvm { wNv with scrubPos := 65536 }), by decide +kernel⟩,
   ⟨none, (wNvm { wNv with scrubPos := 786431 }), by decide +kernel⟩,
   ⟨25, (wNvm wNv), by decide +kernel⟩⟩

theorem hyp_StoreMaintenanceRuns_3 :
    (∃ (a t : Nat) (s : State), (movable s).contains a = true ∧ (∀ x ∈ movable s, x = a ∨ stripeWear s.nvm a < stripeWear s.nvm x) ∧ stripeHighest s.nvm = some t ∧ (∃ p ∈ s.nvm.stripeWrites, stripeWear s.nvm a + 50000 ≤ p.2))
    ∧ (∃ (a t : Nat) (s : State), (movable s).contains a = true ∧ (∀ x ∈ movable s, x = a ∨ stripeWear s.nvm a < stripeWear s.nvm x) ∧ stripeHighest s.nvm = some t ∧ (∃ p ∈ s.nvm.stripeWrites, stripeWear s.nvm a + 50000 ≤ p.2) ∧ logRoom s = true)
    ∧ (∃ (id : Nat) (v : Word32) (l : List (Nat × Word32)) (s : State), s.nvm.rwpQueue = (id, v) :: l ∧ s.nvm.rwpWaiting = [])
    ∧ (∃ (acc : Access) (id : Nat) (v : BitVec 32) (s : State), dieRuns s.toDev = true ∧ acc.world = .K ∧ 9 ≤ id ∧ id < 384 ∧ regGoes acc 184 (0x040 + 4 * (id - 9)) s = true ∧ rwpRefused s.toDev id = none ∧ s.nvm.rwpQueue.length < 64) :=
  ⟨⟨17800, 17804, (wNvm wNv), by decide +kernel⟩,
   ⟨17800, 17804, (wNvm wNv), by decide +kernel⟩,
   ⟨9, 77, [(10, 5)], (wNvm { wNv with rwpQueue := [(9, 77), (10, 5)] }), by decide +kernel⟩,
   ⟨aK, 9, 77, (wNvm wNv), by decide +kernel⟩⟩

theorem hyp_ServiceActionsRun_1 :
    (∃ (cid : Nat) (hr : HostRead) (s : State), svcGoes 1 cid hr s = true ∧ s.tmp.hold = false)
    ∧ (∃ (cid : Nat) (hr : HostRead) (s : State), svcGoes 2 cid hr s = true ∧ s.tmp.hold = false)
    ∧ (∃ (cid : Nat) (hr : HostRead) (s : State), svcGoes 3 cid hr s = true)
    ∧ (∃ (cid : Nat) (hr : HostRead) (s : State), svcGoes 4 cid hr s = true ∧ s.tmp.hold = false) :=
  ⟨⟨1, hr0, (wSvc [1, 2, 5]), by decide +kernel⟩,
   ⟨1, hr0, (wSvc [2, 3, 5]), by decide +kernel⟩,
   ⟨1, hr0, (onDev (onRegion 2 (fun x => { x with phase := .held })) (wSvc [3, 2])), by decide +kernel⟩,
   ⟨1, hr0, (wSvc [4, 0, 5]), by decide +kernel⟩⟩

theorem hyp_ServiceActionsRun_2 :
    (∃ (cid : Nat) (hr : HostRead) (s : State), svcGoes 5 cid hr s = true)
    ∧ (∃ (cid p : Nat) (hr : HostRead) (s : State), svcGoes 6 cid hr s = true ∧ (regionOf s.toDev (svcOn cid s)).tmb.standIn = some p ∧ p < 7)
    ∧ (∃ (cid : Nat) (e : Engine) (hr : HostRead) (s : State), svcGoes 7 cid hr s = true ∧ (roleOf s.toDev (svcOn cid s)).engine = some e)
    ∧ (∃ (cid : Nat) (hr : HostRead) (s : State), svcGoes 8 cid hr s = true ∧ logRoom s = true) :=
  ⟨⟨1, hr0, (wSvc [5, 1, 4]), by decide +kernel⟩,
   ⟨1, 4, hr0, (onDev (onRegion 1 (fun x => { x with tmb := { standIn := some 4 } })) (wSvc [6, 1])), by decide +kernel⟩,
   ⟨1, 3, hr0, { wSvc [7, 3] with lc := { wUp.lc with state := .provisioned }, brl := { roles := [(3, { engine := some 3 })], engs := [(3, { running := some 9 })] } }, by decide +kernel⟩,
   ⟨1, hr0, (wSvc [8]), by decide +kernel⟩⟩

theorem hyp_ServiceActionsRun_3 :
    ∃ (cid : Nat) (hr : HostRead) (s : State), starts 0x01B0 cid hr s = true ∧ svcAct (theCmd cid s) = 1 ∧ svcInRange (theCmd cid s) = true ∧ regionsUp s.toDev = [svcOn cid s] ∧ logRoom s = true :=
  ⟨1, hr0, { wSvc [1, 2, 5] with die := { regions := [(2, { phase := .up })] } }, by decide +kernel⟩

theorem hyp_RegionsDrainAndReturn_1 :
    (∃ (r : Region) (a : SvcAction) (s : State), drained r s ∧ regionAction s.toDev r = some a ∧ a.action = 2 ∧ (cmdOf? s.toDev a.cid).isSome = true ∧ (theCmd a.cid s).stage = .running)
    ∧ (∃ (r : Region) (a : SvcAction) (s : State), drained r s ∧ regionAction s.toDev r = some a ∧ a.action = 1)
    ∧ (∃ (r : Region) (s : State), drained r s ∧ regionAction s.toDev r = none ∧ (regionOf s.toDev r).cause = 4 ∧ s.cpm.pwrReq.getLsbD r = true ∧ logRoom s = true)
    ∧ (∃ (r : Region) (x : Nat) (s : State), drained r s ∧ regionAction s.toDev r = none ∧ Memory.wf s.mem ∧ regionBase r ≤ x ∧ x < regionBase r + 0xC0000000) :=
  ⟨⟨2, (wAct 2), (wReg { phase := .draining, cause := 1 } [wAct 2]), by decide +kernel⟩,
   ⟨2, (wAct 1), (wReg { phase := .draining, cause := 1 } [wAct 1]), by decide +kernel⟩,
   ⟨2, { wReg { phase := .draining, cause := 4 } [] with cpm := { power := .ready, pwrReq := 4 } }, by decide +kernel⟩,
   ⟨2, (regionBase 2 + 7), { wReg { phase := .draining, cause := 4 } [] with mem := [(regionBase 2 + 7, 9)] }, by decide +kernel⟩⟩

theorem hyp_RegionsDrainAndReturn_2 :
    (∃ (r : Region) (a : SvcAction) (t : Nat) (k : Task) (s : State), regionAction s.toDev r = some a ∧ (regionOf s.toDev r).phase = .draining ∧ a.drainMs ≠ 0 ∧ tasksOf s.toDev r = [(t, k)] ∧ k.state = .running ∧ k.ending = none)
    ∧ (∃ (r : Region) (s : State), (regionOf s.toDev r).phase = .resetting ∧ regionAction s.toDev r = none ∧ s.svc.fw = none ∧ s.cpm.pwrReq.getLsbD r = false)
    ∧ (∃ (r : Region) (st : Nat) (s : State), (regionOf s.toDev r).phase = .resetting ∧ regionAction s.toDev r = none ∧ s.svc.fw = none ∧ logRoom s = true)
    ∧ (∃ (r : Region) (a : SvcAction) (st : Nat) (s : State), (regionOf s.toDev r).phase = .resetting ∧ regionAction s.toDev r = some a ∧ s.svc.fw = none ∧ (cmdOf? s.toDev a.cid).isSome = true ∧ (theCmd a.cid s).stage = .running) :=
  ⟨⟨2, (wAct 1), 0, (wTask [] []), (wReg { phase := .draining, cause := 1, tmb := { tasks := [(0, wTask [] [])] }, cores := [(0, { task := some 0 })] } [wAct 1]), by decide +kernel⟩,
   ⟨2, (wReg { phase := .resetting, cause := 2 } []), by decide +kernel⟩,
   ⟨2, 3, (wReg { phase := .resetting, cause := 2 } []), by decide +kernel⟩,
   ⟨2, (wAct 1), 3, (wReg { phase := .resetting, cause := 1 } [wAct 1]), by decide +kernel⟩⟩

theorem hyp_RegionsDrainAndReturn_3 :
    (∃ (acc : Access) (r : Region) (s : State), acc.world = .K ∧ regGoes acc 186 0x040 s = true ∧ s.cpm.pwrReq.getLsbD r = false ∧ s.cpm.pwrReq ||| BitVec.ofNat 4 (2 ^ r.val) ≠ 15 ∧ regionUp s.toDev r = true ∧ s.die.safe = false ∧ s.tmp.hold = false)
    ∧ (∃ (acc : Access) (r : Region) (s : State), acc.world = .K ∧ regGoes acc 186 0x040 s = true ∧ s.cpm.pwrReq.getLsbD r = true ∧ (regionOf s.toDev r).phase = .gated ∧ s.die.safe = false) :=
  ⟨⟨aK, 2, (wReg { phase := .up } []), by decide +kernel⟩,
   ⟨aK, 2, { wReg { phase := .gated } [] with cpm := { power := .ready, pwrReq := 4 } }, by decide +kernel⟩⟩

theorem hyp_BlocksAreContained_1 :
    (∃ (b : Blk) (t row : Nat) (s : State), (∀ n : Bank, b ≠ .nvmBank n) ∧ rowsUsed s.toDev b t < 32 ∧ logRoom s = true)
    ∧ (∃ (n : Bank) (t row : Nat) (s : State), (bankOf s.toDev n).out = false ∧ logRoom s = true)
    ∧ (∃ (b : Blk) (k : Nat) (s : State), s.die.safe = false ∧ s.tmp.hold = false ∧ blkResetting s.toDev b = false ∧ blkServes s.toDev b = true ∧ selfTests b = true ∧ (∀ r, r < 4 → blkRegion b = some r → (regionOf s.toDev r).phase ≠ .draining))
    ∧ (∃ (r : Region) (k : Nat) (s : State), s.die.safe = false ∧ s.tmp.hold = false ∧ blkResetting s.toDev (.tumbler r) = false ∧ regionUp s.toDev r = true ∧ s.die.out.contains (.tumbler r) = false ∧ logRoom s = true) :=
  ⟨⟨(.bolt 2), 3, 4, wUp, by decide +kernel⟩,
   ⟨3, 3, 4, (wNvm wNv), by decide +kernel⟩,
   ⟨(.core ⟨0, 3⟩), 2, (wDie wUp), by decide +kernel⟩,
   ⟨0, 2, (wDie wUp), by decide +kernel⟩⟩

theorem hyp_BlocksAreContained_2 :
    (∃ (k : Nat) (s : State), s.die.safe = false ∧ s.tmp.hold = false ∧ blkResetting s.toDev .keyStore = false ∧ s.die.out.contains .keyStore = false)
    ∧ (∃ (c : CoreId) (k : Nat) (s : State), s.die.resetting = [(.core c, k)] ∧ releaseOf s.toDev c = none ∧ logRoom s = true)
    ∧ (∃ (r : Region) (k : Nat) (s : State), s.die.resetting = [(.bolt r, k)])
    ∧ (∃ (c : CoreId) (a : SvcAction) (k : Nat) (s : State), s.die.resetting = [(.core c, k)] ∧ releaseOf s.toDev c = some a ∧ (cmdOf? s.toDev a.cid).isSome = true ∧ (theCmd a.cid s).stage = .running) :=
  ⟨⟨2, (wDie wUp), by decide +kernel⟩,
   ⟨⟨0, 3⟩, 2, (wReset [(.core ⟨0, 3⟩, 2)] (wDie wUp)), by decide +kernel⟩,
   ⟨0, 2, (wReset [(.bolt 0, 2)] (wDie wUp)), by decide +kernel⟩,
   ⟨⟨2, 3⟩, (wAct 6), 3, (wReset [(.core ⟨2, 3⟩, 3)] (wReg { phase := .up, tmb := { standIn := some 3 } } [wAct 6])), by decide +kernel⟩⟩

theorem hyp_PowerComesAndGoes_1 :
    (∃ (b : BootReport) (s : State), s.cpm.power = .porLow)
    ∧ (∃ (b : BootReport) (s : State), s.cpm.power = .porLow ∧ b.imageAFails = true ∧ b.imageBFails = true)
    ∧ (∃ (ms : Nat) (s : State), s.cpm.power = .booting ∧ logRoom s = true)
    ∧ (∃ (cause m : Nat) (s : State), s.cpm.power = .closing ∧ s.cpm.warmPending = some (cause, m)) :=
  ⟨⟨(wBoot false false), State.reset, by decide +kernel⟩,
   ⟨(wBoot true true), State.reset, by decide +kernel⟩,
   ⟨9000, (wPow .booting), by decide +kernel⟩,
   ⟨3, 7, { wUp with cpm := { power := .closing, warmPending := some (3, 7) } }, by decide +kernel⟩⟩

theorem hyp_PowerComesAndGoes_2 :
    (∃ (s : State), running s.toDev = true)
    ∧ (∃ (s : State), s.cpm.power ≠ .mainOff ∧ s.cpm.power ≠ .porLow)
    ∧ (∃ (s : State), s.cpm.power ≠ .mainOff)
    ∧ (∃ (s : State), s.cpm.power = .mainOff) :=
  ⟨⟨wUp, by decide +kernel⟩,
   ⟨wUp, by decide +kernel⟩,
   ⟨wUp, by decide +kernel⟩,
   ⟨(wPow .mainOff), by decide +kernel⟩⟩

theorem hyp_PowerComesAndGoes_3 :
    ∃ (b : Blk) (s : State), running s.toDev = true :=
  ⟨(.core ⟨0, 2⟩), wUp, by decide +kernel⟩

theorem hyp_KeeperImagesAreSelected :
    (∃ (cid r : Nat) (hr : HostRead) (img : ImageRec) (s : State), fwGoes cid hr img s = true ∧ fwNamed cid hr img s ∧ param cid 65 1 s = 0 ∧ fwLive img s = true ∧ (regionsUp s.toDev).head? = some r ∧ s.tmp.hold = false)
    ∧ (∃ (cid : Nat) (hr : HostRead) (img : ImageRec) (s : State), fwGoes cid hr img s = true ∧ fwNamed cid hr img s ∧ param cid 65 1 s = 1 ∧ s.cpm.power = .ready ∧ s.cpm.warmPending = none)
    ∧ (∃ (cid : Nat) (hr : HostRead) (img : ImageRec) (s : State), fwGoes cid hr img s = true ∧ param cid 64 1 s = 0 ∧ param cid 65 1 s = 0 ∧ fwParse (inputOf cid hr s) = some img ∧ fwLive img s = true ∧ regionsUp s.toDev = [])
    ∧ (∃ (cid : Nat) (hr : HostRead) (img : ImageRec) (s : State), starts 0x0153 cid hr s = true ∧ zeroFrom cid 66 s = true ∧ param cid 64 1 s = 1 ∧ param cid 65 1 s ≤ 1 ∧ (theCmd cid s).inLen = 0 ∧ fwOf s.toDev (!s.cpm.imageB) = some img ∧ img.svn < s.svc.fwMinsv) :=
  ⟨⟨1, 2, hr0, wFwImg, (wFw [1] 0), by decide +kernel⟩,
   ⟨1, hr0, wFwImg, (wFw [1, 1] 0), by decide +kernel⟩,
   ⟨1, (hrD wFwNew), ⟨3, 1, false, [], []⟩, { wFw [] 4800 with die := {} }, by decide +kernel⟩,
   ⟨1, hr0, wFwImg, (onDev (onSvc (fun x => { x with fwMinsv := 5 })) (wFw [1] 0)), by decide +kernel⟩⟩

theorem hyp_DescriptorsRun_1 :
    (∃ (i : DmaInst) (ch : Channel) (desc : DescRead) (z : Desc) (pc ps pd : Nat) (s : State), descGoes i ch desc z pc s = true ∧ descReaches i ch z ps pd s = true ∧ dOp z ≠ 2)
    ∧ (∃ (i : DmaInst) (ch : Channel) (desc : DescRead) (z : Desc) (pc ps pd : Nat) (s : State), descGoes i ch desc z pc s = true ∧ descReaches i ch z ps pd s = true ∧ dOp z = 2 ∧ memGetN s.mem ps z.len = memGetN s.mem pd z.len)
    ∧ (∃ (i : DmaInst) (ch : Channel) (desc : DescRead) (z : Desc) (pc ps pd n : Nat) (s : State), descGoes i ch desc z pc s = true ∧ descReaches i ch z ps pd s = true ∧ dOp z = 2 ∧ firstDiff (memGetN s.mem ps z.len) (memGetN s.mem pd z.len) = some n)
    ∧ (∃ (i : DmaInst) (ch : Channel) (desc : DescRead) (z : Desc) (pc ps pd : Nat) (s : State), descGoes i ch desc z pc s = true ∧ descReaches i ch z ps pd s = true ∧ (dOp z = 2 → memGetN s.mem ps z.len = memGetN s.mem pd z.len)) :=
  ⟨⟨0, 2, wDr, (descOf (wFill)), (regionBase 0 + 0x1000), (regionBase 0 + 0x3000), (regionBase 0 + 0x4000), (wDmaRun (wFill)), by decide +kernel⟩,
   ⟨0, 2, wDr, (descOf (wDescC 2)), (regionBase 0 + 0x1000), (regionBase 0 + 0x3000), (regionBase 0 + 0x4000), (wDmaRun (wDescC 2)), by decide +kernel⟩,
   ⟨0, 2, wDr, (descOf (wDescC 2)), (regionBase 0 + 0x1000), (regionBase 0 + 0x3000), (regionBase 0 + 0x4000), 5, { wDmaRun (wDescC 2) with mem := memSetN (wDmaRun (wDescC 2)).mem (regionBase 0 + 0x3005) [1] }, by decide +kernel⟩,
   ⟨0, 2, wDr, (descOf (wFill)), (regionBase 0 + 0x1000), (regionBase 0 + 0x3000), (regionBase 0 + 0x4000), (wDmaRun (wFill)), by decide +kernel⟩⟩

theorem hyp_DescriptorsRun_2 :
    ∃ (i : DmaInst) (ch : Channel) (desc : DescRead) (z : Desc) (pc : Nat) (s : State), descGoes i ch desc z pc s = true ∧ descOk i (chOf s.toDev i ch).curSeg z = false ∧ (chOf s.toDev i ch).useSkip = false :=
  ⟨0, 2, wDr, (descOf (wDescB 3)), (regionBase 0 + 0x1000), (wDmaRun (wDescB 3)), by decide +kernel⟩

theorem hyp_RegistersAndTelemetryRun_1 :
    (∃ (acc : Access) (m : PageNo) (v : BitVec 32) (s : State), dieRuns s.toDev = true ∧ irqWriter acc m = true ∧ regGoes acc m 0x010 s = true)
    ∧ (∃ (acc : Access) (m : PageNo) (v : BitVec 32) (s : State), dieRuns s.toDev = true ∧ irqWriter acc m = true ∧ regGoes acc m 0x018 s = true ∧ s.lc.state = .develop)
    ∧ (∃ (acc : Access) (m : PageNo) (v : BitVec 32) (s : State), dieRuns s.toDev = true ∧ irqWriter acc m = true ∧ regGoes acc m 0x018 s = true ∧ s.lc.state ≠ .develop ∧ logRoom s = true)
    ∧ (∃ (acc : Access) (m : PageNo) (s : State), dieRuns s.toDev = true ∧ acc.world = .K ∧ regGoes acc m 0x02C s = true) :=
  ⟨⟨aK, 69, 5, wUp, by decide +kernel⟩,
   ⟨aK, 69, 5, wMonUp, by decide +kernel⟩,
   ⟨aK, 69, 5, wUp, by decide +kernel⟩,
   ⟨aK, 5, wUp, by decide +kernel⟩⟩

theorem hyp_RegistersAndTelemetryRun_2 :
    (∃ (s : State), dieRuns s.toDev = true)
    ∧ (∃ (cid : Nat) (hr : HostRead) (s : State), starts 0x0B01 cid hr s = true ∧ plainCmd cid s = true ∧ zeroFrom cid 64 s = true ∧ 64 ≤ (theCmd cid s).outCap)
    ∧ (∃ (cid : Nat) (hr : HostRead) (s : State), starts 0x0B02 cid hr s = true ∧ plainCmd cid s = true ∧ zeroFrom cid 74 s = true ∧ param cid 64 8 s % 4 = 0 ∧ param cid 64 8 s < 2 ^ 40 ∧ 1 ≤ param cid 72 2 s ∧ param cid 72 2 s ≤ 64 ∧ 4 * param cid 72 2 s ≤ (theCmd cid s).outCap ∧ (∀ i, i < param cid 72 2 s → telAddrOk (theCmd cid s).fn (param cid 64 8 s + 4 * i) = true))
    ∧ (∃ (acc : Access) (m : PageNo) (v : BitVec 64) (s : State), dieRuns s.toDev = true ∧ irqWriter acc m = true ∧ regGoes acc m 0x014 s = true ∧ (writeKind acc m 0x014 4 (v.extractLsb' 0 32) s.toDev).isNone = true) :=
  ⟨⟨wUp, by decide +kernel⟩,
   ⟨1, hr0, (wCmd { wc1 0xB01 [] with outCap := 64 } wUp), by decide +kernel⟩,
   ⟨1, hr0, (wCmd { wc1 0xB02 (natLE (pageBase 69 + 12) 8 ++ [1]) with outCap := 64 } wUp), by decide +kernel⟩,
   ⟨aK, 188, 0x123456789, wUp, by decide +kernel⟩⟩

theorem hyp_RegistersAndTelemetryRun_3 :
    (∃ (acc : Access) (m : PageNo) (off k : Nat) (v : BitVec 64) (s : State), dieRuns s.toDev = true ∧ off < 0x1000 ∧ off % 4 = 0 ∧ regGoes acc m off s = true ∧ writeKind acc m off 4 (v.extractLsb' 0 32) s.toDev = some k ∧ logRoom s = true)
    ∧ (∃ (acc : Access) (f : Fn) (v : BitVec 64) (s : State), fnUp s.toDev f = true ∧ (writeKind (hostAcc f) (110 + f) 0x040 4 (v.extractLsb' 0 32) s.toDev).isNone = true)
    ∧ (∃ (acc : Access) (f : Fn) (v : BitVec 64) (s : State), fnUp s.toDev f = true ∧ (writeKind (hostAcc f) (110 + f) 0x048 4 (v.extractLsb' 0 32) s.toDev).isNone = true ∧ (writeKind (hostAcc f) (110 + f) 0x04C 4 (v.extractLsb' 32 32) s.toDev).isNone = true)
    ∧ (∃ (acc : Access) (m : PageNo) (off : Nat) (s : State), dieRuns s.toDev = true ∧ off < 0x1000 ∧ isLow m off = true ∧ regReads acc m off s = true) :=
  ⟨⟨aC, 188, 0x040, 3, 5, (onDev (kwInstall allUnits) wUp), by decide +kernel⟩,
   ⟨aC, 3, 0x00FF1FFF, { wUp with hif := { numVfs := 9, vfEnable := true } }, by decide +kernel⟩,
   ⟨aC, 0, 0x123456789ABCDEF0, wUp, by decide +kernel⟩,
   ⟨aC, 188, 0xF10, (onDev (kwInstall allUnits) wUp), by decide +kernel⟩⟩

theorem hyp_RegistersAndTelemetryRun_4 :
    ∃ (acc : Access) (s : State), dieRuns s.toDev = true ∧ regReads acc 188 0x040 s = true ∧ latched acc 188 0x040 s = none :=
  ⟨aC, (onDev (kwInstall allUnits) { wUp with spn := { maxWait := 300 } }), by decide +kernel⟩

theorem hyp_MonitorServes_1 :
    (∃ (s : State), portServes s.toDev = true)
    ∧ (∃ (s : State), monGoes .ident s = true)
    ∧ (∃ (s : State), monGoes .status s = true)
    ∧ (∃ (area n : Nat) (from_ : BitVec 40) (s : State), monGoes .log s = true ∧ area ≤ 1 ∧ n ≤ 256) :=
  ⟨⟨wUp, by decide +kernel⟩,
   ⟨wUp, by decide +kernel⟩,
   ⟨wUp, by decide +kernel⟩,
   ⟨0, 5, 0, wUp, by decide +kernel⟩⟩

theorem hyp_MonitorServes_2 :
    (∃ (a n : Nat) (w : List Word32) (t s : State), monGoes .debug s = true ∧ 1 ≤ n ∧ n ≤ 64 ∧ a + 4 * n ≤ 2 ^ 40 ∧ monWords a n s = (.done, w, t))
    ∧ (∃ (a : Nat) (v : BitVec 32) (s : State), monGoes .debug s = true ∧ a + 4 ≤ 2 ^ 40 ∧ isRam a = true ∧ pageAt a = none ∧ Memory.wf s.mem ∧ (busPass monAcc a 4 .write s).1 = .done)
    ∧ (∃ (a : Nat) (v : BitVec 32) (s : State), monGoes .debug s = true ∧ a + 4 ≤ 2 ^ 40 ∧ (busPass monAcc a 4 .write s).1 = .denied)
    ∧ (∃ (c : CoreId) (s : State), monGoes .debug s = true ∧ regGoes monAcc (corePage c) 8 s = true) :=
  ⟨⟨regionBase 0, 3, (monWords (regionBase 0) 3 wKwMon).2.1, (monWords (regionBase 0) 3 wKwMon).2.2, wKwMon, by decide +kernel, by decide, by decide, by decide,
     Prod.ext (show (monWords (regionBase 0) 3 wKwMon).1 = .done by decide +kernel) rfl⟩,
   ⟨(regionBase 0 + 4), 0x12345678, wKwMon, by decide +kernel⟩,
   ⟨(regionBase 0 + 4), 0x12345678, wUp, by decide +kernel⟩,
   ⟨wc, wKwMon, by decide +kernel⟩⟩

theorem hyp_MonitorServes_3 :
    (∃ (c : CoreId) (s : State), monGoes .debug s = true ∧ regGoes monAcc (corePage c) 8 s = true ∧ (coreOf s.toDev c).halt = true)
    ∧ (∃ (c : CoreId) (s : State), monGoes .debug s = true ∧ regGoes monAcc (corePage c) 8 s = true)
    ∧ (∃ (code : BitVec 16) (p1 p2 p3 : BitVec 32) (s : State), monGoes .debug s = true ∧ code.toNat ≤ 0x8FFF ∧ logRoom s = true)
    ∧ (∃ (n : Nat) (s : State), monGoes .baud s = true ∧ 9600 ≤ n ∧ n ≤ 3000000) :=
  ⟨⟨wc, (onDev (onCore wc (fun x => { x with halt := true })) wKwMon), by decide +kernel⟩,
   ⟨wc, (onDev (onCore wc (fun x => { x with halt := true })) wKwMon), by decide +kernel⟩,
   ⟨0x5103, 1, 2, 3, wMonUp, by decide +kernel⟩,
   ⟨9600, wUp, by decide +kernel⟩⟩

theorem hyp_MonitorServes_4 :
    (∃ (b : List Byte) (img : ImageRec) (s : State), monGoes .recover s = true ∧ s.svc.bootRom = true ∧ s.cpm.power = .noImage ∧ s.cpm.warmPending = none ∧ fwParse b = some img ∧ s.svc.fwMinsv ≤ img.svn ∧ keepOnly s.toDev = false)
    ∧ (∃ (n : Nat) (s : State), portServes s.toDev = true ∧ monAdmits s.toDev .debug = false ∧ 1 ≤ n ∧ n ≤ 64 ∧ logRoom s = true) :=
  ⟨⟨wFwNew, ⟨3, 1, false, [], []⟩, wRom, by decide +kernel⟩,
   ⟨64, { wUp with lc := { wUp.lc with state := .operational } }, by decide +kernel⟩⟩

theorem hyp_SpiFramesRun_1 :
    (∃ (f : List Word32) (s : State), spiFrameGoes 0 f s = true)
    ∧ (∃ (f : List Word32) (s : State), spiFrameGoes 1 f s = true ∧ (∀ i, i < spiN f → inSnapshot (spiAddr f + 4 * i) = true))
    ∧ (∃ (f : List Word32) (s : State), spiFrameGoes 2 f s = true ∧ spiAddr f = pageBase 179 + 0x080 ∧ regGoes spiAcc 179 0x080 s = true)
    ∧ (∃ (f : List Word32) (s : State), spiFrameGoes 2 f s = true ∧ spiAddr f = pageBase 186 + 0x040 ∧ regGoes spiAcc 186 0x040 s = true ∧ (spiWord f 2).toNat % 16 ≠ 15) :=
  ⟨⟨(wSpi [0, 0]), wUp, by decide +kernel⟩,
   ⟨(wSpi [0x0101000E, 0x0000000C]), wUp, by decide +kernel⟩,
   ⟨(wSpi [0x0201000D, 0x00003080, 77]), wKwUp, by decide +kernel⟩,
   ⟨[0x0201000E, 0x00000040, 8, 0xCB], wKwUp, by decide +kernel⟩⟩

theorem hyp_SpiFramesRun_2 :
    (∃ (f : List Word32) (s : State), spiFrameGoes 2 f s = true ∧ spiWritable (spiAddr f) = false)
    ∧ (∃ (f : List Word32) (s : State), spiFrameGoes 3 f s = true)
    ∧ (∃ (f : List Word32) (s : State), spiFrameGoes 5 f s = true)
    ∧ (∃ (f : List Word32) (s : State), spiFrameGoes 6 f s = true) :=
  ⟨⟨(wSpi [0x0201000D, 0x00004080, 77]), wUp, by decide +kernel⟩,
   ⟨(wSpi [0x03010000, 0, 13]), wUp, by decide +kernel⟩,
   ⟨(wSpi [0x05030000, 0]), wUp, by decide +kernel⟩,
   ⟨(wSpi [0x06000000, 0]), wUp, by decide +kernel⟩⟩

theorem hyp_SpiFramesRun_3 :
    (∃ (f : List Word32) (s : State), spiFrameGoes 6 f s = true)
    ∧ (∃ (s : State), portServes s.toDev = true)
    ∧ (∃ (f : List Word32) (s : State), portServes s.toDev = true ∧ f ≠ [] ∧ spiOp f = 6 ∧ f.length < spiLen f)
    ∧ (∃ (f : List Word32) (s : State), portServes s.toDev = true ∧ f ≠ [] ∧ spiOp f = 6 ∧ spiLen f = f.length ∧ spiFinal (f.take (f.length - 1)) &&& 0xFF ≠ spiWord f (f.length - 1) &&& 0xFF) :=
  ⟨⟨(wSpi [0x06000000, 0]), wUp, by decide +kernel⟩,
   ⟨wUp, by decide +kernel⟩,
   ⟨[0x06000000, 0], wUp, by decide +kernel⟩,
   ⟨[0x06000000, 0, 0x99], wUp, by decide +kernel⟩⟩

theorem hyp_RegisterActionsKeepTheirWorlds_1 :
    (∃ (acc : Access) (s : State), acc.world = .K ∧ regGoes acc 186 8 s = true ∧ s.cpm.power = .ready ∧ s.cpm.warmPending = none)
    ∧ (∃ (acc : Access) (s : State), acc.world ≠ .K ∧ regGoes acc 186 8 s = true ∧ logRoom s = true)
    ∧ (∃ (acc : Access) (s : State), (acc.world = .K ∨ acc.world = .C) ∧ regGoes acc 180 8 s = true)
    ∧ (∃ (acc : Access) (s : State), acc.world ≠ .K ∧ acc.world ≠ .C ∧ regGoes acc 180 8 s = true ∧ logRoom s = true) :=
  ⟨⟨aK, wUp, by decide +kernel⟩,
   ⟨aC, wKwUp, by decide +kernel⟩,
   ⟨aK, wUp, by decide +kernel⟩,
   ⟨⟨.D, 0, 0x5C, 0⟩, wKwUp, by decide +kernel⟩⟩

theorem hyp_RegisterActionsKeepTheirWorlds_2 :
    (∃ (acc : Access) (r : Region) (s : State), (acc.world = .K ∨ acc.world = .C) ∧ regGoes acc (1 + 17 * r.val) 8 s = true ∧ (∀ l, l < 4 → (boltContext s.toDev r l).isNone = true))
    ∧ (∃ (acc : Access) (r : Region) (l : Nat) (s : State), (acc.world = .K ∨ acc.world = .C) ∧ regGoes acc (1 + 17 * r.val) 8 s = true ∧ l < 4 ∧ (boltContext s.toDev r l).isSome = true)
    ∧ (∃ (acc : Access) (r : Region) (s : State), acc.world ≠ .K ∧ acc.world ≠ .C ∧ regGoes acc (1 + 17 * r.val) 8 s = true ∧ logRoom s = true) :=
  ⟨⟨aK, 2, (onDev (onBolt 2 (fun b => { b with dk := [wEntry] })) wUp), by decide +kernel⟩,
   ⟨aK, 0, 0, (wAt (.boltCtx 0 0 1) [] (wc1 0x300 [])), by decide +kernel⟩,
   ⟨⟨.D, 0, 0x5C, 0⟩, 0, wKwUp, by decide +kernel⟩⟩

theorem hyp_StatusRegistersShow :
    (∃ (x : FwSwitch) (s : State), s.svc.fw = some x ∧ x.region < 4)
    ∧ (∃ (s : State), s.svc.fw = none) :=
  ⟨⟨⟨1, true, true, 3, false, false⟩, (onDev (onSvc (fun x => { x with fw := some ⟨1, true, true, 3, false, false⟩ })) wUp), by decide +kernel⟩,
   ⟨wUp, by decide +kernel⟩⟩
end

section
/-! PROOF. What logging an event changes: the recorder, and nothing else of the device (R446 to R448). -/

namespace Sys2Proof.Machine

theorem logEv_eq_onEvr (code source p1 p2 p3 : Nat) (d : Dev) :
    logEv code source p1 p2 p3 d = onEvr (fun _ => (logEv code source p1 p2 p3 d).evr) d := by
  unfold logEv logSev logAs
  dsimp only
  split_ifs <;> rfl

section
variable (code source p1 p2 p3 : Nat) (d : Dev)
@[simp] theorem logEv_die : (logEv code source p1 p2 p3 d).die = d.die := by rw [logEv_eq_onEvr]; rfl
@[simp] theorem logEv_hif : (logEv code source p1 p2 p3 d).hif = d.hif := by rw [logEv_eq_onEvr]; rfl
@[simp] theorem logEv_nvm : (logEv code source p1 p2 p3 d).nvm = d.nvm := by rw [logEv_eq_onEvr]; rfl
@[simp] theorem logEv_tmp : (logEv code source p1 p2 p3 d).tmp = d.tmp := by rw [logEv_eq_onEvr]; rfl
@[simp] theorem logEv_svc : (logEv code source p1 p2 p3 d).svc = d.svc := by rw [logEv_eq_onEvr]; rfl
@[simp] theorem logEv_regionOf (q : Nat) : regionOf (logEv code source p1 p2 p3 d) q = regionOf d q := by simp [regionOf]
end

/-- With room and no open record, an event is logged in a record of its own (R446, R447). -/
theorem logged_of_logEv {code source p1 p2 p3 : Nat} {d : Dev} {s u : State} (hroom : logRoom s = true)
    (hd : d.evr = s.evr) (hu : u.evr = (logEv code source p1 p2 p3 d).evr) : logged code source p1 p2 p3 u = true := by
  obtain ⟨hlen, hclosed⟩ : d.evr.buf.length < 128 ∧ ∀ r ∈ d.evr.buf, r.isOpen = false := by
    simpa [logRoom, hd] using hroom
  have hjoin : ∀ w, d.evr.buf.any (evJoins code source w) = false := fun w =>
    List.any_eq_false.mpr fun r hr => by simp [evJoins, hclosed r hr]
  have hfits : ¬ d.evr.buf.length ≥ (if evRetain code then 256 else 224) := by split <;> omega
  rw [logged, hu]
  simp [logEv, logSev, logAs, hjoin, hfits]

end Sys2Proof.Machine
end

section
/-! PROOF. The persistent store's maintenance (chapter 14): the end of a scrub pass. -/

namespace Sys2Proof.Machine

theorem scrubChunk_scrubStart_of_last (c : Option Nat) (after : Nat → Dev → Dev) (d : Dev) (h : d.nvm.scrubPos = 786431) :
    (scrubChunk c after d).nvm.scrubStart = d.evr.opTime.toNat := by
  unfold scrubChunk
  simp only [h, Nat.reduceAdd, Nat.le_refl, if_true, doIf]
  split <;> simp

/-- A die that has worked for 10 ns, with one chunk of the pass of R402 left. -/
def lastScrubChunk : State := { nvm := { scrubPos := 786431 }, cpm := { power := .ready, timebase := 1 } }

/-- Refutes O39: its clause on the last chunk of a scrub pass gives the next pass the timebase as its start, where SCRUB_CHUNK
records the seconds of operating time (R402, log entry 397). -/
theorem not_storeMaintenanceRuns : ¬ Obligations.StoreMaintenanceRuns := by
  unfold Obligations.StoreMaintenanceRuns
  rintro ⟨-, -, -, -, -, -, hpass, -⟩
  have hgives := hpass (some 0) lastScrubChunk rfl rfl
  obtain ⟨-, hstart, -⟩ : _ ∧ (scrubChunk (some 0) recordLost lastScrubChunk.toDev).nvm.scrubStart = 1 ∧ _ := hgives
  rw [scrubChunk_scrubStart_of_last _ _ _ rfl] at hstart
  exact absurd hstart (by decide)

end Sys2Proof.Machine
end

section
/-! PROOF. What the end of work leaves of the die's containment: no block or region changes its standing because a command, a
task, a descriptor list or a job ends (R10 to R13). -/

namespace Sys2Proof.Machine

/-! ## The containment of the die -/

/-- How a region stands: its phase with the cause, whether its pipeline is out, and what its spare stands in for. -/
def RegionS.standing (x : RegionS) : RegionPhase × Nat × Bool × Option Nat := (x.phase, x.cause, x.bolt.out, x.tmb.standIn)

/-- Safe state, the blocks in reset, and how each region stands. -/
def DieS.containment (x : DieS) : Bool × List (Blk × Nat) × (Nat → RegionPhase × Nat × Bool × Option Nat) :=
  (x.safe, x.resetting, fun r => (tget x.regions r {}).standing)

theorem safe_eq_of_containment {d e : Dev} (h : d.die.containment = e.die.containment) : d.die.safe = e.die.safe :=
  congrArg (·.1) h

theorem resetting_eq_of_containment {d e : Dev} (h : d.die.containment = e.die.containment) :
    d.die.resetting = e.die.resetting := congrArg (·.2.1) h

theorem standing_eq_of_containment {d e : Dev} (h : d.die.containment = e.die.containment) (r : Nat) :
    (regionOf d r).standing = (regionOf e r).standing := congrFun (congrArg (·.2.2) h) r

/-! ## Iteration -/

/-- What each step leaves, an iteration leaves. -/
theorem forAll_keeps {α β : Type} (v : Dev → β) {f : α → Dev → Dev} (h : ∀ x d, v (f x d) = v d) (l : List α) (d : Dev) :
    v (forAll l f d) = v d := by
  induction l generalizing d with
  | nil => rfl
  | cons x l ih => rw [forAll_cons, ih, h]

theorem doIf_keeps {β : Type} (v : Dev → β) {f : Dev → Dev} (h : ∀ d, v (f d) = v d) (c : Bool) (d : Dev) :
    v (doIf c f d) = v d := by
  cases c with
  | false => rfl
  | true => exact h d

@[simp] theorem forAll_containment {α : Type} {f : α → Dev → Dev} (h : ∀ x d, (f x d).die.containment = d.die.containment)
    (l : List α) (d : Dev) : (forAll l f d).die.containment = d.die.containment := forAll_keeps (·.die.containment) h l d

@[simp] theorem doIf_containment {f : Dev → Dev} (h : ∀ d, (f d).die.containment = d.die.containment) (c : Bool) (d : Dev) :
    (doIf c f d).die.containment = d.die.containment := doIf_keeps (·.die.containment) h c d

/-! ## Updates inside a region -/

theorem onRegion_containment (d : Dev) (r : Nat) (f : RegionS → RegionS) (h : ∀ x, (f x).standing = x.standing) :
    (onRegion r f d).die.containment = d.die.containment := by
  have hregions : ∀ q, (regionOf (onRegion r f d) q).standing = (regionOf d q).standing := fun q => by
    by_cases hq : q = r
    · subst hq; rw [regionOf_onRegion_self, h]
    · rw [regionOf_onRegion_ne d f hq]
  exact Prod.ext rfl (Prod.ext rfl (funext hregions))

section
variable (d : Dev) (r : Nat)
@[simp] theorem onDig_containment (f : DigS → DigS) : (onDig r f d).die.containment = d.die.containment :=
  onRegion_containment d r _ fun _ => rfl
@[simp] theorem onDrbg_containment (f : DrbgS → DrbgS) : (onDrbg r f d).die.containment = d.die.containment :=
  onRegion_containment d r _ fun _ => rfl
@[simp] theorem onCoreP_containment (p : Nat) (f : CoreS → CoreS) : (onCoreP r p f d).die.containment = d.die.containment :=
  onRegion_containment d r _ fun _ => rfl
@[simp] theorem onCore_containment (c : CoreId) (f : CoreS → CoreS) : (onCore c f d).die.containment = d.die.containment :=
  onRegion_containment d c.region _ fun _ => rfl
@[simp] theorem onBolt_containment (f : BoltS → BoltS) (h : ∀ b, (f b).out = b.out) :
    (onBolt r f d).die.containment = d.die.containment :=
  onRegion_containment d r _ fun x => by simp only [RegionS.standing, h]
@[simp] theorem onTmb_containment (f : TmbS → TmbS) (h : ∀ t, (f t).standIn = t.standIn) :
    (onTmb r f d).die.containment = d.die.containment :=
  onRegion_containment d r _ fun x => by simp only [RegionS.standing, h]
@[simp] theorem onTask_containment (t : Nat) (f : Task → Task) : (onTask r t f d).die.containment = d.die.containment :=
  onTmb_containment d r _ fun _ => rfl
end

/-! ## Updates outside the die -/

section
variable (d : Dev)
@[simp] theorem onCmd_die (cid : Nat) (f : Cmd → Cmd) : (onCmd cid f d).die = d.die := rfl
@[simp] theorem onDma_die (i : Nat) (f : DmaS → DmaS) : (onDma i f d).die = d.die := rfl
@[simp] theorem onCh_die (i ch : Nat) (f : ChS → ChS) : (onCh i ch f d).die = d.die := rfl
@[simp] theorem onEng_die (e : Nat) (f : EngS → EngS) : (onEng e f d).die = d.die := rfl
@[simp] theorem kwForget_die (p : Stalled → Bool) : (kwForget p d).die = d.die := rfl
@[simp] theorem irqSet_die (m bit : Nat) : (irqSet m bit d).die = d.die := rfl
@[simp] theorem wake_die (n : Nat) : (wake n d).die = d.die := rfl
@[simp] theorem dmaPick_die (i : Nat) : (dmaPick i d).die = d.die := rfl
@[simp] theorem dmaForget_die (i : Nat) : (dmaForget i d).die = d.die := rfl
@[simp] theorem insForget_die (c : CoreId) : (insForget c d).die = d.die := rfl
@[simp] theorem engStop_die (e : Nat) : (engStop e d).die = d.die := rfl
@[simp] theorem wsVoid_die (e : Nat) : (wsVoid e d).die = d.die := rfl
end

/-! ## Commands that end -/

section
variable (d : Dev)

@[simp] theorem countEnd_containment (c : Cmd) : (countEnd c d).die.containment = d.die.containment := by
  unfold countEnd
  split
  any_goals split
  all_goals simp

@[simp] theorem finish_containment (cid : Nat) (r : Res) : (finish cid r d).die.containment = d.die.containment := by
  unfold finish
  split
  · rfl
  · split
    · rfl
    · simp

@[simp] theorem finishRunning_containment (cid : Nat) (r : Res) :
    (finishRunning cid r d).die.containment = d.die.containment := by
  unfold finishRunning
  split
  · split
    · simp
    · rfl
  · rfl

@[simp] theorem endAll_containment (p : Cmd → Bool) (r : Res) : (endAll p r d).die.containment = d.die.containment := by
  simp [endAll]

@[simp] theorem endStarted_containment (p : Cmd → Bool) : (endStarted p d).die.containment = d.die.containment := by
  simp [endStarted]

@[simp] theorem endReads_containment (r : Nat) (res : Res) : (endReads r res d).die.containment = d.die.containment := by
  simp [endReads]

@[simp] theorem moveCmd_containment (c : Cmd) : (moveCmd c d).die.containment = d.die.containment := by
  unfold moveCmd
  dsimp only
  generalize (if isTxn c.code then _ else _ : Option Loc) = loc
  cases loc <;> simp

@[simp] theorem moveFewest_containment (c : Cmd) : (moveFewest c d).die.containment = d.die.containment := by
  unfold moveFewest
  split <;> simp

@[simp] theorem moveWaiting_containment (r : Nat) : (moveWaiting r d).die.containment = d.die.containment := by
  simp [moveWaiting]

@[simp] theorem moveLane_containment (r : Region) (l : Lane) : (moveLane r l d).die.containment = d.die.containment := by
  unfold moveLane
  refine forAll_containment (fun c d => ?_) _ _
  dsimp only
  split_ifs <;> simp

@[simp] theorem rehomeSessions_containment (r : Nat) : (rehomeSessions r d).die.containment = d.die.containment := by
  unfold rehomeSessions
  refine forAll_containment (fun p d => ?_) _ _
  split <;> simp

/-! ## The translation policy -/

@[simp] theorem polCheck_containment : (polCheck d).die.containment = d.die.containment := by
  unfold polCheck
  split <;> simp

@[simp] theorem polInstall_containment : (polInstall d).die.containment = d.die.containment := by
  unfold polInstall
  refine forAll_containment (fun r d => ?_) _ _
  split <;> exact onBolt_containment _ _ _ fun _ => rfl

@[simp] theorem polRevert_containment (p : Nat → Bool) : (polRevert p d).die.containment = d.die.containment := by
  unfold polRevert
  dsimp only
  split <;> simp

/-! ## Tasks -/

@[simp] theorem freeCore_containment (r t : Nat) : (freeCore r t d).die.containment = d.die.containment := by
  unfold freeCore
  split <;> simp

@[simp] theorem makeReady_containment (r t : Nat) : (makeReady r t d).die.containment = d.die.containment := by
  simp [makeReady]

@[simp] theorem wakeTasks_containment (r : Nat) : (wakeTasks r d).die.containment = d.die.containment := by
  simp [wakeTasks]

@[simp] theorem logTrap_containment (t : Nat) (k : TrapRec) : (logTrap t k d).die.containment = d.die.containment := by
  unfold logTrap
  dsimp only
  split <;> simp

@[simp] theorem cancelsDone_containment (cid : Nat) : (cancelsDone cid d).die.containment = d.die.containment := by
  simp [cancelsDone]

@[simp] theorem taskSettle_containment (r t : Nat) : (taskSettle r t d).die.containment = d.die.containment := by
  unfold taskSettle
  dsimp only
  split
  · rfl
  · split
    · rfl
    · rw [cancelsDone_containment]
      split
      · split <;> simp 
      · simp 

@[simp] theorem freeTask_containment (r t : Nat) : (freeTask r t d).die.containment = d.die.containment :=
  onTmb_containment d r _ fun _ => rfl

@[simp] theorem drainTasks_containment (r : Nat) : (drainTasks r d).die.containment = d.die.containment := by
  simp [drainTasks]

@[simp] theorem haltTasks_containment (r : Nat) (res : Task → Res) : (haltTasks r res d).die.containment = d.die.containment := by
  unfold haltTasks
  refine forAll_containment (fun x d => ?_) _ _
  simp only [freeTask_containment, freeCore_containment, cancelsDone_containment, finish_containment, onHif_die, haltResults]
  split
  · split
    · rw [insForget_die]
    · rfl
  · rfl

/-! ## Descriptor lists, jobs, and the vault -/

@[simp] theorem chSignal_containment (i ch : Nat) : (chSignal i ch d).die.containment = d.die.containment := by
  unfold chSignal
  dsimp only
  split
  · simp
  · exact doIf_containment (f := irqSet (dmaPage i) ch) (fun _ => rfl) _ _

@[simp] theorem chSettle_containment (i ch : Nat) : (chSettle i ch d).die.containment = d.die.containment := by
  unfold chSettle
  split <;> simp

@[simp] theorem chStart_containment (i ch : Nat) : (chStart i ch d).die.containment = d.die.containment := by
  unfold chStart chBegin
  dsimp only
  split <;> simp

@[simp] theorem chHalt_containment (i ch kind offset : Nat) : (chHalt i ch kind offset d).die.containment = d.die.containment := by
  simp [chHalt, chOver, doIf_containment (f := dmaForget i) fun _ => rfl]

@[simp] theorem dmaHaltAll_containment (i : Nat) : (dmaHaltAll i d).die.containment = d.die.containment := by
  simp [dmaHaltAll]

@[simp] theorem engAbort_containment (e : Nat) (res : Res) : (engAbort e res d).die.containment = d.die.containment := by
  unfold engAbort
  split
  · rfl
  · simp only [onBrl_die, wsVoid_die, endAll_containment, engStop_die, onEng_die]
    split
    · split
      · split <;> simp
      · rfl
    · rfl

@[simp] theorem vaultReset_containment : (vaultReset d).die.containment = d.die.containment := by
  simp [vaultReset, refillRetry, endWaiting]

end

end Sys2Proof.Machine
end

section
/-! PROOF. How a command comes to its outcome (R69, R72, R486). -/

namespace Sys2Proof.Machine

section
variable (d : Dev)

theorem cmdOf?_onCmd_self (cid : Nat) (f : Cmd → Cmd) (h : ∀ c, (f c).cid = c.cid) :
    cmdOf? (onCmd cid f d) cid = (cmdOf? d cid).map f := by
  have hsame : ((fun c => c.cid == cid) ∘ fun c => if c.cid == cid then f c else c) = fun c : Cmd => c.cid == cid :=
    funext fun c => by
      simp only [Function.comp_apply]
      split <;> simp [h]
  simp only [cmdOf?, onCmd, onHif_hif, lmod, List.find?_map, hsame]
  refine Option.map_congr fun c hc => ?_
  rw [if_pos (List.find?_some hc)]

theorem cmdOf?_of_hif {d e : Dev} (h : d.hif = e.hif) (cid : Nat) : cmdOf? d cid = cmdOf? e cid := by rw [cmdOf?, h]; rfl

theorem countEnd_hif (c : Cmd) : (countEnd c d).hif = d.hif := by
  unfold countEnd
  split
  any_goals split
  all_goals rfl

theorem countEnd_svc (c : Cmd) : (countEnd c d).svc = d.svc := by
  unfold countEnd
  split
  any_goals split
  all_goals rfl

@[simp] theorem finish_svc (cid : Nat) (r : Res) : (finish cid r d).svc = d.svc := by
  unfold finish
  split
  · rfl
  · split
    · rfl
    · exact countEnd_svc _ _

@[simp] theorem finishRunning_svc (cid : Nat) (r : Res) : (finishRunning cid r d).svc = d.svc := by
  unfold finishRunning
  split
  · split
    · simp
    · rfl
  · rfl

theorem finishRunning_stage {cid : Nat} {c : Cmd} (r : Res) (hc : cmdOf? d cid = some c) (hrun : c.stage = .running) :
    (cmdOf? (finishRunning cid r d) cid).map (·.stage) = some (.done r) := by
  simp only [finishRunning, finish, hc, isRunning, hrun, beq_self_eq_true, if_true]
  rw [cmdOf?_of_hif (countEnd_hif _ c), cmdOf?_onCmd_self, hc]
  · rfl
  · exact fun _ => rfl

@[simp] theorem svcDone_containment (cid : Nat) (r : Res) : (svcDone cid r d).die.containment = d.die.containment := by
  simp [svcDone]

theorem svcDone_count_of_ok (cid : Nat) : (svcDone cid resOk d).svc.count = d.svc.count + 1 := by
  simp [svcDone, resOk]

end
end Sys2Proof.Machine
end

section
/-! PROOF. Rows are relocated, blocks are reset and tested, and faults pass on to regions and to the die (R10 to R13). -/

namespace Sys2Proof.Machine

section
variable (d : Dev)

/-! ## Banks -/

@[simp] theorem keepWrite_banks (id : Nat) : (keepWrite id d).nvm.banks = d.nvm.banks := rfl

@[simp] theorem parityReport_banks : (parityReport d).nvm.banks = d.nvm.banks := by
  unfold parityReport
  dsimp only
  split_ifs <;> simp

@[simp] theorem rebuildStart_banks : (rebuildStart d).nvm.banks = d.nvm.banks := by
  unfold rebuildStart
  refine forAll_keeps (·.nvm.banks) (fun p d => ?_) _ _
  split
  · rfl
  · split <;> simp

theorem bankOf_of_banks {d e : Dev} (h : d.nvm.banks = e.nvm.banks) (b : Nat) : bankOf d b = bankOf e b := by
  rw [bankOf, h]; rfl

theorem bankLeave_spareRows (b cause : Nat) : (bankOf (bankLeave b cause d) b).spareRows = (bankOf d b).spareRows := by
  unfold bankLeave
  split
  · rfl
  · rw [bankOf_of_banks (e := onBank b (fun k => { k with out := true, cause := cause }) d) (by simp) b, bankOf_onBank_self]

theorem nvmRelocate_spareRows (b row : Nat) :
    (bankOf (nvmRelocate b row d) b).spareRows = (bankOf d b).spareRows + 1 := by
  unfold nvmRelocate
  rw [doIf_keeps (fun d => (bankOf d b).spareRows) (bankLeave_spareRows · b 3),
    bankOf_of_banks (e := onBank b (fun k => { k with spareRows := k.spareRows + 1 }) d) (by simp) b, bankOf_onBank_self]

/-! ## Rows -/

/-- A tile's row is replaced: the tile's entry is written again with its count one higher. -/
def rowTaken (b : Blk) (tile : Nat) (d : Dev) : Dev :=
  onDie (fun x => { x with
    spareRows := x.spareRows.filter (fun y => !(y.1 == b && y.2.1 == tile)) ++ [(b, tile, rowsUsed d b tile + 1)] }) d

theorem rowsUsed_of_die {d e : Dev} (h : d.die = e.die) (b : Blk) (tile : Nat) : rowsUsed d b tile = rowsUsed e b tile := by
  rw [rowsUsed, h]; rfl

theorem rowsUsed_rowTaken (b : Blk) (tile : Nat) : rowsUsed (rowTaken b tile d) b tile = rowsUsed d b tile + 1 := by
  have hgone : (d.die.spareRows.filter (fun y => !(y.1 == b && y.2.1 == tile))).find? (fun x => x.1 == b && x.2.1 == tile) = none :=
    List.find?_eq_none.mpr fun x hx => by simpa only [Bool.not_eq_true', Bool.not_eq_true] using (List.mem_filter.mp hx).2
  simp only [rowsUsed, rowTaken, onDie_die, List.find?_append, hgone]
  simp

theorem uncorrectable_of_spare {b : Blk} {tile : Nat} (row : Nat) (hbank : ∀ n : Bank, b ≠ .nvmBank n)
    (hspare : rowsUsed d b tile < 32) :
    uncorrectable b tile row false d = logEv 0x4020 (blkSource b) (blkSource b + 256 * tile) row 0 (rowTaken b tile d) := by
  cases b with
  | nvmBank n => exact absurd rfl (hbank n)
  | _ => simp only [uncorrectable, Bool.false_eq_true, if_false, if_pos hspare, rowTaken]

/-! ## Block resets -/

@[simp] theorem blockStop_containment (b : Blk) : (blockStop b d).die.containment = d.die.containment := by
  cases b with
  | bolt r => simp [blockStop, polInstallOne]
  | _ => simp [blockStop]

@[simp] theorem countsZero_containment (b : Blk) : (countsZero b d).die.containment = d.die.containment := by
  cases b <;> simp [countsZero]

theorem blockReset_containment (b : Blk) (reason : Nat) : (blockReset b reason d).die.containment =
    (onDie (fun x => { x with resetting := x.resetting ++ [(b, reason)] }) d).die.containment := by
  simp [blockReset]

theorem blkRegion_lt {b : Blk} {r : Nat} (h : blkRegion b = some r) : r < 4 := by
  cases b with
  | dma i =>
    obtain ⟨hi, rfl⟩ : i.val < 4 ∧ i.val = r := by simpa [blkRegion] using h
    exact hi
  | core c =>
    obtain rfl : c.region.val = r := by simpa [blkRegion] using h
    exact c.region.isLt
  | bolt q | digestLane q _ | drbg q | tumbler q =>
    obtain rfl : q.val = r := by simpa [blkRegion] using h
    exact q.isLt
  | _ => simp [blkRegion] at h

theorem blockFault_eq_blockReset {b : Blk} (reason : Nat) (hsafe : d.die.safe = false) (hhold : d.tmp.hold = false)
    (hreset : blkResetting d b = false) (hserves : blkServes d b = true) (htests : selfTests b = true)
    (hdrain : ∀ r, r < 4 → blkRegion b = some r → (regionOf d r).phase ≠ .draining) :
    blockFault b reason d = blockReset b reason d := by
  have hstays : ((blkRegion b).map (fun r => (regionOf d r).phase == .draining)).getD false = false := by
    cases hr : blkRegion b with
    | none => rfl
    | some r => exact beq_eq_false_iff_ne.mpr (hdrain r (blkRegion_lt hr) hr)
  simp [blockFault, hsafe, hhold, hreset, hserves, htests, hstays]

/-- A block that has no self-test of its own passes its fault on (R11, R529). -/
theorem blockFault_eq_escalateRegion {b : Blk} (reason : Nat) (hsafe : d.die.safe = false) (hhold : d.tmp.hold = false)
    (hreset : blkResetting d b = false) (hserves : blkServes d b = true) (htests : selfTests b = false) :
    blockFault b reason d = escalateRegion b d := by
  simp [blockFault, hsafe, hhold, hreset, hserves, htests]

/-! ## Regions and the die -/

@[simp] theorem log4120_die (b : Blk) : (log4120 b d).die = d.die := logEv_die ..
@[simp] theorem log4120_tmp (b : Blk) : (log4120 b d).tmp = d.tmp := logEv_tmp ..

theorem onRegion_safe (r : Nat) (f : RegionS → RegionS) : (onRegion r f d).die.safe = d.die.safe := rfl
theorem resettingDrop_safe (r : Nat) : (resettingDrop r d).die.safe = d.die.safe := rfl
@[simp] theorem resettingDrop_regionOf (r q : Nat) : regionOf (resettingDrop r d) q = regionOf d q := rfl

/-- The drain of a region in service: what it stops leaves the phase and the cause that it began with (R487). -/
theorem regionDrain_standing (r cause : Nat) (hup : regionUp d r = true) (hhold : d.tmp.hold = false) :
    (regionOf (regionDrain r cause d) r).standing = { regionOf d r with phase := .draining, cause := cause }.standing := by
  simp only [regionDrain, hup, hhold, Bool.not_true, Bool.or_self, Bool.false_eq_true, if_false, logEv_regionOf,
    resettingDrop_regionOf]
  refine (standing_eq_of_containment (e := onRegion r (fun x => { x with
    phase := .draining, cause := cause, startTb := nowTb d, rehomed := rehomedBy d r }) d) (by simp) r).trans ?_
  rw [regionOf_onRegion_self]
  rfl

theorem regionStill_safe (r : Nat) : (regionStill r d).die.safe = d.die.safe := by
  simp only [regionStill, onTmb, onDig, onBolt, onRegion_safe, resettingDrop_safe]
  exact safe_eq_of_containment (by simp)

theorem dieSafe_safe (cause blk : Nat) (hhold : d.tmp.hold = false) : (dieSafe cause blk d).die.safe = true := by
  unfold dieSafe
  split
  next h => simpa [hhold] using h
  next =>
    rw [safe_eq_of_containment (e := forAll ((List.range 4).filter (regionActive d)) (fun r d =>
      regionStill r (onRegion r (fun x => { x with phase := .halted, startTb := nowTb d }) d))
        (onDie (fun x => { x with safe := true, resetting := [] }) d)) (by simp)]
    rw [forAll_keeps (·.die.safe)]
    · rfl
    · exact fun r d => regionStill_safe _ r

theorem blockFault_tumbler {r : Region} (reason : Nat) (hsafe : d.die.safe = false) (hhold : d.tmp.hold = false)
    (hreset : blkResetting d (.tumbler r) = false) (hup : regionUp d r = true) (hin : d.die.out.contains (.tumbler r) = false) :
    blockFault (.tumbler r) reason d = regionDrain r 2 (log4120 (.tumbler r) d) :=
  blockFault_eq_escalateRegion d reason hsafe hhold hreset (by simp only [blkServes, regionRuns, hin, hup]; rfl) rfl

theorem blockFault_keyStore (reason : Nat) (hsafe : d.die.safe = false) (hhold : d.tmp.hold = false)
    (hreset : blkResetting d .keyStore = false) (hin : d.die.out.contains .keyStore = false) :
    blockFault .keyStore reason d = dieSafe 1 (blkParam .keyStore) d :=
  blockFault_eq_escalateRegion d reason hsafe hhold hreset (by simp only [blkServes, hin]; rfl) rfl

/-! ## Self-tests -/

/-- A self-test has ended and is logged; what its result brings comes after (R11). -/
def testEnded (b : Blk) (reason : Nat) (pass : Bool) (d : Dev) : Dev :=
  logEv 0x4110 (blkSource b) (blkParam b) reason (b2n (!pass)) (onDie (fun x => { x with resetting := [] }) d)

theorem selfTestEnd_of_resetting {b : Blk} {reason : Nat} (pass : Bool) (h : d.die.resetting = [(b, reason)]) :
    selfTestEnd b pass d = (if pass then blockPass b else blockFail b) (testEnded b reason pass d) := by
  simp [selfTestEnd, testEnded, h, onDie]

section
variable (b : Blk) (reason : Nat) (pass : Bool)
@[simp] theorem testEnded_resetting : (testEnded b reason pass d).die.resetting = [] := by simp [testEnded]
@[simp] theorem testEnded_svc : (testEnded b reason pass d).svc = d.svc := by simp [testEnded]
@[simp] theorem testEnded_hif : (testEnded b reason pass d).hif = d.hif := by simp [testEnded]
@[simp] theorem testEnded_regionOf (r : Nat) : regionOf (testEnded b reason pass d) r = regionOf d r := by
  simp [testEnded, regionOf]
@[simp] theorem testEnded_releaseOf (c : CoreId) : releaseOf (testEnded b reason pass d) c = releaseOf d c := by simp [releaseOf]
end

theorem blockPass_core_of_no_release {c : CoreId} (h : releaseOf d c = none) :
    blockPass (.core c) d = onCore c (fun x => { x with stopping := false }) d := by
  simp only [blockPass, h]

theorem blockPass_core_of_release {c : CoreId} {a : SvcAction} (h : releaseOf d c = some a) :
    blockPass (.core c) d = coreBack c a d := by
  simp only [blockPass, h]

theorem selfTestEnd_core_pass {c : CoreId} {reason : Nat} (h : d.die.resetting = [(.core c, reason)])
    (hrelease : releaseOf d c = none) :
    selfTestEnd (.core c) true d = onCore c (fun x => { x with stopping := false }) (testEnded (.core c) reason true d) := by
  rw [selfTestEnd_of_resetting d true h]
  exact blockPass_core_of_no_release _ (by rwa [testEnded_releaseOf])

theorem selfTestEnd_core_release {c : CoreId} {a : SvcAction} {reason : Nat} (h : d.die.resetting = [(.core c, reason)])
    (hrelease : releaseOf d c = some a) :
    selfTestEnd (.core c) true d = coreBack c a (testEnded (.core c) reason true d) := by
  rw [selfTestEnd_of_resetting d true h]
  exact blockPass_core_of_release _ (by rwa [testEnded_releaseOf])

theorem selfTestEnd_bolt_fail {r : Region} {reason : Nat} (h : d.die.resetting = [(.bolt r, reason)]) :
    selfTestEnd (.bolt r) false d = blockFail (.bolt r) (testEnded (.bolt r) reason false d) :=
  selfTestEnd_of_resetting d false h

theorem blockFail_bolt_resetting (r : Region) : (blockFail (.bolt r) d).die.resetting = d.die.resetting := by
  simp only [blockFail, log4120_die]
  exact (resetting_eq_of_containment (endStarted_containment _ _)).trans rfl

theorem blockFail_bolt_out (r : Region) : (regionOf (blockFail (.bolt r) d) r).bolt.out = true := by
  have hstanding : (regionOf (blockFail (.bolt r) d) r).standing = (regionOf (onBolt r (fun x => { x with out := true }) d) r).standing :=
    standing_eq_of_containment (by simp [blockFail]) r
  have hout := congrArg (·.2.2.1) hstanding
  simpa [RegionS.standing, onBolt] using hout

/-- What the core of a position does before its service action ends: it takes its tasks back from the spare (R486). -/
def coreTakesBack (c : CoreId) (d : Dev) : Dev :=
  let r := c.region.val
  let t := ((tget (regionOf d r).cores 6 {}).task).filter (fun t => !taskHeld d r t)
  d |> onCore c (fun x => { x with out := false, stopping := false, task := t })
    |> doIf t.isSome (onCoreP r 6 (fun x => { x with task := none }))
    |> onTmb r (fun x => { x with standIn := none, migrations := x.migrations + (if t.isSome then 1 else 0) })
    |> logEv 0x7111 (0x70 + r) r c.pos.val (homedAt d r c.pos.val).length

theorem coreBack_eq (c : CoreId) (a : SvcAction) : coreBack c a d = svcDone a.cid resOk (coreTakesBack c d) := rfl

theorem coreTakesBack_standIn (c : CoreId) : (regionOf (coreTakesBack c d) c.region).tmb.standIn = none := by
  simp [coreTakesBack, onTmb]

@[simp] theorem coreTakesBack_hif (c : CoreId) : (coreTakesBack c d).hif = d.hif := by
  simp only [coreTakesBack, logEv_hif]
  unfold doIf
  split <;> rfl

@[simp] theorem coreTakesBack_svc (c : CoreId) : (coreTakesBack c d).svc = d.svc := by
  simp only [coreTakesBack, logEv_svc]
  unfold doIf
  split <;> rfl

theorem coreBack_standIn (c : CoreId) (a : SvcAction) : (regionOf (coreBack c a d) c.region).tmb.standIn = none := by
  have hstanding : (regionOf (coreBack c a d) c.region).standing = (regionOf (coreTakesBack c d) c.region).standing :=
    standing_eq_of_containment (svcDone_containment _ _ _) _
  exact (congrArg (·.2.2.2) hstanding).trans (coreTakesBack_standIn d c)

theorem coreBack_count (c : CoreId) (a : SvcAction) : (coreBack c a d).svc.count = d.svc.count + 1 := by
  rw [coreBack_eq, svcDone_count_of_ok, coreTakesBack_svc]

theorem coreBack_stage (c : CoreId) {a : SvcAction} {x : Cmd} (hx : cmdOf? d a.cid = some x) (hrun : x.stage = .running) :
    (cmdOf? (coreBack c a d) a.cid).map (·.stage) = some (.done resOk) :=
  finishRunning_stage _ resOk ((cmdOf?_of_hif (coreTakesBack_hif d c) _).trans hx) hrun

end

/-! ## The rows -/

section
variable (s : State)

theorem exec_uncorrectableError (b : Blk) (tile row : Nat) (rereadOk : Bool) :
    exec (.uncorrectableError b tile row rereadOk) s = nextR (uncorrectable b tile row rereadOk) s := rfl

theorem exec_blockFault (b : Blk) (reason : Nat) : exec (.blockFault b reason) s = nextR (blockFault b reason) s := rfl

theorem exec_blockSelfTestEnd (b : Blk) (pass : Bool) :
    exec (.blockSelfTestEnd b pass) s = nextR (selfTestEnd b pass) s := rfl

@[simp] theorem gives_nextR (f : Dev → Dev) (P : State → Prop) : Gives (nextR f s) P ↔ P (withRegions f s) := Iff.rfl

@[simp] theorem withRegions_toDev (f : Dev → Dev) : (withRegions f s).toDev = f s.toDev := rfl

end

theorem stage_theCmd_of_cmdOf? {u : State} {cid : Nat} {g : Stage} (h : (cmdOf? u.toDev cid).map (·.stage) = some g) :
    (theCmd cid u).stage = g := by
  obtain ⟨c, hc, rfl⟩ := Option.map_eq_some_iff.mp h
  rw [theCmd, hc]
  rfl

/-- Settles O42: a row, a block reset or a self-test puts its own effect in place, and what it ends beside leaves the die's
containment as it was (`DieS.containment`). -/
theorem blocksAreContained : Obligations.BlocksAreContained := by
  unfold Obligations.BlocksAreContained
  simp only [exec_uncorrectableError, exec_blockFault, exec_blockSelfTestEnd, gives_nextR, withRegions_toDev, phaseIs]
  refine ⟨fun b t row s => rfl, ?spareRow, ?bankRow, ?blockReset, ?tumbler, ?keyStore, ?corePasses, ?boltFails, ?coreReleased⟩
  case spareRow =>
    intro b t row s hbank hspare hroom
    have hrow := uncorrectable_of_spare s.toDev row hbank hspare
    refine ⟨?_, logged_of_logEv (d := rowTaken b t s.toDev) hroom rfl (congrArg Dev.evr hrow)⟩
    rw [hrow, rowsUsed_of_die (logEv_die ..), rowsUsed_rowTaken]
  case bankRow =>
    intro n t row s hin _
    simp only [uncorrectable, hin, Bool.false_eq_true, if_false]
    exact nvmRelocate_spareRows s.toDev n row
  case blockReset =>
    intro b k s hsafe hhold hreset hserves htests hdrain
    rw [blockFault_eq_blockReset s.toDev k hsafe hhold hreset hserves htests hdrain]
    have hcontained := blockReset_containment s.toDev b k
    refine ⟨?_, (safe_eq_of_containment hcontained).trans hsafe⟩
    rw [resetting_eq_of_containment hcontained]
    simp
  case tumbler =>
    intro r k s hsafe hhold hreset hup hin _
    rw [blockFault_tumbler s.toDev k hsafe hhold hreset hup hin]
    have hstanding := regionDrain_standing (log4120 (.tumbler r) s.toDev) r 2 (by simpa [regionUp, regionOf] using hup)
      (by simpa using hhold)
    exact ⟨congrArg (·.1) hstanding, congrArg (·.2.1) hstanding⟩
  case keyStore =>
    intro k s hsafe hhold hreset hin
    rw [blockFault_keyStore s.toDev k hsafe hhold hreset hin]
    exact dieSafe_safe s.toDev 1 _ hhold
  case corePasses =>
    intro c k s hreset hrelease hroom
    have hend := selfTestEnd_core_pass s.toDev hreset hrelease
    refine ⟨?_, ?_, logged_of_logEv (d := onDie (fun x => { x with resetting := [] }) s.toDev) hroom rfl ?_⟩
    · rw [hend]
      exact testEnded_resetting ..
    · rw [hend, coreOf_onCore_self]
    · rw [withRegions_toDev, hend]
      rfl
  case boltFails =>
    intro r k s hreset
    rw [selfTestEnd_bolt_fail s.toDev hreset, blockFail_bolt_resetting]
    exact ⟨testEnded_resetting .., blockFail_bolt_out _ r⟩
  case coreReleased =>
    intro c a k s hreset hrelease hcmd hrun
    obtain ⟨x, hx⟩ := Option.isSome_iff_exists.mp hcmd
    have hxrun : x.stage = .running := by simpa [theCmd, hx] using hrun
    have hend := selfTestEnd_core_release s.toDev hreset hrelease
    refine ⟨stage_theCmd_of_cmdOf? ?_, ?_, ?_⟩
    · rw [withRegions_toDev, hend]
      exact coreBack_stage _ c ((cmdOf?_of_hif (testEnded_hif ..) _).trans hx) hxrun
    · rw [hend, coreBack_standIn]
    · rw [hend, coreBack_count, testEnded_svc]

end Sys2Proof.Machine
end

section
/-! PROOF. What the reset state holds (R29, R36, R65, R439, R468, R474). -/

namespace Sys2Proof.Machine

theorem regionUp_reset (r : Nat) : regionUp State.reset.toDev r = false := rfl

theorem fnOf_reset (f : Nat) : fnOf State.reset.toDev f = {} := rfl

/-- Settles O6: each part of the reset state is written down in `State.reset`, and its tables of regions and of functions are
empty, so that every region and every function reads as its default. -/
theorem resetValues : Obligations.ResetValues := by
  unfold Obligations.ResetValues
  refine ⟨rfl, rfl, rfl, rfl, rfl, rfl, rfl, rfl, fun r _ => regionUp_reset r, fun f _ => ?_⟩
  rw [fnOf_reset]
  exact ⟨rfl, rfl⟩

end Sys2Proof.Machine
end

section
/-! PROOF. A lifecycle transition that still has to wait ends the commands behind it in its own session (R32 step 3). -/

namespace Sys2Proof.Machine

/-- LC_QUARANTINE runs, a host command of its own session was accepted behind it and waits, and one of another session runs. -/
def commandBehindTransition : State :=
  { cpm := { power := .ready }
    lc := { state := .operational, transition := some ⟨.operational, .quarantine, 1, 0, false⟩ }
    hif := { cmds := [
      { cid := 1, code := 0x0105, seq := 1, stage := .running }, { cid := 2, code := 0x0201, seq := 2 },
      { cid := 3, code := 0x0201, session := 1, stage := .running }] } }

/-- Refutes O21: its last clause says that LC_TRANSITION leaves the commands as they are while a command that the transition
waits for is open. A command of the transition's own session behind it is such a command, and `lcIntent` ends it with ST_RETRY
at once (R32 step 3), also where the transition goes on to wait for another. -/
theorem not_lifecycleTransitions : ¬ Obligations.LifecycleTransitions := by
  unfold Obligations.LifecycleTransitions
  rintro ⟨-, -, -, hwaits⟩
  obtain ⟨-, hhif, -⟩ := hwaits ⟨.operational, .quarantine, 1, 0, false⟩ commandBehindTransition rfl rfl (by decide)
  exact absurd (congrArg (fun h => h.cmds.any isDone) hhif) (by decide)

end Sys2Proof.Machine
end

section
/-! PROOF. A write of a persistent register behind one that waits does not show its value at once (R405). -/

namespace Sys2Proof.Machine

/-- CUS_SET_LIFE with a lifetime of 30 s. -/
def lifeCommand : Cmd := { cid := 1, code := 0x0114, seq := 1, params := fit [30, 0] 64 }

/-- CUS_SET_LIFE may start, the queue of persistent-register writes has room, and a write of another register still waits. -/
def writeWaits : State :=
  { cpm := { power := .ready }, nvm := { rwpWaiting := [(rwpUcodeMinsv, 5)] }, hif := { cmds := [lifeCommand] } }

/-- Refutes O22: its clause on CUS_SET_LIFE has the register show the new lifetime at once where the queue has room. Where a
write that came before still waits, `rwpWrite` has this one wait behind it, and the register keeps its 300 s. -/
theorem not_custodianCommandsComplete : ¬ Obligations.CustodianCommandsComplete := by
  unfold Obligations.CustodianCommandsComplete
  rintro ⟨-, -, -, -, -, hlife, -⟩
  have hstarts : starts 0x0114 1 ⟨[], [], [], [], [], none⟩ writeWaits = true := by decide +kernel
  obtain ⟨-, hval⟩ := hlife 1 ⟨[], [], [], [], [], none⟩ writeWaits hstarts (by decide) (by decide) (by decide) (by decide)
    (by decide) (by decide)
  exact absurd hval (by decide)

end Sys2Proof.Machine
end

section
/-! PROOF. Register pages as places on the bus: an address of a page leads to it (R511), and an access of 32 bits that the keyways
let pass reaches the page with the device as it was but for the keyways' counts (R362, R364). -/

namespace Sys2Proof.Machine

/-! ## Words as bytes -/

theorem leNat_natLE_lt (n len : Nat) : leNat (natLE n len) = n % 256 ^ len := by
  induction len generalizing n with
  | zero => simp [natLE, leNat, Nat.mod_one]
  | succ len ih =>
    have htail : natLE n (len + 1) = byte n :: natLE (n / 256) len := by
      simp only [natLE, List.range_succ_eq_map, List.map_cons, List.map_map, Nat.mul_zero, Nat.shiftRight_zero]
      congr 1
      refine List.map_congr_left fun i _ => ?_
      simp only [Function.comp, Nat.shiftRight_eq_div_pow, Nat.succ_eq_add_one, Nat.div_div_eq_div_mul, Nat.mul_add, Nat.pow_add,
        Nat.mul_one]
      norm_num [Nat.mul_comm]
    have hcons : leNat (byte n :: natLE (n / 256) len) = leNat (natLE (n / 256) len) * 256 + n % 256 := by
      simp [leNat, byte]
    rw [htail, hcons, ih, pow_succ', Nat.mod_mul]
    ring

@[simp] theorem natLE_length (n len : Nat) : (natLE n len).length = len := by simp [natLE]

theorem slice_self (b : Bytes) : slice b 0 b.length = b := by
  refine List.ext_getElem (by simp [slice]) fun i h₁ h₂ => ?_
  simp [slice, h₂]

theorem slice_natLE (n len : Nat) : slice (natLE n len) 0 len = natLE n len := by
  simpa using slice_self (natLE n len)

theorem ofNat_leNat_natLE (v : Word32) : BitVec.ofNat 32 (leNat (natLE v.toNat 4)) = v := by
  rw [leNat_natLE_lt, Nat.mod_eq_of_lt (show v.toNat < 256 ^ 4 from v.isLt), BitVec.ofNat_toNat, BitVec.setWidth_eq]

/-! ## Pages -/

theorem pageBase_aligned : ∀ m < 196, pageBase m % 0x1000 = 0 := by decide +kernel

theorem find_pageBase : ∀ m < 196, (List.range 196).find? (fun k => pageBase k / 0x1000 == pageBase m / 0x1000) = some m := by
  decide +kernel

theorem pageBase_le : ∀ m < 196, pageBase m + 0x1000 ≤ 2 ^ 40 := by decide +kernel

theorem pageAt_pageBase {m off : Nat} (hm : m < 196) (hoff : off < 0x1000) : pageAt (pageBase m + off) = some m := by
  have hmal := pageBase_aligned m hm
  rw [← find_pageBase m hm, pageAt]
  refine List.find?_congr fun k hk => ?_
  have hkal := pageBase_aligned k (List.mem_range.mp hk)
  have hiff : (pageBase k ≤ pageBase m + off ∧ pageBase m + off < pageBase k + 0x1000) ↔ pageBase k / 0x1000 = pageBase m / 0x1000 := by
    omega
  rw [Bool.eq_iff_iff, Bool.and_eq_true, decide_eq_true_iff, decide_eq_true_iff, beq_iff_eq]
  exact hiff


/-! ## Passage -/

/-- What an access to page `m` may have changed on its way: the keyways' counts, and nothing where the page is itself a keyway's. -/
def Passed (m : Nat) (d e : Dev) : Prop := SameButKw d e ∧ (isKwPage m = true → e = d)

theorem Passed.refl (m : Nat) (d : Dev) : Passed m d d := ⟨SameButKw.refl d, fun _ => rfl⟩

/-- The access of 32 bits reaches its page: within the host interface, or past the keyways (R362, R364). -/
def ReachesPage (acc : Access) (m off : Nat) (kind : AccKind) (d : Dev) : Prop :=
  (acc.master == 0x50 && fnPage m == some acc.fn) = true ∨ (kwAccess acc (pageBase m + off) kind 2 d).1 = .allowed

theorem reachesPage_of_regGoes {acc : Access} {m off : Nat} {s : State} (h : regGoes acc m off s = true) :
    ReachesPage acc m off .write s.toDev := by
  refine (Bool.or_eq_true _ _ ▸ h : _ ∨ _).imp id fun h => ?_
  split at h
  next h' => exact h'
  next => cases h

theorem regReads_iff {acc : Access} {m off : Nat} {s : State} (h : regReads acc m off s = true) :
    ReachesPage acc m off .read s.toDev ∧ readKind acc m off 4 s.toDev = none := by
  obtain ⟨hgoes, hkind⟩ := Bool.and_eq_true_iff.mp h
  refine ⟨(Bool.or_eq_true _ _ ▸ hgoes : _ ∨ _).imp id fun h => ?_, by simpa using hkind⟩
  split at h
  next h' => exact h'
  next => cases h

theorem passed_kwAccess {acc : Access} {m off : Nat} {kind : AccKind} {size : Nat} {d : Dev} (hm : m < 196) (hoff : off < 0x1000)
    (h : (kwAccess acc (pageBase m + off) kind size d).1 = .allowed) : Passed m d (kwAccess acc (pageBase m + off) kind size d).2 := by
  refine ⟨kwAccess_allowed _ _ _ _ _ h, fun hk => ?_⟩
  have hpage : kwAccess acc (pageBase m + off) kind size d = kwPageCheck acc m (pageBase m + off) kind d := by
    simp only [kwAccess, kwMeet, pageAt_pageBase hm hoff, hk, if_true]
  rw [hpage] at h ⊢
  unfold kwPageCheck at h ⊢
  split at h
  next hc => rw [if_pos hc]
  next => cases h

theorem busPass_of_reaches {acc : Access} {m off : Nat} {kind : AccKind} {s : State} (hm : m < 196) (hoff : off < 0x1000)
    (h : ReachesPage acc m off kind s.toDev) :
    ∃ e, Passed m s.toDev e ∧ busPass acc (pageBase m + off) 4 kind s = (.done, { s with toDev := e }) := by
  unfold busPass
  simp only [pageAt_pageBase hm hoff]
  by_cases hown : (acc.master == 0x50 && fnPage m == some acc.fn) = true
  · exact ⟨s.toDev, Passed.refl .., by rw [if_pos hown]⟩
  · have hpass : (kwAccess acc (pageBase m + off) kind 2 s.toDev).1 = .allowed := h.resolve_left hown
    exact ⟨_, passed_kwAccess hm hoff hpass, by rw [if_neg hown]; simp [show Nat.log2 4 = 2 from rfl, hpass]⟩

end Sys2Proof.Machine
end
section
/-! PROOF. What a page and its registers are while only the keyways' counts have changed. -/

namespace Sys2Proof.Machine

/-! ## What does not read the keyways -/

section
variable {m : Nat} {d e : Dev} (h : Passed m d e)
include h

theorem Passed.pg : e.pg = d.pg := by rw [h.1]
theorem Passed.lc : e.lc = d.lc := by rw [h.1]
theorem Passed.die : e.die = d.die := by rw [h.1]
theorem Passed.evr : e.evr = d.evr := by rw [h.1]
theorem Passed.spn : e.spn = d.spn := by rw [h.1]
theorem Passed.hif : e.hif = d.hif := by rw [h.1]

theorem Passed.eq_or : e = d ∨ isKwPage m = false ∧ ∃ k, e = { d with kw := k } := by
  cases hk : isKwPage m with
  | true => exact .inl (h.2 hk)
  | false => exact .inr ⟨rfl, e.kw, h.1⟩
end

theorem pageInReset_kw (d : Dev) (k : List (KwUnit × KwS)) (m : Nat) : pageInReset { d with kw := k } m = pageInReset d m := rfl

theorem blockReg_kw {m : Nat} (d : Dev) (k : List (KwUnit × KwS)) (hm : isKwPage m = false) (off : Nat) :
    blockReg { d with kw := k } m off = blockReg d m off := by
  simp only [blockReg, hm, Bool.false_eq_true, if_false]
  rfl

theorem Passed.regVal_eq {m : Nat} {d e : Dev} (h : Passed m d e) (off : Nat) : regVal e m off = regVal d m off := by
  rcases h.eq_or with rfl | ⟨hm, k, rfl⟩
  · rfl
  · simp only [regVal, blockReg_kw d k hm, pageInReset_kw]
    rfl

theorem ownKind_kw {m : Nat} (d : Dev) (k : List (KwUnit × KwS)) (hm : isKwPage m = false) (off : Nat) (v : Word32) :
    ownKind m off v { d with kw := k } = ownKind m off v d := by
  simp only [ownKind, hm, Bool.false_and, Bool.false_eq_true, if_false]
  rfl

theorem Passed.writeKind_eq {m : Nat} {d e : Dev} (h : Passed m d e) (acc : Access) (off len : Nat) (v : Word32) :
    writeKind acc m off len v e = writeKind acc m off len v d := by
  rcases h.eq_or with rfl | ⟨hm, k, rfl⟩
  · rfl
  · simp only [writeKind, ownKind_kw d k hm]
    rfl

theorem Passed.readKind_eq {m : Nat} {d e : Dev} (h : Passed m d e) (acc : Access) (off len : Nat) :
    readKind acc m off len e = readKind acc m off len d := by
  rcases h.eq_or with rfl | ⟨-, k, rfl⟩ <;> rfl

theorem Passed.pageOf_eq {m : Nat} {d e : Dev} (h : Passed m d e) (n : Nat) : pageOf e n = pageOf d n := by
  rw [pageOf, h.pg]
  rfl

/-! ## Memory beside a change outside the die -/

theorem syncRegion_of_die {d e : Dev} (h : e.die = d.die) (m₀ : List Host.Cell) (r : Nat) (m : List Host.Cell) :
    syncRegion d e m₀ r m = m := by
  have htasks : tasksOf e r = tasksOf d r := by rw [tasksOf, regionOf, h]; rfl
  have hinsts : instsOf e r = instsOf d r := by rw [instsOf, regionOf, h]; rfl
  have hstay : ∀ l : List (Nat × Task), l.filter (fun x => !l.any fun y =>
      x.1 == y.1 && taskBase x.2 == taskBase y.2 && x.2.call == y.2.call) = [] := fun l =>
    List.filter_eq_nil_iff.mpr fun x hx => by
      rw [Bool.not_eq_true', Bool.not_eq_false]
      exact List.any_eq_true.mpr ⟨x, hx, by simp⟩
  have hkeep : (instsOf d r).filter (fun i => !(instsOf d r).contains i) = [] :=
    List.filter_eq_nil_iff.mpr fun i hi => by simp [hi]
  simp only [syncRegion, htasks, hinsts, hstay, hkeep, List.foldl_nil]

theorem syncMem_of_die {d e : Dev} (h : e.die = d.die) (m : List Host.Cell) : syncMem d e m = m :=
  List.foldl_fixed' (fun r => syncRegion_of_die h m r m) _

theorem memRegions_of_die {d e : Dev} (h : e.die = d.die) (m : List Host.Cell) : memRegions d e m = m := by
  have hphase : ∀ r, regionOf e r = regionOf d r := fun r => by rw [regionOf, h]; rfl
  simp only [memRegions, hphase, bne_self_eq_false, Bool.and_false, Bool.false_eq_true, if_false]
  exact List.foldl_fixed' (fun _ => rfl) _

theorem withRegions_mem {f : Dev → Dev} {s : State} (h : (f s.toDev).die = s.toDev.die) : (withRegions f s).mem = s.mem := by
  simp only [withRegions, syncMem_of_die h, memRegions_of_die h]

end Sys2Proof.Machine
end
section
/-! PROOF. Registers of a page are written and read by accesses of 32 bits: what reaches the page is made or refused there (R7, R503,
R506 to R508). -/

namespace Sys2Proof.Machine

/-! ## Writes on the bus -/

section
variable {acc : Access} {m off : Nat} {v : Word32} {s : State} (hm : m < 196) (hoff : off < 0x1000)
  (hgo : ReachesPage acc m off .write s.toDev)
include hm hoff hgo

theorem busWrite_reaches : ∃ e, Passed m s.toDev e ∧ busWrite acc (pageBase m + off) (natLE v.toNat 4) s =
    wordsOut acc m off (natLE v.toNat 4) [(0, 4)] { s with toDev := e } := by
  obtain ⟨e, hpassed, hbus⟩ := busPass_of_reaches hm hoff hgo
  refine ⟨e, hpassed, ?_⟩
  simp only [busWrite, natLE_length, hbus, pageAt_pageBase hm hoff, Nat.add_sub_cancel_left]
  rfl

theorem busWrite_made (hkind : writeKind acc m off 4 v s.toDev = none) :
    ∃ e, Passed m s.toDev e ∧ busWrite acc (pageBase m + off) (natLE v.toNat 4) s =
      (.done, withRegions (regWrite acc m off v) { s with toDev := e }) := by
  obtain ⟨e, hpassed, hbus⟩ := busWrite_reaches (v := v) hm hoff hgo
  have hkind' : writeKind acc m off 4 v e = none := by rw [hpassed.writeKind_eq, hkind]
  refine ⟨e, hpassed, ?_⟩
  rw [hbus]
  simp only [wordsOut, slice_natLE, ofNat_leNat_natLE, Nat.add_zero, hkind', Option.isSome_none, Bool.false_eq_true, if_false]
  simp only [withRegions, pageWriteAt, hkind']

theorem busWrite_refused {k : Nat} (hkind : writeKind acc m off 4 v s.toDev = some k) :
    ∃ e, Passed m s.toDev e ∧ busWrite acc (pageBase m + off) (natLE v.toNat 4) s =
      (.refused, onDev (fun d => logRefused acc m (pageBase m + off) k (unlatch acc m d)) { s with toDev := e }) := by
  obtain ⟨e, hpassed, hbus⟩ := busWrite_reaches (v := v) hm hoff hgo
  have hkind' : writeKind acc m off 4 v e = some k := by rw [hpassed.writeKind_eq, hkind]
  refine ⟨e, hpassed, ?_⟩
  rw [hbus]
  simp only [wordsOut, slice_natLE, ofNat_leNat_natLE, Nat.add_zero, hkind', Option.isSome_some, if_true]
  simp only [onDev, pageWriteAt, hkind']

end

/-! ## What a requester of the host sees -/

theorem hostWritten_done (acc : Access) (s : State) : hostWritten acc .done s = s := by
  simp [hostWritten]

section
variable (acc : Access) (b : BusEnd) (s : State)

theorem hostWritten_eq : ∃ f : HifS → HifS, hostWritten acc b s = onDev (onHif f) s := by
  unfold hostWritten
  split
  · exact ⟨fun _ => (emit (.aer acc.fn) (aerSet acc.fn 15 s.toDev)).hif, rfl⟩
  · exact ⟨id, rfl⟩

@[simp] theorem hostWritten_mem : (hostWritten acc b s).mem = s.mem := by
  obtain ⟨f, hf⟩ := hostWritten_eq acc b s
  rw [hf, onDev_mem]

@[simp] theorem hostWritten_pg : (hostWritten acc b s).pg = s.pg := by
  obtain ⟨f, hf⟩ := hostWritten_eq acc b s
  rw [hf]
  rfl

@[simp] theorem hostWritten_evr : (hostWritten acc b s).evr = s.evr := by
  obtain ⟨f, hf⟩ := hostWritten_eq acc b s
  rw [hf]
  rfl
end

/-! ## The rows of a page's write -/

/-- A write of 32 bits to page `m`, as the rows of chapter 19 make it. -/
def pageWritten (acc : Access) (m off : Nat) (v : Word32) (s : State) : State :=
  let r := busWrite acc (pageBase m + off) (natLE v.toNat 4) s
  hostWritten acc r.1 r.2

theorem pageRow_of_dieRuns {acc : Access} {m off : Nat} {v : Word32} {s : State} (hrun : dieRuns s.toDev = true) :
    pageRow acc m off v s = .next (pageWritten acc m off v s) := by
  rw [pageRow, if_pos hrun]
  rfl

theorem execRegisterWrite_word {acc : Access} {m off : Nat} {v : BitVec 64} {s : State} (hm : m < 196) (hoff : off < 0x1000)
    (hrun : dieRuns s.toDev = true) : execRegisterWrite acc (.internal (pageBase m + off)) .b4 v s =
      .next (pageWritten acc m off (v.extractLsb' 0 32) s) := by
  have hmap : ¬ 2 ^ 40 ≤ pageBase m + off := by
    have := pageBase_le m hm
    omega
  simp only [execRegisterWrite, if_neg hmap, if_pos hrun]
  rfl

section
variable {acc : Access} {m off : Nat} {v : Word32} {s : State} (hm : m < 196) (hoff : off < 0x1000)
  (hgo : ReachesPage acc m off .write s.toDev)
include hm hoff hgo

theorem pageWritten_made (hkind : writeKind acc m off 4 v s.toDev = none) :
    ∃ e, Passed m s.toDev e ∧ pageWritten acc m off v s = withRegions (regWrite acc m off v) { s with toDev := e } := by
  obtain ⟨e, hpassed, hbus⟩ := busWrite_made hm hoff hgo hkind
  exact ⟨e, hpassed, by rw [pageWritten, hbus, hostWritten_done]⟩

/-- A refused write leaves the page and the memory, and is logged with its kind (R507). -/
theorem pageWritten_refused {k : Nat} (hkind : writeKind acc m off 4 v s.toDev = some k) (hroom : logRoom s = true) :
    pageOf (pageWritten acc m off v s).toDev m = pageOf s.toDev m ∧ (pageWritten acc m off v s).mem = s.mem
      ∧ logged 0x2201 (pageSource m) (k * 2 ^ 24 + tagOf acc) ((pageBase m + off) % 2 ^ 32) ((pageBase m + off) / 2 ^ 32 % 256)
        (pageWritten acc m off v s) = true := by
  obtain ⟨e, hpassed, hbus⟩ := busWrite_refused hm hoff hgo hkind
  rw [pageWritten, hbus]
  refine ⟨?_, hostWritten_mem .., logged_of_logEv (d := unlatch acc m e) hroom hpassed.evr (hostWritten_evr ..)⟩
  rw [← hpassed.pageOf_eq m, pageOf, hostWritten_pg]
  simp only [onDev_toDev, logRefused]
  rw [logEv_eq_onEvr]
  rfl

end

end Sys2Proof.Machine
end
section
/-! PROOF. What an admitted write makes of a register: interrupt causes and their mask, the lock, and a function's queue addresses
(R7, R47, R501, R503, R508). -/

namespace Sys2Proof.Machine

/-! ## Pages -/

@[simp] theorem pageOf_onPage_self (m : Nat) (f : PageS → PageS) (d : Dev) : pageOf (onPage m f d) m = f (pageOf d m) := by
  simp [pageOf, onPage]

@[simp] theorem pageOf_unlatch (acc : Access) (m n : Nat) (d : Dev) : pageOf (unlatch acc m d) n = pageOf d n := rfl
@[simp] theorem pageOf_onHif (f : HifS → HifS) (n : Nat) (d : Dev) : pageOf (onHif f d) n = pageOf d n := rfl

/-! ## Admission -/

section
variable {acc : Access} {m off : Nat} {v : Word32} {d : Dev}

theorem writeKind_word (halign : off % 4 = 0) (hmay : mayWrite acc m off d = true) :
    writeKind acc m off 4 v d = ownKind m off v d := by
  simp [writeKind, halign, hmay]

/-- The common registers of a page but IRQ_FORCE have no rule of their own. -/
theorem ownKind_common (hoff : off < 0x040) (hforce : off ≠ 0x018) : ownKind m off v d = none := by
  have hne : ∀ x, 0x040 ≤ x → (off == x) = false := fun x hx => beq_eq_false_iff_ne.mpr (by omega)
  have hle : ∀ x, 0x040 ≤ x → decide (x ≤ off) = false := fun x hx => decide_eq_false (by omega)
  have hcard : cardRange off v = true := by
    unfold cardRange
    rw [if_neg (by omega), if_neg (by omega), if_neg (by omega)]
  simp (disch := decide) only [ownKind, commandOnly, List.contains_cons, List.contains_nil, hcard, if_neg hforce, hne, hle,
    Bool.false_and, Bool.and_false, Bool.or_self, Bool.not_true, Bool.false_eq_true, if_false]
  split <;> rfl

theorem writeKind_irq (hirq : irqWriter acc m = true) (hoff : off = 0x010 ∨ off = 0x014) : writeKind acc m off 4 v d = none := by
  have hmay : mayWrite acc m off d = true := by rcases hoff with rfl | rfl <;> exact hirq
  rw [writeKind_word (by omega) hmay, ownKind_common (by omega) (by omega)]

theorem writeKind_force (hirq : irqWriter acc m = true) :
    writeKind acc m 0x018 4 v d = if d.lc.state = .develop then none else some 6 := by
  rw [writeKind_word rfl (show mayWrite acc m 0x018 d = true from hirq)]
  simp [ownKind]

theorem writeKind_lock (hworld : acc.world = .K) : writeKind acc m 0x02C 4 v d = none := by
  have hmay : mayWrite acc m 0x02C d = true := by simp [mayWrite, hworld]
  rw [writeKind_word rfl hmay, ownKind_common (by decide) (by decide)]

end

/-! ## Interrupt causes -/

section
variable (f : Nat) (d : Dev)

theorem raiseVec_eq_onHif (v : Nat) : ∃ g : HifS → HifS, raiseVec f v d = onHif g d := by
  unfold raiseVec
  split
  · exact ⟨_, rfl⟩
  · exact ⟨fun h => (onFn f (fun x => if x.vecPending.contains v then x else { x with vecPending := x.vecPending ++ [v] }) d).hif, rfl⟩

theorem fnIrq_eq (bit : Nat) : ∃ g : HifS → HifS, fnIrq f bit d = onHif g (irqSet (110 + f) bit d) := by
  unfold fnIrq doIf
  dsimp only
  split
  · exact raiseVec_eq_onHif f _ 0
  · exact ⟨id, rfl⟩

@[simp] theorem fnIrq_die (bit : Nat) : (fnIrq f bit d).die = d.die := by
  obtain ⟨g, hg⟩ := fnIrq_eq f d bit
  rw [hg]
  rfl

theorem fnIrq_irqRaw (bit : Nat) :
    (pageOf (fnIrq f bit d) (110 + f)).irqRaw = (pageOf d (110 + f)).irqRaw ||| BitVec.ofNat 32 (2 ^ bit) := by
  obtain ⟨g, hg⟩ := fnIrq_eq f d bit
  rw [hg, pageOf_onHif, irqSet, pageOf_onPage_self]

theorem forAll_fnIrq_irqRaw (l : List Nat) {i : Nat} (hi : i < 32) :
    (pageOf (forAll l (fnIrq f) d) (110 + f)).irqRaw.getLsbD i = ((pageOf d (110 + f)).irqRaw.getLsbD i || l.contains i) := by
  induction l generalizing d with
  | nil => simp
  | cons b l ih =>
    have hbit : (BitVec.ofNat 32 (2 ^ b)).getLsbD i = (i == b) := by
      rw [BitVec.getLsbD_ofNat, decide_eq_true hi, Bool.true_and, Nat.testBit_two_pow]
      exact decide_eq_decide.mpr eq_comm
    rw [forAll_cons, ih, fnIrq_irqRaw, BitVec.getLsbD_or, hbit, List.contains_cons, Bool.or_assoc]

end

theorem irqForce_die (m : Nat) (v : Word32) (d : Dev) : (irqForce m v d).die = d.die := by
  unfold irqForce
  split
  · exact forAll_keeps (·.die) (fun b e => fnIrq_die _ e b) _ d
  · rfl

theorem irqForce_irqRaw (m : Nat) (v : Word32) (d : Dev) : (pageOf (irqForce m v d) m).irqRaw = (pageOf d m).irqRaw ||| v := by
  unfold irqForce
  split
  next f hf =>
    obtain rfl : m = 110 + f := by
      simp only [fnPage, Option.ite_none_right_eq_some, Option.some.injEq] at hf
      omega
    refine BitVec.eq_of_getLsbD_eq fun i hi => ?_
    rw [forAll_fnIrq_irqRaw f d _ hi, BitVec.getLsbD_or]
    congr 1
    exact Bool.eq_iff_iff.mpr (by simp [hi])
  next => rw [pageOf_onPage_self]

end Sys2Proof.Machine
end
section
/-! PROOF. Function registers written through a BAR (R44, R47), and reads of registers with their latches (R7, R508). -/

namespace Sys2Proof.Machine

/-! ## Function pages -/

theorem fnPage_fn {f : Nat} (hf : f < 64) : fnPage (110 + f) = some f := by
  rw [fnPage, if_pos (by omega), Nat.add_sub_cancel_left]

theorem isKwPage_fn : ∀ f < 64, isKwPage (110 + f) = false := by decide

theorem isRegionPage_fn (f : Nat) : isRegionPage (110 + f) = false := by simp [isRegionPage]; omega

section
variable {f : Nat} (hf : f < 64)
include hf

theorem reachesPage_hostAcc (off : Nat) (kind : AccKind) (d : Dev) : ReachesPage (hostAcc f) (110 + f) off kind d :=
  .inl (by simp [hostAcc, fnPage_fn hf])

/-- The registers of a function page from 0x040 on are the function's own. -/
theorem regWrite_fn {off : Nat} (hoff : 0x040 ≤ off) (acc : Access) (v : Word32) (d : Dev) :
    regWrite acc (110 + f) off v d = fnWrite acc (110 + f) f off v (unlatch acc (110 + f) d) := by
  simp (disch := omega) only [regWrite, blockWrite, if_neg, isKwPage_fn f hf, isRegionPage_fn, fnPage_fn hf, Bool.false_eq_true, if_false]

theorem writeKind_fn_onPg (acc : Access) (off len : Nat) (v : Word32) (g : PagesS → PagesS) (d : Dev) :
    writeKind acc (110 + f) off len v (onPg g d) = writeKind acc (110 + f) off len v d := by
  simp only [writeKind, ownKind, isKwPage_fn f hf, Bool.false_and, Bool.false_eq_true, if_false]
  rfl

end

theorem barWrite_page {f off : Nat} (hoff : off < 0x1000) (v : Word32) (s : State) :
    barWrite f (0x1000 + off) 4 v s = pageWritten (hostAcc f) (110 + f) off v s := by
  rw [barWrite, if_pos (by omega), Nat.add_sub_cancel_left]
  rfl

/-! ## Words held for the second half of a pair -/

theorem lowHold_lows_find (acc : Access) (m off : Nat) (v : Word32) (d : Dev) :
    (lowHold acc m off v d).pg.lows.find? (fun l => l.1 == reqKey acc && l.2.1 == pageBase m + off) =
      some (reqKey acc, pageBase m + off, v) := by
  have hgone : (d.pg.lows.filter (fun l => !(l.1 == reqKey acc && l.2.1 == pageBase m + off))).find?
      (fun l => l.1 == reqKey acc && l.2.1 == pageBase m + off) = none :=
    List.find?_eq_none.mpr fun l hl => by simpa only [Bool.not_eq_true', Bool.not_eq_true] using (List.mem_filter.mp hl).2
  simp only [lowHold, onPg_pg, List.find?_append, hgone]
  simp

theorem pairCommit_of_held {acc : Access} {m off : Nat} {low v : Word32} {act : Word64 → Dev → Dev} {d : Dev}
    (h : d.pg.lows.find? (fun l => l.1 == reqKey acc && l.2.1 == pageBase m + off) = some (reqKey acc, pageBase m + off, low)) :
    ∃ g : PagesS → PagesS, pairCommit acc m (off + 4) v act d = act (v ++ low) (onPg g d) :=
  ⟨_, by simp only [pairCommit, ← Nat.add_assoc, Nat.add_sub_cancel, h, Option.map_some, Option.getD_some]; rfl⟩

theorem extractLsb'_append_halves (v : BitVec 64) : (v.extractLsb' 32 32 ++ v.extractLsb' 0 32 : Word64) = v := by
  refine BitVec.eq_of_getLsbD_eq fun i hi => ?_
  rw [BitVec.getLsbD_append]
  by_cases h : i < 32
  · simp [h]
  · have : i - 32 < 32 := by omega
    simp [h, this, show 32 + (i - 32) = i by omega]

/-! ## Reads on the bus -/

/-- A read of 32 bits of page `m`, as the rows of chapter 19 make it. -/
def pageReadOut (acc : Access) (m off : Nat) (s : State) : State :=
  let r := busRead acc (pageBase m + off) 4 s
  hostRead acc r.1 r.2.1 r.2.2

theorem readRow_of_dieRuns {acc : Access} {m off : Nat} {s : State} (hm : m < 196) (hoff : off < 0x1000)
    (hrun : dieRuns s.toDev = true) : readRow acc (pageBase m + off) s = .next (pageReadOut acc m off s) := by
  have hmap : ¬ 2 ^ 40 ≤ pageBase m + off := by
    have := pageBase_le m hm
    omega
  rw [readRow, if_neg hmap, if_pos hrun]
  rfl

theorem regRead_hif (acc : Access) (m off : Nat) (d : Dev) : (regRead acc m off d).2.hif = d.hif :=
  (doIf_keeps (·.hif) (f := onSpn _) (fun _ => rfl) _ _).trans (doIf_keeps (·.hif) (f := onPg _) (fun _ => rfl) _ _)

theorem readKind_aligned {acc : Access} {m off : Nat} {d : Dev} (h : readKind acc m off 4 d = none) : off % 4 = 0 := by
  by_contra hne
  simp [readKind, hne] at h

section
variable {acc : Access} {m off : Nat} {s : State} (hm : m < 196) (hoff : off < 0x1000)
  (hgo : ReachesPage acc m off .read s.toDev) (hkind : readKind acc m off 4 s.toDev = none)
include hm hoff hgo hkind

theorem busRead_made : ∃ e, Passed m s.toDev e ∧ busRead acc (pageBase m + off) 4 s =
    (.done, natLE (regRead acc m off e).1.toNat 4, { s with toDev := (regRead acc m off e).2 }) := by
  obtain ⟨e, hpassed, hbus⟩ := busPass_of_reaches hm hoff hgo
  have hkind' : readKind acc m off 4 e = none := by rw [hpassed.readKind_eq, hkind]
  have halign := readKind_aligned hkind
  have hword : off / 4 * 4 = off := by omega
  refine ⟨e, hpassed, ?_⟩
  simp only [busRead, hbus, pageAt_pageBase hm hoff, Nat.add_sub_cancel_left, show regPieces 4 = [(0, 4)] from rfl]
  simp only [wordsIn, Nat.add_zero, hkind', hword, halign, slice_natLE, List.append_nil]

/-- A read leaves the memory; its side effects are those of the register, and a host gets the value (R7, R508). -/
theorem pageReadOut_made : ∃ e, Passed m s.toDev e ∧ (pageReadOut acc m off s).mem = s.mem
    ∧ (pageReadOut acc m off s).pg = (regRead acc m off e).2.pg ∧ (pageReadOut acc m off s).spn = (regRead acc m off e).2.spn
    ∧ (acc.master = 0x50 → (pageReadOut acc m off s).hif.tx = s.hif.tx ++ [.readData (regRead acc m off e).1]) := by
  obtain ⟨e, hpassed, hbus⟩ := busRead_made hm hoff hgo hkind
  refine ⟨e, hpassed, ?_⟩
  rw [pageReadOut, hbus]
  by_cases hhost : (acc.master != 0x50) = true
  · rw [hostRead, if_pos hhost]
    exact ⟨rfl, rfl, rfl, fun h => absurd h (bne_iff_ne.mp hhost)⟩
  · rw [hostRead, if_neg hhost]
    refine ⟨rfl, rfl, rfl, fun _ => ?_⟩
    simp only [ofNat_leNat_natLE, onDev_toDev, emit, onHif_hif, regRead_hif, hpassed.hif]

end

/-! ## Latches -/

theorem isLow_next_lt {m off : Nat} (hlow : isLow m off = true) (halign : off % 4 = 0) (hoff : off < 0x1000) : off + 4 < 0x1000 := by
  have hlast : off ≠ 0xFFC := by
    rintro rfl
    revert hlow
    unfold isLow
    split_ifs <;> simp
  omega

theorem regRead_value {acc : Access} {m off : Nat} {s : State} {e : Dev} (h : Passed m s.toDev e) :
    (regRead acc m off e).1 = (latched acc m off s).getD (regVal s.toDev m off) := by
  simp only [regRead, latched, h.pg, h.regVal_eq]

theorem regRead_latches_find {acc : Access} {m off : Nat} (hlow : isLow m off = true) (hoff : off + 4 < 0x1000) (d : Dev) :
    (regRead acc m off d).2.pg.latches.find? (fun l => l.1 == reqKey acc && l.2.1 == pageBase m + (off + 4)) =
      some (reqKey acc, pageBase m + (off + 4), regVal d m (off + 4)) := by
  have hgone : (unlatch acc m d).pg.latches.find? (fun l => l.1 == reqKey acc && l.2.1 == pageBase m + (off + 4)) = none :=
    List.find?_eq_none.mpr fun l hl hmine => by
      obtain ⟨hkey, haddr⟩ := Bool.and_eq_true_iff.mp hmine
      have hout := (List.mem_filter.mp hl).2
      simp only [hkey, beq_iff_eq.mp haddr, Bool.true_and, Bool.not_and, Bool.or_eq_true, Bool.not_eq_true', decide_eq_false_iff_not]
        at hout
      omega
  have hpg : (regRead acc m off d).2.pg.latches =
      (unlatch acc m d).pg.latches ++ [(reqKey acc, pageBase m + (off + 4), regVal d m (off + 4))] := by
    simp only [regRead, hlow, doIf_true]
    unfold doIf
    split <;> rfl
  rw [hpg, List.find?_append, hgone]
  simp

end Sys2Proof.Machine
end

section
/-! PROOF. How a row that runs one hasp command begins and ends (R58, R69, R72). -/

namespace Sys2Proof.Machine

/-! ## Bodies -/

section
variable {α β : Type} (d : Dev)

theorem run_bind (x : Run α) (f : α → Run β) :
    (x >>= f) d = match x d with
      | (.ok a, e) => f a e
      | (.error r, e) => (.error r, e) := by
  have h : (x >>= f) d = (match x d with | (r, e) => ExceptT.bindCont f r e) := rfl
  rw [h]
  cases x d with
  | mk r e => cases r <;> rfl

theorem run_map (f : α → β) (x : Run α) :
    (f <$> x) d = match x d with
      | (.ok a, e) => (.ok (f a), e)
      | (.error r, e) => (.error r, e) := by
  have h : (f <$> x) d = (x >>= fun a => pure (f a)) d := rfl
  rw [h, run_bind]
  rfl

@[simp] theorem run_pure (a : α) : (pure a : Run α) d = (.ok a, d) := rfl
@[simp] theorem run_get : (get : Run Dev) d = (.ok d, d) := rfl

theorem run_need {b : Bool} (st : BitVec 16) (detail : Nat) (h : b = true) : need b st detail d = (.ok (), d) := by
  rw [need, if_pos h, run_pure]

end

/-! ## Checks -/

/-- A check lets every device pass and leaves it, or lets none pass. -/
def IsCheck (x : Run Unit) : Prop := (∀ d, x d = (.ok (), d)) ∨ ∀ d, ∃ r, (x d).1 = .error r

theorem isCheck_pure : IsCheck (pure ()) := .inl fun _ => rfl

theorem isCheck_failLog (st : BitVec 16) (detail : Nat) (log : Dev → Dev) : IsCheck (failLog st detail log) :=
  .inr fun _ => ⟨_, rfl⟩

theorem isCheck_need (b : Bool) (st : BitVec 16) (detail : Nat) : IsCheck (need b st detail) := by
  cases b with
  | true => exact .inl fun d => run_need d st detail rfl
  | false => exact .inr fun _ => ⟨_, rfl⟩

theorem IsCheck.bind {x : Run Unit} {f : Unit → Run Unit} (hx : IsCheck x) (hf : IsCheck (f ())) : IsCheck (x >>= f) := by
  rcases hx with hx | hx
  · rcases hf with hf | hf
    · exact .inl fun d => by rw [run_bind, hx]; exact hf d
    · exact .inr fun d => by rw [run_bind, hx]; exact hf d
  · refine .inr fun d => ?_
    obtain ⟨r, hr⟩ := hx d
    rw [run_bind]
    cases hxd : x d with
    | mk r' e => cases r' with
      | ok u => simp [hxd] at hr
      | error q => exact ⟨q, rfl⟩

theorem IsCheck.ite {c : Prop} [Decidable c] {x y : Run Unit} (hx : IsCheck x) (hy : IsCheck y) : IsCheck (if c then x else y) := by
  split
  · exact hx
  · exact hy

theorem isCheck_listChecks (c : Cmd) (hr : HostRead) (streamed : Bool) : IsCheck (listChecks c hr streamed) := by
  have hout : IsCheck (if c.flags.getLsbD 1 then need (sgOk c.outPtr hr.outSg (fun n => decide (c.outCap ≤ n))) stParam 0 else pure ()) :=
    (isCheck_need ..).ite isCheck_pure
  unfold listChecks
  refine IsCheck.ite ?_ isCheck_pure
  cases hr.err with
  | none => exact ((isCheck_need ..).bind hout).ite hout
  | some a => exact ((isCheck_failLog ..).bind (((isCheck_need ..).bind hout).ite hout)).ite (((isCheck_need ..).bind hout).ite hout)

theorem IsCheck.run_ok {x : Run Unit} (hx : IsCheck x) {d : Dev} {u : Unit} (h : (x d).1 = .ok u) (e : Dev) : x e = (.ok (), e) := by
  rcases hx with hx | hx
  · exact hx e
  · obtain ⟨r, hr⟩ := hx d
    rw [h] at hr
    cases hr

/-! ## Rows of one command -/

/-- The device with the pieces of the output buffer placed, as a command's body finds it (R58). -/
def outputPlaced (cid : Nat) (hr : HostRead) : Dev → Dev :=
  onCmd cid fun c => { c with outSeg := if c.flags.getLsbD 1 then sgSegs hr.outSg else [(c.outPtr, c.outCap)] }

theorem starts_iff {code cid : Nat} {hr : HostRead} {s : State} : starts code cid hr s = true ↔
    cmdOf? s.toDev cid = some (theCmd cid s) ∧ (theCmd cid s).code = code ∧ mayStart s.toDev (theCmd cid s) = true
      ∧ ∃ u, (listChecks (theCmd cid s) hr false s.toDev).1 = .ok u := by
  unfold starts startsAs theCmd
  cases cmdOf? s.toDev cid with
  | none => simp
  | some c =>
    simp only [Option.getD_some, Bool.and_eq_true, beq_iff_eq, true_and, and_assoc, runBody]
    cases (listChecks c hr false s.toDev).1 <;> simp

theorem hasp_of_starts {code cid : Nat} {hr : HostRead} {s : State} (h : starts code cid hr s = true)
    (body : Cmd → HostRead → Run Res) : hasp code cid hr body s =
      .next (onDev (fun d => settle cid (body (theCmd cid s) (readOf (theCmd cid s) hr) (outputPlaced cid hr d))) s) := by
  obtain ⟨hcmd, hcode, hstart, u, hchecks⟩ := starts_iff.mp h
  have hrun := (isCheck_listChecks ..).run_ok hchecks (outputPlaced cid hr s.toDev)
  simp only [hasp, nextD, onDev, runCmd, hcmd, hcode, hstart, beq_self_eq_true, Bool.and_self, if_true]
  rw [runBody, run_bind, ← outputPlaced, hrun]

end Sys2Proof.Machine
end
section
/-! PROOF. Commands that end with an answer read off the device, which they leave as it was (R40, R477). -/

namespace Sys2Proof.Machine

/-! ## The end of a command -/

section
variable (d : Dev)

theorem countEnd_eq (c : Cmd) : countEnd c d = onDie (fun _ => (countEnd c d).die) d := by
  unfold countEnd
  split
  any_goals split
  all_goals rfl

/-- A command's end changes the commands and the counts of the engines. -/
theorem finish_eq (cid : Nat) (r : Res) :
    finish cid r d = onDie (fun _ => (finish cid r d).die) (onHif (fun _ => (finish cid r d).hif) d) := by
  unfold finish
  split
  · rfl
  · split
    · rfl
    · rw [countEnd_eq]
      rfl

@[simp] theorem finish_cpm (cid : Nat) (r : Res) : (finish cid r d).cpm = d.cpm := by
  rw [finish_eq]
  rfl

theorem finish_stage {cid : Nat} {c : Cmd} (r : Res) (hc : cmdOf? d cid = some c) (hopen : isDone c = false) :
    (cmdOf? (finish cid r d) cid).map (·.stage) = some (.done r) := by
  unfold finish
  simp only [hc]
  split
  next r' hdone => simp [isDone, hdone] at hopen
  next =>
    rw [cmdOf?_of_hif (countEnd_hif _ c), cmdOf?_onCmd_self, hc]
    · rfl
    · exact fun _ => rfl

end

theorem outputPlaced_cmdOf? (cid : Nat) (hr : HostRead) (d : Dev) :
    (cmdOf? (outputPlaced cid hr d) cid).map isDone = (cmdOf? d cid).map isDone := by
  rw [outputPlaced, cmdOf?_onCmd_self]
  · rw [Option.map_map]
    rfl
  · exact fun _ => rfl

theorem isDone_of_mayStart {d : Dev} {c : Cmd} (h : mayStart d c = true) : isDone c = false := by
  have hwait : isWaiting c = true := by
    rw [mayStart, Bool.and_assoc] at h
    exact (Bool.and_eq_true_iff.mp h).1
  simp [isDone, beq_iff_eq.mp hwait]

/-- A command that starts and whose body answers at once, with the device as it found it, ends with that answer. -/
theorem endsWith_of_answer {code cid : Nat} {hr : HostRead} {body : Cmd → HostRead → Run Res} {res : Res} {s : State}
    (h : starts code cid hr s = true)
    (hbody : body (theCmd cid s) (readOf (theCmd cid s) hr) (outputPlaced cid hr s.toDev) = (.ok res, outputPlaced cid hr s.toDev)) :
    EndsWith (hasp code cid hr body s) cid res (fun u => u.cpm = s.cpm ∧ u.mem = s.mem) := by
  obtain ⟨hcmd, -, hstart, -⟩ := starts_iff.mp h
  have hdone := outputPlaced_cmdOf? cid hr s.toDev
  rw [hcmd, Option.map_some, isDone_of_mayStart hstart] at hdone
  obtain ⟨c, hc, hopen⟩ := Option.map_eq_some_iff.mp hdone
  rw [hasp_of_starts h]
  refine ⟨stage_theCmd_of_cmdOf? ?_, ?_, rfl⟩
  · simp only [onDev_toDev, hbody, settle]
    exact finish_stage _ res hc hopen
  · simp only [onDev_toDev, hbody, settle, finish_cpm]
    rfl

/-! ## Registers beside the place of an output -/

/-- The commands' output pieces are placed and nothing else of them changes. -/
def PlacesOutput (g : Cmd → Cmd) : Prop := ∀ c, g c = { c with outSeg := (g c).outSeg }

theorem outputPlaced_eq (cid : Nat) (hr : HostRead) (d : Dev) :
    ∃ g, PlacesOutput g ∧ outputPlaced cid hr d = onHif (fun h => { h with cmds := h.cmds.map g }) d := by
  refine ⟨fun c => if c.cid == cid then { c with outSeg := if c.flags.getLsbD 1 then sgSegs hr.outSg else [(c.outPtr, c.outCap)] } else c,
    fun c => ?_, rfl⟩
  dsimp only
  split <;> rfl

section
variable {g : Cmd → Cmd} (hg : PlacesOutput g) (d : Dev)
include hg

theorem any_map_placesOutput {p : Cmd → Bool} (hp : ∀ c o, p { c with outSeg := o } = p c) (l : List Cmd) :
    (l.map g).any p = l.any p := by
  rw [List.any_map]
  congr 1
  exact funext fun c => by rw [Function.comp_apply, hg c, hp]

theorem hookOf_map (fn : Nat) : hookOf (onHif (fun h => { h with cmds := h.cmds.map g }) d) fn = (hookOf d fn).map g := by
  have hseq : ∀ c, (g c).seq = c.seq := fun c => by rw [hg c]
  have hhook : ∀ c, ((g c).code == 0x0703 && isRunning (g c) && cmdFn (g c) == fn) = (c.code == 0x0703 && isRunning c && cmdFn c == fn) :=
    fun c => by rw [hg c]; rfl
  unfold hookOf
  simp only [onHif_hif, List.foldl_map, hhook]
  refine List.foldl_hom (Option.map g) (init := none) fun a c => ?_
  cases a with
  | none => split_ifs <;> rfl
  | some b =>
    simp only [Option.map_some, hseq]
    split_ifs <;> rfl

theorem starving_placesOutput (fn : Nat) : starving (onHif (fun h => { h with cmds := h.cmds.map g }) d) fn = starving d fn := by
  simp only [starving, hookOf_map hg, Option.isSome_map]
  rfl

theorem vltReg_status : vltReg (onHif (fun h => { h with cmds := h.cmds.map g }) d) 0x00C = vltReg d 0x00C := by
  have hwaits := any_map_placesOutput hg (p := fun c =>
    c.code == 0x0702 && isWaiting c && (c.waitOn.contains waitCommit || c.waitOn.contains waitStall)) (fun _ _ => rfl) d.hif.cmds
  simp only [vltReg, if_pos, onHif_hif, hwaits, starving_placesOutput hg]
  rfl

theorem ksReg_status : ksReg (onHif (fun h => { h with cmds := h.cmds.map g }) d) 0x00C = ksReg d 0x00C := by
  have hwaits := any_map_placesOutput hg (p := fun c => isWaiting c && c.waitOn.contains waitBuffer) (fun _ _ => rfl) d.hif.cmds
  simp only [ksReg, onHif_hif, hwaits]
  rfl

omit hg in
theorem blockReg_status_of_le {m : Nat} (hm : 110 ≤ m) :
    blockReg (onHif (fun h => { h with cmds := h.cmds.map g }) d) m 0x00C = blockReg d m 0x00C := by
  have hregion : isRegionPage m = false := by
    rw [isRegionPage]
    simp
    omega
  have hne : m ≠ 69 ∧ m ≠ 89 ∧ m ≠ 90 ∧ m ≠ 92 ∧ m ≠ 93 ∧ m ≠ 95 ∧ m ≠ 109 := by omega
  have hlt : ¬ m ≤ 87 ∧ ¬ m ≤ 107 := by omega
  obtain ⟨h69, h89, h90, h92, h93, h95, h109⟩ := hne
  simp only [blockReg, hregion, Bool.false_eq_true, if_false, if_neg h69, if_neg h89, if_neg h90, if_neg h92, if_neg h93, if_neg h95,
    if_neg h109, if_neg hlt.1, if_neg hlt.2]
  rfl

omit hg in
theorem pageInReset_onHif (f : HifS → HifS) (m : Nat) : pageInReset (onHif f d) m = pageInReset d m := rfl

omit hg in
theorem regVal_of_blockReg {f : HifS → HifS} {m off : Nat} (h : blockReg (onHif f d) m off = blockReg d m off) :
    regVal (onHif f d) m off = regVal d m off := by
  simp only [regVal, h, pageInReset_onHif, pageOf_onHif]
  rfl

omit hg in
theorem blockReg_vlt (off : Nat) : blockReg d 89 off = vltReg d off := rfl

omit hg in
theorem blockReg_ks (off : Nat) : blockReg d 92 off = ksReg d off := rfl

omit hg in
theorem blockReg_nvm (off : Nat) : blockReg d 95 off = nvmReg d off := rfl

omit hg in
theorem blockReg_bra (off : Nat) : blockReg d 69 off = braReg d off := rfl

omit hg in
theorem nvmReg_banks (f : HifS → HifS) : nvmReg (onHif f d) 0x040 = nvmReg d 0x040 := by
  simp [nvmReg]

omit hg in
theorem braReg_pool (f : HifS → HifS) : braReg (onHif f d) 0x044 = braReg d 0x044 := by
  have hspare : isSpare (onHif f d) = isSpare d := rfl
  simp [braReg, hspare]

omit hg in
theorem braReg_out (f : HifS → HifS) : braReg (onHif f d) 0x048 = braReg d 0x048 := by
  have hout : ∀ e, (engOf (onHif f d) e).out = (engOf d e).out := fun _ => rfl
  simp [braReg, hout]

theorem telStatusBytes_placesOutput (fn : Nat) :
    telStatusBytes (onHif (fun h => { h with cmds := h.cmds.map g }) d) fn = telStatusBytes d fn := by
  have hvault := regVal_of_blockReg d (m := 89)
    (by rw [blockReg_vlt, blockReg_vlt, vltReg_status hg])
  have hstore := regVal_of_blockReg d (m := 92)
    (by rw [blockReg_ks, blockReg_ks, ksReg_status hg])
  have hbanks := regVal_of_blockReg d (m := 95)
    (by rw [blockReg_nvm, blockReg_nvm, nvmReg_banks d (fun h => { h with cmds := h.cmds.map g })])
  have hpool := regVal_of_blockReg d (m := 69)
    (by rw [blockReg_bra, blockReg_bra, braReg_pool d (fun h => { h with cmds := h.cmds.map g })])
  have hout := regVal_of_blockReg d (m := 69)
    (by rw [blockReg_bra, blockReg_bra, braReg_out d (fun h => { h with cmds := h.cmds.map g })])
  have hown := regVal_of_blockReg d (blockReg_status_of_le (g := g) d (Nat.le_add_right 110 fn))
  have hclk := regVal_of_blockReg d (m := 186) (blockReg_status_of_le (g := g) d (by decide))
  have htmp := regVal_of_blockReg d (m := 177) (blockReg_status_of_le (g := g) d (by decide))
  have hregions : regionMask (onHif (fun h => { h with cmds := h.cmds.map g }) d) = regionMask d := rfl
  simp only [telStatusBytes, hvault, hstore, hbanks, hpool, hout, hown, hclk, htmp, hregions]

end

/-! ## TEL_STATUS and TEL_READ -/

theorem plainCmd_iff {cid : Nat} {s : State} : plainCmd cid s = true ↔
    (theCmd cid s).ha = 0 ∧ (theCmd cid s).hb = 0 ∧ (theCmd cid s).inPtr = 0 ∧ (theCmd cid s).inLen = 0 := by
  simp [plainCmd, noHandles, and_assoc]

theorem run_needPlain {c : Cmd} (ha : c.ha = 0) (hb : c.hb = 0) (hptr : c.inPtr = 0) (hlen : c.inLen = 0) (d : Dev) :
    needPlain c d = (.ok (), d) := by
  simp [needPlain, noInput, need, run_bind, hA, hB, ha, hb, hptr, hlen]

theorem bodyTelStatus_run {c : Cmd} {hr : HostRead} {d : Dev} (hplain : needPlain c d = (.ok (), d)) (hzero : zeroPar c 64 128 = true)
    (hcap : 64 ≤ c.outCap) : bodyTelStatus c hr d = (.ok (resOut (telStatusBytes d c.fn)), d) := by
  simp [bodyTelStatus, run_bind, run_map, hplain, need, hzero, hcap]

end Sys2Proof.Machine
end
section
/-! PROOF. Registers written, refused and read, the telemetry snapshot and its commands (R7, R40, R477, R501, R503, R506 to R508). -/

namespace Sys2Proof.Machine

/-! ## TEL_READ -/

theorem bodyTelRead_run {c : Cmd} {hr : HostRead} {d : Dev} (hplain : needPlain c d = (.ok (), d)) (hzero : zeroPar c 74 128 = true)
    (halign : par c 64 8 % 4 = 0) (hmap : par c 64 8 < 2 ^ 40) (hmin : 1 ≤ par c 72 2) (hmax : par c 72 2 ≤ 64)
    (hcap : 4 * par c 72 2 ≤ c.outCap) (haddr : ∀ i < par c 72 2, telAddrOk c.fn (par c 64 8 + 4 * i) = true) :
    bodyTelRead c hr d =
      (.ok (resOut ((List.range (par c 72 2)).flatMap fun i => natLE (snapWord d (par c 64 8 + 4 * i)).toNat 4)), d) := by
  have hmap' : par c 64 8 < 1099511627776 := hmap
  have hall : ((List.range (par c 72 2)).map fun i => par c 64 8 + 4 * i).all (telAddrOk c.fn) = true := by
    simpa using haddr
  simp [bodyTelRead, run_bind, run_map, hplain, need, hzero, halign, hmap', hmin, hmax, hcap, hall, List.flatMap_map]

theorem snapWord_of_cpm {d e : Dev} (h : e.cpm = d.cpm) (a : Nat) : snapWord e a = snapWord d a := by
  simp only [snapWord, h]

/-! ## Rows of a page -/

section
variable {acc : Access} {m off : Nat} {v : Word32} {s : State} {P : State → Prop} (hm : m < 196) (hoff : off < 0x1000)
  (hgo : ReachesPage acc m off .write s.toDev)
include hm hoff hgo

/-- What an admitted write makes of the device holds after the row, whatever the keyways counted on its way. -/
theorem pageWritten_of_made (hkind : writeKind acc m off 4 v s.toDev = none)
    (h : ∀ e, Passed m s.toDev e → P (withRegions (regWrite acc m off v) { s with toDev := e })) : P (pageWritten acc m off v s) := by
  obtain ⟨e, hpassed, hrow⟩ := pageWritten_made hm hoff hgo hkind
  rw [hrow]
  exact h e hpassed

end

theorem irqClear_made {acc : Access} {m : Nat} {v : Word32} {s : State} {e : Dev} (h : Passed m s.toDev e) :
    (pageOf (withRegions (regWrite acc m 0x010 v) { s with toDev := e }).toDev m).irqRaw = (pageOf s.toDev m).irqRaw &&& ~~~ v
      ∧ (pageOf (withRegions (regWrite acc m 0x010 v) { s with toDev := e }).toDev m).lock = (pageOf s.toDev m).lock
      ∧ (withRegions (regWrite acc m 0x010 v) { s with toDev := e }).mem = s.mem := by
  have hrow : regWrite acc m 0x010 v e = onPage m (fun p => { p with irqRaw := p.irqRaw &&& ~~~ v }) (unlatch acc m e) := rfl
  have hpage : pageOf (regWrite acc m 0x010 v e) m = { pageOf s.toDev m with irqRaw := (pageOf s.toDev m).irqRaw &&& ~~~ v } := by
    rw [hrow, pageOf_onPage_self, pageOf_unlatch, h.pageOf_eq]
  rw [withRegions_toDev, hpage]
  exact ⟨rfl, rfl, withRegions_mem (by rw [hrow]; rfl)⟩

theorem irqForce_made {acc : Access} {m : Nat} {v : Word32} {s : State} {e : Dev} (h : Passed m s.toDev e) :
    (pageOf (withRegions (regWrite acc m 0x018 v) { s with toDev := e }).toDev m).irqRaw = (pageOf s.toDev m).irqRaw ||| v
      ∧ (withRegions (regWrite acc m 0x018 v) { s with toDev := e }).mem = s.mem := by
  have hrow : regWrite acc m 0x018 v e = irqForce m v (unlatch acc m e) := rfl
  rw [withRegions_toDev]
  refine ⟨?_, withRegions_mem (by rw [hrow, irqForce_die]; rfl)⟩
  rw [hrow, irqForce_irqRaw, pageOf_unlatch, h.pageOf_eq]

theorem pageLock_made {acc : Access} {m : Nat} {s : State} {e : Dev} (h : Passed m s.toDev e) :
    (pageOf (withRegions (regWrite acc m 0x02C 1) { s with toDev := e }).toDev m).lock = true
      ∧ (pageOf (withRegions (regWrite acc m 0x02C 1) { s with toDev := e }).toDev m).irqRaw = (pageOf s.toDev m).irqRaw
      ∧ (withRegions (regWrite acc m 0x02C 1) { s with toDev := e }).mem = s.mem := by
  have hrow : regWrite acc m 0x02C 1 e = onPage m (fun p => { p with lock := true }) (unlatch acc m e) := rfl
  have hpage : pageOf (regWrite acc m 0x02C 1 e) m = { pageOf s.toDev m with lock := true } := by
    rw [hrow, pageOf_onPage_self, pageOf_unlatch, h.pageOf_eq]
  rw [withRegions_toDev, hpage]
  exact ⟨rfl, rfl, withRegions_mem (by rw [hrow]; rfl)⟩

theorem irqMask_made {acc : Access} {m : Nat} {v : Word32} {s : State} {e : Dev} (h : Passed m s.toDev e) :
    regVal (withRegions (regWrite acc m 0x014 v) { s with toDev := e }).toDev m 0x014 = v
      ∧ (pageOf (withRegions (regWrite acc m 0x014 v) { s with toDev := e }).toDev m).irqRaw = (pageOf s.toDev m).irqRaw
      ∧ (withRegions (regWrite acc m 0x014 v) { s with toDev := e }).mem = s.mem := by
  have hrow : regWrite acc m 0x014 v e = onPage m (fun p => { p with irqMask := some v }) (unlatch acc m e) := rfl
  have hpage : pageOf (regWrite acc m 0x014 v e) m = { pageOf s.toDev m with irqMask := some v } := by
    rw [hrow, pageOf_onPage_self, pageOf_unlatch, h.pageOf_eq]
  rw [withRegions_toDev, hpage]
  refine ⟨?_, rfl, withRegions_mem (by rw [hrow]; rfl)⟩
  have hval : ∀ d, regVal d m 0x014 = (pageOf d m).irqMask.getD (BitVec.ofNat 32 (irqMaskReset m)) := fun _ => rfl
  rw [hval, hpage, Option.getD_some]

/-! ## A function's queue addresses through its BAR (R44, R47) -/

section
variable {f : Nat} (hf : f < 64) {v : Word32} {s : State}
include hf

theorem aqCfg_written (hkind : writeKind (hostAcc f) (110 + f) 0x040 4 v s.toDev = none) :
    (fnOf (pageWritten (hostAcc f) (110 + f) 0x040 v s).toDev f).aqCfg = v
      ∧ (pageWritten (hostAcc f) (110 + f) 0x040 v s).mem = s.mem := by
  refine pageWritten_of_made (P := fun u => (fnOf u.toDev f).aqCfg = v ∧ u.mem = s.mem) (by omega) (by omega)
    (reachesPage_hostAcc hf ..) hkind fun e hpassed => ?_
  have hrow : regWrite (hostAcc f) (110 + f) 0x040 v e = onFn f (fun x => { x with aqCfg := v }) (unlatch (hostAcc f) (110 + f) e) :=
    regWrite_fn hf (by omega) ..
  refine ⟨?_, withRegions_mem (by rw [hrow]; rfl)⟩
  rw [withRegions_toDev, hrow, fnOf_onFn_self]

/-- The low word of a queue's address is held (R508). -/
theorem sqBaseLow_written (hkind : writeKind (hostAcc f) (110 + f) 0x048 4 v s.toDev = none) :
    ∃ e, Passed (110 + f) s.toDev e ∧ (pageWritten (hostAcc f) (110 + f) 0x048 v s).mem = s.mem
      ∧ (pageWritten (hostAcc f) (110 + f) 0x048 v s).toDev
        = lowHold (hostAcc f) (110 + f) 0x048 v (unlatch (hostAcc f) (110 + f) e) := by
  obtain ⟨e, hpassed, hrow⟩ := pageWritten_made (by omega) (by omega) (reachesPage_hostAcc hf 0x048 .write s.toDev) hkind
  have hlow : regWrite (hostAcc f) (110 + f) 0x048 v e = lowHold (hostAcc f) (110 + f) 0x048 v (unlatch (hostAcc f) (110 + f) e) :=
    regWrite_fn hf (by omega) ..
  rw [hrow, withRegions_toDev]
  exact ⟨e, hpassed, withRegions_mem (by rw [hlow]; rfl), hlow⟩

/-- The high word sets the address with the low word held (R508). -/
theorem sqBaseHigh_written {low : Word32} (hkind : writeKind (hostAcc f) (110 + f) 0x04C 4 v s.toDev = none)
    (hheld : s.pg.lows.find? (fun l => l.1 == reqKey (hostAcc f) && l.2.1 == pageBase (110 + f) + 0x048)
      = some (reqKey (hostAcc f), pageBase (110 + f) + 0x048, low)) :
    (fnOf (pageWritten (hostAcc f) (110 + f) 0x04C v s).toDev f).sqBase = (v ++ low) &&& ~~~ 0xFFF
      ∧ (pageWritten (hostAcc f) (110 + f) 0x04C v s).mem = s.mem := by
  obtain ⟨e, hpassed, hrow⟩ := pageWritten_made (by omega) (by omega) (reachesPage_hostAcc hf 0x04C .write s.toDev) hkind
  obtain ⟨g, hpair⟩ := pairCommit_of_held (acc := hostAcc f) (m := 110 + f) (off := 0x048) (low := low) (v := v)
    (act := fun x => onFn f (fun y => { y with sqBase := x &&& ~~~ 0xFFF })) (d := unlatch (hostAcc f) (110 + f) e)
    (by rw [← hheld, ← hpassed.pg]; rfl)
  have hmade := (regWrite_fn hf (off := 0x04C) (by decide) (hostAcc f) v e).trans hpair
  rw [hrow]
  refine ⟨?_, withRegions_mem (by rw [hmade]; rfl)⟩
  rw [withRegions_toDev, hmade, fnOf_onFn_self]

end

/-! ## Reads of a register -/

theorem snapshot_next {s : State} (hrun : dieRuns s.toDev = true) : telemetrySnapshot s.toDev =
    onCpm (fun c => { c with snapshot := snapshotOf s.toDev, telemSeq := c.telemSeq + 1 }) s.toDev := by
  rw [telemetrySnapshot, if_pos hrun]

/-- The read of a low word latches the word behind it for its requester (R508). -/
theorem lowWordRead_latches {acc : Access} {m off : Nat} {s : State} (hm : m < 196) (hoff : off < 0x1000) (hlow : isLow m off = true)
    (hread : regReads acc m off s = true) :
    latched acc m (off + 4) (pageReadOut acc m off s) = some (regVal s.toDev m (off + 4)) ∧ (acc.master = 0x50 →
      (pageReadOut acc m off s).hif.tx = s.hif.tx ++ [.readData ((latched acc m off s).getD (regVal s.toDev m off))])
      ∧ (pageReadOut acc m off s).mem = s.mem := by
  obtain ⟨hgo, hkind⟩ := regReads_iff hread
  obtain ⟨e, hpassed, hmem, hpg, -, hdata⟩ := pageReadOut_made hm hoff hgo hkind
  have hnext := isLow_next_lt hlow (readKind_aligned hkind) hoff
  refine ⟨?_, fun hhost => ?_, hmem⟩
  · rw [latched, hpg, regRead_latches_find hlow hnext, hpassed.regVal_eq]
    rfl
  · rw [hdata hhost, regRead_value hpassed]

/-- The crossbar's longest wait clears when it is read (R7). -/
theorem maxWaitRead_clears {acc : Access} {s : State} (hread : regReads acc 188 0x040 s = true) (hfresh : latched acc 188 0x040 s = none) :
    (pageReadOut acc 188 0x040 s).spn = { s.spn with maxWait := 0 } ∧ (acc.master = 0x50 →
      (pageReadOut acc 188 0x040 s).hif.tx = s.hif.tx ++ [.readData (BitVec.ofNat 32 (s.spn.maxWait % 1024))])
      ∧ (pageReadOut acc 188 0x040 s).mem = s.mem := by
  obtain ⟨hgo, hkind⟩ := regReads_iff hread
  obtain ⟨e, hpassed, hmem, -, hspn, hdata⟩ := pageReadOut_made (by decide) (by decide) hgo hkind
  have hcleared : (regRead acc 188 0x040 e).2.spn = { e.spn with maxWait := 0 } := rfl
  have hval : regVal s.toDev 188 0x040 = BitVec.ofNat 32 (s.spn.maxWait % 1024) := rfl
  refine ⟨by rw [hspn, hcleared, hpassed.spn], fun hhost => ?_, hmem⟩
  rw [hdata hhost, regRead_value hpassed, hfresh, Option.getD_none, hval]

/-! ## The rows -/

section
variable (acc : Access) (s : State)

theorem exec_irqRawClear (m : PageNo) (v : Word32) : exec (.irqRawClear acc m v) s = pageRow acc m 0x010 v s := rfl

theorem exec_irqForce (m : PageNo) (v : Word32) : exec (.irqForce acc m v) s = pageRow acc m 0x018 v s := rfl

theorem exec_pageLock (m : PageNo) : exec (.pageLock acc m) s = pageRow acc m 0x02C 1 s := rfl

theorem exec_registerWrite (t : RegTarget) (z : AccSize) (v : Word64) :
    exec (.registerWrite acc t z v) s = execRegisterWrite acc t z v s := rfl

theorem exec_lowWordRead (a : Addr) : exec (.lowWordRead acc a) s = readRow acc a s := rfl

theorem exec_rcRegisterRead (a : Addr) : exec (.rcRegisterRead acc a) s = readRow acc a s := rfl

end

/-! ## The statement -/

/-- Settles O46: a register's write reaches its page and is made or refused there; TEL_STATUS and TEL_READ form their output from the
device as it was before the command began; a read latches or clears as its register does. -/
theorem registersAndTelemetryRun : Obligations.RegistersAndTelemetryRun := by
  unfold Obligations.RegistersAndTelemetryRun
  refine ⟨?irqRawClear, ?irqForce, ?irqForceRefused, ?pageLock, ?snapshot, ?telStatus, ?telRead, ?irqMask, ?refused, ?aqCfg, ?sqBase,
    ?lowWord, ?clears⟩
  case irqRawClear =>
    intro acc m v s hrun hirq hgo
    rw [exec_irqRawClear, pageRow_of_dieRuns hrun]
    exact pageWritten_of_made (P := fun u => (pageOf u.toDev m).irqRaw = _ ∧ (pageOf u.toDev m).lock = _ ∧ u.mem = _) m.isLt (by decide)
      (reachesPage_of_regGoes hgo) (writeKind_irq hirq (.inl rfl)) fun _ => irqClear_made
  case irqForce =>
    intro acc m v s hrun hirq hgo hdev
    rw [exec_irqForce, pageRow_of_dieRuns hrun]
    exact pageWritten_of_made (P := fun u => (pageOf u.toDev m).irqRaw = _ ∧ u.mem = _) m.isLt (by decide) (reachesPage_of_regGoes hgo)
      (by rw [writeKind_force hirq, if_pos hdev]) fun _ => irqForce_made
  case irqForceRefused =>
    intro acc m v s hrun hirq hgo hdev hroom
    rw [exec_irqForce, pageRow_of_dieRuns hrun]
    obtain ⟨hpage, -, hlog⟩ := pageWritten_refused (v := v) (k := 6) m.isLt (by decide) (reachesPage_of_regGoes hgo)
      (by rw [writeKind_force hirq, if_neg hdev]) hroom
    exact ⟨congrArg (·.irqRaw) hpage, hlog⟩
  case pageLock =>
    intro acc m s hrun hworld hgo
    rw [exec_pageLock, pageRow_of_dieRuns hrun]
    exact pageWritten_of_made (P := fun u => (pageOf u.toDev m).lock = true ∧ (pageOf u.toDev m).irqRaw = _ ∧ u.mem = _) m.isLt
      (by decide) (reachesPage_of_regGoes hgo) (writeKind_lock hworld) fun _ => pageLock_made
  case snapshot =>
    intro s hrun
    show (telemetrySnapshot s.toDev).cpm = _ ∧ (telemetrySnapshot s.toDev).evr = _
    rw [snapshot_next hrun]
    exact ⟨rfl, rfl⟩
  case telStatus =>
    intro cid hr s hstart hplain hzero hcap
    obtain ⟨ha, hb, hptr, hlen⟩ := plainCmd_iff.mp hplain
    obtain ⟨g, hg, hplaced⟩ := outputPlaced_eq cid hr s.toDev
    refine endsWith_of_answer hstart ?_
    rw [bodyTelStatus_run (run_needPlain ha hb hptr hlen _) hzero hcap, hplaced, telStatusBytes_placesOutput hg]
  case telRead =>
    intro cid hr s hstart hplain hzero halign hmap hmin hmax hcap haddr
    obtain ⟨ha, hb, hptr, hlen⟩ := plainCmd_iff.mp hplain
    refine endsWith_of_answer hstart ?_
    have hcpm : (outputPlaced cid hr s.toDev).cpm = s.toDev.cpm := rfl
    rw [bodyTelRead_run (run_needPlain ha hb hptr hlen _) hzero halign hmap hmin hmax hcap haddr]
    simp only [snapWord_of_cpm hcpm]
    rfl
  case irqMask =>
    intro acc m v s hrun hirq hgo hkind
    rw [exec_registerWrite, execRegisterWrite_word m.isLt (by decide) hrun]
    exact pageWritten_of_made (P := fun u => regVal u.toDev m 0x014 = _ ∧ (pageOf u.toDev m).irqRaw = _ ∧ u.mem = _) m.isLt (by decide)
      (reachesPage_of_regGoes hgo) (Option.isNone_iff_eq_none.mp hkind) fun _ => irqMask_made
  case refused =>
    intro acc m off k v s hrun hoff _ hgo hkind hroom
    rw [exec_registerWrite, execRegisterWrite_word m.isLt hoff hrun]
    exact pageWritten_refused m.isLt hoff (reachesPage_of_regGoes hgo) hkind hroom
  case aqCfg =>
    intro acc f v s hup hkind
    have hrow : exec (.registerWrite acc (.bar f 0x1040) .b4 v) s =
        .next (pageWritten (hostAcc f) (110 + f) 0x040 (v.extractLsb' 0 32) s) := by
      rw [exec_registerWrite, execRegisterWrite, if_pos hup, ← barWrite_page (by decide)]
      rfl
    rw [hrow]
    exact aqCfg_written f.isLt (Option.isNone_iff_eq_none.mp hkind)
  case sqBase =>
    intro acc f v s hup hlow hhigh
    have hrow : exec (.registerWrite acc (.bar f 0x1048) .b8 v) s =
        .next (pageWritten (hostAcc f) (110 + f) 0x04C (v.extractLsb' 32 32)
          (pageWritten (hostAcc f) (110 + f) 0x048 (v.extractLsb' 0 32) s)) := by
      rw [exec_registerWrite, execRegisterWrite, if_pos hup, ← barWrite_page (by decide), ← barWrite_page (by decide)]
      rfl
    obtain ⟨e, hpassed, hmem, hdev⟩ := sqBaseLow_written f.isLt (Option.isNone_iff_eq_none.mp hlow)
    have hkind : writeKind (hostAcc f) (110 + f) 0x04C 4 (v.extractLsb' 32 32)
        (pageWritten (hostAcc f) (110 + f) 0x048 (v.extractLsb' 0 32) s).toDev = none := by
      rw [hdev, lowHold, writeKind_fn_onPg f.isLt, unlatch, writeKind_fn_onPg f.isLt, hpassed.writeKind_eq]
      exact Option.isNone_iff_eq_none.mp hhigh
    obtain ⟨hbase, hmem'⟩ := sqBaseHigh_written f.isLt hkind (by rw [hdev]; exact lowHold_lows_find ..)
    rw [hrow]
    exact ⟨by rw [hbase, extractLsb'_append_halves], hmem'.trans hmem⟩
  case lowWord =>
    intro acc m off s hrun hoff hlow hread
    rw [exec_lowWordRead, readRow_of_dieRuns m.isLt hoff hrun]
    exact lowWordRead_latches m.isLt hoff hlow hread
  case clears =>
    intro acc s hrun hread hfresh
    rw [exec_rcRegisterRead, readRow_of_dieRuns (by decide) (by decide) hrun]
    exact maxWaitRead_clears hread hfresh

end Sys2Proof.Machine
end

section
/-! PROOF. What the custodian protocol leaves as it is, and what a card slot holds once a message has been sent (R337). -/

namespace Sys2Proof.Machine

/-! ## What messages and draws leave -/

/-- Messages and draws leave the custodian records and the ceremony. -/
structure KeepsCustody (d e : Dev) : Prop where
  lc : e.lc = d.lc
  cer : e.crd.cer = d.crd.cer

theorem KeepsCustody.trans {d e u : Dev} (h : KeepsCustody d e) (h' : KeepsCustody e u) : KeepsCustody d u :=
  ⟨h'.lc.trans h.lc, h'.cer.trans h.cer⟩

theorem boundAs_of_enrol_none {d : Dev} (h : d.lc.enrol = none) (key : Bytes) : boundAs d key = none := by
  rw [boundAs, h]
  rfl

section
variable (s : Nat) (d : Dev)

theorem keepsCustody_onSlot (f : SlotS → SlotS) : KeepsCustody d (onSlot s f d) := ⟨rfl, rfl⟩

theorem keepsCustody_cardSend (b : Bytes) : KeepsCustody d (cardSend s b d) := ⟨rfl, rfl⟩

theorem keepsCustody_t1Send (pcb : Nat) (inf : Bytes) (keep : Bool) : KeepsCustody d (t1Send s pcb inf keep d) := by
  cases keep with
  | false => exact keepsCustody_cardSend s d _
  | true => exact (keepsCustody_onSlot s d _).trans (keepsCustody_cardSend s _ _)

theorem keepsCustody_sendApdu (a : CardAwait) (hdr data : Bytes) : KeepsCustody d (sendApdu s a hdr data d) :=
  (keepsCustody_onSlot s d _).trans (keepsCustody_t1Send s _ _ _ _)

theorem keepsCustody_sendProtected (a : CardAwait) (msg : Bytes) : KeepsCustody d (sendProtected s a msg d) :=
  (keepsCustody_onSlot s d _).trans (keepsCustody_sendApdu s _ _ _ _)

theorem keepsCustody_sendDone : KeepsCustody d (sendDone s d) := keepsCustody_sendProtected ..

/-! ## The slot of a message sent -/

/-- A slot from which a message has been sent and that waits for the answer `a`. -/
def messageSent (a : CardAwait) (out sent : Bytes) (x : SlotS) : SlotS :=
  { exchangeStart a x with out, sent, clkStopped := false, clkHigh := false }

theorem slotOf_cardSend (b : Bytes) : slotOf (cardSend s b d) s = { slotOf d s with clkStopped := false, clkHigh := false } :=
  slotOf_onSlot_self ..

theorem slotOf_sendApdu (a : CardAwait) (hdr data : Bytes) :
    ∃ out sent, slotOf (sendApdu s a hdr data d) s = messageSent a out sent (slotOf d s) := by
  refine ⟨hdr ++ [byte data.length] ++ data, (slotOf (sendApdu s a hdr data d) s).sent, ?_⟩
  rw [sendApdu, t1SendI, t1Send, doIf_true, slotOf_cardSend, slotOf_onSlot_self, slotOf_onSlot_self]
  rfl

theorem slotOf_sendProtected (a : CardAwait) (msg : Bytes) :
    ∃ out sent, slotOf (sendProtected s a msg d) s = messageSent a out sent { slotOf d s with ctrOut := (slotOf d s).ctrOut + 1 } := by
  obtain ⟨out, sent, h⟩ := slotOf_sendApdu s (onSlot s (fun x => { x with ctrOut := x.ctrOut + 1 }) d) a (apduHeader a 0)
    ((gcmEnc (slotOf d s).ksm (gcmIv 0x01 (slotOf d s).ctrOut) (apduHeader a 0) msg).1
      ++ (gcmEnc (slotOf d s).ksm (gcmIv 0x01 (slotOf d s).ctrOut) (apduHeader a 0) msg).2)
  exact ⟨out, sent, h.trans (by rw [slotOf_onSlot_self])⟩

/-- CARD_DONE has been sent: its answer is awaited, and the card's authentication stands. -/
theorem sendDone_slot : (slotOf (sendDone s d) s).await = .cardDone ∧ (slotOf (sendDone s d) s).authed = (slotOf d s).authed := by
  obtain ⟨out, sent, h⟩ := slotOf_sendProtected s d .cardDone []
  rw [sendDone, h]
  exact ⟨rfl, rfl⟩

/-! ## The answer to a message -/

/-- A whole answer of `n` bytes has come in by blocks. -/
def blocksIn (n : Nat) (x : SlotS) : SlotS :=
  { x with
    nsIn := if (n + 2 + 253) / 254 % 2 = 1 then !x.nsIn else x.nsIn
    nsOut := if (x.out.length + max 1 x.ifsc - 1) / max 1 x.ifsc % 2 = 1 then !x.nsOut else x.nsOut
    out := [], chainIn := [], blocks := x.blocks + BitVec.ofNat 64 ((n + 2 + 253) / 254) }

/-- The device once a whole answer has come in. -/
def answerIn (s : Nat) (data : Bytes) : Dev → Dev := onSlot s (blocksIn data.length)

theorem slotOf_answerIn (data : Bytes) : slotOf (answerIn s data d) s = blocksIn data.length (slotOf d s) := slotOf_onSlot_self ..

/-- What an answer with the status word 0x9000 leads to. -/
def answered9000 : CardAwait → Nat → Bytes → Dev → Dev
  | .select => fun s _ => onSelect s
  | .bindResp => onBind
  | .authInit => onAuthInit
  | .authFinish => onAuthFinish
  | .getComponent => onGet
  | .putComponent => onPut
  | .cardDone => fun s data => onDone s data true
  | _ => fun _ _ d => d

variable {s d} {a : CardAwait} {data : Bytes}

theorem apduRow_of_await (sw : Nat) (h : (slotOf d s).await = a) :
    apduRow a s data sw d = apduResponse s data sw (answerIn s data d) := by
  rw [apduRow, if_pos (beq_iff_eq.mpr h)]
  rfl

theorem apduRow_answered (hadm : crdAdmitted d = true) (h : (slotOf d s).await = a) :
    apduRow a s data 0x9000 d = answered9000 a s data (answerIn s data d) := by
  have hadm' : crdAdmitted (answerIn s data d) = true := hadm
  have hawait : (slotOf (answerIn s data d) s).await = a := by
    rw [slotOf_answerIn]
    exact h
  rw [apduRow_of_await _ h]
  simp only [apduResponse, hadm', hawait]
  cases a <;> rfl

theorem apduRow_cardDone {sw : Nat} (hsw : sw ≠ 0x9000) (hadm : crdAdmitted d = true) (h : (slotOf d s).await = .cardDone) :
    apduRow .cardDone s data sw d = turnEnd s (countIn s (answerIn s data d)) := by
  have hadm' : crdAdmitted (answerIn s data d) = true := hadm
  have hawait : (slotOf (answerIn s data d) s).await = .cardDone := by
    rw [slotOf_answerIn]
    exact h
  rw [apduRow_of_await _ h]
  simp only [apduResponse, hadm', hawait]
  simp [onDone, hsw]

end

end Sys2Proof.Machine
end

section
/-! PROOF. Draws for the custodian protocol (R206, R208, R209). -/

namespace Sys2Proof.Machine

/-- Some DRBG serves, and each that serves has more than `k` generates left in its seed period. -/
def Drawable (k : Nat) (d : Dev) : Prop :=
  (∃ r < 4, drbgServes d r = true) ∧ ∀ r < 4, drbgServes d r = true → k < (regionOf d r).drbg.reqsLeft

theorem drawable_of_canDraw {s : State} (h : canDraw s = true) : Drawable 64 s.toDev := by
  simp only [canDraw, Bool.and_eq_true, List.any_eq_true, List.all_eq_true, List.mem_range, Bool.or_eq_true, Bool.not_eq_true',
    decide_eq_true_eq] at h
  exact ⟨h.1, fun r hr hserves => (h.2 r hr).resolve_left (by simp [hserves])⟩

theorem Drawable.mono {k l : Nat} {d : Dev} (h : Drawable k d) (hle : l ≤ k) : Drawable l d :=
  ⟨h.1, fun r hr hserves => hle.trans_lt (h.2 r hr hserves)⟩

/-- One generate of region `r`'s DRBG. -/
def generated (r : Nat) (key v : Bytes) : Dev → Dev :=
  onDrbg r (fun g => { g with key, v, reqsLeft := g.reqsLeft - 1, generates := g.generates + 1 })

section
variable {d : Dev} {r : Nat} (key v : Bytes)

theorem drbgServes_generated (q : Nat) : drbgServes (generated r key v d) q = drbgServes d q := by
  by_cases hq : q = r
  · subst hq
    simp [drbgServes, generated, onDrbg]
  · simp [drbgServes, generated, onDrbg, regionOf_onRegion_ne _ _ hq]

theorem drawable_generated {k : Nat} (h : Drawable (k + 1) d) : Drawable k (generated r key v d) := by
  refine ⟨by simpa only [drbgServes_generated] using h.1, fun q hq hserves => ?_⟩
  have hleft := h.2 q hq (by rwa [drbgServes_generated] at hserves)
  by_cases hr : q = r
  · subst hr
    simp only [generated, onDrbg, regionOf_onRegion_self]
    omega
  · simp only [generated, onDrbg, regionOf_onRegion_ne _ _ hr]
    omega

end

theorem drbgGen_snd {d : Dev} {r : Region} {n : Nat} (h : 1 < (regionOf d r).drbg.reqsLeft) :
    ∃ key v, (drbgGen r n d).2 = generated r key v d :=
  ⟨_, _, by simp only [drbgGen, if_neg (Nat.not_le.mpr h)]; rfl⟩

theorem draw_of_serves {d : Dev} {r : Region} {n : Nat} (hn : n ≤ 512) (hserves : drbgServes d r = true) :
    ∃ b, (draw r n d).1 = some b ∧ ((draw r n d).2 = d ∨ (draw r n d).2 = (drbgGen r n d).2) := by
  rcases Nat.eq_zero_or_pos n with rfl | hpos
  · exact ⟨[], rfl, .inl rfl⟩
  · have hrow : draw r n d = (some ((drbgGen r n d).1 ++ []), (drbgGen r n d).2) := by
      simp [draw, regionDraw, hpos.ne', hserves, Nat.min_eq_left hn]
    rw [hrow]
    exact ⟨_, rfl, .inr rfl⟩

/-- A draw of the key store gives its bytes and takes one generate of one DRBG (R208). -/
theorem ksDraw_of_drawable {k n : Nat} {d : Dev} (h : Drawable (k + 1) d) (hn : n ≤ 512) :
    ∃ b e, ksDraw n d = (some b, e) ∧ Drawable k e ∧ KeepsCustody d e ∧ e.crd = d.crd := by
  obtain ⟨q, hq, hqserves⟩ := h.1
  have hfind : ∃ r : Region,
      ((List.finRange 4).map (fun i => i + Fin.ofNat 4 d.ks.rot)).find? (fun r : Region => drbgServes d r) = some r := by
    refine Option.isSome_iff_exists.mp (List.find?_isSome.mpr ⟨⟨q, hq⟩, ?_, hqserves⟩)
    exact List.mem_map.mpr ⟨⟨q, hq⟩ - Fin.ofNat 4 d.ks.rot, List.mem_finRange _, sub_add_cancel _ _⟩
  obtain ⟨r, hr⟩ := hfind
  have hserves : drbgServes d r = true := List.find?_some (p := fun r : Region => drbgServes d r) hr
  obtain ⟨b, hb, hstep⟩ := draw_of_serves hn hserves
  have hleft := h.2 r r.isLt hserves
  obtain ⟨key, v, hgen⟩ := drbgGen_snd (n := n) (Nat.lt_of_le_of_lt (Nat.le_add_left 1 k) hleft)
  refine ⟨b, onKs (fun x => { x with rot := (r.val + 1) % 4 }) (draw r n d).2, ?_, ?_⟩
  · simp only [ksDraw, hr, hb]
  · rcases hstep with hstep | hstep
    · rw [hstep]
      exact ⟨h.mono (Nat.le_succ k), ⟨rfl, rfl⟩, rfl⟩
    · rw [hstep, hgen]
      exact ⟨drawable_generated key v h, ⟨rfl, rfl⟩, rfl⟩

end Sys2Proof.Machine
end
section
/-! PROOF. An event in the recorder's buffer stays there while others are logged (R446 to R448). -/

namespace Sys2Proof.Machine

/-- The buffer holds a record of an event with its source and parameters, as `logged` says of a state. -/
def InLog (code source p1 p2 p3 : Nat) (d : Dev) : Prop :=
  ∃ r ∈ d.evr.buf, r.code = code ∧ r.source = source ∧ r.p1 = BitVec.ofNat 32 p1 ∧ r.p2 = BitVec.ofNat 32 p2
    ∧ r.p3 = BitVec.ofNat 32 p3

theorem logged_iff {code source p1 p2 p3 : Nat} {u : State} :
    logged code source p1 p2 p3 u = true ↔ InLog code source p1 p2 p3 u.toDev := by
  simp [logged, InLog, List.any_eq_true, and_assoc]

theorem InLog.of_evr {code source p1 p2 p3 : Nat} {d e : Dev} (h : InLog code source p1 p2 p3 d) (he : e.evr = d.evr) :
    InLog code source p1 p2 p3 e := by
  rw [InLog, he]
  exact h

/-- The buffer after an event: it has joined an open record, been suppressed, or taken a record of its own (R447, R448). -/
theorem logEv_buf (code source p1 p2 p3 : Nat) (d : Dev) :
    (∃ p, (logEv code source p1 p2 p3 d).evr.buf = lmod d.evr.buf p (fun r => { r with count := r.count + 1 }))
      ∨ ∃ l, (logEv code source p1 p2 p3 d).evr.buf = d.evr.buf ++ l ∧ l.length ≤ 1 ∧ ∀ r ∈ l, r.code = code := by
  unfold logEv logSev logAs
  generalize (if evRetain code = true then 256 else 224) = cap
  dsimp only
  split
  · exact .inl ⟨_, rfl⟩
  · split
    · exact .inr ⟨[], by simp⟩
    · exact .inr ⟨[_], rfl, by simp⟩

theorem InLog.logEv {code source p1 p2 p3 : Nat} {d : Dev} (h : InLog code source p1 p2 p3 d) (code' source' q1 q2 q3 : Nat) :
    InLog code source p1 p2 p3 (logEv code' source' q1 q2 q3 d) := by
  obtain ⟨r, hr, hrec⟩ := h
  rcases logEv_buf code' source' q1 q2 q3 d with ⟨p, hbuf⟩ | ⟨l, hbuf, -⟩
  · refine ⟨if p r then { r with count := r.count + 1 } else r, ?_, ?_⟩
    · rw [hbuf]
      exact List.mem_map_of_mem hr
    · split
      · exact hrec
      · exact hrec
  · exact ⟨r, by rw [hbuf]; exact List.mem_append_left l hr, hrec⟩

/-- The buffer has room for an event, and no open record takes it in (R447, R448). -/
def LogFits (code : Nat) (d : Dev) : Prop := d.evr.buf.length < 224 ∧ ∀ r ∈ d.evr.buf, r.isOpen = true → r.code ≠ code

theorem logFits_of_logRoom {s : State} (hroom : logRoom s = true) (code : Nat) {d : Dev} (hd : d.evr = s.evr) : LogFits code d := by
  obtain ⟨hlen, hclosed⟩ : d.evr.buf.length < 128 ∧ ∀ r ∈ d.evr.buf, r.isOpen = false := by
    simpa [logRoom, hd] using hroom
  exact ⟨by omega, fun r hr hopen => by simp [hclosed r hr] at hopen⟩

/-- One event of another code leaves room, and its record takes no other code in. -/
theorem logFits_logEv {s : State} (hroom : logRoom s = true) {code code' : Nat} (hne : code' ≠ code) {d : Dev} (hd : d.evr = s.evr)
    (source p1 p2 p3 : Nat) : LogFits code (logEv code' source p1 p2 p3 d) := by
  obtain ⟨hlen, hclosed⟩ : d.evr.buf.length < 128 ∧ ∀ r ∈ d.evr.buf, r.isOpen = false := by
    simpa [logRoom, hd] using hroom
  rcases logEv_buf code' source p1 p2 p3 d with ⟨p, hbuf⟩ | ⟨l, hbuf, hone, hcode⟩
  · refine ⟨by rw [hbuf, lmod, List.length_map]; omega, fun r hr hopen => ?_⟩
    rw [hbuf, lmod] at hr
    obtain ⟨x, hx, rfl⟩ := List.mem_map.mp hr
    have hx' := hclosed x hx
    split at hopen
    · simp [hx'] at hopen
    · simp [hx'] at hopen
  · refine ⟨by rw [hbuf, List.length_append]; omega, fun r hr hopen => ?_⟩
    rw [hbuf] at hr
    rcases List.mem_append.mp hr with hr | hr
    · simp [hclosed r hr] at hopen
    · rw [hcode r hr]
      exact hne

theorem inLog_logEv {code : Nat} {d : Dev} (h : LogFits code d) (source p1 p2 p3 : Nat) :
    InLog code source p1 p2 p3 (logEv code source p1 p2 p3 d) := by
  obtain ⟨hlen, hother⟩ := h
  have hjoin : ∀ w, d.evr.buf.any (evJoins code source w) = false := fun w => List.any_eq_false.mpr fun r hr hj => by
    simp only [evJoins, Bool.and_eq_true, beq_iff_eq] at hj
    exact hother r hr hj.1.1.1 hj.1.1.2
  have hfits : ¬ d.evr.buf.length ≥ (if evRetain code then 256 else 224) := by split <;> omega
  simp [InLog, logEv, logSev, logAs, hjoin, hfits]

end Sys2Proof.Machine
end

section
/-! PROOF. The messages of the custodian protocol (R24, R337 to R341). -/

namespace Sys2Proof.Machine

/-! ## SELECT and BIND -/

theorem sendAuthInit_slot {s : Nat} {d : Dev} (h : Drawable 2 d) :
    (slotOf (sendAuthInit s d) s).await = .authInit ∧ (slotOf (sendAuthInit s d) s).state = .auth
      ∧ (slotOf (sendAuthInit s d) s).cardKey = (slotOf d s).cardKey ∧ KeepsCustody d (sendAuthInit s d) := by
  obtain ⟨eph, e, heph, hleft, hkeep, hcrd⟩ := ksDraw_of_drawable (n := 48) h (by decide)
  obtain ⟨nonce, u, hnonce, -, hkeep', hcrd'⟩ := ksDraw_of_drawable (n := 32) hleft (by decide)
  have hslot : slotOf u s = slotOf d s := by rw [slotOf, hcrd', hcrd]; rfl
  simp only [sendAuthInit, heph, hnonce]
  obtain ⟨out, sent, hsent⟩ := slotOf_sendApdu s (onSlot s _ u) .authInit _ _
  rw [hsent, slotOf_onSlot_self]
  exact ⟨rfl, rfl, congrArg (·.cardKey) hslot,
    hkeep.trans (hkeep'.trans ((keepsCustody_onSlot s u _).trans (keepsCustody_sendApdu s _ _ _ _)))⟩

theorem bindIndex_onSlot {s : Nat} (hs : s < 2) (f : SlotS → SlotS) (d : Dev) : bindIndex (onSlot s f d) s = bindIndex d s := by
  have hother : slotOf (onSlot s f d) (1 - s) = slotOf d (1 - s) := slotOf_onSlot_ne d f (by omega)
  simp only [bindIndex, hother]
  rfl

theorem sendBind_slot {s i : Nat} {d : Dev} {k : Bytes} (hk : custodianKey d = some k) :
    (slotOf (sendBind s i d) s).await = .bindResp ∧ (slotOf (sendBind s i d) s).regIndex = some i := by
  simp only [sendBind, hk]
  obtain ⟨out, sent, h⟩ := slotOf_sendApdu s (onSlot s _ d) .bindResp _ _
  rw [h, slotOf_onSlot_self]
  exact ⟨rfl, rfl⟩

theorem onSelect_bind {s i : Nat} {d : Dev} (hlc : d.lc.state ≠ .quarantine) (hi : bindIndex d s = some i) :
    onSelect s d = sendBind s i d := by
  simp [onSelect, hlc, hi]

theorem onSelect_auth {s : Nat} {d : Dev} (h : d.lc.enrol = none) : onSelect s d = sendAuthInit s d := by
  have hi : bindIndex d s = none := by
    rw [bindIndex, h]
  simp [onSelect, hi]

/-- A key that is new to the enrolment and to the set is bound at the index given out (R38). -/
theorem onBind_new {s i : Nat} {data : Bytes} {d : Dev} (hlen : data.length = 97) (hi : (slotOf d s).regIndex = some i)
    (hb : boundAs d data = none) (hr : registeredAs d data = none) :
    onBind s data d = sendAuthInit s (onSlot s (fun x => { x with cardKey := data })
      (onLc (fun l => { l with enrol := l.enrol.map (fun e => { e with cards := e.cards ++ [(i, data, false)] }) }) d)) := by
  simp only [onBind, hlen, ne_eq, not_true_eq_false, if_false, hb, hr, hi, Option.getD_some]

/-! ## AUTH_INIT -/

section
variable {s i : Nat} {data : Bytes} {d : Dev} (hlen : data.length = 322) (henrol : d.lc.enrol = none)
  (hi : registeredAs d (data.take 97) = some i) (hkey : (slotOf d s).cardKey = [])

/-- The card's signature over the transcript verifies (R338). -/
def authProves (s : Nat) (data : Bytes) (d : Dev) : Bool :=
  ecdsa384 (data.take 97) (sha384 ((slotOf d s).transcript ++ data.take 97 ++ slice data 97 97 ++ slice data 194 32)) (slice data 226 96)

include hlen henrol hi hkey

theorem onAuthInit_refused (h : authProves s data d = false) : onAuthInit s data d = cardRefuse s 6 d := by
  rw [authProves] at h
  simp [-List.append_assoc, onAuthInit, hlen, boundAs_of_enrol_none henrol, hi, hkey, h]

theorem onAuthInit_quarantine (h : authProves s data d = true) (hlc : d.lc.state = .quarantine) :
    onAuthInit s data d = slotStop s .refused (authLog s i (quorumCount i d)) := by
  rw [authProves] at h
  simp [-List.append_assoc, onAuthInit, hlen, boundAs_of_enrol_none henrol, hi, hkey, h, hlc]

theorem onAuthInit_slot (h : authProves s data d = true) (hlc : d.lc.state ≠ .quarantine)
    (hpoint : (ecDecode p384 (slice data 97 97)).isSome = true) (hcus : (custodianKey d).isSome = true) (hdraw : Drawable 1 d) :
    (slotOf (onAuthInit s data d) s).await = .authFinish ∧ (slotOf (onAuthInit s data d) s).regIndex = some i := by
  obtain ⟨q, hq⟩ := Option.isSome_iff_exists.mp hpoint
  obtain ⟨k, hk⟩ := Option.isSome_iff_exists.mp hcus
  obtain ⟨rnd, e, hrnd, -, -, -⟩ := ksDraw_of_drawable (n := 48) hdraw (by decide)
  rw [authProves] at h
  simp only [onAuthInit, hlen, ne_eq, not_true_eq_false, if_false, boundAs_of_enrol_none henrol, hi, hkey, List.isEmpty_nil, Bool.not_true,
    Bool.false_and, Bool.false_eq_true, h, beq_eq_false_iff_ne.mpr hlc, hq, hk, hrnd]
  obtain ⟨out, sent, hsent⟩ := slotOf_sendApdu s (onSlot s _ e) .authFinish _ _
  rw [hsent, slotOf_onSlot_self]
  exact ⟨rfl, rfl⟩

end

/-! ## Events of a refused card, and of one that counts in QUARANTINE -/

theorem finishRunning_evr (cid : Nat) (r : Res) (d : Dev) : (finishRunning cid r d).evr = d.evr := by
  unfold finishRunning
  split
  · split
    · rw [finish_eq]
      rfl
    · rfl
  · rfl

theorem slotStop_evr (s : Nat) (t : CardThen) (d : Dev) : (slotStop s t d).evr = d.evr := by
  unfold slotStop enrolUnbind
  split
  · rfl
  · rfl

theorem inLog_turnBreak {code source p1 p2 p3 : Nat} {d : Dev} (h : InLog code source p1 p2 p3 d) (s cause : Nat) :
    InLog code source p1 p2 p3 (turnBreak s cause d) := by
  unfold turnBreak cerCut cerEnd
  split
  · have hlog := h.logEv 0x6102 (0x58 + s) s ((slotOf d s).regIndex.getD 0) cause
    split
    · exact hlog
    next c hc =>
      have hcut := hlog.of_evr (forAll_keeps (·.evr) (f := turnCut) (fun _ _ => rfl) c.turns _)
      split
      · exact hcut
      · exact ((hcut.of_evr (e := cerClear _) rfl).logEv ..).of_evr (finishRunning_evr ..)
  · exact h

/-- A refused card is logged with its slot, the reason and its class (R326, R338). -/
theorem inLog_cardRefuse {s reason : Nat} {d : Dev} (h : LogFits 0x6105 d) :
    InLog 0x6105 (0x58 + s) s reason (slotOf d s).cls (cardRefuse s reason d) :=
  (inLog_turnBreak (inLog_logEv h ..) s 2).of_evr (slotStop_evr ..)

theorem slotOf_of_crd {d e : Dev} (h : e.crd = d.crd) (s : Nat) : slotOf e s = slotOf d s := by
  rw [slotOf, h]
  rfl

theorem logEv_crd (code source p1 p2 p3 : Nat) (d : Dev) : (logEv code source p1 p2 p3 d).crd = d.crd := by
  rw [logEv_eq_onEvr]
  rfl

theorem logEv_lc (code source p1 p2 p3 : Nat) (d : Dev) : (logEv code source p1 p2 p3 d).lc = d.lc := by
  rw [logEv_eq_onEvr]
  rfl

theorem quorumCount_crd (i : Nat) (d : Dev) : (quorumCount i d).crd = d.crd := by
  unfold quorumCount
  split
  · rfl
  · dsimp only
    split
    · rfl
    · exact logEv_crd ..

/-- The quorum's own event takes no EV_6101 in. -/
theorem logFits_quorumCount {s : State} (hroom : logRoom s = true) {d : Dev} (hd : d.evr = s.evr) (i : Nat) :
    LogFits 0x6101 (quorumCount i d) := by
  have hfits := logFits_of_logRoom hroom 0x6101 hd
  unfold quorumCount
  split
  · exact hfits
  · dsimp only
    split
    · exact hfits
    · exact logFits_logEv hroom (by decide) (by exact hd) ..

/-- A card that proves its key in QUARANTINE is logged with the path of its link (R338, R433). -/
theorem inLog_authLog {s i : Nat} {t : State} (hroom : logRoom t = true) {d : Dev} (hd : d.evr = t.evr) :
    InLog 0x6101 (0x58 + s) s i (slotOf d s).path (slotStop s .refused (authLog s i (quorumCount i d))) := by
  rw [← slotOf_of_crd (quorumCount_crd i d) s]
  exact (inLog_logEv (logFits_quorumCount hroom hd i) ..).of_evr (slotStop_evr ..)

end Sys2Proof.Machine
end
section
/-! PROOF. A card that has authenticated, the components it gives or takes, and its CARD_DONE (R24, R338 to R341). -/

namespace Sys2Proof.Machine

/-! ## AUTH_FINISH -/

/-- The card counts as authenticated: its counters start, and EV_6101 is logged (R338, R339). -/
def cardAuthed (s i : Nat) (d : Dev) : Dev :=
  authLog s i (onSlot s (fun x => { x with authed := true, state := .ready, ctrOut := 1, ctrIn := 1 }) d)

theorem cardAuthed_lc (s i : Nat) (d : Dev) : (cardAuthed s i d).lc = d.lc := logEv_lc ..

theorem cardAuthed_cer (s i : Nat) (d : Dev) : (cardAuthed s i d).crd.cer = d.crd.cer := by
  rw [cardAuthed, authLog, logCard, logEv_crd]
  rfl

theorem cardAuthed_authed (s i : Nat) (d : Dev) : (slotOf (cardAuthed s i d) s).authed = true := by
  rw [cardAuthed, authLog, logCard, slotOf_of_crd (logEv_crd ..), slotOf_onSlot_self]

/-- With no ceremony open, a registered card that proves its session key counts and gets CARD_DONE. -/
theorem onAuthFinish_registered {s i : Nat} {data : Bytes} {d : Dev}
    (hdata : (gcmEnc (slotOf d s).ksm (gcmIv 0x02 0) (slotOf d s).transcript []).2 = data) (hi : (slotOf d s).regIndex = some i)
    (henrol : d.lc.enrol = none) (hreg : (registeredAs d (slotOf d s).cardKey).isSome = true) (hcer : d.crd.cer = none) :
    onAuthFinish s data d = sendDone s (quorumCount i (cardAuthed s i d)) := by
  have hnone : (quorumCount i (cardAuthed s i d)).crd.cer = none := by
    rw [quorumCount_crd, cardAuthed_cer, hcer]
  have hrow : onAuthFinish s data d = afterAuth s (quorumCount i (cardAuthed s i d)) := by
    simp only [onAuthFinish, hdata, bne_self_eq_false, Bool.false_eq_true, if_false, boundAs_of_enrol_none henrol, Option.isSome_none, hreg,
      if_true, hi, Option.getD_some]
    rfl
  rw [hrow, afterAuth, hnone]

/-- The slot then waits for the answer to CARD_DONE; the custodian records are those of the quorum. -/
theorem authedDone_slot (s i : Nat) (d : Dev) :
    (slotOf (sendDone s (quorumCount i (cardAuthed s i d))) s).authed = true
      ∧ (slotOf (sendDone s (quorumCount i (cardAuthed s i d))) s).await = .cardDone
      ∧ (sendDone s (quorumCount i (cardAuthed s i d))).lc = (quorumCount i (cardAuthed s i d)).lc := by
  obtain ⟨hawait, hauthed⟩ := sendDone_slot s (quorumCount i (cardAuthed s i d))
  refine ⟨?_, hawait, (keepsCustody_sendDone ..).lc⟩
  rw [hauthed, slotOf_of_crd (quorumCount_crd ..), cardAuthed_authed]

/-- The answer to AUTH_FINISH that comes in from a registered card, for the device as it was before. -/
theorem authFinish_counts {s i : Nat} {data : Bytes} {d : Dev}
    (hdata : (gcmEnc (slotOf d s).ksm (gcmIv 0x02 0) (slotOf d s).transcript []).2 = data) (hi : (slotOf d s).regIndex = some i)
    (henrol : d.lc.enrol = none) (hreg : (registeredAs d (slotOf d s).cardKey).isSome = true) (hcer : d.crd.cer = none) :
    ∃ e, e.lc = d.lc ∧ (slotOf (answered9000 .authFinish s data (answerIn s data d)) s).authed = true
      ∧ (slotOf (answered9000 .authFinish s data (answerIn s data d)) s).await = .cardDone
      ∧ (answered9000 .authFinish s data (answerIn s data d)).lc = (quorumCount i e).lc := by
  have hrow : answered9000 .authFinish s data (answerIn s data d) = _ := onAuthFinish_registered (i := i) (d := answerIn s data d)
    (by rw [slotOf_answerIn]; exact hdata) (by rw [slotOf_answerIn]; exact hi) henrol (by rw [slotOf_answerIn]; exact hreg) hcer
  rw [hrow]
  exact ⟨cardAuthed s i (answerIn s data d), cardAuthed_lc .., authedDone_slot ..⟩

section
variable {i : Nat} {d : Dev} (hnone : d.lc.quorum = none) (hnew : d.lc.counted.contains i = false)
include hnone hnew

theorem quorumCount_forming (hm : d.lc.counted.length + 1 < d.lc.m) : (quorumCount i d).lc.counted = d.lc.counted ++ [i] := by
  have hlive : (quorumLive d || d.lc.counted.contains i) = false := by rw [quorumLive, hnone, hnew]; rfl
  have hlen : (d.lc.counted ++ [i]).length < d.lc.m := by simpa using hm
  rw [quorumCount, hlive]
  simp only [Bool.false_eq_true, if_false, if_pos hlen]
  rfl

theorem quorumCount_formed (hm : d.lc.m ≤ d.lc.counted.length + 1) : (quorumCount i d).lc.counted = []
    ∧ (quorumCount i d).lc.quorum.map (·.mask) = some (BitVec.ofNat 16 (bitsMask (d.lc.counted ++ [i]))) := by
  have hlive : (quorumLive d || d.lc.counted.contains i) = false := by rw [quorumLive, hnone, hnew]; rfl
  have hlen : ¬ (d.lc.counted ++ [i]).length < d.lc.m := by simpa using hm
  rw [quorumCount, hlive]
  simp only [Bool.false_eq_true, if_false, if_neg hlen, logEv_lc]
  exact ⟨rfl, rfl⟩

end

/-! ## Components and CARD_DONE -/

theorem cer_of_turnOf {s : Nat} {d : Dev} {c : Ceremony} (h : turnOf d s = some c) : d.crd.cer = some c := by
  obtain ⟨x, hx, hturn⟩ := Option.bind_eq_some_iff.mp h
  split at hturn
  · rw [hx, ← hturn]
  · cases hturn

/-- A component that is not the last is taken, and the card gets CARD_DONE (R341 step 5). -/
theorem componentTake_more {s : Nat} {acc : Bytes} {d : Dev} {c : Ceremony} (hc : d.crd.cer = some c) (hmore : c.taken + 1 < c.k) :
    (componentTake s acc d).crd.cer.map (fun x => (x.taken, x.acc, x.comps)) = some (c.taken + 1, acc, c.comps.drop 1)
      ∧ (slotOf (componentTake s acc d) s).await = .cardDone := by
  have htaken : ∀ g : Ceremony → Ceremony, (sendDone s (onCer g d)).crd.cer = some (g c) := fun g => by
    rw [(keepsCustody_sendDone ..).cer]
    simp only [onCer, onCrd, hc, Option.map_some]
  have hcrd : ∀ (e : Dev) (n m : Nat) (f : SlotS → SlotS), (onSlot s f (logCard 0x6120 s n m e)).crd.cer = e.crd.cer := by
    intro e n m f
    rw [(keepsCustody_onSlot ..).cer, logCard, logEv_crd]
  simp only [componentTake, hcrd, htaken, if_pos hmore]
  refine ⟨rfl, ?_⟩
  rw [slotOf_onSlot_self, logCard, slotOf_of_crd (logEv_crd ..)]
  exact (sendDone_slot ..).1

theorem onGet_takes {s : Nat} {data comp kcv : Bytes} {d : Dev} {c : Ceremony} (hturn : turnOf d s = some c)
    (hopen : openProtected (slotOf d s) .getComponent data = some (comp ++ kcv)) (hlen : comp.length = c.lenBytes) (hk : kcv.length = 3)
    (hkcv : keyKcv c.alg comp = kcv) : onGet s data d = componentTake s (xorB c.acc comp) (countIn s d) := by
  have hturn' : turnOf (countIn s d) s = some c := hturn
  have hall : (comp ++ kcv).length = c.lenBytes + 3 := by rw [List.length_append, hk, hlen]
  have htake : (comp ++ kcv).take (c.lenBytes + 3 - 3) = comp := by rw [Nat.add_sub_cancel, ← hlen, List.take_left]
  have hdrop : (comp ++ kcv).drop (c.lenBytes + 3 - 3) = kcv := by rw [Nat.add_sub_cancel, ← hlen, List.drop_left]
  simp only [onGet, hopen, hturn', hall, htake, hdrop, hkcv, ne_eq, not_true_eq_false, if_false, bne_self_eq_false, Bool.false_eq_true]

theorem onPut_takes {s : Nat} {data m : Bytes} {d : Dev} {c : Ceremony} (hturn : turnOf d s = some c)
    (hopen : openProtected (slotOf d s) .putComponent data = some m) : onPut s data d = componentTake s c.acc (countIn s d) := by
  have hturn' : turnOf (countIn s d) s = some c := hturn
  simp only [onPut, hopen, hturn']

theorem turnEnd_slot {s : Nat} {d : Dev} (hcer : d.crd.cer = none) :
    (slotOf (turnEnd s d) s).await = .none ∧ (slotOf (turnEnd s d) s).ctrIn = (slotOf d s).ctrIn := by
  have hrow : turnEnd s d = onSlot s (fun x => { x with state := if x.state == .turn then .ready else x.state }) (exchangeOver s d) := by
    have hcer' : ∀ f : SlotS → SlotS, (onSlot s f (exchangeOver s d)).crd.cer = none := fun _ => hcer
    rw [turnEnd]
    simp only [hcer']
  rw [hrow, slotOf_onSlot_self, exchangeOver, slotOf_onSlot_self]
  exact ⟨rfl, rfl⟩

/-! ## The statement -/

section
variable (sl : Slot) (data : List Byte) (sw : BitVec 16) (s : State)

theorem exec_select : exec (.select sl data sw) s = nextD (apduRow .select sl data sw.toNat) s := rfl
theorem exec_bind : exec (.bind sl data sw) s = nextD (apduRow .bindResp sl data sw.toNat) s := rfl
theorem exec_authInit : exec (.authInit sl data sw) s = nextD (apduRow .authInit sl data sw.toNat) s := rfl
theorem exec_authFinish : exec (.authFinish sl data sw) s = nextD (apduRow .authFinish sl data sw.toNat) s := rfl
theorem exec_getComponent : exec (.getComponent sl data sw) s = nextD (apduRow .getComponent sl data sw.toNat) s := rfl
theorem exec_putComponent : exec (.putComponent sl data sw) s = nextD (apduRow .putComponent sl data sw.toNat) s := rfl
theorem exec_cardDone : exec (.cardDone sl data sw) s = nextD (apduRow .cardDone sl data sw.toNat) s := rfl

theorem gives_nextD (f : Dev → Dev) (P : State → Prop) : Gives (nextD f s) P ↔ P (onDev f s) := Iff.rfl

/-- An admitted answer with 0x9000 to the message that the slot awaits gives what that message leads to. -/
theorem gives_apduRow {a : CardAwait} {P : State → Prop} (hadm : crdAdmitted s.toDev = true) (hawait : (slotIn sl s).await = a)
    (h : P (onDev (fun _ => answered9000 a sl data (answerIn sl data s.toDev)) s)) :
    Gives (nextD (apduRow a sl data 0x9000) s) P := by
  rw [gives_nextD, onDev, apduRow_answered hadm hawait]
  exact h

end

/-- Settles O25: each answer leads to its own message by its lemma above; draws succeed as the seed period has generates left
(`ksDraw_of_drawable`), and an event stays in the recorder while others follow it (`InLog.logEv`). -/
theorem custodianProtocolRuns : Obligations.CustodianProtocolRuns := by
  unfold Obligations.CustodianProtocolRuns
  have hsw : (0x9000 : BitVec 16).toNat = 0x9000 := rfl
  simp only [exec_select, exec_bind, exec_authInit, exec_authFinish, exec_getComponent, exec_putComponent, exec_cardDone, hsw]
  refine ⟨?selectBind, ?selectAuth, ?bind, ?authInit, ?counted, ?quorum, ?getComponent, ?putComponent, ?cardDone⟩
  case selectBind =>
    intro sl data i k s hadm hawait hlc hi hk
    refine gives_apduRow sl data s hadm hawait ?_
    have hi' : bindIndex (answerIn sl data s.toDev) sl = some i := (bindIndex_onSlot sl.isLt _ _).trans hi
    have hrow : answered9000 .select sl data (answerIn sl data s.toDev) = _ := onSelect_bind hlc hi'
    rw [hrow]
    exact sendBind_slot hk
  case selectAuth =>
    intro sl data s hadm hawait henrol hdraw
    refine gives_apduRow sl data s hadm hawait ?_
    have hrow : answered9000 .select sl data (answerIn sl data s.toDev) = _ := onSelect_auth henrol
    have hleft : Drawable 2 (answerIn sl data s.toDev) := (drawable_of_canDraw hdraw).mono (by decide)
    obtain ⟨hauth, hstate, -⟩ := sendAuthInit_slot (s := sl) hleft
    rw [hrow]
    exact ⟨hauth, hstate⟩
  case bind =>
    intro sl data e i s hadm hawait hlen hi henrol hbound hreg hdraw
    refine gives_apduRow sl data s hadm hawait ?_
    have hi' : (slotOf (answerIn sl data s.toDev) sl).regIndex = some i := by
      rw [slotOf_answerIn]
      exact hi
    have hrow : answered9000 .bindResp sl data (answerIn sl data s.toDev) = _ := onBind_new hlen hi' hbound hreg
    obtain ⟨hauth, -, hkey, hkeep⟩ := sendAuthInit_slot (s := sl) (d := onSlot sl (fun x => { x with cardKey := data })
      (onLc (fun l => { l with enrol := l.enrol.map (fun e => { e with cards := e.cards ++ [(i, data, false)] }) })
        (answerIn sl data s.toDev))) ((drawable_of_canDraw hdraw).mono (by decide))
    rw [hrow]
    refine ⟨hauth, ?_, ?_⟩
    · rw [slotOf_onSlot_self] at hkey
      exact hkey
    · simp only [onDev_toDev, hkeep.lc]
      exact congrArg (Option.map _) henrol
  case authInit =>
    intro sl data i s hadm hawait hlen henrol hi hkey hdraw hroom
    have hslot : slotOf (answerIn sl data s.toDev) sl = blocksIn data.length (slotIn sl s) := slotOf_answerIn ..
    have hkey' : (slotOf (answerIn sl data s.toDev) sl).cardKey = [] := by rw [hslot]; exact hkey
    have hproves : authProves sl data (answerIn sl data s.toDev) = authVerified sl data s := by
      rw [authProves, hslot]
      rfl
    refine ⟨fun hver hlc hpoint hcus => gives_apduRow sl data s hadm hawait ?_,
      fun hver hlc => gives_apduRow sl data s hadm hawait ?_, fun hver => gives_apduRow sl data s hadm hawait ?_⟩
    · exact onAuthInit_slot hlen henrol hi hkey' (hproves.trans hver) hlc hpoint hcus ((drawable_of_canDraw hdraw).mono (by decide))
    · have hrow : answered9000 .authInit sl data (answerIn sl data s.toDev) = _ :=
        onAuthInit_quarantine hlen henrol hi hkey' (hproves.trans hver) hlc
      rw [hrow, logged_iff]
      have hlog := inLog_authLog (s := sl) (i := i) hroom (d := answerIn sl data s.toDev) rfl
      rwa [hslot] at hlog
    · have hrow : answered9000 .authInit sl data (answerIn sl data s.toDev) = _ :=
        onAuthInit_refused hlen henrol hi hkey' (hproves.trans hver)
      rw [hrow, logged_iff]
      have hlog := inLog_cardRefuse (s := sl) (reason := 6)
        (logFits_of_logRoom hroom 0x6105 (d := answerIn sl data s.toDev) rfl)
      rwa [hslot] at hlog
  case counted =>
    intro sl i s hadm hawait hi henrol hreg hnone hnew hm hcer
    refine gives_apduRow sl _ s hadm hawait ?_
    obtain ⟨e, he, hauthed, hdone, hlc⟩ := authFinish_counts (d := s.toDev) rfl hi henrol hreg hcer
    refine ⟨hauthed, ?_, hdone⟩
    rw [← he] at hnone hnew hm ⊢
    exact (congrArg (·.counted) hlc).trans (quorumCount_forming hnone hnew hm)
  case quorum =>
    intro sl i s hadm hawait hi henrol hreg hnone hnew hm hcer
    refine gives_apduRow sl _ s hadm hawait ?_
    obtain ⟨e, he, hauthed, -, hlc⟩ := authFinish_counts (d := s.toDev) rfl hi henrol hreg hcer
    rw [← he] at hnone hnew hm ⊢
    obtain ⟨hcounted, hquorum⟩ := quorumCount_formed hnone hnew hm
    exact ⟨hauthed, (congrArg (·.counted) hlc).trans hcounted, (congrArg (fun l => l.quorum.map (·.mask)) hlc).trans hquorum⟩
  case getComponent =>
    intro sl data comp c s hadm hawait hturn hkind hmore hopen hlen hk
    refine gives_apduRow sl data s hadm hawait ?_
    have hrow : answered9000 .getComponent sl data (answerIn sl data s.toDev) = _ :=
      onGet_takes (c := c) hturn (by rw [slotOf_answerIn]; exact hopen) hlen hk rfl
    obtain ⟨hcer, hdone⟩ := componentTake_more (s := sl) (acc := xorB c.acc comp) (d := countIn sl (answerIn sl data s.toDev))
      (cer_of_turnOf hturn) hmore
    rw [hrow]
    refine ⟨?_, hdone⟩
    simpa using congrArg (Option.map fun x => (x.1, x.2.1)) hcer
  case putComponent =>
    intro sl data m c s hadm hawait hturn hmore hopen
    refine gives_apduRow sl data s hadm hawait ?_
    have hrow : answered9000 .putComponent sl data (answerIn sl data s.toDev) = _ :=
      onPut_takes (c := c) hturn (by rw [slotOf_answerIn]; exact hopen)
    obtain ⟨hcer, hdone⟩ := componentTake_more (s := sl) (acc := c.acc) (d := countIn sl (answerIn sl data s.toDev))
      (cer_of_turnOf hturn) hmore
    rw [hrow]
    refine ⟨?_, hdone⟩
    simpa using congrArg (Option.map fun x => (x.1, x.2.2)) hcer
  case cardDone =>
    intro sl data sw s hadm hawait hne hcer
    have hne' : sw.toNat ≠ 0x9000 := fun h => hne (BitVec.eq_of_toNat_eq h)
    rw [gives_nextD, onDev, apduRow_cardDone hne' hadm hawait]
    obtain ⟨hover, hctr⟩ := turnEnd_slot (s := sl) (d := countIn sl (answerIn sl data s.toDev)) hcer
    refine ⟨hover, hctr.trans ?_⟩
    rw [countIn, slotOf_onSlot_self, slotOf_answerIn]
    rfl

end Sys2Proof.Machine
end

section
/-! PROOF. Commands that carry one number: the clauses on KEY_DELETE and on a refill that finds its block unwritten leave open that
two commands in flight do, and `finish` decides commands by number (R69, R94, R97). -/

namespace Sys2Proof.Machine

/-- An AES-128 session key of world C whose bits are in P63. -/
def keyInP63 : Key := {
  entry := 0, owner := ⟨.C, 0⟩, index := 0, gen := 1, hint := 0, alg := 1, lenBytes := 16, life := 0, usage := 0, export_ := 0
  pinned := false, depth := 0, derived := false, ancCeremony := false, ancImported := false, ancGenerated := true, dest := 31
  mat := [], stored := [], kcv := [], created := 0, session := 0, resident := false, spilled := true, inBuffer := false
  lost := false, persistSlot := none }

/-- A MAC_GEN of another session that waits for the refill of that key. It carries the number 1, as the commands below do. -/
def awaitsRefill : Cmd := { cid := 1, code := 0x0320, session := 1, waitOn := [keyInP63.entry] }

/-- A read of `data` from the host's memory, with no scatter list. -/
def plainRead (data : Bytes) : HostRead := ⟨[], [], data, [], [], none⟩

/-! ## KEY_DELETE -/

/-- A die in service whose key store holds that key alone. -/
def keyStoreUp : State := { cpm := { power := .ready }, ks := { keys := [keyInP63] } }

/-- KEY_DELETE of the key. -/
def deletesKey : Cmd := { cid := 1, code := 0x0205, seq := 1, ha := BitVec.ofNat 64 (handleOf keyStoreUp.toDev keyInP63) }

/-- The deletion may start, and a command with its number waits for the key. -/
def deleteBesideTwin : State := { keyStoreUp with hif := { cmds := [deletesKey, awaitsRefill] } }

/-- The hypotheses of the clause on KEY_DELETE hold: the command named by the number waits on nothing. -/
theorem deleteBesideTwin_admitted :
    starts 0x0205 1 (plainRead []) deleteBesideTwin = true ∧ zeroFrom 1 64 deleteBesideTwin = true
      ∧ (theCmd 1 deleteBesideTwin).hb = 0
      ∧ keyLookup deleteBesideTwin.toDev (theCmd 1 deleteBesideTwin).owner (theCmd 1 deleteBesideTwin).session
          (handA 1 deleteBesideTwin) = some keyInP63
      ∧ (keyInP63.life = 2 → keepOnly deleteBesideTwin.toDev = false) ∧ (theCmd 1 deleteBesideTwin).waitOn = []
      ∧ deleteBesideTwin.ks.asks = [] ∧ spillOpen deleteBesideTwin.toDev keyInP63 = false
      ∧ dukptOpen deleteBesideTwin.toDev keyInP63 = false := by
  decide +kernel

/-- The deletion ends the commands that wait on the key with ST_KEYATTR, and with them its own. -/
theorem deleteBesideTwin_stage :
    (theCmd 1 (onDev (runCmd 0x0205 1 (plainRead []) false bodyDelete) deleteBesideTwin)).stage = .done (resErr stKeyAttr 1) := by
  decide +kernel

/-- Refutes O27: its clause on KEY_DELETE has the command end with ST_OK once it waits on nothing itself. The deletion ends every
command that waits on the key, each by its number; where a command that waits on the key carries the deletion's own number, the
deletion has ended with ST_KEYATTR before it answers. The clause lacks the hypothesis that numbers of commands in flight differ. -/
theorem not_keyCommandsComplete : ¬ Obligations.KeyCommandsComplete := by
  unfold Obligations.KeyCommandsComplete
  rintro ⟨-, -, -, -, hdelete, -⟩
  obtain ⟨hstarts, hzero, hb, hkey, hkeep, hwait, hasks, hspill, hdukpt⟩ := deleteBesideTwin_admitted
  obtain ⟨hok, -⟩ := hdelete 1 (plainRead []) keyInP63 deleteBesideTwin hstarts hzero hb hkey hkeep hwait hasks hspill hdukpt
  exact absurd (hok.symm.trans deleteBesideTwin_stage) (by decide)

/-! ## VAULT_SUPPLY of a refill -/

/-- The vault's request for the spill block of the key. -/
def blockRequest : VReq := {
  id := 1, kind := 4, fn := 0, part := 63, epoch := 0, index := spillBlock keyInP63.entry, mask := 0, nodes := [], payload := []
  posted := true, waiters := [], held := false }

/-- The answer of function 0 to that request, and what it reads: an entry of the block. -/
def suppliesBlock : Cmd := { cid := 1, code := 0x0704, seq := 1, params := fit [1, 0, 0, 0, 4] 64, inLen := 4128 }
def blockRead : HostRead := plainRead (fit (natLE (spillBlock keyInP63.entry) 8) 4128)

/-- The supply may start, and a command with its number waits for the key. The L1 node above the block is blank: the block was
never written (R233). -/
def supplyBesideTwin : State := { keyStoreUp with
  vlt := { cache := [⟨1, spillBlock keyInP63.entry / 64, {}, false, 0⟩], reqs := [blockRequest], ready := true }
  hif := { cmds := [suppliesBlock, awaitsRefill] } }

/-- The hypotheses of the clause on a refill hold: the command named by the number waits on nothing. -/
theorem supplyBesideTwin_admitted :
    starts 0x0704 1 blockRead supplyBesideTwin = true ∧ answers 1 blockRead blockRequest supplyBesideTwin = true
      ∧ blockRequest.kind = 4 ∧ param 1 72 8 supplyBesideTwin = 0 ∧ leafIs blockRequest.index {} supplyBesideTwin
      ∧ nBlank {} (blockRequest.index % 64) = true ∧ keyIn (blockRequest.index % 2 ^ 36) supplyBesideTwin = some keyInP63
      ∧ keyInP63.spilled = true ∧ (theCmd 1 supplyBesideTwin).waitOn = [] := by
  decide +kernel

/-- The key is lost, which ends the commands that wait on it with ST_LOST, and with them the supply. -/
theorem supplyBesideTwin_stage :
    (theCmd 1 (onDev (runCmd 0x0704 1 blockRead false vaultSupply) supplyBesideTwin)).stage = .done (resErr stLost 0) := by
  decide +kernel

/-- Refutes O34: its clause on the supply of a spill block that was never written has the supply end with ST_OK. The key is lost
with it, and the commands that wait on the key end with ST_LOST, each by its number; where one of them carries the supply's own
number, the supply has ended with ST_LOST before it answers. The clause lacks the hypothesis that numbers of commands in flight
differ. -/
theorem not_vaultDataRuns : ¬ Obligations.VaultDataRuns := by
  unfold Obligations.VaultDataRuns
  rintro ⟨-, -, -, -, -, -, -, -, -, -, -, hrefill⟩
  obtain ⟨hstarts, hanswers, hkind, hmask, hleaf, hblank, hkey, hspilled, hwait⟩ := supplyBesideTwin_admitted
  obtain ⟨hok, -⟩ := hrefill 1 blockRead blockRequest {} keyInP63 supplyBesideTwin hstarts hanswers hkind hmask hleaf hblank hkey
    hspilled hwait
  exact absurd (hok.symm.trans supplyBesideTwin_stage) (by decide)

end Sys2Proof.Machine
end

section
/-! PROOF. Registers that act when 1 is written: the write reaches its page past the keyways, and acts there or is refused (R135, R221,
R482, R507). -/

namespace Sys2Proof.Machine

/-! ## The passage of the write -/

section
variable {acc : Access} {m off : Nat} {ws : List World} {act : Dev → Dev} {s : State}

/-- The write meets its action with the device as it was but for the keyways' counts. -/
theorem regAction_of_regGoes (h : regGoes acc m off s = true) (ws : List World) (act : Dev → Dev) :
    ∃ e, SameButKw s.toDev e ∧ regAction acc m off ws act s.toDev =
      if ws.contains acc.world && (acc.world != .D || debugAdmitted e) then act e else logRefused acc m (pageBase m + off) 3 e := by
  unfold regAction pagePass
  by_cases hown : (acc.master == 0x50 && fnPage m == some acc.fn) = true
  · exact ⟨s.toDev, SameButKw.refl _, by rw [if_pos hown]⟩
  · have hpass : (kwAccess acc (pageBase m + off) .write 2 s.toDev).1 = .allowed := (reachesPage_of_regGoes h).resolve_left hown
    exact ⟨_, kwAccess_allowed _ _ _ _ _ hpass, by rw [if_neg hown, regPass]; simp only [hpass]⟩

/-- A world among those that the register names acts. -/
theorem regAction_acts (h : regGoes acc m off s = true) (hin : acc.world ∈ ws) (hD : acc.world ≠ .D) :
    ∃ e, SameButKw s.toDev e ∧ regAction acc m off ws act s.toDev = act e := by
  obtain ⟨e, hsame, hact⟩ := regAction_of_regGoes h ws act
  exact ⟨e, hsame, by simp [hact, hin, hD]⟩

/-- From any other world the write changes the keyways' counts and the recorder, and is logged with kind 3. -/
theorem regAction_refused (h : regGoes acc m off s = true) (hout : acc.world ∉ ws) (hroom : logRoom s = true) :
    ∃ e, SameButKw s.toDev e ∧ regAction acc m off ws act s.toDev = logRefused acc m (pageBase m + off) 3 e
      ∧ ∀ u : State, u.toDev = logRefused acc m (pageBase m + off) 3 e →
        logged 0x2201 (pageSource m) (3 * 2 ^ 24 + tagOf acc) ((pageBase m + off) % 2 ^ 32) ((pageBase m + off) / 2 ^ 32 % 256) u
          = true := by
  obtain ⟨e, hsame, hact⟩ := regAction_of_regGoes h ws act
  refine ⟨e, hsame, by simp [hact, hout], fun u hu => logged_of_logEv (d := e) hroom ?_ ?_⟩
  · rw [hsame]
  · rw [hu]
    rfl

end

/-! ## What the three actions do -/

section
variable (d : Dev)

theorem cpmWarm_of_ready (acc : Access) (hpower : d.cpm.power = .ready) (hwarm : d.cpm.warmPending = none) :
    (cpmWarm acc d).cpm.power = .closing
      ∧ (cpmWarm acc d).cpm.warmPending = some (if d.die.safe then 5 else 1, acc.master.toNat) := by
  simp [cpmWarm, warmRequest, hpower, hwarm]

theorem entKatWrite_ent : (entKatWrite d).ent.katRunning = true ∧ (entKatWrite d).ent.kats.contains .conditioner = true
    ∧ (entKatWrite d).ent.katByCtrl = true := by
  by_cases h : KatTarget.conditioner ∈ d.ent.kats
  · simp [entKatWrite, katStart, h]
  · simp [entKatWrite, katStart, h]

theorem regVal_entCtrl : regVal d 180 8 = BitVec.ofNat 32 (b2n d.ent.katByCtrl) := rfl

theorem regVal_boltCtrl (r : Region) : regVal d (1 + 17 * r.val) 8 = BitVec.ofNat 32 (b2n (regionOf d r).bolt.dkFlush) := by
  fin_cases r <;> rfl

variable {d} {r : Region}

theorem dkFlush_idle (h : ∀ l < 4, (boltContext d r l).isNone = true) : (regionOf (dkFlush r d) r).bolt.dk = [] := by
  have hidle : (List.range 4).any (fun l => (boltContext d r l).isSome) = false := by
    simpa [List.any_eq_false] using h
  simp [dkFlush, hidle, onBolt]

theorem dkFlush_busy (h : ∃ l < 4, (boltContext d r l).isSome = true) : (regionOf (dkFlush r d) r).bolt.dkFlush = true := by
  have hbusy : (List.range 4).any (fun l => (boltContext d r l).isSome) = true := by
    simpa [List.any_eq_true] using h
  simp [dkFlush, hbusy, onBolt]

end

theorem SameButKw.boltContext {d e : Dev} (h : SameButKw d e) (r : Region) (l : Nat) : boltContext e r l = boltContext d r l := by
  rw [h]
  rfl

/-! ## The statement -/

section
variable (acc : Access) (r : Region) (s : State)

theorem exec_cpmWarm : exec (.cpmWarm acc) s = nextD (regAction acc 186 8 [.K] (cpmWarm acc)) s := rfl
theorem exec_entKatRun : exec (.entKatRun acc) s = nextD (regAction acc 180 8 [.K, .C] entKatWrite) s := rfl
theorem exec_dkFlush : exec (.dkFlush acc r) s = nextD (regAction acc (1 + 17 * r.val) 8 [.K, .C] (dkFlush r)) s := rfl

end

theorem kc_of_or {acc : Access} (h : acc.world = .K ∨ acc.world = .C) : acc.world ∈ [World.K, .C] ∧ acc.world ≠ .D := by
  rcases h with h | h <;> simp [h]

/-- Settles O49: a write that the keyways let pass acts for the register's own worlds (`regAction_acts`), where the register then
reads 1, and for any other world is refused with EV_2201 (`regAction_refused`). -/
theorem registerActionsKeepTheirWorlds : Obligations.RegisterActionsKeepTheirWorlds := by
  unfold Obligations.RegisterActionsKeepTheirWorlds
  refine ⟨fun acc s hK hgo hpower hwarm => ?_, fun acc s hK hgo hroom => ?_, fun acc s hKC hgo => ?_,
    fun acc s hK hC hgo hroom => ?_, fun acc r s hKC hgo hidle => ?_, fun acc r l s hKC hgo hl hbusy => ?_,
    fun acc r s hK hC hgo hroom => ?_⟩
  · obtain ⟨e, hsame, hact⟩ := regAction_acts (ws := [.K]) (act := cpmWarm acc) hgo (by simp [hK]) (by simp [hK])
    have hcpm : e.cpm = s.cpm := by rw [hsame]
    have hdie : e.die = s.die := by rw [hsame]
    rw [exec_cpmWarm, gives_nextD, onDev_toDev, hact, ← hdie]
    exact cpmWarm_of_ready e acc (hcpm ▸ hpower) (hcpm ▸ hwarm)
  · obtain ⟨e, hsame, hact, hlog⟩ := regAction_refused (ws := [.K]) (act := cpmWarm acc) hgo (by simpa using hK) hroom
    rw [exec_cpmWarm, gives_nextD, onDev_toDev, hact]
    refine ⟨?_, ?_, hlog _ hact⟩
    · rw [logRefused, logEv_eq_onEvr, onEvr_cpm, hsame]
    · rw [logRefused, logEv_hif, hsame]
  · obtain ⟨hin, hD⟩ := kc_of_or hKC
    obtain ⟨e, -, hact⟩ := regAction_acts (act := entKatWrite) hgo hin hD
    obtain ⟨hrun, hkats, hctrl⟩ := entKatWrite_ent e
    rw [exec_entKatRun, gives_nextD, onDev_toDev, hact, regVal_entCtrl, hctrl]
    exact ⟨hrun, hkats, rfl⟩
  · obtain ⟨e, hsame, hact, hlog⟩ := regAction_refused (ws := [.K, .C]) (act := entKatWrite) hgo (by simp [hK, hC]) hroom
    rw [exec_entKatRun, gives_nextD, onDev_toDev, hact]
    refine ⟨?_, hlog _ hact⟩
    rw [logRefused, logEv_eq_onEvr, onEvr_ent, hsame]
  · obtain ⟨hin, hD⟩ := kc_of_or hKC
    obtain ⟨e, hsame, hact⟩ := regAction_acts (act := dkFlush r) hgo hin hD
    rw [exec_dkFlush, gives_nextD, onDev_toDev, hact]
    exact dkFlush_idle fun l hl => by rw [hsame.boltContext, hidle l hl]
  · obtain ⟨hin, hD⟩ := kc_of_or hKC
    obtain ⟨e, hsame, hact⟩ := regAction_acts (act := dkFlush r) hgo hin hD
    have hset := dkFlush_busy (r := r) (d := e) ⟨l, hl, by rw [hsame.boltContext, hbusy]⟩
    rw [exec_dkFlush, gives_nextD, onDev_toDev, hact, regVal_boltCtrl, hset]
    exact ⟨rfl, rfl⟩
  · obtain ⟨e, hsame, hact, hlog⟩ := regAction_refused (ws := [.K, .C]) (act := dkFlush r) hgo (by simp [hK, hC]) hroom
    rw [exec_dkFlush, gives_nextD, onDev_toDev, hact]
    refine ⟨?_, hlog _ hact⟩
    rw [logRefused, logEv_regionOf, hsame]
    rfl

end Sys2Proof.Machine
end

section
/-! PROOF. A key that a handle names passes every check of its use (R86). -/

namespace Sys2Proof.Machine

theorem run_eff (f : Dev → Dev) (d : Dev) : eff f d = (.ok (), f d) := rfl

/-! ## Keys by their handles -/

theorem keyLookup_congr {d e : Dev} (hkeys : e.ks.keys = d.ks.keys) (hvol : e.ks.volKey = d.ks.volKey) (hnvm : e.nvm = d.nvm) :
    keyLookup e = keyLookup d := by
  funext o session h
  simp only [keyLookup, handleTag, persHandleKey, hkeys, hvol, hnvm]

/-- A key once it has been fetched: it is the most recently used, and the fetch counts. -/
def keyFetched (k : Key) (d : Dev) : Dev := onKs (fun x => { x with fetches := x.fetches + 1 }) (keyTouch k.entry d)

section
variable {d e : Dev} (k : Key)

theorem keyLookup_keyTouch (hkeys : e.ks.keys = d.ks.keys) (hvol : e.ks.volKey = d.ks.volKey) (hnvm : e.nvm = d.nvm) :
    keyLookup (keyTouch k.entry e) = keyLookup (keyTouch k.entry d) :=
  keyLookup_congr (by simp only [keyTouch, onKs_ks, hkeys]) hvol hnvm

theorem keyLookup_keyFetched : keyLookup (keyFetched k d) = keyLookup (keyTouch k.entry d) := keyLookup_congr rfl rfl rfl

end

/-! ## The checks of a use -/

theorem names_iff {cid h : Nat} {k : Key} {kind : EngineKind} {use_ : Option Nat} {s : State} : names cid h k kind use_ s = true ↔
    keyLookup s.toDev (theCmd cid s).owner (theCmd cid s).session h = some k ∧ k.lost = false ∧ k.resident = true
      ∧ k.dest.getLsbD (destBit kind) = true ∧ ∀ b ∈ use_, k.usage.getLsbD b = true := by
  cases use_ <;> simp [names, and_assoc]

/-- The use of a resident key passes its checks, with its bits or without (R86, R118). -/
theorem fetchWith_of_names {cid h : Nat} {k : Key} {kind : EngineKind} {use_ : Option Nat} {s : State} {d : Dev} {algOk : Nat → Bool}
    (hnames : names cid h k kind use_ s = true) (hd : keyLookup d = keyLookup s.toDev) (halg : algOk k.alg = true) (loads : Bool) :
    fetchWith loads (useOf (theCmd cid s) kind use_ algOk) h d =
      (.ok k, if loads then keyFetched k d else keyTouch k.entry d) := by
  obtain ⟨hlookup, hlost, hres, hdest, huse⟩ := names_iff.mp hnames
  rw [← hd] at hlookup
  have hload : needResident k d = (.ok k, d) := by simp [needResident, hres]
  cases use_ with
  | none => cases loads <;> simp [fetchWith, useOf, run_bind, run_map, run_eff, hlookup, hlost, hload, hdest, halg, keyFetched]
  | some b =>
    have hbit : k.usage.getLsbD b = true := huse b rfl
    cases loads <;> simp [fetchWith, useOf, run_bind, run_map, run_eff, hlookup, hlost, hload, hdest, halg, hbit, keyFetched]

end Sys2Proof.Machine
end

section
/-! PROOF. A command stays in flight while others end and while its region's DRBG draws, and a short draw gives the bytes that the
DRBG's state determines (R206 to R209). -/

namespace Sys2Proof.Machine

/-- The command has an entry among those in flight. -/
def inFlight (cid : Nat) (d : Dev) : Bool := (cmdOf? d cid).isSome

section
variable (cid : Nat) (d : Dev)

theorem inFlight_of_hif {d e : Dev} (h : d.hif = e.hif) : inFlight cid d = inFlight cid e := by
  rw [inFlight, cmdOf?_of_hif h, inFlight]

theorem inFlight_onCmd (x : Nat) {f : Cmd → Cmd} (h : ∀ c, (f c).cid = c.cid) : inFlight cid (onCmd x f d) = inFlight cid d := by
  have hsame : ((fun c => c.cid == cid) ∘ fun c => if c.cid == x then f c else c) = fun c : Cmd => c.cid == cid :=
    funext fun c => by
      simp only [Function.comp_apply]
      split <;> simp [h]
  simp only [inFlight, cmdOf?, onCmd, onHif_hif, lmod, List.find?_map, hsame, Option.isSome_map]

@[simp] theorem inFlight_finish (x : Nat) (r : Res) : inFlight cid (finish x r d) = inFlight cid d := by
  unfold finish
  split
  · rfl
  · split
    · rfl
    · rw [inFlight_of_hif cid (countEnd_hif _ _)]
      exact inFlight_onCmd cid d x fun _ => rfl

/-! ## Draws -/

@[simp] theorem inFlight_endStarved (r : Nat) : inFlight cid (endStarved r d) = inFlight cid d := by
  unfold endStarved
  split
  · refine forAll_keeps (inFlight cid) (fun x d => ?_) _ d
    rw [inFlight_finish]
    exact inFlight_onCmd cid d x fun _ => rfl
  · rfl

@[simp] theorem inFlight_outOfSeed (r : Nat) : inFlight cid (outOfSeed r d) = inFlight cid d := by
  unfold outOfSeed
  dsimp only
  split
  · rw [inFlight_endStarved, inFlight_of_hif cid (logEv_hif ..)]
    rfl
  · rfl

@[simp] theorem inFlight_seedPeriodEnd (r : Region) : inFlight cid (seedPeriodEnd r d) = inFlight cid d := by
  unfold seedPeriodEnd takeBlock
  split
  · rfl
  · cases d.ent.reservoir with
    | cons b rest => rfl
    | nil =>
      dsimp only
      split
      · rw [inFlight_outOfSeed]
        rfl
      · rfl

theorem inFlight_regionDraw (r : Region) (fuel n : Nat) : inFlight cid (regionDraw r fuel n d).2 = inFlight cid d := by
  induction fuel generalizing n d with
  | zero => rfl
  | succ fuel ih =>
    unfold regionDraw
    split
    · rfl
    · split
      · rfl
      · simp only [ih, drbgGen]
        split
        · rw [inFlight_seedPeriodEnd]
          rfl
        · rfl

theorem inFlight_draw (r : Region) (n : Nat) : inFlight cid (draw r n d).2 = inFlight cid d := inFlight_regionDraw ..

/-- A draw of one generate at most gives bytes that the DRBG's state determines (R209). -/
theorem draw_fst {r : Region} {n : Nat} (hn : n ≤ 512) : (draw r n d).1 = if n = 0 then some [] else if drbgServes d r then
    some (drbgGenerate n [] (regionOf d r).drbg.key (regionOf d r).drbg.v).1 else none := by
  rcases Nat.eq_zero_or_pos n with rfl | hpos
  · rfl
  · by_cases hserves : drbgServes d r = true
    · simp [draw, regionDraw, hpos.ne', hserves, Nat.min_eq_left hn, drbgGen]
    · simp [draw, regionDraw, hpos.ne', hserves]

variable {d}

theorem draw_fst_of_die {e : Dev} (h : e.die = d.die) {r : Region} {n : Nat} (hn : n ≤ 512) : (draw r n e).1 = (draw r n d).1 := by
  have hregion : regionOf e r = regionOf d r := by rw [regionOf, h]; rfl
  rw [draw_fst e hn, draw_fst d hn, drbgServes, drbgServes, hregion]

/-- A body's draw of one generate gives the bytes that a device with the same regions gives, and the command stays in flight. -/
theorem run_shortDraw {e : Dev} (h : e.die = d.die) {r : Region} {n : Nat} (hn : n ≤ 512) {b : Bytes} (hb : (draw r n d).1 = some b) :
    ∃ u, needDrawOf [r.val] (draw r n) e = (.ok b, u) ∧ inFlight cid u = inFlight cid e := by
  have hstep : step' (draw r n) e = (.ok (some b), (draw r n e).2) := by
    rw [← hb, ← draw_fst_of_die h hn]
    rfl
  refine ⟨(draw r n e).2, ?_, inFlight_draw ..⟩
  rw [needDrawOf, run_bind, hstep]
  rfl

end
end Sys2Proof.Machine
end

section
/-! PROOF. How a command of a bolt pipeline enters its context with its outcome formed (R102, R103, R105). -/

namespace Sys2Proof.Machine

theorem headsBolt_iff {cid : Nat} {r : Region} {lvl : Nat} {s : State} : headsBolt cid r lvl s = true ↔
    (theCmd cid s).loc = .boltQ r lvl ∧ boltUp s.toDev r = true ∧ (boltContext s.toDev r lvl).isNone = true
      ∧ (boltQueue s.toDev r lvl).head?.map (·.cid) = some cid := by
  simp [headsBolt, and_assoc]

/-- The body of the command runs to the outcome `res` after `n` steps: it leaves the device `e`, with the command in flight. -/
def BoltRuns (cid : Nat) (hr : HostRead) (r : Region) (s : State) (body : Cmd → HostRead → Region → Run (Nat × Res)) (n : Nat)
    (res : Res) (e : Dev) : Prop :=
  body (theCmd cid s) (readOf (theCmd cid s) hr) r (outputPlaced cid hr s.toDev) = (.ok (n, res), e) ∧ inFlight cid e = true

section
variable {code cid : Nat} {hr : HostRead} {r : Region} {lvl n : Nat} {body : Cmd → HostRead → Region → Run (Nat × Res)} {res : Res}
  {e : Dev} {s : State}

theorem inFlight_outputPlaced (d : Dev) : inFlight cid (outputPlaced cid hr d) = inFlight cid d :=
  inFlight_onCmd cid d cid fun _ => rfl

theorem inFlight_of_starts (h : starts code cid hr s = true) : inFlight cid s.toDev = true := by
  rw [inFlight, (starts_iff.mp h).1]
  rfl

/-- A started command in the context of its level, `n` steps and its outcome before it. -/
def inContext (r : Region) (lvl n : Nat) (res : Res) (c : Cmd) : Cmd :=
  { c with stage := .running, waitOn := [], ready := some res, loc := .boltCtx r lvl n }

theorem boltBody_of_runs (hstarts : starts code cid hr s = true) (hruns : BoltRuns cid hr r s body n res e) :
    ∃ f, boltBody cid r lvl hr (theCmd cid s) body s.toDev = onBolt r f (onCmd cid (inContext r lvl (max n 1) res) e) := by
  obtain ⟨-, -, -, u, hchecks⟩ := starts_iff.mp hstarts
  have hrun : runBody (do listChecks (theCmd cid s) hr false; body (theCmd cid s) (readOf (theCmd cid s) hr) r)
      (outputPlaced cid hr s.toDev) = (.ok (n, res), e) := by
    rw [runBody, run_bind, (isCheck_listChecks ..).run_ok hchecks]
    exact hruns.1
  unfold boltBody
  rw [← outputPlaced]
  simp only [hrun]
  exact ⟨_, rfl⟩

theorem inBolt_of_inContext {u : State} {f : BoltS → BoltS} (hlive : inFlight cid e = true)
    (hu : u.toDev = onBolt r f (onCmd cid (inContext r lvl n res) e)) : inBolt cid r lvl n res u = true := by
  obtain ⟨c, hc⟩ := Option.isSome_iff_exists.mp hlive
  have hcmd : cmdOf? u.toDev cid = some (inContext r lvl n res c) := by
    have hhif : u.hif = (onCmd cid (inContext r lvl n res) e).hif := by
      rw [hu]
      rfl
    rw [cmdOf?_of_hif hhif, cmdOf?_onCmd_self e cid (inContext r lvl n res) fun _ => rfl, hc]
    rfl
  simp [inBolt, theCmd, hcmd, inContext]

/-- A command that heads its queue starts and enters its context (R102, R103). -/
theorem gives_bolt_of_runs (hstarts : starts code cid hr s = true) (hheads : headsBolt cid r lvl s = true)
    (hruns : BoltRuns cid hr r s body n res e) (hn : 1 ≤ n) :
    Gives (bolt code cid hr body s) (fun u => inBolt cid r lvl n res u = true ∧ u.ks = e.ks) := by
  obtain ⟨hcmd, hcode, hstart, -⟩ := starts_iff.mp hstarts
  obtain ⟨hloc, hup, hctx, hhead⟩ := headsBolt_iff.mp hheads
  have hrow : runBolt code cid hr body s.toDev = boltBody cid r lvl hr (theCmd cid s) body s.toDev := by
    simp only [runBolt, hcmd, hloc, hcode, hstart, hup, hctx, hhead, beq_self_eq_true, Bool.and_self, if_true]
  obtain ⟨f, hbody⟩ := boltBody_of_runs (lvl := lvl) hstarts hruns
  rw [Nat.max_eq_left hn] at hbody
  rw [bolt, gives_nextD, onDev, hrow, hbody]
  exact ⟨inBolt_of_inContext hruns.2 rfl, rfl⟩

/-- The same without the key store. -/
theorem inBolt_of_runs (hstarts : starts code cid hr s = true) (hheads : headsBolt cid r lvl s = true)
    (hruns : ∃ e, BoltRuns cid hr r s body n res e) (hn : 1 ≤ n) :
    Gives (bolt code cid hr body s) (fun u => inBolt cid r lvl n res u = true) := by
  obtain ⟨e, hruns⟩ := hruns
  exact (gives_bolt_of_runs hstarts hheads hruns hn).1

end

/-! ## Parameters -/

theorem zeroPar_iff {c : Cmd} {a e : Nat} : zeroPar c a e = true ↔ ∀ i < e - a, c.params.getD (a - 64 + i) 0 = 0 := by
  simp [zeroPar, parB, slice, List.getD_eq_getElem?_getD, List.getElem?_drop]

/-- A range within one that is zero is zero. -/
theorem zeroPar_sub {c : Cmd} {a e a' e' : Nat} (h : zeroPar c a e = true) (ha : 64 ≤ a) (hle : a ≤ a') (hle' : e' ≤ e) :
    zeroPar c a' e' = true := by
  rw [zeroPar_iff] at h ⊢
  intro i hi
  have hat := h (a' - a + i) (by omega)
  rwa [show a - 64 + (a' - a + i) = a' - 64 + i by omega] at hat

theorem inData_readOf (c : Cmd) (hr : HostRead) : inData c (readOf c hr) = inData c hr := by
  by_cases h : isHost c = true <;> simp [inData, readOf, h]

/-! ## Keys of a command -/

section
variable {cid : Nat} {hr : HostRead} {s : State} {ka kb : Key} {ua ub : Option Nat} {fa fb : Nat → Bool} {d : Dev}

theorem keyLookup_outputPlaced : keyLookup (outputPlaced cid hr d) = keyLookup d := keyLookup_congr rfl rfl rfl

/-- The device as a command's body finds it, with one key fetched, and with two. -/
def oneFetched (cid : Nat) (hr : HostRead) (k : Key) (s : State) : Dev := keyFetched k (outputPlaced cid hr s.toDev)
def bothFetched (cid : Nat) (hr : HostRead) (ka kb : Key) (s : State) : Dev := keyFetched kb (oneFetched cid hr ka s)

theorem oneFetched_die : (oneFetched cid hr ka s).die = s.die := rfl
theorem bothFetched_die : (bothFetched cid hr ka kb s).die = s.die := rfl

theorem inFlight_oneFetched : inFlight cid (oneFetched cid hr ka s) = inFlight cid s.toDev :=
  (inFlight_of_hif cid rfl).trans (inFlight_outputPlaced s.toDev)

theorem inFlight_bothFetched : inFlight cid (bothFetched cid hr ka kb s) = inFlight cid s.toDev :=
  (inFlight_of_hif cid rfl).trans (inFlight_outputPlaced s.toDev)

theorem run_fetchA (h : names cid (handA cid s) ka .bolt ua s = true) (halg : fa ka.alg = true) :
    fetch (boltUse (theCmd cid s) ua fa) (hA (theCmd cid s)) (outputPlaced cid hr s.toDev) = (.ok ka, oneFetched cid hr ka s) :=
  fetchWith_of_names h keyLookup_outputPlaced halg true

theorem run_fetchB (h : namesNext cid ka kb .bolt ub s = true) (halg : fb kb.alg = true) :
    fetch (boltUse (theCmd cid s) ub fb) (hB (theCmd cid s)) (oneFetched cid hr ka s) = (.ok kb, bothFetched cid hr ka kb s) :=
  fetchWith_of_names (s := onDev (keyTouch ka.entry) s) (d := oneFetched cid hr ka s) h
    ((keyLookup_keyFetched ka).trans (keyLookup_keyTouch ka rfl rfl rfl)) halg true

end

end Sys2Proof.Machine
end

section
/-! PROOF. The PIN commands of the bolt pipelines (R105 to R111). -/

namespace Sys2Proof.Machine

/-! ## Checks -/

section
variable {cid : Nat} {s : State} (d : Dev)

theorem param_def (o n : Nat) : par (theCmd cid s) o n = param cid o n s := rfl
theorem zeroIn_def (a e : Nat) : zeroPar (theCmd cid s) a e = zeroIn cid a e s := rfl
theorem zeroFrom_def (a : Nat) : zeroFrom cid a s = zeroIn cid a 128 s := rfl

theorem zeroIn_sub {a e a' e' : Nat} (h : zeroIn cid a e s = true) (ha : 64 ≤ a) (hle : a ≤ a') (hle' : e' ≤ e) :
    zeroIn cid a' e' s = true := zeroPar_sub h ha hle hle'

theorem run_needFmt {f : Nat} (h : f ≤ 3) : needFmt f d = (.ok (), d) := run_need d _ _ (decide_eq_true h)

theorem run_needPan {wanted : Bool} {pan : List Nat} (h : panIs cid wanted pan s = true) :
    needPan (theCmd cid s) wanted 66 68 d = (.ok pan, d) := by
  cases wanted with
  | true =>
    have hpan : panOf (param cid 66 1 s) (parB (theCmd cid s) 68 10) = some pan := by simpa [panIs] using h
    simp [needPan, param_def, hpan]
  | false =>
    obtain ⟨⟨hpan, hlen⟩, hzero⟩ : (pan = [] ∧ param cid 66 1 s = 0) ∧ zeroIn cid 68 78 s = true := by simpa [panIs] using h
    simp [needPan, param_def, zeroIn_def, need, run_map, hpan, hlen, hzero]

theorem blockGood_iff {f o : Nat} : blockGood cid f o s = true ↔ f ≤ 3 ∧ (f == 3 || zeroIn cid (o + 8) (o + 16) s) = true := by
  simp [blockGood]

theorem run_needBlock {f o : Nat} (h : blockGood cid f o s = true) :
    needBlock (theCmd cid s) f o d = (.ok (blockAt cid o s), d) := by
  have hgood := (blockGood_iff.mp h).2
  simp only [needBlock, run_bind, zeroIn_def, run_need d _ _ hgood]
  rfl

theorem run_needOffset {off : List Nat} (h : offsetIs cid off s = true) : needOffset (theCmd cid s) d = (.ok off, d) := by
  obtain ⟨⟨⟨hlo, hhi⟩, hdigits⟩, hzero⟩ : ((4 ≤ param cid 67 1 s ∧ param cid 67 1 s ≤ 12)
      ∧ bcdDigits (parB (theCmd cid s) 96 6) (param cid 67 1 s) = some off) ∧ zeroIn cid 102 128 s = true := by
    simpa [offsetIs] using h
  have htail := zeroIn_sub hzero (by decide) (le_refl 102) (show 112 ≤ 128 by decide)
  simp only [bcdDigits, Option.ite_none_right_eq_some, Option.some.injEq] at hdigits
  obtain ⟨hbcd, rfl⟩ := hdigits
  simp only [needOffset, run_bind, param_def, zeroIn_def, need, hlo, hhi, hbcd, htail, decide_true, Bool.and_self, if_true, run_pure]

theorem run_polCheckCmd {r : Region} {sf df a b : Nat} (c : Cmd) (h : policyAdmits r sf df a b s = true) (hdie : d.die = s.die) :
    ∃ lg, polCheckCmd c r (polIndex sf df (keyClass a) (keyClass b)) d = (.ok lg, d) := by
  have hregion : regionOf d r = regionOf s.toDev r := by rw [regionOf, hdie]; rfl
  simp only [policyAdmits] at h
  simp only [polCheckCmd, run_bind, run_get, hregion, h, if_true, run_pure]
  exact ⟨_, rfl⟩

/-- A block's fill is what the region's DRBG gives, and the command stays in flight. -/
theorem run_pinFill {r : Region} {f : Nat} {rnd : Bytes} (h : fillOf r f s = some rnd) (hdie : d.die = s.die) :
    ∃ e, pinFill r f d = (.ok rnd, e) ∧ inFlight cid e = inFlight cid d := by
  unfold fillOf at h
  unfold pinFill
  split
  next hnone =>
    rw [if_pos hnone] at h
    cases h
    exact ⟨d, rfl, rfl⟩
  next hsome =>
    rw [if_neg hsome] at h
    have hshort : fillNeed f ≤ 512 := by
      unfold fillNeed
      split_ifs <;> decide
    exact run_shortDraw cid hdie hshort h

theorem inFlight_logLate (c : Cmd) (code src a b k : Nat) : inFlight cid (logLate c code src a b k d) = inFlight cid d :=
  inFlight_onCmd cid d c.cid fun _ => rfl

end

/-! ## The commands -/

section
variable {cid : Nat} {hr : HostRead} {r : Region} {ka kb : Key} {pan pin p1 p2 off : List Nat} {rnd : Bytes} {s : State}
  (hlive : inFlight cid s.toDev = true)
include hlive

/-- PIN_XLATE (R110). -/
theorem pinXlate_runs (h65 : param cid 65 1 s ≤ 3) (h67 : zeroIn cid 67 68 s = true) (h78 : zeroIn cid 78 80 s = true)
    (h96 : zeroFrom cid 96 s = true) (hpan : panIs cid (usesPan (param cid 64 1 s) || usesPan (param cid 65 1 s)) pan s = true)
    (hsrc : blockGood cid (param cid 64 1 s) 80 s = true) (hcap : fmtBlock (param cid 65 1 s) ≤ (theCmd cid s).outCap)
    (hka : names cid (handA cid s) ka .bolt (some uPinDec) s = true) (hfa : fmtAlgOk (param cid 64 1 s) ka.alg = true)
    (hkb : namesNext cid ka kb .bolt (some uPinEnc) s = true) (hfb : fmtAlgOk (param cid 65 1 s) kb.alg = true)
    (hpol : policyAdmits r (param cid 64 1 s) (param cid 65 1 s) ka.alg kb.alg s = true)
    (hpin : pinDecipher (param cid 64 1 s) ka.mat pan (blockAt cid 80 s) = some pin) (hfill : fillOf r (param cid 65 1 s) s = some rnd) :
    ∃ e, BoltRuns cid hr r s bodyPinXlate 1 (resOut (pinEncipher (param cid 65 1 s) kb.mat pan pin rnd)) e := by
  rw [zeroFrom_def] at h96
  obtain ⟨lg, hlg⟩ := run_polCheckCmd (bothFetched cid hr ka kb s) (theCmd cid s) hpol bothFetched_die
  obtain ⟨e, hfill, he⟩ := run_pinFill (bothFetched cid hr ka kb s) hfill bothFetched_die
  rw [inFlight_bothFetched, hlive] at he
  simp only [BoltRuns, bodyPinXlate, run_bind, param_def, zeroIn_def, run_needFmt _ h65, run_needFmt _ (blockGood_iff.mp hsrc).1,
    need, h67, h78, h96, Bool.and_self, if_true, run_pure, run_needPan _ hpan, run_needBlock _ hsrc, hcap, decide_true,
    run_fetchA hka hfa, run_fetchB hkb hfb, hlg, needPin, hpin, hfill]
  cases lg with
  | false => exact ⟨_, rfl, he⟩
  | true => exact ⟨_, rfl, (inFlight_logLate ..).trans he⟩

/-- PIN_COMPARE (R110). -/
theorem pinCompare_runs (h67 : zeroIn cid 67 68 s = true) (h78 : zeroIn cid 78 80 s = true) (h112 : zeroFrom cid 112 s = true)
    (hpan : panIs cid (usesPan (param cid 64 1 s) || usesPan (param cid 65 1 s)) pan s = true)
    (hsrc : blockGood cid (param cid 64 1 s) 80 s = true) (href : blockGood cid (param cid 65 1 s) 96 s = true)
    (hka : names cid (handA cid s) ka .bolt (some uPinDec) s = true) (hfa : fmtAlgOk (param cid 64 1 s) ka.alg = true)
    (hkb : namesNext cid ka kb .bolt (some uPinVerify) s = true) (hfb : fmtAlgOk (param cid 65 1 s) kb.alg = true)
    (hp1 : pinDecipher (param cid 64 1 s) ka.mat pan (blockAt cid 80 s) = some p1)
    (hp2 : pinDecipher (param cid 65 1 s) kb.mat pan (blockAt cid 96 s) = some p2) :
    ∃ e, BoltRuns cid hr r s bodyPinCompare 1 (if p1 = p2 then resOk else resErr 0x0304 0) e := by
  rw [zeroFrom_def] at h112
  refine ⟨bothFetched cid hr ka kb s, ?_, inFlight_bothFetched.trans hlive⟩
  simp only [bodyPinCompare, run_bind, param_def, zeroIn_def, run_needFmt _ (blockGood_iff.mp hsrc).1,
    run_needFmt _ (blockGood_iff.mp href).1, need, h67, h78, h112, Bool.and_self, if_true, run_pure, run_needPan _ hpan,
    run_needBlock _ hsrc, run_needBlock _ href, run_fetchA hka hfa, run_fetchB hkb hfb, hp1, hp2, needPin]
  rfl

/-- PIN_DERIVE (R110, R111). -/
theorem pinDerive_runs (h65 : param cid 65 1 s ≤ 3) (h64 : zeroIn cid 64 65 s = true) (h78 : zeroIn cid 78 96 s = true)
    (h112 : zeroFrom cid 112 s = true) (hpan : panIs cid true pan s = true) (hoff : offsetIs cid off s = true)
    (hcap : fmtBlock (param cid 65 1 s) ≤ (theCmd cid s).outCap)
    (hka : names cid (handA cid s) ka .bolt (some uPinVerify) s = true) (haes : isAes ka.alg = true)
    (hkb : namesNext cid ka kb .bolt (some uPinEnc) s = true) (hfb : fmtAlgOk (param cid 65 1 s) kb.alg = true)
    (hfill : fillOf r (param cid 65 1 s) s = some rnd) :
    ∃ e, BoltRuns cid hr r s bodyPinDerive 2 (resOut (pinEncipher (param cid 65 1 s) kb.mat pan (pinDerive ka.mat pan off) rnd)) e := by
  rw [zeroFrom_def] at h112
  obtain ⟨e, hfill, he⟩ := run_pinFill (bothFetched cid hr ka kb s) hfill bothFetched_die
  rw [inFlight_bothFetched, hlive] at he
  refine ⟨e, ?_, he⟩
  simp only [bodyPinDerive, run_bind, param_def, zeroIn_def, run_needFmt _ h65, need, h64, h78, h112, Bool.and_self, if_true, run_pure,
    run_needPan _ hpan, run_needOffset _ hoff, hcap, decide_true, run_fetchA hka haes, run_fetchB hkb hfb, hfill]

/-- PIN_CHECK (R110, R111). -/
theorem pinCheck_runs (h65 : zeroIn cid 65 66 s = true) (h78 : zeroIn cid 78 80 s = true) (h112 : zeroFrom cid 112 s = true)
    (hpan : panIs cid true pan s = true) (hoff : offsetIs cid off s = true) (hsrc : blockGood cid (param cid 64 1 s) 80 s = true)
    (hka : names cid (handA cid s) ka .bolt (some uPinDec) s = true) (hfa : fmtAlgOk (param cid 64 1 s) ka.alg = true)
    (hkb : namesNext cid ka kb .bolt (some uPinVerify) s = true) (haes : isAes kb.alg = true)
    (hpin : pinDecipher (param cid 64 1 s) ka.mat pan (blockAt cid 80 s) = some pin) :
    ∃ e, BoltRuns cid hr r s bodyPinCheck 2 (if pin = pinDerive kb.mat pan off then resOk else resErr 0x0304 0) e := by
  rw [zeroFrom_def] at h112
  refine ⟨bothFetched cid hr ka kb s, ?_, inFlight_bothFetched.trans hlive⟩
  simp only [bodyPinCheck, run_bind, param_def, zeroIn_def, run_needFmt _ (blockGood_iff.mp hsrc).1, need, h65, h78, h112,
    Bool.and_self, if_true, run_pure, run_needPan _ hpan, run_needOffset _ hoff, run_needBlock _ hsrc, run_fetchA hka hfa,
    run_fetchB hkb haes, hpin]
  rfl

end

/-! ## DUKPT -/

section
variable {cid : Nat} {hr : HostRead} {r : Region} {kind wk ctr : Nat} {ikid : Bytes} {k : Key} {s : State} (d : Dev)

/-- The DUKPT fields of a command are read (R117). -/
theorem run_needDukpt (h : dukptIs cid kind wk ikid ctr s = true) : needDukpt (theCmd cid s) d = (.ok (kind, wk, ikid, ctr), d) := by
  simp only [dukptIs, Bool.and_eq_true, Bool.or_eq_true, beq_iff_eq, bne_iff_ne, decide_eq_true_eq] at h
  obtain ⟨⟨⟨⟨hkind, hwk⟩, hctr⟩, -⟩, h⟩ := h
  rcases h with ⟨⟨⟨⟨⟨rfl, hlo⟩, hhi⟩, rfl⟩, rfl⟩, hpop⟩ | ⟨⟨⟨⟨⟨rfl, rfl⟩, hzero⟩, hctrIs⟩, hikid⟩, hpop⟩
  · simp [needDukpt, param_def, hkind, hwk, need, hctr, hpop, hlo, hhi]
  · have hcounts : (ctr != 0 && decide (popcount ctr ≤ 10)) = true := by simp [hctr, hpop]
    simp only [needDukpt, run_bind, param_def, zeroIn_def, hkind, hwk, need, hzero, ← hctrIs, ← hikid, hcounts, le_refl, decide_true,
      one_ne_zero, beq_self_eq_true, if_false, if_true, run_pure]

theorem dukptIs_zero (h : dukptIs cid kind wk ikid ctr s = true) : zeroIn cid 126 128 s = true := by
  simp only [dukptIs, Bool.and_eq_true] at h
  exact h.1.2

theorem dukptIs_kind (h : dukptIs cid kind wk ikid ctr s = true) : kind = 0 ∨ kind = 1 := by
  simp only [dukptIs, Bool.and_eq_true, Bool.or_eq_true, beq_iff_eq] at h
  obtain ⟨-, h | h⟩ := h
  · exact .inl h.1.1.1.1.1
  · exact .inr h.1.1.1.1.1

/-- The base key suits the chain's kind, and is no shorter than an AES working key (R116, R117). -/
theorem baseGood_suits (hkind : kind = 0 ∨ kind = 1) (h : baseGood kind wk k = true) :
    (if kind = 0 then isAes else (· == 8)) k.alg = true ∧ (kind == 1 || decide (wkLen wk ≤ k.lenBytes)) = true := by
  rcases hkind with rfl | rfl
  · simpa [baseGood] using h
  · simpa [baseGood] using h

section
variable (hdukpt : dukptIs cid kind wk ikid ctr s = true) (hk : names cid (handA cid s) k .bolt (some uDerive) s = true)
  (hbase : baseGood kind wk k = true) (p : DkPurpose)
include hdukpt hk hbase

/-- The working key of a chain that the cache does not know is derived from the base key (R116, R118). -/
theorem run_dukptKey_cold (hnone : (regionOf s.toDev r).bolt.dk = []) :
    ∃ w, dukptKey (theCmd cid s) r kind wk ikid ctr p (outputPlaced cid hr s.toDev) = (.ok w, oneFetched cid hr k s)
      ∧ w.key = workKey kind wk p k.mat ikid ctr ∧ w.steps = coldSteps ctr := by
  obtain ⟨hsuits, hlong⟩ := baseGood_suits (dukptIs_kind hdukpt) hbase
  have hmiss : ∀ x pfx, dkFind (regionOf (outputPlaced cid hr s.toDev) r).bolt x kind ikid pfx = none := fun x pfx => by
    rw [dkFind, show (regionOf (outputPlaced cid hr s.toDev) r).bolt.dk = [] from hnone]
    rfl
  have hfetch := run_fetchA (hr := hr) (fa := if kind = 0 then isAes else (· == 8)) hk hsuits
  simp only [fetch] at hfetch
  simp only [dukptKey, run_bind, run_get, hmiss, Option.bind_fun_none, Option.isNone_none, hfetch, need, hlong, if_true, run_pure]
  exact ⟨_, rfl, rfl, rfl⟩

/-- Where the cache holds the chain's intermediate key, the base key's bits are not sent (R118). -/
theorem run_dukptKey_hit {e : DkEntry} (hhit : dkFind (regionOf s.toDev r).bolt k kind ikid (ctr - ctr % 256) = some e) :
    ∃ w, dukptKey (theCmd cid s) r kind wk ikid ctr p (outputPlaced cid hr s.toDev) =
        (.ok w, keyTouch k.entry (outputPlaced cid hr s.toDev))
      ∧ w.key = dkWorking kind wk p ikid ctr (dkWalk kind ikid (setBits 0 8 ctr) (ctr - ctr % 256) e.key) ∧ w.steps = 1 := by
  obtain ⟨hsuits, hlong⟩ := baseGood_suits (dukptIs_kind hdukpt) hbase
  have hlookup : keyLookup (outputPlaced cid hr s.toDev) (theCmd cid s).owner (theCmd cid s).session (hA (theCmd cid s)) = some k := by
    rw [keyLookup_outputPlaced]
    exact (names_iff.mp hk).1
  have hhit' : dkFind (regionOf (outputPlaced cid hr s.toDev) r).bolt k kind ikid (ctr - ctr % 256) = some e := hhit
  have hfetch : fetchWith false (boltUse (theCmd cid s) (some uDerive) (if kind = 0 then isAes else (· == 8))) (hA (theCmd cid s))
      (outputPlaced cid hr s.toDev) = (.ok k, keyTouch k.entry (outputPlaced cid hr s.toDev)) :=
    fetchWith_of_names hk keyLookup_outputPlaced hsuits false
  simp only [dukptKey, run_bind, run_get, hlookup, Option.bind_some, hhit', Option.isNone_some, hfetch, need, hlong, if_true, run_pure]
  exact ⟨_, rfl, rfl, rfl⟩

end

end

theorem inFlight_dkRun (cid : Nat) (r : Region) (x : Nat) (w : DkWork) (d : Dev) : inFlight cid (dkRun r x w d) = inFlight cid d :=
  (inFlight_of_hif cid rfl).trans (inFlight_onCmd cid d x (f := fun c => { c with scratch := [if w.hit then 1 else 2] }) fun _ => rfl)

/-- DUKPT_PIN_XLATE (R110, R116 to R118). -/
theorem dukptPinXlate_runs {cid : Nat} {hr : HostRead} {r : Region} {kind wk ctr : Nat} {ikid : Bytes} {ka kb : Key} {pan pin : List Nat}
    {rnd : Bytes} {s : State} (hlive : inFlight cid s.toDev = true) (h65 : param cid 65 1 s ≤ 3) (h67 : zeroIn cid 67 68 s = true)
    (h78 : zeroIn cid 78 80 s = true) (h96 : zeroIn cid 96 112 s = true)
    (hpan : panIs cid (usesPan (param cid 64 1 s) || usesPan (param cid 65 1 s)) pan s = true)
    (hsrc : blockGood cid (param cid 64 1 s) 80 s = true) (hcap : fmtBlock (param cid 65 1 s) ≤ (theCmd cid s).outCap)
    (hdukpt : dukptIs cid kind wk ikid ctr s = true) (hcold : (regionOf s.toDev r).bolt.dk = [])
    (hka : names cid (handA cid s) ka .bolt (some uDerive) s = true) (hbase : baseGood kind wk ka = true)
    (hfa : fmtAlgOk (param cid 64 1 s) (wkAlg kind wk) = true)
    (hkb : namesNext cid ka kb .bolt (some uPinEnc) s = true) (hfb : fmtAlgOk (param cid 65 1 s) kb.alg = true)
    (hpol : policyAdmits r (param cid 64 1 s) (param cid 65 1 s) (wkAlg kind wk) kb.alg s = true)
    (hpin : pinDecipher (param cid 64 1 s) (workKey kind wk .pin ka.mat ikid ctr) pan (blockAt cid 80 s) = some pin)
    (hfill : fillOf r (param cid 65 1 s) s = some rnd) :
    ∃ e, BoltRuns cid hr r s bodyDukptPinXlate (coldSteps ctr + 1) (resOut (pinEncipher (param cid 65 1 s) kb.mat pan pin rnd)) e := by
  have h126 := dukptIs_zero hdukpt
  obtain ⟨w, hw, hkey, hsteps⟩ := run_dukptKey_cold (hr := hr) hdukpt hka hbase .pin hcold
  obtain ⟨lg, hlg⟩ := run_polCheckCmd (bothFetched cid hr ka kb s) (theCmd cid s) hpol bothFetched_die
  obtain ⟨e, hfill, he⟩ := run_pinFill (bothFetched cid hr ka kb s) hfill bothFetched_die
  rw [inFlight_bothFetched, hlive] at he
  simp only [BoltRuns, bodyDukptPinXlate, run_bind, param_def, zeroIn_def, run_needFmt _ h65, run_needFmt _ (blockGood_iff.mp hsrc).1,
    need, h67, h78, h96, h126, Bool.and_self, if_true, run_pure, run_needPan _ hpan, run_needBlock _ hsrc, hcap, decide_true,
    run_needDukpt _ hdukpt, hw, hfa, Bool.not_true, Bool.false_eq_true, if_false, run_fetchB hkb hfb, hlg, hkey, hpin, hfill, hsteps]
  cases lg with
  | false => exact ⟨_, rfl, (inFlight_dkRun ..).trans he⟩
  | true => exact ⟨_, rfl, (inFlight_dkRun ..).trans ((inFlight_logLate ..).trans he)⟩

/-! ## The statement -/

/-- Settles O28: each command's checks pass and its body runs to the stated outcome, by the lemma on the command above; the command
then stands in its context with that outcome (`inBolt_of_runs`). -/
theorem pinCommandsComplete : Obligations.PinCommandsComplete := by
  unfold Obligations.PinCommandsComplete
  refine ⟨?_, ?_, ?_, ?_, ?_⟩
  · intro cid hr r lvl ka kb pan pin rnd s hstarts hheads h65 h67 h78 h96 hpan hsrc hcap hka hfa hkb hfb hpol hpin hfill
    exact inBolt_of_runs hstarts hheads
      (pinXlate_runs (inFlight_of_starts hstarts) h65 h67 h78 h96 hpan hsrc hcap hka hfa hkb hfb hpol hpin hfill) (by decide)
  · intro cid hr r lvl ka kb pan p1 p2 s hstarts hheads h67 h78 h112 hpan hsrc href hka hfa hkb hfb hp1 hp2
    exact inBolt_of_runs hstarts hheads
      (pinCompare_runs (inFlight_of_starts hstarts) h67 h78 h112 hpan hsrc href hka hfa hkb hfb hp1 hp2) (by decide)
  · intro cid hr r lvl ka kb pan off rnd s hstarts hheads h65 h64 h78 h112 hpan hoff hcap hka haes hkb hfb hfill
    exact inBolt_of_runs hstarts hheads
      (pinDerive_runs (inFlight_of_starts hstarts) h65 h64 h78 h112 hpan hoff hcap hka haes hkb hfb hfill) (by decide)
  · intro cid hr r lvl ka kb pan off pin s hstarts hheads h65 h78 h112 hpan hoff hsrc hka hfa hkb haes hpin
    exact inBolt_of_runs hstarts hheads
      (pinCheck_runs (inFlight_of_starts hstarts) h65 h78 h112 hpan hoff hsrc hka hfa hkb haes hpin) (by decide)
  · intro cid hr r lvl kind wk ctr ikid ka kb pan pin rnd s hstarts hheads h65 h67 h78 h96 hpan hsrc hcap hdukpt hcold hka hbase hfa
      hkb hfb hpol hpin hfill
    exact inBolt_of_runs hstarts hheads
      (dukptPinXlate_runs (inFlight_of_starts hstarts) h65 h67 h78 h96 hpan hsrc hcap hdukpt hcold hka hbase hfa hkb hfb hpol hpin hfill)
      (by omega)

end Sys2Proof.Machine
end

section
/-! PROOF. MACs, EMV cryptograms, key blocks and check values of the bolt pipelines (R116 to R125). -/

namespace Sys2Proof.Machine

/-! ## MACs -/

/-- What a MAC command answers: the comparison or the code. -/
def macAnswer (cid : Nat) (verify : Bool) (alg : Nat) (key msg : Bytes) (s : State) : Res :=
  if verify then verdict cid (macOf cid alg key msg s) s else resOut (macOf cid alg key msg s)

section
variable {cid : Nat} {verify : Bool} {alg : Nat} {s : State} (d : Dev)

theorem macGood_iff : macGood cid verify alg s = true ↔ par (theCmd cid s) 64 1 ≤ 4 ∧ (theCmd cid s).inLen ≤ 65536
    ∧ 4 ≤ par (theCmd cid s) 65 1 ∧ par (theCmd cid s) 65 1 ≤ (if isAes alg then 16 else 8) ∧ zeroPar (theCmd cid s) 67 68 = true
    ∧ zeroPar (theCmd cid s) 84 112 = true ∧ hB (theCmd cid s) = 0
    ∧ (if verify then zeroPar (theCmd cid s) (68 + par (theCmd cid s) 65 1) 84 = true
        else zeroPar (theCmd cid s) 68 84 = true ∧ par (theCmd cid s) 65 1 ≤ (theCmd cid s).outCap)
    ∧ macAlgOk (par (theCmd cid s) 64 1) alg = true := by
  delta macGood param zeroIn handB hB
  cases verify <;> simp [and_assoc]

/-- A key of a code's algorithms admits no longer code than the code's own limit (R120, R121). -/
theorem macLen_le_macMax {m n : Nat} (halg : macAlgOk m alg = true) (hn : n ≤ (if isAes alg then 16 else 8)) : n ≤ macMax m := by
  unfold macMax
  split
  next hm =>
    obtain rfl : alg = 8 := by rcases hm with rfl | rfl <;> simpa [macAlgOk] using halg
    exact hn
  next => exact hn.trans (by split <;> decide)

theorem run_macForm {dukpt : Bool} (h : macGood cid verify alg s = true)
    (h66 : (if dukpt then decide (par (theCmd cid s) 66 1 ≤ 1) else par (theCmd cid s) 66 1 == 0) = true)
    (h112 : (dukpt || zeroPar (theCmd cid s) 112 126) = true) (h126 : zeroPar (theCmd cid s) 126 128 = true) :
    macForm (theCmd cid s) verify dukpt d = (.ok (), d) := by
  obtain ⟨hcode, hlen, hlo, hhi, h67, h84, hb, htail, halg⟩ := macGood_iff.mp h
  have hmax := macLen_le_macMax halg hhi
  have hnone : (verify || zeroPar (theCmd cid s) 68 84) = true := by
    cases verify with
    | true => rfl
    | false => exact htail.1
  have hbehind : (!verify || zeroPar (theCmd cid s) (68 + par (theCmd cid s) 65 1) 84) = true := by
    cases verify with
    | true => exact htail
    | false => rfl
  simp only [macForm, run_bind, need, hcode, h66, h67, h84, h112, h126, hnone, hbehind, hlen, hlo, hmax, hb, decide_true,
    beq_self_eq_true, Bool.and_self, if_true, run_pure]

theorem run_macEnd (h : macGood cid verify alg s = true) (key msg : Bytes) :
    macEnd (theCmd cid s) verify alg key msg d = (.ok (macAnswer cid verify alg key msg s), d) := by
  obtain ⟨-, -, -, hhi, -, -, -, htail, -⟩ := macGood_iff.mp h
  cases verify with
  | true =>
    simp only [macEnd, run_bind, need, hhi, decide_true, if_true, run_pure]
    rfl
  | false =>
    simp only [macEnd, run_bind, need, hhi, htail.2, decide_true, if_true, run_pure, Bool.false_eq_true, if_false]
    rfl

/-- The code fits the output buffer, where there is one to put out. -/
theorem macRoom (h : macGood cid verify alg s = true) :
    (verify || decide (par (theCmd cid s) 65 1 ≤ (theCmd cid s).outCap)) = true := by
  obtain ⟨-, -, -, -, -, -, -, htail, -⟩ := macGood_iff.mp h
  cases verify with
  | true => rfl
  | false => exact decide_eq_true htail.2

end

theorem one_le_macSteps (n : Nat) : 1 ≤ macSteps n := le_max_left ..

section
variable {cid : Nat} {hr : HostRead} {r : Region} {verify : Bool} {k : Key} {s : State}

/-- MAC_GEN and MAC_VER (R120, R121). -/
theorem mac_runs (hlive : inFlight cid s.toDev = true) (h66 : param cid 66 1 s = 0) (h112 : zeroFrom cid 112 s = true)
    (hgood : macGood cid verify k.alg s = true)
    (hk : names cid (handA cid s) k .bolt (some (if verify then uMacVer else uMacGen)) s = true) :
    ∃ e, BoltRuns cid hr r s (bodyMac verify) (macSteps (theCmd cid s).inLen)
      (macAnswer cid verify k.alg k.mat (inputOf cid hr s) s) e := by
  rw [zeroFrom_def] at h112
  obtain ⟨-, -, -, -, -, -, -, -, halg⟩ := macGood_iff.mp hgood
  have hform := run_macForm (dukpt := false) (outputPlaced cid hr s.toDev) hgood (beq_iff_eq.mpr h66)
    (zeroIn_sub h112 (by decide) le_rfl (by decide)) (zeroIn_sub h112 (by decide) (by decide) le_rfl)
  refine ⟨oneFetched cid hr k s, ?_, inFlight_oneFetched.trans hlive⟩
  simp only [bodyMac, run_bind, hform, run_need _ _ _ (macRoom hgood), run_pure, run_fetchA hk halg, inData_readOf, run_macEnd _ hgood]
  rfl

variable {kind wk ctr : Nat} {ikid : Bytes} {w : DkWork} {d : Dev}

/-- DUKPT_MAC_GEN and DUKPT_MAC_VER, the working key derived (R116 to R118, R120, R121). -/
theorem dukptMac_runs (hlive : inFlight cid d = true) (h66 : param cid 66 1 s ≤ 1) (hgood : macGood cid verify (wkAlg kind wk) s = true)
    (hdukpt : dukptIs cid kind wk ikid ctr s = true)
    (hw : dukptKey (theCmd cid s) r kind wk ikid ctr (if par (theCmd cid s) 66 1 = 0 then .macReq else .macResp)
      (outputPlaced cid hr s.toDev) = (.ok w, d)) :
    ∃ e, BoltRuns cid hr r s (bodyDukptMac verify) (w.steps + macSteps (theCmd cid s).inLen)
      (macAnswer cid verify (wkAlg kind wk) w.key (inputOf cid hr s) s) e ∧ e.ks = d.ks := by
  obtain ⟨-, -, -, hhi, -, -, -, -, halg⟩ := macGood_iff.mp hgood
  have hform := run_macForm (dukpt := true) (outputPlaced cid hr s.toDev) hgood (decide_eq_true h66) rfl (dukptIs_zero hdukpt)
  simp only [BoltRuns, bodyDukptMac, run_bind, hform, run_need _ _ _ (macRoom hgood), run_need _ _ _ (decide_eq_true hhi),
    run_needDukpt _ hdukpt, hw, halg, Bool.not_true, Bool.false_eq_true, if_false, inData_readOf, run_macEnd _ hgood]
  split
  · exact ⟨_, ⟨rfl, (inFlight_dkRun ..).trans hlive⟩, rfl⟩
  · exact ⟨_, ⟨rfl, hlive⟩, rfl⟩

end

/-! ## EMV cryptograms -/

section
variable {cid : Nat} {hr : HostRead} {r : Region} {s : State} (hlive : inFlight cid s.toDev = true)
include hlive

/-- EMV_AC_VERIFY with a response (R123). -/
theorem emv_runs {method : Nat} {k : Key} {pan : List Nat} {sk : Bytes} (h64 : param cid 64 1 s = 1 + 2 * method)
    (hmethod : method = 1 ∨ method = 2) (h77 : zeroIn cid 77 78 s = true) (h95 : zeroIn cid 95 96 s = true)
    (h104 : zeroFrom cid 104 s = true) (hb : handB cid s = 0) (hlo : 1 ≤ (theCmd cid s).inLen) (hhi : (theCmd cid s).inLen ≤ 256)
    (hpan : panOf (param cid 65 1 s) (parB (theCmd cid s) 66 10) = some pan)
    (hpsn : (nibbles (parB (theCmd cid s) 76 1)).all (· ≤ 9) = true) (h94 : param cid 94 1 s ≤ 8)
    (h96 : zeroIn cid (96 + param cid 94 1 s) 104 s = true) (hcap : 8 ≤ (theCmd cid s).outCap)
    (hk : names cid (handA cid s) k .bolt (some uEmvMk) s = true) (halg : isAes k.alg = true ∨ k.alg = 8)
    (hsk : sk = emvSession k.alg (emvMaster k.alg k.mat pan (nibbles (parB (theCmd cid s) 76 1))) (parB (theCmd cid s) 78 2)) :
    ∃ e, BoltRuns cid hr r s bodyEmv (1 + macSteps (theCmd cid s).inLen)
      (if emvMac k.alg sk (inputOf cid hr s) = parB (theCmd cid s) 80 8 then resOut (emvArpc k.alg method sk (parB (theCmd cid s) 80 8)
          (parB (theCmd cid s) 88 2) (parB (theCmd cid s) 90 4) (parB (theCmd cid s) 96 (param cid 94 1 s)))
        else resErr 0x0304 0) e := by
  have hgen : (1 + 2 * method).testBit 0 = true := by
    rw [Nat.testBit_zero]
    exact decide_eq_true (by omega)
  have hshift : (1 + 2 * method) / 2 % 4 = method := by omega
  have hcode : 1 + 2 * method < 8 := by omega
  have hknown : (!true || method == 1 || method == 2) = true := by rcases hmethod with rfl | rfl <;> rfl
  have hroom : (if method = 1 then 8 else 4) ≤ (theCmd cid s).outCap := le_trans (by split <;> decide) hcap
  have hsuits : (isAes k.alg || k.alg == 8) = true := by simpa using halg
  have hb' : hB (theCmd cid s) = 0 := hb
  rw [zeroFrom_def] at h104
  refine ⟨oneFetched cid hr k s, ?_, inFlight_oneFetched.trans hlive⟩
  simp only [bodyEmv, run_bind, param_def, zeroIn_def, h64, hgen, hshift, hcode, hknown, need, h77, h95, h104, hb', hlo, hhi, hpan, hpsn,
    h94, h96, hroom, decide_true, beq_self_eq_true, Bool.and_self, Bool.or_true, if_true, run_pure,
    run_fetchA (fa := fun a => isAes a || a == 8) hk hsuits, inData_readOf, ← hsk, ne_eq, ite_not]
  split
  next hmac => rw [inputOf, if_pos hmac, run_pure]
  next hmac => rw [inputOf, if_neg hmac, run_pure]; rfl

end

/-! ## Key blocks and check values -/

section
variable {cid : Nat} {hr : HostRead} {r : Region} {k ka kb : Key} {h : KbHeader} {key : Bytes} {a : Nat} {s : State}

theorem run_kbOpen (hopens : opensTo cid hr k h key a s = true) (d : Dev) :
    kbOpen (theCmd cid s) r (kbParse (inputOf cid hr s)) k (inputOf cid hr s) d = (.ok (h, key, a), d) := by
  simp only [opensTo, Bool.and_eq_true] at hopens
  obtain ⟨⟨⟨hparse, hver⟩, hkey⟩, halg⟩ := hopens
  simp only [kbOpen, beq_iff_eq.mp hparse, run_bind, need, hver, beq_iff_eq.mp hkey, beq_iff_eq.mp halg, if_true, run_pure]

theorem kbPadLen_le (ver : Byte) (n : Nat) : kbPadLen ver n ≤ 512 := by
  unfold kbPadLen kbMacLen
  cases kbAlg ver <;> simp only [blkSize] <;> omega

theorem isAes_of_isTdes {alg : Nat} (hdes : isTdes alg = true) : isAes alg = false := by
  rcases (by simpa [isTdes] using hdes : alg = 8 ∨ alg = 9) with rfl | rfl <;> rfl

/-- A key of the same cipher wraps the block under the version that it came with (R124). -/
theorem opensTo_version (hopens : opensTo cid hr ka h key a s = true) (hsame : isAes kb.alg = isAes ka.alg) :
    (if isAes kb.alg then chr 'D' else chr 'B') = h.version := by
  simp only [opensTo, Bool.and_eq_true] at hopens
  obtain ⟨⟨⟨-, hver⟩, -⟩, -⟩ := hopens
  rw [hsame]
  split at hver
  next hD => rw [if_pos hver, beq_iff_eq.mp hD]
  next =>
    obtain ⟨hB, hdes⟩ := Bool.and_eq_true_iff.mp hver
    rw [isAes_of_isTdes hdes, beq_iff_eq.mp hB]
    rfl

section
variable (hlive : inFlight cid s.toDev = true)
include hlive

/-- KEYBLOCK_XLATE (R124). -/
theorem keyblockXlate_runs {pad : Bytes} (h64 : zeroFrom cid 64 s = true)
    (hlo : 16 ≤ (theCmd cid s).inLen) (hhi : (theCmd cid s).inLen ≤ 1024)
    (hka : names cid (handA cid s) ka .bolt (some uKekUnwrap) s = true) (hsa : isSym ka.alg = true)
    (hkb : namesNext cid ka kb .bolt (some uKekWrap) s = true) (hsb : isSym kb.alg = true)
    (hopens : opensTo cid hr ka h key a s = true) (hexp : h.exp_ ≠ chr 'N')
    (hstrong : algStrength a key.length ≤ algStrength kb.alg kb.lenBytes) (hcap : kbLen h key.length ≤ (theCmd cid s).outCap)
    (hsame : isAes kb.alg = isAes ka.alg) (hpad : (draw r (kbPadLen h.version key.length) s.toDev).1 = some pad) :
    ∃ e, BoltRuns cid hr r s bodyKeyblockXlate (if (theCmd cid s).inLen ≤ 256 then 2 else 3) (resOut (kbWrap kb.mat h key pad)) e := by
  obtain ⟨e, hdraw, he⟩ := run_shortDraw cid (bothFetched_die (cid := cid) (hr := hr) (ka := ka) (kb := kb)) (kbPadLen_le ..) hpad
  have hbar : (h.exp_ == chr 'N') = false := beq_eq_false_iff_ne.mpr hexp
  have hopen := run_kbOpen (r := r) hopens
  simp only [inputOf] at hopen
  rw [zeroFrom_def] at h64
  refine ⟨e, ?_, he.trans (inFlight_bothFetched.trans hlive)⟩
  simp only [bodyKeyblockXlate, run_bind, zeroIn_def, need, h64, hlo, hhi, decide_true, Bool.and_self, if_true, run_pure, inData_readOf,
    run_fetchA hka hsa, run_fetchB hkb hsb, hopen, hbar, Bool.false_eq_true, if_false, if_neg (not_lt.mpr hstrong),
    opensTo_version hopens hsame, hcap, hdraw]

/-- KEY_CHECK of a key by its handle (R125). -/
theorem keyCheck_runs (hlo : 2 ≤ param cid 65 1 s) (hhi : param cid 65 1 s ≤ 8) (h66 : param cid 66 1 s ≤ 1)
    (h67 : zeroFrom cid 67 s = true) (hb : handB cid s = 0) (hcap : param cid 65 1 s ≤ (theCmd cid s).outCap) (hsym : isSym k.alg = true) (h64 : param cid 64 1 s = 0)
    (hk : names cid (handA cid s) k .bolt none s = true) :
    ∃ e, BoltRuns cid hr r s bodyKeyCheck 1 (resOut ((kcvBytes (param cid 66 1 s) k.alg k.mat).take (param cid 65 1 s))) e := by
  have hb' : hB (theCmd cid s) = 0 := hb
  rw [zeroFrom_def] at h67
  refine ⟨oneFetched cid hr k s, ?_, inFlight_oneFetched.trans hlive⟩
  simp only [bodyKeyCheck, run_bind, param_def, zeroIn_def, need, h64, hlo, hhi, h66, h67, hb', hcap, Nat.zero_le, decide_true,
    beq_self_eq_true, Bool.and_self, Bool.true_or, if_true, run_pure, run_fetchA hk hsym]

/-- KEY_CHECK of the key in a block (R124, R125). -/
theorem keyCheckBlock_runs (hlo : 2 ≤ param cid 65 1 s) (hhi : param cid 65 1 s ≤ 8) (h66 : param cid 66 1 s ≤ 1)
    (h67 : zeroFrom cid 67 s = true) (hb : handB cid s = 0) (hcap : param cid 65 1 s ≤ (theCmd cid s).outCap) (hsym : isSym k.alg = true)
    (h64 : param cid 64 1 s = 1) (hin : 16 ≤ (theCmd cid s).inLen) (hout : (theCmd cid s).inLen ≤ 256)
    (hk : names cid (handA cid s) k .bolt (some uKekUnwrap) s = true) (hopens : opensTo cid hr k h key a s = true)
    (hsa : isSym a = true) :
    ∃ e, BoltRuns cid hr r s bodyKeyCheck 1 (resOut ((kcvBytes (param cid 66 1 s) a key).take (param cid 65 1 s))) e := by
  have hb' : hB (theCmd cid s) = 0 := hb
  have hlong : (theCmd cid s).inLen ≤ 1024 := hout.trans (by decide)
  have hopen := run_kbOpen (r := r) hopens
  simp only [inputOf] at hopen
  rw [zeroFrom_def] at h67
  refine ⟨oneFetched cid hr k s, ?_, inFlight_oneFetched.trans hlive⟩
  simp only [bodyKeyCheck, run_bind, param_def, zeroIn_def, need, h64, hlo, hhi, h66, h67, hb', hcap, hin, hlong, le_refl, decide_true,
    beq_self_eq_true, Bool.and_self, Bool.or_true, one_ne_zero, if_true, if_false, run_pure, run_fetchA hk hsym, inData_readOf, hopen,
    hsa, Bool.not_true, Bool.false_eq_true]

end
end

end Sys2Proof.Machine
end

section
/-! PROOF. Steps and queues of the bolt pipelines (R102, R103). -/

namespace Sys2Proof.Machine

/-! ## Steps -/

theorem boltContext_loc {d : Dev} {r : Region} {l n : Nat} {c : Cmd} (h : boltContext d r l = some (c, n)) : c.loc = .boltCtx r l n := by
  obtain ⟨x, -, hx⟩ := List.exists_of_findSome?_eq_some h
  split at hx
  next r' l' n' hloc =>
    split at hx
    next hat =>
      cases hx
      obtain ⟨rfl, rfl⟩ : r' = r ∧ l' = l := by simpa using hat
      exact hloc
    next => cases hx
  next => cases hx

/-- What happens at a boundary between steps: a flush and a pending table take effect, and the highest context goes on. -/
def stepBoundary (r : Region) (d : Dev) : Dev :=
  let d2 := if (regionOf d r).bolt.dkFlush then onBolt r (fun b => { b with dk := [], dkFlush := false }) d else d
  let d3 := if (regionOf d2 r).bolt.policyPending then onBolt r (polInstallOne d2) d2 else d2
  polCheck (onBolt r (fun b => { b with stepLvl := boltTop d3 r }) d3)

section
variable {r : Region} {l n : Nat} {c : Cmd} {d : Dev} (hrun : boltRunning d r = some l) (hctx : boltContext d r l = some (c, n))
include hrun hctx

theorem boltStepEnd_last (hn : n ≤ 1) :
    boltStepEnd r d = stepBoundary r (onBolt r (dkStep c.cid) (boltGive r c (c.ready.getD resRetry) d)) := by
  simp only [boltStepEnd, hrun, hctx, Option.bind_some, Option.map_some, if_pos hn]
  rfl

theorem boltStepEnd_more (hn : 1 < n) : boltStepEnd r d =
    stepBoundary r (onBolt r (dkStep c.cid) (onCmd c.cid (fun c => { c with loc := .boltCtx r l (n - 1) }) d)) := by
  simp only [boltStepEnd, hrun, hctx, Option.bind_some, Option.map_some, if_neg (Nat.not_le.mpr hn)]
  rfl

end

section
variable (r : Region) {d : Dev}

theorem polCheck_keeps (h : d.pol.pend = []) : (polCheck d).hif = d.hif ∧ regionOf (polCheck d) r = regionOf d r := by
  unfold polCheck
  split
  · exact ⟨rfl, rfl⟩
  · rw [h, forAll_nil]
    exact ⟨rfl, rfl⟩

theorem onBolt_bolt (f : BoltS → BoltS) (d : Dev) : (regionOf (onBolt r f d) r).bolt = f (regionOf d r).bolt := by
  rw [onBolt, regionOf_onRegion_self]

theorem dkInserts_cmds (l : List DkEntry) (b : BoltS) : (l.foldl (fun b e => dkInsert e b) b).cmds = b.cmds := by
  induction l generalizing b with
  | nil => rfl
  | cons e l ih => exact ih (dkInsert e b)

theorem dkStep_cmds (cid : Nat) (b : BoltS) : (dkStep cid b).cmds = b.cmds := by
  unfold dkStep
  split
  · rfl
  · dsimp only
    split
    · exact dkInserts_cmds _ _
    · rfl

/-- A pipeline's update, made or not, that keeps its count of commands. -/
theorem onBoltIf_keeps (p : Bool) {f : BoltS → BoltS} (hf : ∀ b, (f b).cmds = b.cmds) (d : Dev) :
    (if p then onBolt r f d else d).hif = d.hif ∧ (if p then onBolt r f d else d).pol = d.pol
      ∧ (regionOf (if p then onBolt r f d else d) r).bolt.cmds = (regionOf d r).bolt.cmds := by
  cases p with
  | false => exact ⟨rfl, rfl, rfl⟩
  | true => exact ⟨rfl, rfl, by rw [if_pos rfl, onBolt_bolt, hf]⟩

/-- A boundary with no table waiting leaves the commands and their count. -/
theorem stepBoundary_keeps (h : d.pol.pend = []) :
    (stepBoundary r d).hif = d.hif ∧ (regionOf (stepBoundary r d) r).bolt.cmds = (regionOf d r).bolt.cmds := by
  obtain ⟨hhif2, hpol2, hcmds2⟩ :=
    onBoltIf_keeps r (regionOf d r).bolt.dkFlush (f := fun b => { b with dk := [], dkFlush := false }) (fun _ => rfl) d
  unfold stepBoundary
  dsimp only
  generalize (if (regionOf d r).bolt.dkFlush = true then onBolt r (fun b => { b with dk := [], dkFlush := false }) d else d) = d2
    at hhif2 hpol2 hcmds2 ⊢
  obtain ⟨hhif3, hpol3, hcmds3⟩ := onBoltIf_keeps r (regionOf d2 r).bolt.policyPending (f := polInstallOne d2) (fun _ => rfl) d2
  generalize (if (regionOf d2 r).bolt.policyPending = true then onBolt r (polInstallOne d2) d2 else d2) = d3 at hhif3 hpol3 hcmds3 ⊢
  obtain ⟨hhif, hregion⟩ := polCheck_keeps r (d := onBolt r (fun b => { b with stepLvl := boltTop d3 r }) d3)
    ((congrArg (·.pend) (hpol3.trans hpol2)).trans h)
  exact ⟨hhif.trans (hhif3.trans hhif2), by rw [hregion, onBolt_bolt, hcmds3, hcmds2]⟩

end

/-! ## The end of a command -/

theorem finish_of_running {d : Dev} {c : Cmd} (res : Res) (hc : cmdOf? d c.cid = some c) (hrun : c.stage = .running) :
    finish c.cid res d = countEnd c (onCmd c.cid (fun c => { c with stage := .done res, loc := .none, waitOn := [], taken := [] }) d) := by
  simp only [finish, hc, hrun]

theorem countEnd_boltCtx {c : Cmd} {r : Region} {l n : Nat} (hloc : c.loc = .boltCtx r l n) (hcode : c.code / 256 = 3) (d : Dev) :
    countEnd c d = onBolt r (fun b => { b with cmds := b.cmds + 1 }) d := by
  simp only [countEnd, hloc, hcode, if_true]

section
variable {r : Region} {l n : Nat} {c : Cmd} {res : Res} {d : Dev} (hloc : c.loc = .boltCtx r l n) (hc : cmdOf? d c.cid = some c)
  (hrun : c.stage = .running)
include hloc hc hrun

/-- A command whose last step has ended has its outcome, and its pipeline counts it (R102, R134). -/
theorem boltGive_ends (hcode : c.code / 256 = 3) : (cmdOf? (boltGive r c res d) c.cid).map (·.stage) = some (.done res)
    ∧ (regionOf (boltGive r c res d) r).bolt.cmds = (regionOf d r).bolt.cmds + 1 ∧ (boltGive r c res d).pol = d.pol := by
  have hlogs : ∀ {β : Type} (v : Dev → β), (∀ (e : LateEv) u, v (logEv e.code e.src e.p0 e.p1 e.p2 u) = v u) →
      v (forAll c.late (fun e => logEv e.code e.src e.p0 e.p1 e.p2) (finish c.cid res d)) = v (finish c.cid res d) :=
    fun v hv => forAll_keeps v hv _ _
  have hhif : (boltGive r c res d).hif = (finish c.cid res d).hif := hlogs (·.hif) fun _ _ => logEv_hif ..
  have hregion := hlogs (regionOf · r) fun _ _ => logEv_regionOf ..
  have hpol := hlogs (·.pol) fun _ _ => by rw [logEv_eq_onEvr]; rfl
  refine ⟨?_, ?_, ?_⟩
  · rw [cmdOf?_of_hif hhif]
    exact finish_stage d res hc (by simp [isDone, hrun])
  · rw [boltGive, onBolt_bolt, hregion, finish_of_running res hc hrun, countEnd_boltCtx hloc hcode, onBolt_bolt]
    rfl
  · refine Eq.trans hpol ?_
    rw [finish_eq]
    rfl

end

/-- A command whose step has ended stands in its context with the steps left. -/
theorem theCmd_stepTaken {c : Cmd} {r : Region} {l n : Nat} {d : Dev} {u : State} (hc : cmdOf? d c.cid = some c)
    (hu : u.hif = (onCmd c.cid (fun c => { c with loc := .boltCtx r l n }) d).hif) : (theCmd c.cid u).loc = .boltCtx r l n := by
  have hcmd : cmdOf? u.toDev c.cid = some { c with loc := .boltCtx r l n } := by
    rw [cmdOf?_of_hif hu, cmdOf?_onCmd_self d c.cid (fun c => { c with loc := .boltCtx r l n }) fun _ => rfl, hc]
    rfl
  rw [theCmd, hcmd]
  rfl

/-! ## Queues -/

/-- A waiting command moves to the tail of the next higher queue (R103). -/
theorem boltPromote_moves {cid lvl : Nat} {r : Region} {c : Cmd} {d : Dev} (hc : cmdOf? d cid = some c) (hloc : c.loc = .boltQ r lvl)
    (hwait : c.stage = .waiting) (hlvl : lvl < 3) : cmdOf? (boltPromote cid d) cid = some { c with loc := .boltQ r (lvl + 1) }
      ∧ (boltPromote cid d).hif.cmds.getLast?.map (·.cid) = some cid := by
  have hcid : c.cid = cid := by simpa using List.find?_some hc
  have hrow : boltPromote cid d = onHif (fun h => { h with
      cmds := h.cmds.filter (fun x => x.cid != cid) ++ [{ c with loc := .boltQ r (lvl + 1) }] }) d := by
    simp [boltPromote, hc, hloc, isWaiting, hwait, hlvl]
  have hothers : (d.hif.cmds.filter (fun x => x.cid != cid)).find? (fun x => x.cid == cid) = none := by
    simp [List.find?_eq_none]
  rw [hrow]
  refine ⟨?_, ?_⟩
  · simp [cmdOf?, List.find?_append, hothers, hcid]
  · simp [hcid]

end Sys2Proof.Machine
end

section
/-! PROOF. XLATE_POLICY_WRITE with every pipeline between commands: the table is recorded and installed at once (R114). -/

namespace Sys2Proof.Machine

/-! ## What a record write leaves -/

/-- Two device states that differ in the persistent store and the recorder alone. -/
def StoreOnly (d e : Dev) : Prop := e = { d with nvm := e.nvm, evr := e.evr }

theorem StoreOnly.refl (d : Dev) : StoreOnly d d := rfl

theorem StoreOnly.trans {a b c : Dev} (h1 : StoreOnly a b) (h2 : StoreOnly b c) : StoreOnly a c := by
  unfold StoreOnly at *
  rw [h2, h1]

theorem storeOnly_onNvm (f : NvmS → NvmS) (d : Dev) : StoreOnly d (onNvm f d) := rfl

theorem storeOnly_logEv (code source p1 p2 p3 : Nat) (d : Dev) : StoreOnly d (logEv code source p1 p2 p3 d) := by
  rw [logEv_eq_onEvr]
  rfl

theorem storeOnly_doIf {f : Dev → Dev} (hf : ∀ d, StoreOnly d (f d)) (b : Bool) (d : Dev) : StoreOnly d (doIf b f d) := by
  cases b with
  | false => exact .refl d
  | true => exact hf d

theorem storeOnly_forAll {α : Type} {f : α → Dev → Dev} (hf : ∀ x d, StoreOnly d (f x d)) (l : List α) (d : Dev) :
    StoreOnly d (forAll l f d) := by
  induction l generalizing d with
  | nil => exact .refl d
  | cons x l ih => exact (hf x d).trans (ih _)

theorem storeOnly_parityReport (d : Dev) : StoreOnly d (parityReport d) := by
  unfold parityReport
  dsimp only
  split
  · exact .refl d
  · split
    · exact (storeOnly_onNvm _ d).trans (storeOnly_logEv ..)
    · exact (storeOnly_onNvm _ d).trans (storeOnly_logEv ..)

theorem storeOnly_stripesReuse (l : List Nat) (d : Dev) : StoreOnly d (stripesReuse l d) := by
  unfold stripesReuse
  split
  · exact (storeOnly_onNvm _ d).trans (storeOnly_parityReport _)
  · exact .refl d

theorem storeOnly_stripeWrite (x : Nat) (d : Dev) : StoreOnly d (stripeWrite x d) :=
  (storeOnly_onNvm _ d).trans ((storeOnly_doIf (fun _ => storeOnly_logEv ..) _ _).trans (storeOnly_doIf (fun _ => storeOnly_logEv ..) _ _))

theorem storeOnly_pageWrite (id page : Nat) (d : Dev) : StoreOnly d (pageWrite id page d) := by
  unfold pageWrite
  dsimp only
  refine (storeOnly_onNvm (fun n => { n with fgWaiting := n.fgWaiting || n.bgBusy, fgWrites := n.fgWrites + 1 }) d).trans ?_
  split
  · exact (storeOnly_onNvm _ _).trans ((storeOnly_stripesReuse ..).trans (storeOnly_stripeWrite ..))
  · split
    · exact .refl _
    · split
      · exact .refl _
      · split
        · exact (storeOnly_stripeWrite ..).trans ((storeOnly_onNvm _ _).trans (storeOnly_stripesReuse ..))
        · exact (storeOnly_stripeWrite ..).trans (storeOnly_onNvm _ _)

theorem storeOnly_recWrite (id pages : Nat) (d : Dev) : StoreOnly d (recWrite id pages d) :=
  (storeOnly_onNvm _ d).trans (storeOnly_forAll (storeOnly_pageWrite id) _ _)

/-! ## The table is installed -/

/-- No command stands in a context of any pipeline. -/
def BoltsIdle (d : Dev) : Prop := ∀ (r : Region), ∀ l < 4, boltContext d r l = none

theorem boltContext_eq_none {d : Dev} {r : Region} {l : Nat} :
    boltContext d r l = none ↔ ∀ c ∈ d.hif.cmds, ∀ n, c.loc ≠ .boltCtx r l n := by
  rw [boltContext, List.findSome?_eq_none_iff]
  refine forall₂_congr fun c _ => ?_
  cases c.loc <;> simp

theorem BoltsIdle.onCmd {d : Dev} (h : BoltsIdle d) (cid : Nat) {f : Cmd → Cmd} (hf : ∀ c, (f c).loc = c.loc) :
    BoltsIdle (onCmd cid f d) := by
  intro r l hl
  have hnone := boltContext_eq_none.mp (h r l hl)
  refine boltContext_eq_none.mpr fun c hc => ?_
  obtain ⟨x, hx, rfl⟩ := List.mem_map.mp hc
  split
  · rw [hf]
    exact hnone x hx
  · exact hnone x hx

theorem BoltsIdle.outputPlaced {d : Dev} (h : BoltsIdle d) (cid : Nat) (hr : HostRead) : BoltsIdle (outputPlaced cid hr d) :=
  h.onCmd cid fun _ => rfl

/-- A pipeline has the committed table, and no other waits to be installed. -/
def Installed (d : Dev) (q : Region) : Prop :=
  (regionOf d q).bolt.policy = d.pol.rec_ ∧ (regionOf d q).bolt.policyPending = false

theorem installed_step {d : Dev} (r q : Region) (h : q = r ∨ Installed d q) : Installed (onBolt r (polInstallOne d) d) q := by
  by_cases hq : q = r
  · subst hq
    rw [Installed, onBolt_bolt]
    exact ⟨rfl, rfl⟩
  · have hne : (q : Nat) ≠ r := fun he => hq (Fin.ext he)
    rw [Installed, onBolt, regionOf_onRegion_ne _ _ hne]
    exact h.resolve_left hq

/-- Between commands every pipeline installs the table at once (R114). -/
theorem polInstall_idle {d : Dev} (h : BoltsIdle d) :
    (polInstall d).hif = d.hif ∧ (polInstall d).pol = d.pol ∧ ∀ q : Region, Installed (polInstall d) q := by
  suffices hall : ∀ (l : List Region) (e : Dev), BoltsIdle e →
      let u := forAll l (fun (r : Region) d =>
        if boltUp d r && (List.range 4).any (fun l => (boltContext d r l).isSome) then
          onBolt r (fun b => { b with policyPending := true }) d
        else onBolt r (polInstallOne d) d) e
      u.hif = e.hif ∧ u.pol = e.pol ∧ ∀ q : Region, q ∈ l ∨ Installed e q → Installed u q by
    obtain ⟨hhif, hpol, hinst⟩ := hall (List.finRange 4) d h
    exact ⟨hhif, hpol, fun q => hinst q (.inl (List.mem_finRange q))⟩
  intro l
  induction l with
  | nil => exact fun e _ => ⟨rfl, rfl, fun q hq => hq.resolve_left List.not_mem_nil⟩
  | cons r l ih =>
    intro e he
    have hnone : (List.range 4).any (fun l => (boltContext e r l).isSome) = false := by
      simp only [List.any_eq_false, List.mem_range, Bool.not_eq_true, Option.isSome_eq_false_iff, Option.isNone_iff_eq_none]
      exact he r
    simp only [forAll_cons, hnone, Bool.and_false, Bool.false_eq_true, if_false]
    obtain ⟨hhif, hpol, hinst⟩ := ih (onBolt r (polInstallOne e) e) he
    refine ⟨hhif, hpol, fun q hq => hinst q ?_⟩
    rcases hq with hq | hq
    · rcases List.mem_cons.mp hq with rfl | hq
      · exact .inr (installed_step q q (.inl rfl))
      · exact .inl hq
    · exact .inr (installed_step r q (.inr hq))

/-! ## Waiting writes complete -/

/-- A write whose table every pipeline has installed completes, and the change is logged (R114, R115). -/
def writeCompleted (w : PolPending) (d : Dev) : Dev := logEv 0x4204 0x28 w.ver.toNat 1 0 (finishRunning w.cid resOk d)

theorem polCheck_installed {d : Dev} (h : ∀ q : Region, Installed d q) :
    polCheck d = forAll d.pol.pend writeCompleted (onPol (fun p => { p with pend := [] }) d) := by
  have hnone : (List.finRange 4).any (fun r : Region => boltUp d r && (regionOf d r).bolt.policyPending) = false := by
    simp only [List.any_eq_false, Bool.not_eq_true]
    exact fun q _ => by rw [(h q).2, Bool.and_false]
  rw [polCheck, hnone]
  rfl

section
variable (q : Nat) (d : Dev)

theorem onBolt_policy {r : Nat} {f : BoltS → BoltS} (h : ∀ b, (f b).policy = b.policy) :
    (regionOf (onBolt r f d) q).bolt.policy = (regionOf d q).bolt.policy := by
  by_cases hq : q = r
  · subst hq
    rw [onBolt, regionOf_onRegion_self]
    exact h _
  · rw [onBolt, regionOf_onRegion_ne _ _ hq]

theorem onDig_policy (r : Nat) (f : DigS → DigS) : (regionOf (onDig r f d) q).bolt.policy = (regionOf d q).bolt.policy := by
  by_cases hq : q = r
  · subst hq
    rw [onDig, regionOf_onRegion_self]
  · rw [onDig, regionOf_onRegion_ne _ _ hq]

theorem finishRunning_policy (cid : Nat) (res : Res) :
    (regionOf (finishRunning cid res d) q).bolt.policy = (regionOf d q).bolt.policy := by
  have hend : ∀ c e, (regionOf (countEnd c e) q).bolt.policy = (regionOf e q).bolt.policy := fun c e => by
    unfold countEnd
    split
    any_goals split
    any_goals rfl
    · exact onBolt_policy q e fun _ => rfl
    · exact onBolt_policy q e fun _ => rfl
    · exact onDig_policy q e _ _
    · exact onDig_policy q e _ _
  unfold finishRunning finish
  split
  · split
    · split
      · rfl
      · split
        · rfl
        · exact hend _ _
    · rfl
  · rfl

theorem finishRunning_pol (cid : Nat) (res : Res) : (finishRunning cid res d).pol = d.pol := by
  unfold finishRunning
  split
  · split
    · rw [finish_eq]
      rfl
    · rfl
  · rfl

theorem writesCompleted_keep (l : List PolPending) : (forAll l writeCompleted d).pol = d.pol
    ∧ (regionOf (forAll l writeCompleted d) q).bolt.policy = (regionOf d q).bolt.policy := by
  refine ⟨forAll_keeps (·.pol) (fun w d => ?_) l d, forAll_keeps (fun d => (regionOf d q).bolt.policy) (fun w d => ?_) l d⟩
  · rw [writeCompleted, logEv_eq_onEvr, onEvr_pol, finishRunning_pol]
  · rw [writeCompleted, logEv_regionOf, finishRunning_policy]

end

section
variable {cid : Nat}

/-- The command `cid` is at the stage `g`. -/
def AtStage (cid : Nat) (g : Stage) (d : Dev) : Prop := (cmdOf? d cid).map (·.stage) = some g

theorem atStage_of_hif {g : Stage} {d e : Dev} (h : d.hif = e.hif) : AtStage cid g d ↔ AtStage cid g e := by
  rw [AtStage, cmdOf?_of_hif h, AtStage]

theorem cmdOf?_onCmd_ne {x : Nat} (hne : x ≠ cid) (d : Dev) {f : Cmd → Cmd} (hf : ∀ c, (f c).cid = c.cid) :
    cmdOf? (onCmd x f d) cid = cmdOf? d cid := by
  have hsame : ((fun c => c.cid == cid) ∘ fun c => if c.cid == x then f c else c) = fun c : Cmd => c.cid == cid :=
    funext fun c => by
      simp only [Function.comp_apply]
      split <;> simp [hf]
  simp only [cmdOf?, onCmd, onHif_hif, lmod, List.find?_map, hsame]
  cases hfind : d.hif.cmds.find? (fun c => c.cid == cid) with
  | none => rfl
  | some c =>
    obtain rfl : c.cid = cid := by simpa using List.find?_some hfind
    simp [hne.symm]

theorem finishRunning_ne {x : Nat} (hne : x ≠ cid) (res : Res) (d : Dev) : cmdOf? (finishRunning x res d) cid = cmdOf? d cid := by
  unfold finishRunning finish
  split
  · split
    · split
      · rfl
      · split
        · rfl
        · rw [cmdOf?_of_hif (countEnd_hif _ _)]
          exact cmdOf?_onCmd_ne hne d fun _ => rfl
    · rfl
  · rfl

theorem finishRunning_running {res : Res} {d : Dev} (h : AtStage cid .running d) : AtStage cid (.done res) (finishRunning cid res d) := by
  obtain ⟨c, hc, hrun⟩ := Option.map_eq_some_iff.mp h
  exact finishRunning_stage d res hc hrun

theorem finishRunning_done {res res' : Res} {d : Dev} (h : AtStage cid (.done res) d) : finishRunning cid res' d = d := by
  obtain ⟨c, hc, hdone⟩ := Option.map_eq_some_iff.mp h
  simp [finishRunning, hc, isRunning, hdone]

/-- The write of a running command completes it; a command that has completed stays so, and another's write leaves it. -/
theorem writeCompleted_stage (w : PolPending) {d : Dev} :
    (AtStage cid (.done resOk) d → AtStage cid (.done resOk) (writeCompleted w d))
      ∧ (AtStage cid .running d → AtStage cid (if w.cid = cid then .done resOk else .running) (writeCompleted w d)) := by
  simp only [writeCompleted, atStage_of_hif (logEv_hif ..)]
  by_cases hw : w.cid = cid
  · subst hw
    rw [if_pos rfl]
    exact ⟨fun h => by rwa [finishRunning_done h], finishRunning_running⟩
  · simp only [if_neg hw, AtStage, finishRunning_ne hw, imp_self, and_self]

/-- Of writes that wait and complete, each ends its command with ST_OK (R114). -/
theorem writesCompleted_stage (l : List PolPending) {d : Dev}
    (h : AtStage cid (.done resOk) d ∨ AtStage cid .running d ∧ ∃ w ∈ l, w.cid = cid) :
    AtStage cid (.done resOk) (forAll l writeCompleted d) := by
  induction l generalizing d with
  | nil => exact h.resolve_right fun ⟨_, w, hw, _⟩ => List.not_mem_nil hw
  | cons w l ih =>
    obtain ⟨hdone, hrunning⟩ := writeCompleted_stage (cid := cid) w (d := d)
    rcases h with h | ⟨h, x, hx, hcid⟩
    · exact ih (.inl (hdone h))
    · have hnext := hrunning h
      split at hnext
      next => exact ih (.inl hnext)
      next hw =>
        rcases List.mem_cons.mp hx with rfl | hx
        · exact absurd hcid hw
        · exact ih (.inr ⟨hnext, x, hx, hcid⟩)

end

/-! ## XLATE_POLICY_WRITE -/

section
variable {cid : Nat} {hr : HostRead} {s : State}

/-- The command's table is recorded with the next version, and its write waits (R114). -/
def tableCommitted (cid : Nat) (t : Bytes) : Dev → Dev := onPol (fun p => {
  rec_ := some t, ver := p.ver + 1, defaultAfterLoss := false
  pend := p.pend ++ [⟨cid, p.ver + 1, p.rec_, p.ver, p.defaultAfterLoss⟩] })

/-- A table that every pipeline installs at once completes its write: it is the record, and every pipeline's table. -/
theorem tableCommitted_completes (t : Bytes) {d : Dev} (hlive : inFlight cid d = true) (hidle : BoltsIdle d) :
    let u := polCheck (onCmd cid (fun c => { c with stage := .running }) (polInstall (tableCommitted cid t d)))
    AtStage cid (.done resOk) u ∧ u.pol.rec_ = some t ∧ u.pol.ver = d.pol.ver + 1
      ∧ ∀ r : Region, polTable (regionOf u r).bolt = t := by
  obtain ⟨hhif, hpol, hinst⟩ := polInstall_idle (d := tableCommitted cid t d) hidle
  generalize polInstall (tableCommitted cid t d) = e at hhif hpol hinst
  obtain ⟨c, hc⟩ := Option.isSome_iff_exists.mp hlive
  have hrun : AtStage cid .running (onCmd cid (fun c => { c with stage := .running }) e) := by
    rw [AtStage, cmdOf?_onCmd_self e cid (fun c => { c with stage := .running }) fun _ => rfl, cmdOf?_of_hif hhif]
    rw [show cmdOf? (tableCommitted cid t d) cid = some c from hc]
    rfl
  dsimp only
  rw [polCheck_installed (d := onCmd cid (fun c => { c with stage := .running }) e) hinst]
  have hpend : (onCmd cid (fun c => { c with stage := .running }) e).pol = (tableCommitted cid t d).pol := hpol
  refine ⟨writesCompleted_stage _ (.inr ⟨hrun, ?_⟩), ?_, ?_, fun r => ?_⟩
  · rw [hpend]
    exact ⟨_, List.mem_append_right _ (List.mem_singleton_self _), rfl⟩
  · rw [(writesCompleted_keep 0 _ _).1, onPol_pol, hpend]
    rfl
  · rw [(writesCompleted_keep 0 _ _).1, onPol_pol, hpend]
    rfl
  · have htable : (regionOf e r).bolt.policy = some t := (hinst r).1.trans (by rw [hpol]; rfl)
    rw [polTable, (writesCompleted_keep r _ _).2]
    exact congrArg (fun p : Option Bytes => p.getD polDefault) htable

theorem finish_of_done {res res' : Res} {d : Dev} (h : AtStage cid (.done res) d) : finish cid res' d = d := by
  obtain ⟨c, hc, hdone⟩ := Option.map_eq_some_iff.mp h
  simp [finish, hc, hdone]

theorem boltsIdle_of_all (h : ((List.finRange 4).all (fun r => (List.range 4).all (fun l => (boltContext s.toDev r l).isNone))) = true) :
    BoltsIdle s.toDev := by
  simpa [BoltsIdle] using h

/-- XLATE_POLICY_WRITE with every pipeline between commands (R114). -/
theorem policyWrite_completes (hstarts : starts 0x0140 cid hr s = true) (h64 : zeroFrom cid 64 s = true) (hlen : (theCmd cid s).inLen = 256)
    (htable : ((List.range 256).all (fun i =>
      decide ((inputOf cid hr s).getD i 0 < 4) && (polValid i || (inputOf cid hr s).getD i 0 == 0))) = true)
    (hkeep : keepOnly s.toDev = false) (hidle : BoltsIdle s.toDev) :
    EndsWith (hasp 0x0140 cid hr bodyPolicyWrite s) cid resOk (fun u => u.pol.rec_ = some (inputOf cid hr s) ∧ u.pol.ver = s.pol.ver + 1
      ∧ ∀ r : Region, polTable (regionOf u.toDev r).bolt = inputOf cid hr s) := by
  have hcid : (theCmd cid s).cid = cid := by simpa using List.find?_some (starts_iff.mp hstarts).1
  have hstore := storeOnly_recWrite (settingRec 0) 1 (outputPlaced cid hr s.toDev)
  have hhif : (recWrite (settingRec 0) 1 (outputPlaced cid hr s.toDev)).hif = (outputPlaced cid hr s.toDev).hif := by rw [hstore]
  have hpol : (recWrite (settingRec 0) 1 (outputPlaced cid hr s.toDev)).pol = s.pol := by
    rw [hstore]
    rfl
  have hlive : inFlight cid (recWrite (settingRec 0) 1 (outputPlaced cid hr s.toDev)) = true := by
    rw [inFlight_of_hif cid hhif, inFlight_outputPlaced, inFlight_of_starts hstarts]
  have hidle' : BoltsIdle (recWrite (settingRec 0) 1 (outputPlaced cid hr s.toDev)) := fun r l hl => by
    rw [boltContext_eq_none, hhif]
    exact boltContext_eq_none.mp (hidle.outputPlaced cid hr r l hl)
  have hends := tableCommitted_completes (inputOf cid hr s) hlive hidle'
  dsimp only at hends
  generalize hu : polCheck (onCmd cid (fun c => { c with stage := .running }) (polInstall (tableCommitted cid (inputOf cid hr s)
    (recWrite (settingRec 0) 1 (outputPlaced cid hr s.toDev))))) = u at hends
  obtain ⟨hdone, hrec, hver, hall⟩ := hends
  rw [hpol] at hver
  obtain ⟨c, hc, hstage⟩ := Option.map_eq_some_iff.mp hdone
  have hkeep' : keepOnly (outputPlaced cid hr s.toDev) = false := hkeep
  rw [zeroFrom_def] at h64
  have hentries : ((List.range 256).all (fun i => decide (((inData (theCmd cid s) hr).getD i 0).toNat < 4)
      && (polValid i || (inData (theCmd cid s) hr).getD i 0 == 0))) = true := htable
  have hbody : bodyPolicyWrite (theCmd cid s) (readOf (theCmd cid s) hr) (outputPlaced cid hr s.toDev) = (.ok resOk, u) := by
    simp only [tableCommitted, inputOf] at hu
    simp only [bodyPolicyWrite, run_bind, zeroIn_def, need, h64, hlen, beq_self_eq_true, if_true, run_pure, inData_readOf, hentries,
      run_get, hkeep', Bool.not_false, run_eff, hcid, hu, hc, hstage]
  rw [hasp_of_starts hstarts]
  simp only [onDev, hbody, settle, finish_of_done hdone]
  exact ⟨stage_theCmd_of_cmdOf? hdone, hrec, hver, hall⟩

end

end Sys2Proof.Machine
end

section
/-! PROOF. The bolt pipelines' other commands together (R102, R103, R114, R116 to R125). -/

namespace Sys2Proof.Machine

section
variable {r : Region} {l n : Nat} {c : Cmd} {res : Res} {s : State} (hrun : boltRunning s.toDev r = some l)
  (hctx : boltContext s.toDev r l = some (c, n)) (hc : cmdOf? s.toDev c.cid = some c)
include hrun hctx hc

/-- The end of a command's last step gives its outcome (R102). -/
theorem boltStepEnd_ends (hready : c.ready = some res) (hstage : c.stage = .running) (hcode : c.code / 256 = 3) (hpend : s.pol.pend = [])
    (hn : n ≤ 1) : EndsWith (execBoltStepEnd r s) c.cid res
      (fun u => (regionOf u.toDev r).bolt.cmds = (regionOf s.toDev r).bolt.cmds + 1) := by
  obtain ⟨hdone, hcmds, hpol⟩ := boltGive_ends (res := res) (boltContext_loc hctx) hc hstage hcode
  obtain ⟨hhif, hcount⟩ := stepBoundary_keeps r (d := onBolt r (dkStep c.cid) (boltGive r c res s.toDev))
    ((congrArg (·.pend) hpol).trans hpend)
  have hrow : boltStepEnd r s.toDev = stepBoundary r (onBolt r (dkStep c.cid) (boltGive r c res s.toDev)) := by
    rw [boltStepEnd_last hrun hctx hn, hready]
    rfl
  refine ⟨stage_theCmd_of_cmdOf? ?_, ?_⟩
  · rw [onDev_toDev, hrow, cmdOf?_of_hif (e := boltGive r c res s.toDev) hhif]
    exact hdone
  · simp only [onDev_toDev]
    rw [hrow, hcount, onBolt_bolt, dkStep_cmds, hcmds]

/-- The end of another step leaves one step fewer (R102). -/
theorem boltStepEnd_steps (hpend : s.pol.pend = []) (hn : 1 < n) :
    Gives (execBoltStepEnd r s) (fun u => (theCmd c.cid u).loc = .boltCtx r l (n - 1)) := by
  obtain ⟨hhif, -⟩ := stepBoundary_keeps r
    (d := onBolt r (dkStep c.cid) (onCmd c.cid (fun c => { c with loc := .boltCtx r l (n - 1) }) s.toDev)) hpend
  rw [execBoltStepEnd, gives_nextD]
  refine theCmd_stepTaken hc ?_
  rw [onDev_toDev, boltStepEnd_more hrun hctx hn]
  exact hhif

end

/-- Settles O29: the commands' checks pass and their bodies run to the stated outcomes, by the lemma on each; a step's end, a move of a
queue, a table and a flush each by its own lemma. -/
theorem boltCommandsComplete : Obligations.BoltCommandsComplete := by
  unfold Obligations.BoltCommandsComplete
  refine ⟨?_, ?_, ?_, ?_, ?_, ?_, ?_, ?_, ?_, ?_, ?_⟩
  · intro cid hr r lvl k s hheads h66 h112
    refine ⟨fun hstarts hgood hk => ?_, fun hstarts hgood hk => ?_⟩
    · exact inBolt_of_runs hstarts hheads (mac_runs (verify := false) (inFlight_of_starts hstarts) h66 h112 hgood hk) (one_le_macSteps _)
    · exact inBolt_of_runs hstarts hheads (mac_runs (verify := true) (inFlight_of_starts hstarts) h66 h112 hgood hk) (one_le_macSteps _)
  · intro cid hr r lvl kind wk ctr ikid k s hheads h66 hdukpt hcold hk hbase
    obtain ⟨w, hw, hkey, hsteps⟩ := run_dukptKey_cold (hr := hr) hdukpt hk hbase
      (if param cid 66 1 s = 0 then .macReq else .macResp) hcold
    have hpos : 1 ≤ w.steps + macSteps (theCmd cid s).inLen := le_add_left (one_le_macSteps _)
    rw [← hkey, ← hsteps]
    refine ⟨fun hstarts hgood => ?_, fun hstarts hgood => ?_⟩
    · have hlive := (inFlight_oneFetched (hr := hr) (ka := k)).trans (inFlight_of_starts hstarts)
      obtain ⟨e, hruns, -⟩ := dukptMac_runs (verify := false) hlive h66 hgood hdukpt hw
      exact inBolt_of_runs hstarts hheads ⟨e, hruns⟩ hpos
    · have hlive := (inFlight_oneFetched (hr := hr) (ka := k)).trans (inFlight_of_starts hstarts)
      obtain ⟨e, hruns, -⟩ := dukptMac_runs (verify := true) hlive h66 hgood hdukpt hw
      exact inBolt_of_runs hstarts hheads ⟨e, hruns⟩ hpos
  · intro cid hr r lvl kind wk ctr ikid k x s hheads h66 hdukpt hk hbase hhit hstarts hgood
    obtain ⟨w, hw, hkey, hsteps⟩ := run_dukptKey_hit (hr := hr) hdukpt hk hbase
      (if param cid 66 1 s = 0 then .macReq else .macResp) hhit
    have hlive : inFlight cid (keyTouch k.entry (outputPlaced cid hr s.toDev)) = true :=
      (inFlight_of_hif cid rfl).trans ((inFlight_outputPlaced s.toDev).trans (inFlight_of_starts hstarts))
    obtain ⟨e, hruns, hks⟩ := dukptMac_runs (verify := false) hlive h66 hgood hdukpt hw
    rw [hkey, hsteps] at hruns
    obtain ⟨hin, hfetches⟩ := gives_bolt_of_runs hstarts hheads hruns (le_add_left (one_le_macSteps _))
    exact ⟨hin, by rw [hfetches, hks]; rfl⟩
  · intro cid hr r lvl method k pan sk s hstarts hheads h64 hmethod h77 h95 h104 hb hlo hhi hpan hpsn h94 h96 hcap hk halg hsk
    exact inBolt_of_runs hstarts hheads
      (emv_runs (inFlight_of_starts hstarts) h64 hmethod h77 h95 h104 hb hlo hhi hpan hpsn h94 h96 hcap hk halg hsk) (by omega)
  · intro cid hr r lvl a ka kb h key pad s hstarts hheads h64 hlo hhi hka hsa hkb hsb hopens hexp hstrong hcap hsame hpad
    exact inBolt_of_runs hstarts hheads
      (keyblockXlate_runs (inFlight_of_starts hstarts) h64 hlo hhi hka hsa hkb hsb hopens hexp hstrong hcap hsame hpad)
      (by split <;> decide)
  · intro cid hr r lvl k s hstarts hheads hlo hhi h66 h67 hb hcap hsym h64 hk
    exact inBolt_of_runs hstarts hheads (keyCheck_runs (inFlight_of_starts hstarts) hlo hhi h66 h67 hb hcap hsym h64 hk) le_rfl
  · intro cid hr r lvl a k h key s hstarts hheads hlo hhi h66 h67 hb hcap hsym h64 hin hout hk hopens hsa
    exact inBolt_of_runs hstarts hheads
      (keyCheckBlock_runs (inFlight_of_starts hstarts) hlo hhi h66 h67 hb hcap hsym h64 hin hout hk hopens hsa) le_rfl
  · intro r l n c res s hrun hctx hready hc hstage hcode hpend
    exact ⟨boltStepEnd_ends hrun hctx hc hready hstage hcode hpend, boltStepEnd_steps hrun hctx hc hpend⟩
  · intro cid r lvl s hloc hwait hlvl hsome
    obtain ⟨c, hc⟩ := Option.isSome_iff_exists.mp hsome
    have hcmd : theCmd cid s = c := by rw [theCmd, hc]; rfl
    obtain ⟨hmoved, hlast⟩ := boltPromote_moves hc (hcmd ▸ hloc) (hcmd ▸ hwait) hlvl
    refine ⟨?_, hlast⟩
    rw [hcmd, theCmd]
    exact congrArg (·.getD { cid := cid }) hmoved
  · intro cid hr s hstarts h64 hlen htable hkeep hidle
    exact policyWrite_completes hstarts h64 hlen htable hkeep (boltsIdle_of_all hidle)
  · intro acc r s hgo hKC
    obtain ⟨hin, hD⟩ := kc_of_or hKC
    obtain ⟨e, hsame, hact⟩ := regAction_acts (act := dkFlush r) hgo hin hD
    rw [exec_dkFlush, gives_nextD, onDev_toDev, hact]
    refine ⟨fun hidle => dkFlush_idle fun l hl => ?_, fun hbusy => dkFlush_busy ?_⟩
    · rw [hsame.boltContext]
      exact List.all_eq_true.mp hidle l (List.mem_range.mpr hl)
    · obtain ⟨l, hl, hsome⟩ := List.any_eq_true.mp hbusy
      exact ⟨l, List.mem_range.mp hl, by rw [hsame.boltContext, hsome]⟩

end Sys2Proof.Machine
end

section
/-! PROOF. The barrel array (06): a job whose public input is refused ends where its engine takes it, and the offer of jobs
ends every waiting command that stands in a queue without an engine to run it (R151, R158, R169). -/

namespace Sys2Proof.Machine

/-! ## A program without a key whose point is refused at the start -/

/-- ECDH on P-256, as an image lists it that names no key use, no private operands and no secret result: the form of R144 admits
such an entry. -/
def keylessEcdh : ProgEntry := {
  id := 0x0221, name := fit (ascii "PRG_ECDH_P256") 32, flags := 0x10, bits := 256, items := 20, typNs := 28000, maxNs := 31000
  keyUse := 255, nIn := 1, nOut := 0 }

/-- PKC_RUN of that program over 65 bytes. -/
def runsEcdh : Cmd := { cid := 1, code := 0x0401, seq := 1, params := fit (natLE keylessEcdh.id 2) 64, inLen := 65 }

/-- Bytes that encode no point: they do not begin with 4. -/
def noPoint : HostRead := plainRead (zeros 65)

/-- The command may start, engine 0 is idle in role 0, and every other engine runs its own test. -/
def oneEngineIdle : State := {
  cpm := { power := .ready }
  brl := { ucodeA := some { shippedUcode with cat := progBytes keylessEcdh }
           engs := (List.range 17).map (fun n => (n + 1, { running := some 0 })) }
  hif := { cmds := [runsEcdh] } }

/-- The hypotheses on the command and its program hold. -/
theorem oneEngineIdle_command :
    starts 0x0401 1 noPoint oneEngineIdle = true ∧ (theCmd 1 oneEngineIdle).scratch = [] ∧ runsProg 1 keylessEcdh oneEngineIdle
      ∧ noJobs oneEngineIdle = true ∧ zeroFrom 1 68 oneEngineIdle = true
      ∧ operandLens keylessEcdh.id (theCmd 1 oneEngineIdle).inLen = some [65]
      ∧ (resultLens keylessEcdh.id).sum ≤ (theCmd 1 oneEngineIdle).outCap
      ∧ keylessEcdh.keyUse = 255 ∧ needsDraw keylessEcdh = false ∧ pSecretOut keylessEcdh = false := by
  decide +kernel

/-- The hypotheses on the engines hold: engine 0 alone can take the job. -/
theorem oneEngineIdle_engines :
    (isPoolRole 0 = false ∧ pLong keylessEcdh = false) ∧ roleServed oneEngineIdle.toDev 0 = some 0
      ∧ engIdle oneEngineIdle.toDev 0 = true ∧ eligible oneEngineIdle.toDev keylessEcdh 0 = true
      ∧ (List.range 18).all (fun x => x == 0 || !engIdle oneEngineIdle.toDev x) = true := by
  decide +kernel

/-- The engine takes the job, finds no point, and the job ends with ST_POINT before it runs. -/
theorem oneEngineIdle_stage :
    (theCmd 1 (onDev (runJob 0x0401 1 noPoint pkcRun) oneEngineIdle)).stage = .done (resErr stPoint 0) := by
  decide +kernel

/-- Refutes O32: its last clause has a job that takes no key and draws nothing run on the one idle engine. A point of the ECDH
family is checked before the run (R158), so a job over bytes that encode none ends at once with ST_POINT. The clause leaves that
family out only where the catalogue lists it with a key use, which an image need not do (R144, R145). -/
theorem not_pkcCommandsComplete : ¬ Obligations.PkcCommandsComplete := by
  unfold Obligations.PkcCommandsComplete
  rintro ⟨-, -, -, -, -, -, -, -, -, -, -, htakes⟩
  obtain ⟨hstarts, hfresh, hprog, hnone, hzero, hlens, hcap, hkey, hdraw, hpublic⟩ := oneEngineIdle_command
  obtain ⟨hpool, hserves, hidle, heligible, hothers⟩ := oneEngineIdle_engines
  obtain ⟨-, -, hrunning, -⟩ := htakes 1 noPoint keylessEcdh [65] 0 0 oneEngineIdle hstarts hfresh hprog hnone hzero hlens hcap
    hkey hdraw hpublic (.inr hpool) hserves hidle heligible hothers
  exact absurd (hrunning.symm.trans oneEngineIdle_stage) (by decide)

/-! ## A setting that stands in a queue of jobs -/

/-- LONG_POOL_SET that enables the pool. It stands in the queue of short jobs, where only jobs belong. -/
def poolSetQueued : Cmd := { cid := 1, code := 0x0151, seq := 1, params := fit [1] 64, loc := .shortQ 0 }

/-- The command may start. No image is installed, so no engine holds a program. -/
def poolSetAmongJobs : State := { cpm := { power := .ready }, hif := { cmds := [poolSetQueued] } }

/-- The hypotheses of the clause on LONG_POOL_SET hold: the command is no job that is ready for an engine. -/
theorem poolSetAmongJobs_admitted :
    starts 0x0151 1 (plainRead []) poolSetAmongJobs = true ∧ zeroFrom 1 65 poolSetAmongJobs = true
      ∧ noHandles 1 poolSetAmongJobs = true ∧ param 1 64 1 poolSetAmongJobs ≤ 1 ∧ keepOnly poolSetAmongJobs.toDev = false
      ∧ noJobs poolSetAmongJobs = true ∧ logRoom poolSetAmongJobs = true := by
  decide +kernel

/-- The offer of jobs that follows the setting ends the command as one that no engine can take (R173). -/
theorem poolSetAmongJobs_stage :
    (theCmd 1 (onDev (runCmd 0x0151 1 (plainRead []) false bodyLongPool) poolSetAmongJobs)).stage = .done (resErr stRetry 0x0411) := by
  decide +kernel

/-- Refutes O33: its clause on LONG_POOL_SET has the command end with ST_OK. The body offers the waiting jobs to the engines before
it answers, and `sweepJobs` ends with ST_RETRY whatever waits in a queue with no engine to run it; where the setting's own
command stands in a queue, it has ended so. The clause lacks the hypothesis that the command stands in no queue of jobs. -/
theorem not_barrelEnginesRun : ¬ Obligations.BarrelEnginesRun := by
  unfold Obligations.BarrelEnginesRun
  rintro ⟨-, -, -, -, -, -, -, -, hpool, -⟩
  obtain ⟨hstarts, hzero, hnone, hvalue, hkeep, hjobs, hroom⟩ := poolSetAmongJobs_admitted
  obtain ⟨hok, -⟩ := hpool 1 (plainRead []) poolSetAmongJobs hstarts hzero hnone hvalue hkeep hjobs hroom
  exact absurd (hok.symm.trans poolSetAmongJobs_stage) (by decide)

end Sys2Proof.Machine
end

section
/-! PROOF. How a DIG command enters its context with its whole message before it (R180 to R184, R188 to R191). -/

namespace Sys2Proof.Machine

/-! ## A command that heads its lane's queue -/

theorem headsDig_iff {cid : Nat} {r : Region} {l : Lane} {lvl : Nat} {s : State} : headsDig cid r l lvl s = true ↔
    (theCmd cid s).loc = .digQ r l lvl ∧ laneUp s.toDev r l = true ∧ (digContext s.toDev r l lvl).isNone = true
      ∧ (digQueue s.toDev r l lvl).head?.map (·.cid) = some cid := by
  simp [headsDig, and_assoc]

theorem startsDig_iff {code cid : Nat} {hr : HostRead} {s : State} : startsDig code cid hr s = true ↔
    cmdOf? s.toDev cid = some (theCmd cid s) ∧ (theCmd cid s).code = code ∧ mayStart s.toDev (theCmd cid s) = true
      ∧ ∃ u, (listChecks (theCmd cid s) hr true s.toDev).1 = .ok u := by
  unfold startsDig startsAs theCmd
  cases cmdOf? s.toDev cid with
  | none => simp
  | some c =>
    simp only [Option.getD_some, Bool.and_eq_true, beq_iff_eq, true_and, and_assoc, runBody]
    cases (listChecks c hr true s.toDev).1 <;> simp

theorem digGood_iff {cid : Nat} {s : State} : digGood cid s = true ↔
    handB cid s = 0 ∧ zeroFrom cid 90 s = true ∧ (theCmd cid s).inLen = 0 ∧ (theCmd cid s).flags.getLsbD 0 = false
      ∧ param cid 72 8 s ≤ 2 ^ 40 ∧ param cid 66 2 s ≤ param cid 72 8 s
      ∧ ((param cid 72 8 s == 0) == ((theCmd cid s).inPtr == 0)) = true
      ∧ (param cid 72 8 s == 0 || (theCmd cid s).inPtr.toNat % 32 == 0 && (isHost (theCmd cid s) || segForm (theCmd cid s).inPtr.toNat))
        = true := by
  simp only [digGood, Bool.and_eq_true, beq_iff_eq, Bool.not_eq_true', decide_eq_true_eq, and_assoc]

theorem onDig_hif (r : Nat) (f : DigS → DigS) (d : Dev) : (onDig r f d).hif = d.hif := rfl

/-- A flag word whose lowest bit is clear is unchanged when that bit is cleared. -/
theorem flags_and_of_bit0 {f : BitVec 16} (h : f.getLsbD 0 = false) : f &&& 0xFFFE = f := by
  have hmask : ∀ i < 16, (0xFFFE : BitVec 16).getLsbD i = decide (i ≠ 0) := by decide
  refine BitVec.eq_of_getLsbD_eq fun i hi => ?_
  rw [BitVec.getLsbD_and, hmask i hi]
  rcases Nat.eq_zero_or_pos i with rfl | hpos
  · rw [h, Bool.false_and]
  · simp [hpos.ne']

/-! ## Its plan -/

/-- The checks of a DIG command pass: its body leaves the device `e`, the keys `keys` in the command's hands, and steps enough to
absorb the message at 2 KiB each (R181). -/
def DigPlans (cid : Nat) (hr : HostRead) (s : State) (body : Cmd → Run DigPlan) (keys : List Key) (e : Dev) : Prop :=
  ∃ p : DigPlan, body (theCmd cid s) (outputPlaced cid hr s.toDev) = (.ok p, e) ∧ p.key = keys
    ∧ digTotal (theCmd cid s) ≤ 2048 * p.steps

/-- A started command in the context of its level, with its whole message before it. -/
def inDigContext (r : Region) (l : Lane) (lvl : Nat) (p : DigPlan) (fs : List Frag) (out : Bytes) (c : Cmd) : Cmd :=
  { c with
    stage := .running, waitOn := [], ready := none, scratch := [0, max p.steps 1, 0, p.pre, 0], loc := .digCtx r l lvl (max p.steps 1)
    taskFrags := fs, taskIn := [], taskOut := out, taken := p.key }

section
variable {code cid : Nat} {hr : HostRead} {r : Region} {l : Lane} {lvl : Nat} {body : Cmd → Run DigPlan} {keys : List Key}
  {e : Dev} {s : State}

theorem inFlight_of_startsDig (h : startsDig code cid hr s = true) : inFlight cid s.toDev = true := by
  rw [inFlight, (startsDig_iff.mp h).1]
  rfl

/-- A command that heads its queue and whose checks pass starts and enters its context (R181). -/
theorem entersDig_of_plans (hstarts : startsDig code cid hr s = true) (hheads : headsDig cid r l lvl s = true)
    (hgood : digGood cid s = true) (hplans : DigPlans cid hr s body keys e) (hlive : inFlight cid e = true) :
    Gives (digest code cid hr body s) (fun u => entersDig cid r l lvl keys (fragList cid hr s) s u = true
      ∧ (theCmd cid u).taskOut = (readOf (theCmd cid s) hr).outData) := by
  obtain ⟨hcmd, hcode, hstart, u, hchecks⟩ := startsDig_iff.mp hstarts
  obtain ⟨hloc, hup, hctx, hhead⟩ := headsDig_iff.mp hheads
  obtain ⟨-, -, -, hflag, -⟩ := digGood_iff.mp hgood
  obtain ⟨p, hbody, rfl, htotal⟩ := hplans
  have hrow : runDig code cid hr body s.toDev = digBody cid r l lvl hr (theCmd cid s) body s.toDev := by
    simp only [runDig, hcmd, hloc, hcode, hstart, hup, hctx, hhead, beq_self_eq_true, Bool.and_self, if_true]
  have hrun : runBody (do listChecks { theCmd cid s with flags := (theCmd cid s).flags &&& 0xFFFE } hr true; body (theCmd cid s))
      (outputPlaced cid hr s.toDev) = (.ok p, e) := by
    rw [flags_and_of_bit0 hflag, runBody, run_bind, (isCheck_listChecks ..).run_ok hchecks]
    exact hbody
  obtain ⟨f, hentered⟩ : ∃ f, digBody cid r l lvl hr (theCmd cid s) body s.toDev =
      onDig r f (onCmd cid (inDigContext r l lvl p (fragList cid hr s) (readOf (theCmd cid s) hr).outData) e) := by
    unfold digBody
    rw [← outputPlaced]
    simp only [hrun]
    exact ⟨_, rfl⟩
  obtain ⟨c, hc⟩ := Option.isSome_iff_exists.mp hlive
  have hin : cmdOf? (onDev (runDig code cid hr body) s).toDev cid =
      some (inDigContext r l lvl p (fragList cid hr s) (readOf (theCmd cid s) hr).outData c) := by
    rw [onDev_toDev, hrow, hentered, cmdOf?_of_hif (onDig_hif ..), cmdOf?_onCmd_self, hc]
    · rfl
    · exact fun _ => rfl
  have hsteps : param cid 72 8 s ≤ 2048 * max p.steps 1 := htotal.trans (Nat.mul_le_mul_left _ (le_max_left ..))
  rw [digest, gives_nextD, entersDig, theCmd, hin]
  simp [inDigContext, digAt, hsteps]

end

/-! ## Checks -/

section
variable {cid n : Nat} {s : State} (d : Dev)

theorem run_digForm (h : digGood cid s = true) : digForm (theCmd cid s) d = (.ok (), d) := by
  obtain ⟨hb, hzero, hlen, hflag, hmax, hlabel, hptr, -⟩ := digGood_iff.mp h
  have hb' : hB (theCmd cid s) = 0 := hb
  rw [zeroFrom_def] at hzero
  simp only [digForm, run_bind, need, param_def, zeroIn_def, hb', hzero, hlen, hflag, hmax, hlabel, hptr, beq_self_eq_true,
    Bool.not_false, decide_true, Bool.and_self, if_true, run_pure]

theorem run_needListAt (h : digGood cid s = true) : needListAt (theCmd cid s) d = (.ok (), d) := by
  obtain ⟨-, -, -, -, -, -, -, hat⟩ := digGood_iff.mp h
  exact run_need d _ _ hat

theorem toKeyGood_iff : toKeyGood cid n s = true ↔ param cid 81 1 s ≤ 1 ∧ newKeyLen (theCmd cid s) = some n ∧ param cid 82 1 s ≤ 2
    ∧ usageOk (param cid 80 1 s) (theCmd cid s).owner.world (BitVec.ofNat 16 (param cid 84 2 s)) = true ∧ param cid 86 2 s < 32
    ∧ 32 ≤ (theCmd cid s).outCap := by
  simp only [toKeyGood, Bool.and_eq_true, beq_iff_eq, decide_eq_true_eq, and_assoc]

theorem run_needToKey (h : toKeyGood cid n s = true) : needToKey (theCmd cid s) d = (.ok n, d) := by
  obtain ⟨hlife, hlen, hexport, husage, hdest, hcap⟩ := toKeyGood_iff.mp h
  simp only [needToKey, run_bind, need, param_def, hlife, hlen, hexport, husage, hdest, hcap, decide_true, Bool.and_self, if_true,
    run_pure]

/-- A DIG command's use of a resident key passes its checks (R86). -/
theorem run_fetchDig {h : Nat} {k : Key} {u : Option Nat} {f : Nat → Bool} (hk : names cid h k .digest u s = true)
    (halg : f k.alg = true) (hd : keyLookup d = keyLookup s.toDev) :
    fetch (digUse (theCmd cid s) u f) h d = (.ok k, keyFetched k d) :=
  fetchWith_of_names hk hd halg true

end

/-! ## Steps enough -/

theorem le_mul_ceilDiv (n : Nat) : n ≤ 2048 * ceilDiv n 2048 := by
  unfold ceilDiv
  omega

theorem le_mul_digSteps {rounds : Nat} (h : 1 ≤ rounds) (n cycles : Nat) : n ≤ 2048 * digSteps rounds n cycles :=
  calc n ≤ rounds * n := Nat.le_mul_of_pos_left n h
    _ ≤ 2048 * ceilDiv (rounds * n) 2048 := le_mul_ceilDiv _
    _ ≤ 2048 * digSteps rounds n cycles := Nat.mul_le_mul_left _ (le_max_left ..)

theorem algLen_pos_of_outAlgOk {a n : Nat} (hout : outAlgOk a = true) (hsecret : isSecret a = false) (h : algLen a = some n) :
    1 ≤ n := by
  have hlens : ∀ a ∈ [1, 2, 3, 8, 9, 0x10, 0x11], isSecret a = false → ∀ n ∈ algLen a, 1 ≤ n := by decide
  exact hlens a (by simpa [outAlgOk] using hout) hsecret n h

/-- A new key has at least one byte (R190). -/
theorem newKeyLen_pos {c : Cmd} {n : Nat} (h : newKeyLen c = some n) : 1 ≤ n := by
  unfold newKeyLen at h
  dsimp only at h
  split_ifs at h with hout hsecret hlen hzero
  · obtain rfl : par c 88 2 = n := by simpa using h
    unfold algLenOk at hlen
    split_ifs at hlen with hhmac hkmac
    · simp at hlen; omega
    · simp at hlen; omega
    · simp [isSecret, hhmac, hkmac] at hsecret
  · exact algLen_pos_of_outAlgOk (by simpa using hout) (by simpa using hsecret) h

theorem le_mul_kdfSteps (a k ll total : Nat) {n : Nat} (hn : 1 ≤ n) : total ≤ 2048 * kdfSteps a k ll total n := by
  unfold kdfSteps
  split
  next h _ =>
    refine le_mul_digSteps ?_ _ _
    have hpos : 0 < hashLen h := by cases h <;> decide
    exact Nat.div_pos (by omega) hpos
  next => exact le_mul_digSteps le_rfl _ _

/-! ## The commands -/

section
variable {cid n : Nat} {hr : HostRead} {k : Key} {c : Cmd} {s : State} (hc : theCmd cid s = c) (hgood : digGood cid s = true)
include hc hgood

/-- DIG_HASH with its digest as result (R188). -/
theorem digHash_plans (halg : isHashAlg (par c 64 1) = true) (ha : handA cid s = 0) (h65 : par c 65 1 = 0) (h66 : par c 66 2 = 0)
    (h80 : zeroPar c 80 90 = true)
    (hout : (isShake (par c 64 1) = true ∧ 1 ≤ par c 68 4 ∧ par c 68 4 ≤ 65536 ∧ par c 68 4 ≤ c.outCap)
      ∨ (isShake (par c 64 1) = false ∧ par c 68 4 = 0 ∧ digLen (par c 64 1) ≤ c.outCap)) :
    DigPlans cid hr s bodyDigHash [] (outputPlaced cid hr s.toDev) := by
  subst hc
  have ha' : hA (theCmd cid s) = 0 := ha
  rcases hout with ⟨hshake, hlo, hhi, hcap⟩ | ⟨hshake, hzero, hcap⟩
  · refine ⟨⟨digSteps 1 (digTotal (theCmd cid s)) (digCycles (par (theCmd cid s) 64 1) 0 0 (digTotal (theCmd cid s))
      (par (theCmd cid s) 68 4)), 0, []⟩, ?_, rfl, le_mul_digSteps le_rfl _ _⟩
    simp only [bodyDigHash, run_bind, need, run_digForm _ hgood, run_needListAt _ hgood, halg, ha', h65, h66, h80, hshake, hlo, hhi,
      hcap, beq_self_eq_true, zero_le, zero_ne_one, decide_true, Bool.and_self, if_true, if_false, run_pure]
  · refine ⟨⟨digSteps 1 (digTotal (theCmd cid s)) (digCycles (par (theCmd cid s) 64 1) 0 0 (digTotal (theCmd cid s))
      (digLen (par (theCmd cid s) 64 1))), 0, []⟩, ?_, rfl, le_mul_digSteps le_rfl _ _⟩
    simp only [bodyDigHash, run_bind, need, run_digForm _ hgood, run_needListAt _ hgood, halg, ha', h65, h66, h80, hshake, hzero, hcap,
      beq_self_eq_true, zero_le, zero_ne_one, decide_true, Bool.and_self, Bool.false_eq_true, if_true, if_false, run_pure]

/-- DIG_HASH that makes a key of its digest (R190). -/
theorem digHashKey_plans (halg : isHashAlg (par c 64 1) = true) (ha : handA cid s = 0) (h65 : par c 65 1 = 1) (h66 : par c 66 2 = 0)
    (h68 : par c 68 4 = 0) (hkey : toKeyGood cid n s = true) (hlen : isShake (par c 64 1) = true ∨ n ≤ digLen (par c 64 1)) :
    DigPlans cid hr s bodyDigHash [] (outputPlaced cid hr s.toDev) := by
  subst hc
  have ha' : hA (theCmd cid s) = 0 := ha
  have hfits : (isShake (par (theCmd cid s) 64 1) || decide (n ≤ digLen (par (theCmd cid s) 64 1))) = true := by simpa using hlen
  refine ⟨⟨digSteps 1 (digTotal (theCmd cid s)) ?cycles, ?pre, []⟩, ?run, rfl, le_mul_digSteps le_rfl _ _⟩
  case run =>
    simp only [bodyDigHash, run_bind, need, run_digForm _ hgood, run_needListAt _ hgood, run_needToKey _ hkey, hfits, halg, ha', h65,
      h66, h68, beq_self_eq_true, le_refl, decide_true, Bool.and_self, if_true, run_pure]
    rfl

/-- DIG_MAC_GEN and DIG_MAC_VER (R182, R188). -/
theorem digMac_plans (verify : Bool) (halg : isMacAlg (par c 64 1) = true) (h65 : par c 65 1 = 0) (h80 : zeroPar c 80 90 = true)
    (h66 : par c 66 2 ≤ (if isKmacAlg (par c 64 1) then 256 else 0)) (hlo : 4 ≤ par c 68 4)
    (hhi : par c 68 4 ≤ (if isKmacAlg (par c 64 1) then 64 else digLen (par c 64 1))) (hkalg : digKeyOk (par c 64 1) k.alg = true)
    (hcap : par c 68 4 ≤ c.outCap) (hk : names cid (handA cid s) k .digest (some (if verify then uMacVer else uMacGen)) s = true) :
    DigPlans cid hr s (bodyDigMac verify) [k] (oneFetched cid hr k s) := by
  subst hc
  have hfetch := run_fetchDig (outputPlaced cid hr s.toDev) hk hkalg keyLookup_outputPlaced
  have hlabel : (if isKmacAlg (par (theCmd cid s) 64 1) then decide (par (theCmd cid s) 66 2 ≤ 256)
      else par (theCmd cid s) 66 2 == 0) = true := by
    cases hkmac : isKmacAlg (par (theCmd cid s) 64 1) with
    | true => simpa [hkmac] using h66
    | false => simpa [hkmac] using h66
  refine ⟨⟨digSteps 1 (digTotal (theCmd cid s)) ?cycles, ?pre, [k]⟩, ?run, rfl, le_mul_digSteps le_rfl _ _⟩
  case run =>
    simp only [bodyDigMac, run_bind, run_digForm _ hgood, run_needListAt _ hgood, need, halg, hlabel, hlo, hhi, h65, h80, hcap,
      beq_self_eq_true, decide_true, Bool.and_self, if_true, run_pure]
    rw [show hA (theCmd cid s) = handA cid s from rfl, hfetch]
    rfl

/-- DIG_KDF (R191). -/
theorem digKdf_plans (halg : isMacAlg (par c 64 1) = true) (h65 : par c 65 1 = 0) (h68 : par c 68 4 = 0) (h66 : par c 66 2 ≤ 256)
    (hkey : toKeyGood cid n s = true) (hk : names cid (handA cid s) k .digest (some uDerive) s = true)
    (hkalg : digKeyOk (par c 64 1) k.alg = true) : DigPlans cid hr s bodyDigKdf [k] (oneFetched cid hr k s) := by
  subst hc
  have hfetch := run_fetchDig (outputPlaced cid hr s.toDev) hk hkalg keyLookup_outputPlaced
  obtain ⟨-, hnew, -⟩ := toKeyGood_iff.mp hkey
  have hpos : 1 ≤ n := newKeyLen_pos hnew
  refine ⟨⟨kdfSteps ?alg ?len ?label (digTotal (theCmd cid s)) n, ?pre, [k]⟩, ?run, rfl, le_mul_kdfSteps _ _ _ _ hpos⟩
  case run =>
    simp only [bodyDigKdf, run_bind, need, run_digForm _ hgood, run_needListAt _ hgood, run_needToKey _ hkey, halg, h65, h68, h66,
      beq_self_eq_true, decide_true, Bool.and_self, if_true, run_pure]
    rw [show hA (theCmd cid s) = handA cid s from rfl, hfetch]
    rfl

end

end Sys2Proof.Machine
end

section
/-! PROOF. How the digest engine reaches a message's fragments (R181, R184 to R187). -/

namespace Sys2Proof.Machine

/-! ## Bytes of a fragment -/

theorem length_flatMap_reverse_chunksAux {α : Type} {n : Nat} (hn : 1 ≤ n) (fuel : Nat) (l : List α) (hfuel : l.length ≤ fuel) :
    ((chunksAux n fuel l).flatMap List.reverse).length = l.length := by
  induction fuel generalizing l with
  | zero => simp [chunksAux, List.length_eq_zero_iff.mp (Nat.le_zero.mp hfuel)]
  | succ fuel ih =>
    cases l with
    | nil => rfl
    | cons x l =>
      have hrest : ((x :: l).drop n).length ≤ fuel := by
        rw [List.length_drop]
        omega
      rw [chunksAux, List.flatMap_cons, List.length_append, ih _ hrest, List.length_reverse, ← List.length_append,
        List.take_append_drop]

theorem length_regroup (g : Nat) (b : Bytes) : (regroup g b).length = b.length := by
  unfold regroup
  split
  · rfl
  next hg => exact length_flatMap_reverse_chunksAux (by omega) _ _ le_rfl

/-- What a fragment of kind 0 or 1 adds to its message (R186, R187). -/
def fragBytes (f : Frag) : Bytes := regroup (fragGroup f) (fit f.data (fragLen f))

theorem length_fragBytes (f : Frag) : (fragBytes f).length = fragLen f := by rw [fragBytes, length_regroup, fit_length]

/-! ## One fragment -/

/-- A command once the fragment at the head of its list has given `b` and the keys `ks`. -/
def fragReached (fs : List Frag) (b : Bytes) (ks : List Key) (c : Cmd) : Cmd :=
  { c with
    taskFrags := fs, taskIn := c.taskIn ++ b, taken := c.taken ++ ks
    scratch := [digAt c 0, digAt c 1, digAt c 2, digAt c 3, digAt c 4 + 1] }

theorem fragsForm_iff {c : Cmd} : fragsForm c = true ↔
    (∀ f ∈ c.taskFrags, f.bytes.isEmpty = false ∧ f.err = none) ∧ digAt c 4 + c.taskFrags.length ≤ 65535
      ∧ (∀ b ∈ c.taskFrags.mapIdx (fun i => fragOk (isHost c) (digAt c 4 + c.taskFrags.length) (digAt c 4 + i)), b = true)
      ∧ (∀ f ∈ c.taskFrags, fragLenOk f = true) ∧ c.taskIn.length + (c.taskFrags.map fragLen).sum = digTotal c := by
  simp only [fragsForm, Bool.and_eq_true, List.all_eq_true, Bool.not_eq_true', Option.isNone_iff_eq_none, decide_eq_true_eq, beq_iff_eq,
    id_eq, and_assoc]

section
variable {c : Cmd} {f : Frag} {fs : List Frag}

/-- A list that is well formed is so at its head, and stays so once the head is reached. -/
theorem fragsForm_cons (h : fragsForm c = true) (hfs : c.taskFrags = f :: fs) :
    (f.bytes.isEmpty = false ∧ f.err = none) ∧ digAt c 4 ≠ 65535 ∧ fragOk (isHost c) (digAt c 4 + 1 + fs.length) (digAt c 4) f = true
      ∧ fragLenOk f = true ∧ c.taskIn.length + fragLen f ≤ digTotal c
      ∧ ∀ b ks, b.length = fragLen f → fragsForm (fragReached fs b ks c) = true := by
  obtain ⟨hread, hcount, hok, hlen, hsum⟩ := fragsForm_iff.mp h
  rw [hfs] at hread hcount hok hlen hsum
  have hplace : digAt c 4 + (f :: fs).length = digAt c 4 + 1 + fs.length := by rw [List.length_cons]; omega
  rw [hplace] at hcount hok
  simp only [List.mapIdx_cons, List.forall_mem_cons, List.map_cons, List.sum_cons, Nat.add_zero] at hread hok hlen hsum
  refine ⟨hread.1, by omega, hok.1, hlen.1, by omega, fun b ks hb => fragsForm_iff.mpr ⟨hread.2, hcount, ?_, hlen.2, ?_⟩⟩
  · have hshift : (fun i => fragOk (isHost c) (digAt c 4 + 1 + fs.length) (digAt c 4 + (i + 1))) =
        fun i => fragOk (isHost c) (digAt c 4 + 1 + fs.length) (digAt c 4 + 1 + i) :=
      funext fun i => by rw [show digAt c 4 + (i + 1) = digAt c 4 + 1 + i by omega]
    exact hshift ▸ hok.2
  · have htotal : digTotal (fragReached fs b ks c) = digTotal c := rfl
    rw [htotal, ← hsum]
    simp only [fragReached, List.length_append, hb]
    omega

/-- A fragment of kind 0 or 1 gives its bytes, reversed within their groups (R187). -/
theorem run_takeOne_plain (h : fragsForm c = true) (hfs : c.taskFrags = f :: fs) (hkind : fragKind f ≠ 2) (d : Dev) :
    takeOne c f (digAt c 4 + 1 + fs.length) d = (.ok (fragBytes f, []), d) := by
  obtain ⟨⟨hbytes, herr⟩, hplace, hok, hlen, hroom, -⟩ := fragsForm_cons h hfs
  simp [takeOne, need, hbytes, herr, hplace, hok, hlen, hroom, hkind, fragBytes]

/-- A fragment of kind 2 gives the bits of the key that it names, in a command that makes a key (R186, R189). -/
theorem run_takeOne_key {k : Key} {d e : Dev} (h : fragsForm c = true) (hfs : c.taskFrags = f :: fs) (hkind : fragKind f = 2)
    (hmakes : digMakesKey c = true) (hlen : fragLen f = k.lenBytes)
    (hfetch : fetch (digUse c (some uDerive) (fun _ => true)) (fragSource f) d = (.ok k, e)) :
    takeOne c f (digAt c 4 + 1 + fs.length) d = (.ok (k.mat, [k]), e) := by
  obtain ⟨⟨hbytes, herr⟩, hplace, hok, hlenOk, hroom, -⟩ := fragsForm_cons h hfs
  rw [hlen] at hroom
  simp [takeOne, run_bind, need, hbytes, herr, hplace, hok, hlenOk, hlen, hroom, hkind, hmakes, hfetch]

/-- The command has what its next fragment gave. -/
theorem reachOne_of_takeOne {cid : Nat} {b : Bytes} {ks : List Key} {d e : Dev} (hc : cmdOf? d cid = some c)
    (hfs : c.taskFrags = f :: fs) (htake : takeOne c f (digAt c 4 + 1 + fs.length) d = (.ok (b, ks), e)) :
    reachOne cid d = onCmd cid (fragReached fs b ks) e := by
  simp only [reachOne, hc, hfs, runBody, htake]
  rfl

end

/-! ## The fragments that a step needs -/

section
variable {cid want fuel : Nat} {c : Cmd} {d : Dev} (hc : cmdOf? d cid = some c)
include hc

theorem reach_enough (h : want ≤ c.taskIn.length ∨ c.taskFrags = []) : reach cid want fuel d = d := by
  cases fuel with
  | zero => rfl
  | succ fuel =>
    have hstop : want ≤ c.taskIn.length ∨ c.ready.isSome ∨ !c.waitOn.isEmpty ∨ c.taskFrags.isEmpty := by
      rcases h with h | h
      · exact .inl h
      · simp [h]
    simp only [reach, hc, if_pos hstop]

theorem reach_more (h : c.taskIn.length < want) (hready : c.ready = none) (hwait : c.waitOn = []) (hfs : c.taskFrags ≠ []) :
    reach cid want (fuel + 1) d = reach cid want fuel (reachOne cid d) := by
  simp only [reach, hc, hready, hwait, hfs, Nat.not_le.mpr h, Option.isSome_none, List.isEmpty_nil, List.isEmpty_iff, Bool.not_true,
    Bool.false_eq_true, or_self, if_false]

end

/-- A command with another list before it, other bytes, keys and progress. -/
def withProgress (fs : List Frag) (b : Bytes) (ks : List Key) (sc : List Nat) (c : Cmd) : Cmd :=
  { c with taskFrags := fs, taskIn := b, taken := ks, scratch := sc }

/-- How a command stands that has reached more of its fragments. -/
def FurtherOn (c k : Cmd) : Prop := ∃ fs b ks sc, k = withProgress fs b ks sc c

theorem FurtherOn.refl (c : Cmd) : FurtherOn c c := ⟨_, _, _, _, rfl⟩

theorem FurtherOn.trans {a b c : Cmd} (h : FurtherOn a b) (h' : FurtherOn b c) : FurtherOn a c := by
  obtain ⟨_, _, _, _, rfl⟩ := h
  obtain ⟨_, _, _, _, rfl⟩ := h'
  exact ⟨_, _, _, _, rfl⟩

section
variable {c k : Cmd} (h : FurtherOn c k)
include h

theorem FurtherOn.cid : k.cid = c.cid := by obtain ⟨_, _, _, _, rfl⟩ := h; rfl
theorem FurtherOn.code : k.code = c.code := by obtain ⟨_, _, _, _, rfl⟩ := h; rfl
theorem FurtherOn.loc : k.loc = c.loc := by obtain ⟨_, _, _, _, rfl⟩ := h; rfl
theorem FurtherOn.stage : k.stage = c.stage := by obtain ⟨_, _, _, _, rfl⟩ := h; rfl
theorem FurtherOn.ready : k.ready = c.ready := by obtain ⟨_, _, _, _, rfl⟩ := h; rfl
theorem FurtherOn.waitOn : k.waitOn = c.waitOn := by obtain ⟨_, _, _, _, rfl⟩ := h; rfl
theorem FurtherOn.taskOut : k.taskOut = c.taskOut := by obtain ⟨_, _, _, _, rfl⟩ := h; rfl
theorem FurtherOn.par (o n : Nat) : Machine.par k o n = Machine.par c o n := by obtain ⟨_, _, _, _, rfl⟩ := h; rfl

end

theorem furtherOn_fragReached (fs : List Frag) (b : Bytes) (ks : List Key) (c : Cmd) : FurtherOn c (fragReached fs b ks c) :=
  ⟨_, _, _, _, rfl⟩

theorem fragsPlain_iff {c : Cmd} : fragsPlain c = true ↔ fragsForm c = true ∧ ∀ f ∈ c.taskFrags, fragKind f ≠ 2 := by
  simp [fragsPlain]

/-- A message without keys: the fragments that a step needs are reached, the message stays what it was, and so does the device but for
its commands. -/
theorem reach_plain {cid : Nat} (want fuel : Nat) {c : Cmd} {d : Dev} (hc : cmdOf? d cid = some c) (hplain : fragsPlain c = true)
    (hready : c.ready = none) (hwait : c.waitOn = []) (hfuel : c.taskFrags.length ≤ fuel) :
    ∃ k, cmdOf? (reach cid want fuel d) cid = some k ∧ FurtherOn c k ∧ fragsPlain k = true ∧ k.taken = c.taken
      ∧ messageOf k = messageOf c ∧ (want ≤ k.taskIn.length ∨ k.taskFrags = [])
      ∧ reach cid want fuel d = onHif (fun _ => (reach cid want fuel d).hif) d := by
  induction fuel generalizing c d with
  | zero => exact ⟨c, hc, .refl c, hplain, rfl, rfl, .inr (List.length_eq_zero_iff.mp (Nat.le_zero.mp hfuel)), rfl⟩
  | succ fuel ih =>
    by_cases hdone : want ≤ c.taskIn.length ∨ c.taskFrags = []
    · rw [reach_enough hc hdone]
      exact ⟨c, hc, .refl c, hplain, rfl, rfl, hdone, rfl⟩
    · obtain ⟨hwant, hsome⟩ := not_or.mp hdone
      obtain ⟨f, fs, hfs⟩ := List.exists_cons_of_ne_nil hsome
      obtain ⟨hform, hkinds⟩ := fragsPlain_iff.mp hplain
      obtain ⟨hkind, hkinds'⟩ := List.forall_mem_cons.mp (hfs ▸ hkinds)
      obtain ⟨-, -, -, -, -, hnext⟩ := fragsForm_cons hform hfs
      rw [reach_more hc (Nat.not_le.mp hwant) hready hwait hsome, reachOne_of_takeOne hc hfs (run_takeOne_plain hform hfs hkind d)]
      have hc' : cmdOf? (onCmd cid (fragReached fs (fragBytes f) []) d) cid = some (fragReached fs (fragBytes f) [] c) := by
        rw [cmdOf?_onCmd_self, hc]
        · rfl
        · exact fun _ => rfl
      obtain ⟨k, hk, hfurther, hkplain, htaken, hmessage, henough, hreach⟩ := ih hc'
        (fragsPlain_iff.mpr ⟨hnext _ [] (length_fragBytes f), hkinds'⟩) hready hwait
        (Nat.le_of_succ_le_succ (by rwa [hfs, List.length_cons] at hfuel))
      refine ⟨k, hk, (furtherOn_fragReached ..).trans hfurther, hkplain, ?_, ?_, henough, hreach⟩
      · simp [htaken, fragReached]
      · rw [hmessage]
        simp [messageOf, fragReached, hfs, fragBytes]

end Sys2Proof.Machine
end

section
/-! PROOF. How a step of a digest lane ends (R181, R187, R198). -/

namespace Sys2Proof.Machine

theorem digContext_loc {d : Dev} {r : Region} {l : Lane} {v n : Nat} {c : Cmd} (h : digContext d r l v = some (c, n)) :
    c.loc = .digCtx r l v n := by
  obtain ⟨x, -, hx⟩ := List.exists_of_findSome?_eq_some h
  split at hx
  next r' l' v' n' hloc =>
    split at hx
    next hat =>
      cases hx
      obtain ⟨⟨rfl, rfl⟩, rfl⟩ : (r' = r ∧ l' = l) ∧ v' = v := by simpa using hat
      exact hloc
    next => cases hx
  next => cases hx

/-! ## The lane -/

theorem onDig_dig (r : Nat) (f : DigS → DigS) (d : Dev) : (regionOf (onDig r f d) r).dig = f (regionOf d r).dig := by
  rw [onDig, regionOf_onRegion_self]

/-- What the end of a step changes beside its command: the bytes absorbed are counted, and the lane goes on with its highest
context. -/
def laneTurn (r : Region) (l : Lane) (m : Nat) (d : Dev) : Dev :=
  let d2 := onDig r (fun g => { g with bytes := g.bytes + BitVec.ofNat 64 m }) d
  onDig r (setStep l (digTop d2 r l)) d2

section
variable (r : Region) (l : Lane) (m : Nat) (d : Dev)

theorem laneTurn_hif : (laneTurn r l m d).hif = d.hif := rfl
theorem laneTurn_ks : (laneTurn r l m d).ks = d.ks := rfl
theorem laneTurn_nvm : (laneTurn r l m d).nvm = d.nvm := rfl

theorem setStep_counts (v : Option Nat) (g : DigS) : (setStep l v g).cmds = g.cmds ∧ (setStep l v g).bytes = g.bytes := by
  unfold setStep
  split <;> exact ⟨rfl, rfl⟩

theorem laneTurn_counts : (regionOf (laneTurn r l m d) r).dig.cmds = (regionOf d r).dig.cmds
    ∧ (regionOf (laneTurn r l m d) r).dig.bytes = (regionOf d r).dig.bytes + BitVec.ofNat 64 m := by
  simp only [laneTurn, onDig_dig, setStep_counts, and_self]

end

/-! ## The end of a command -/

section
variable {r : Region} {l : Lane} {v n : Nat} {k : Cmd} {res : Res} {d : Dev}

theorem countEnd_digCtx (hloc : k.loc = .digCtx r l v n) (hcode : k.code / 256 = 5) (d : Dev) :
    countEnd k d = onDig r (fun g => { g with cmds := g.cmds + 1 }) d := by
  simp only [countEnd, hloc, hcode, if_true]

/-- A command with its outcome formed ends with it, and its engine counts it (R188, R198). -/
theorem digGive_ends (hloc : k.loc = .digCtx r l v n) (hk : cmdOf? d k.cid = some k) (hrun : k.stage = .running)
    (hcode : k.code / 256 = 5) (hready : k.ready = some res) : (cmdOf? (digGive r k d) k.cid).map (·.stage) = some (.done res)
      ∧ (regionOf (digGive r k d) r).dig.cmds = (regionOf d r).dig.cmds + 1
      ∧ (regionOf (digGive r k d) r).dig.bytes = (regionOf d r).dig.bytes
      ∧ (digGive r k d).ks = d.ks ∧ (digGive r k d).nvm = d.nvm := by
  obtain ⟨g, hg, hend⟩ : ∃ g : DigS → DigS, (∀ x, (g x).cmds = x.cmds ∧ (g x).bytes = x.bytes) ∧ digGive r k d =
      onDig r g (onCmd k.cid (fun c => { c with taken := [], taskIn := [], taskFrags := [], taskOut := [] }) (finish k.cid res d)) := by
    rw [digGive, hready]
    refine ⟨_, ?_, rfl⟩
    exact fun _ => ⟨rfl, rfl⟩
  have hcount : ∀ f : Cmd → Cmd, (regionOf (onCmd k.cid f (finish k.cid res d)) r).dig =
      { (regionOf d r).dig with cmds := (regionOf d r).dig.cmds + 1 } := fun f => by
    rw [regionOf, onCmd_die, finish_of_running res hk hrun, countEnd_digCtx hloc hcode, ← regionOf, onDig_dig]
    rfl
  rw [hend]
  refine ⟨?_, ?_, ?_, ?_, ?_⟩
  · rw [cmdOf?_of_hif (onDig_hif ..), cmdOf?_onCmd_self, Option.map_map]
    · exact finish_stage d res hk (by simp [isDone, hrun])
    · exact fun _ => rfl
  · rw [onDig_dig, (hg _).1, hcount]
  · rw [onDig_dig, (hg _).2, hcount]
  · rw [finish_eq]
    rfl
  · rw [finish_eq]
    rfl

end

/-! ## The command of the step in progress -/

/-- A command whose step begins waits for nothing. -/
def unwaited (c : Cmd) : Cmd := { c with waitOn := [] }

/-- A command whose outcome is formed and not yet given. -/
def outcomeFormed (res : Res) (c : Cmd) : Cmd := { c with ready := some res }

/-- A command whose step has ended with `m` bytes absorbed stands in its context with the steps left. -/
def stepCounted (r : Region) (l : Lane) (v n m : Nat) (k c : Cmd) : Cmd :=
  { c with loc := .digCtx r l v (n - 1), scratch := [m, digAt k 1, digAt k 2 + 1, digAt k 3, digAt k 4] }

section
variable {cid want n : Nat} {c k : Cmd} {res : Res} {d e : Dev}

theorem digStep_more (hn : 1 < n) (hk : cmdOf? (reach cid (stepTo c n) (c.taskFrags.length + 1) (onCmd cid unwaited d)) cid = some k) :
    digStep cid n c d = reach cid (stepTo c n) (c.taskFrags.length + 1) (onCmd cid unwaited d) := by
  unfold unwaited at hk
  simp only [digStep, Nat.not_le.mpr hn, if_false, hk, decide_false, Bool.false_and, Bool.false_eq_true]
  rfl

/-- The device once the whole list of a command is reached with its last step. -/
def allReached (c : Cmd) (d : Dev) : Dev := reach c.cid (digTotal c + 1) (c.taskFrags.length + 1) (onCmd c.cid unwaited d)

theorem digStep_last (hn : n ≤ 1) (hk : cmdOf? (allReached c d) c.cid = some k) (hready : k.ready = none) (hwait : k.waitOn = [])
    (hresult : digResult k (allReached c d) = (.ok res, e)) :
    digStep c.cid n c d = onCmd c.cid (outcomeFormed res) e := by
  have hreached : (onCmd c.cid (fun c => { c with waitOn := [] }) d |> reach c.cid (digTotal c + 1) (c.taskFrags.length + 1)) =
    allReached c d := rfl
  simp only [digStep, stepTo, hn, if_true, hreached, hk, hready, hwait, decide_true, Option.isNone_none, List.isEmpty_nil,
    Bool.and_self, digFinish, runBody, hresult]
  rfl

end

section
variable {r : Region} {l : Lane} {v n : Nat} {c k : Cmd} {d d1 : Dev} (hrun : digRunning d r l = some v)
  (hctx : digContext d r l v = some (c, n))
include hrun hctx

theorem digestStepEnd_gives (hd1 : (if c.ready.isSome then d else digStep c.cid n c d) = d1) (hk : cmdOf? d1 c.cid = some k)
    (hready : k.ready.isSome = true) :
    digestStepEnd r l d = laneTurn r l (min (stepTo c n) k.taskIn.length - digAt c 0) (digGive r k d1) := by
  simp only [digestStepEnd, hrun, hctx, Option.bind_some, Option.map_some, hd1, hk, Option.getD_some, hready, if_true]
  rfl

theorem digestStepEnd_goesOn (hd1 : digStep c.cid n c d = d1) (hc : c.ready = none) (hk : cmdOf? d1 c.cid = some k)
    (hready : k.ready = none) (hwait : k.waitOn = []) : digestStepEnd r l d = laneTurn r l (min (stepTo c n) k.taskIn.length - digAt c 0)
      (onCmd c.cid (stepCounted r l v n (min (stepTo c n) k.taskIn.length) k) d1) := by
  simp only [digestStepEnd, hrun, hctx, Option.bind_some, Option.map_some, hc, Option.isSome_none, Bool.false_eq_true, if_false, hd1,
    hk, Option.getD_some, hready, hwait, List.isEmpty_nil, if_true]
  rfl

end

/-! ## Steps that absorb -/

theorem absorbs_iff {c : Cmd} {r : Region} {l : Lane} {v n : Nat} {s : State} : absorbs c r l v n s = true ↔
    digRunning s.toDev r l = some v ∧ digContext s.toDev r l v = some (c, n) ∧ c.ready = none ∧ cmdOf? s.toDev c.cid = some c
      ∧ c.stage = .running := by
  simp [absorbs, and_assoc]

theorem cmdOf?_unwaited {c : Cmd} {d : Dev} (hc : cmdOf? d c.cid = some c) :
    cmdOf? (onCmd c.cid unwaited d) c.cid = some (unwaited c) := by
  rw [cmdOf?_onCmd_self, hc]
  · rfl
  · exact fun _ => rfl

theorem stepTo_le (c : Cmd) (n : Nat) : stepTo c n ≤ digTotal c := by
  unfold stepTo absorbedBy
  split
  · exact le_rfl
  · exact min_le_left ..

/-- A message without keys whose list is all reached is complete (R185, R187). -/
theorem reached_length {k : Cmd} (hplain : fragsPlain k = true) (hnil : k.taskFrags = []) :
    k.taskIn = messageOf k ∧ k.taskIn.length = digTotal k := by
  obtain ⟨-, -, -, -, hsum⟩ := fragsForm_iff.mp (fragsPlain_iff.mp hplain).1
  rw [hnil] at hsum
  exact ⟨by simp [messageOf, hnil], by simpa using hsum⟩

section
variable {c : Cmd} {r : Region} {l : Lane} {v n : Nat} {s : State} (habs : absorbs c r l v n s = true)
include habs

/-- A step that is not the last absorbs its part of the message (R181, R187). -/
theorem digestStepEnd_absorbs (hn : 1 < n) (hplain : fragsPlain c = true) :
    Gives (execDigestStepEnd r l s) (fun u => (theCmd c.cid u).loc = .digCtx r l v (n - 1) ∧ (theCmd c.cid u).ready = none
      ∧ digAt (theCmd c.cid u) 0 = stepTo c n ∧ messageOf (theCmd c.cid u) = messageOf c
      ∧ (regionOf u.toDev r).dig.bytes = (regionOf s.toDev r).dig.bytes + BitVec.ofNat 64 (stepTo c n - digAt c 0)) := by
  obtain ⟨hrun, hctx, hready, hc, -⟩ := absorbs_iff.mp habs
  obtain ⟨k, hk, hfurther, hkplain, -, hmessage, henough, hreach⟩ := reach_plain (stepTo c n) (c.taskFrags.length + 1)
    (cmdOf?_unwaited hc) (c := unwaited c) hplain hready rfl (Nat.le_succ _)
  have hkready : k.ready = none := hfurther.ready.trans hready
  have hheld : stepTo c n ≤ k.taskIn.length := by
    rcases henough with h | h
    · exact h
    · rw [(reached_length hkplain h).2, digTotal, hfurther.par]
      exact stepTo_le c n
  have hrow := digestStepEnd_goesOn hrun hctx (digStep_more hn hk) hready hk hkready hfurther.waitOn
  rw [Nat.min_eq_left hheld] at hrow
  have hcmd : cmdOf? (digestStepEnd r l s.toDev) c.cid = some (stepCounted r l v n (stepTo c n) k k) := by
    rw [hrow, cmdOf?_of_hif (laneTurn_hif ..), cmdOf?_onCmd_self, hk]
    · rfl
    · exact fun _ => rfl
  rw [execDigestStepEnd, gives_nextD, theCmd, onDev_toDev, hcmd]
  refine ⟨rfl, hkready, rfl, hmessage, ?_⟩
  rw [hrow, (laneTurn_counts ..).2, regionOf, onCmd_die, hreach]
  rfl

/-- With the last step the whole list is reached, and the command ends with its result (R181, R188). -/
theorem digestStepEnd_ends {k : Cmd} {res : Res} {e : Dev} (hn : n ≤ 1) (hcode : c.code / 256 = 5)
    (hk : cmdOf? (allReached c s.toDev) c.cid = some k) (hfurther : FurtherOn (unwaited c) k) (hall : k.taskIn.length = digTotal c)
    (hresult : digResult k (allReached c s.toDev) = (.ok res, e)) (hhif : e.hif = (allReached c s.toDev).hif) (hdie : e.die = s.die) :
    (cmdOf? (digestStepEnd r l s.toDev) c.cid).map (·.stage) = some (.done res) ∧ (digestStepEnd r l s.toDev).ks = e.ks
      ∧ (digestStepEnd r l s.toDev).nvm = e.nvm ∧ (regionOf (digestStepEnd r l s.toDev) r).dig.bytes =
        (regionOf s.toDev r).dig.bytes + BitVec.ofNat 64 (digTotal c - digAt c 0) := by
  obtain ⟨hrun, hctx, hready, -, hstage⟩ := absorbs_iff.mp habs
  have hstep := digStep_last hn hk (hfurther.ready.trans hready) hfurther.waitOn hresult
  have hcid : (outcomeFormed res k).cid = c.cid := hfurther.cid
  have hformed : cmdOf? (onCmd c.cid (outcomeFormed res) e) c.cid = some (outcomeFormed res k) := by
    rw [cmdOf?_onCmd_self, cmdOf?_of_hif hhif, hk]
    · rfl
    · exact fun _ => rfl
  have hrow := digestStepEnd_gives hrun hctx (by rw [hready]; exact hstep) hformed rfl
  rw [stepTo, if_pos hn, show (outcomeFormed res k).taskIn.length = digTotal c from hall, Nat.min_self] at hrow
  have hat : cmdOf? (onCmd c.cid (outcomeFormed res) e) (outcomeFormed res k).cid = some (outcomeFormed res k) := by
    rw [hcid]
    exact hformed
  have hloc : c.loc = .digCtx r l v n := digContext_loc hctx
  obtain ⟨hdone, -, hbytes, hks, hnvm⟩ := digGive_ends (k := outcomeFormed res k) (hfurther.loc.trans hloc) hat
    (hfurther.stage.trans hstage) (hfurther.code ▸ hcode) rfl
  rw [hcid] at hdone
  refine ⟨?_, ?_, ?_, ?_⟩
  · rw [hrow, cmdOf?_of_hif (laneTurn_hif ..)]
    exact hdone
  · rw [hrow, laneTurn_ks, hks]
    rfl
  · rw [hrow, laneTurn_nvm, hnvm]
    rfl
  · rw [hrow, (laneTurn_counts ..).2, hbytes, regionOf, onCmd_die, hdie]
    rfl

end

/-- A command whose outcome is formed already ends with it at its step's end (R181). -/
theorem digestStepEnd_formed {c : Cmd} {r : Region} {l : Lane} {v n : Nat} {res : Res} {s : State}
    (hrun : digRunning s.toDev r l = some v) (hctx : digContext s.toDev r l v = some (c, n)) (hready : c.ready = some res)
    (hc : cmdOf? s.toDev c.cid = some c) (hstage : c.stage = .running) (hcode : c.code / 256 = 5) :
    EndsWith (execDigestStepEnd r l s) c.cid res
      (fun u => (regionOf u.toDev r).dig.cmds = (regionOf s.toDev r).dig.cmds + 1) := by
  have hsome : c.ready.isSome = true := by rw [hready]; rfl
  have hrow := digestStepEnd_gives hrun hctx (if_pos hsome) hc hsome
  obtain ⟨hdone, hcmds, -⟩ := digGive_ends (digContext_loc hctx) hc hstage hcode hready
  refine ⟨stage_theCmd_of_cmdOf? ?_, ?_⟩
  · rw [onDev_toDev, hrow, cmdOf?_of_hif (laneTurn_hif ..)]
    exact hdone
  · simp only [onDev_toDev]
    rw [hrow, (laneTurn_counts ..).1, hcmds]

/-! ## Queues -/

/-- A command that is put at the tail stands there, and is the one with its number. -/
theorem cmdOf?_atTail {cid : Nat} {x : Cmd} {d e : Dev} (hx : x.cid = cid)
    (he : e.hif.cmds = d.hif.cmds.filter (fun y => y.cid != cid) ++ [x]) :
    cmdOf? e cid = some x ∧ e.hif.cmds.getLast?.map (·.cid) = some cid := by
  have hothers : (d.hif.cmds.filter (fun y => y.cid != cid)).find? (fun y => y.cid == cid) = none := by
    simp [List.find?_eq_none]
  refine ⟨?_, ?_⟩
  · simp [cmdOf?, he, List.find?_append, hothers, hx]
  · simp [he, hx]

/-- A waiting command moves to the tail of the next higher queue (R181). -/
theorem digestPromote_moves {cid lvl : Nat} {r : Region} {l : Lane} {c : Cmd} {d : Dev} (hc : cmdOf? d cid = some c)
    (hloc : c.loc = .digQ r l lvl) (hwait : c.stage = .waiting) (hlvl : lvl < 3) :
    cmdOf? (digestPromote cid d) cid = some { c with loc := .digQ r l (lvl + 1) }
      ∧ (digestPromote cid d).hif.cmds.getLast?.map (·.cid) = some cid := by
  have hcid : c.cid = cid := by simpa using List.find?_some hc
  refine cmdOf?_atTail hcid (d := d) ?_
  simp [digestPromote, hc, hloc, isWaiting, hwait, hlvl]

end Sys2Proof.Machine
end

section
/-! PROOF. Keys made by the digest engine from keys that it has taken (R92, R94, R190). -/

namespace Sys2Proof.Machine

/-! ## Room for a key -/

/-- The key stores of two devices differ in nothing that a new key's room depends on: the order of their keys may differ (R94, R95). -/
structure SameRoom (d e : Dev) : Prop where
  keys : e.ks.keys.Perm d.ks.keys
  quotas : e.ks.dirQuota = d.ks.dirQuota
  spillKey : e.ks.spillKey = d.ks.spillKey
  keyDue : e.ks.keyDue = d.ks.keyDue

section
variable {d e : Dev}

theorem SameRoom.of_ks (h : e.ks = d.ks) : SameRoom d e := ⟨by rw [h], by rw [h], by rw [h], by rw [h]⟩

theorem count_perm {α : Type} {l l' : List α} (h : l.Perm l') (p : α → Bool) : count l p = count l' p := (h.filter p).length_eq

theorem SameRoom.dirRoom (h : SameRoom d e) (o : Owner) : Machine.dirRoom e o = Machine.dirRoom d o := by
  unfold Machine.dirRoom dirQuota
  rw [count_perm h.keys, count_perm h.keys, h.quotas]

theorem SameRoom.slotsFree (h : SameRoom d e) : Machine.slotsFree e = Machine.slotsFree d := by
  unfold Machine.slotsFree slotsUsed
  rw [((h.keys.filter _).map _).sum_eq, h.spillKey]

/-- A fetch moves its key to the most recently used end, which leaves the room. -/
theorem sameRoom_of_keyFetched (k : Key) (h : e.ks = (keyFetched k d).ks) : SameRoom d e := by
  have hkeys : e.ks.keys = d.ks.keys.filter (fun x => x.entry != k.entry) ++ d.ks.keys.filter (fun x => !(x.entry != k.entry)) := by
    simp only [h, keyFetched, keyTouch, onKs_ks, bne, Bool.not_not]
  have hquotas : e.ks.dirQuota = d.ks.dirQuota := by rw [h]; rfl
  have hspill : e.ks.spillKey = d.ks.spillKey := by rw [h]; rfl
  have hdue : e.ks.keyDue = d.ks.keyDue := by rw [h]; rfl
  exact ⟨hkeys ▸ List.filter_append_perm .., hquotas, hspill, hdue⟩

end

theorem run_needKeyRoom {o : Owner} {life len : Nat} {d : Dev} (hlife : life ≤ 1) (hdir : dirRoom d o = true)
    (hdue : d.ks.keyDue = false) (hfree : spanOf len ≤ slotsFree d) : needKeyRoom o life len false d = (.ok (), d) := by
  have hvolatile : (life == 2) = false := by
    rw [beq_eq_false_iff_ne]
    omega
  simp [needKeyRoom, run_bind, need, needHandleKey, makeRoom, hdir, hdue, hfree, hvolatile]

/-- Room for a key that a command's owner may make, neither pinned nor persistent (R94, R95). -/
theorem room_of_roomFor {cid life len : Nat} {s : State} {e : Dev} (h : roomFor cid life len false s = true)
    (hsame : SameRoom s.toDev e) : dirRoom e (theCmd cid s).owner = true ∧ e.ks.keyDue = false ∧ spanOf len ≤ slotsFree e := by
  simp only [roomFor, Bool.and_eq_true, Bool.not_eq_true', decide_eq_true_eq] at h
  obtain ⟨⟨⟨⟨hdue, hdir⟩, -⟩, -⟩, hfree⟩ := h
  rw [hsame.dirRoom, hsame.keyDue, hsame.slotsFree]
  exact ⟨hdir, hdue, hfree⟩

/-! ## The derived key -/

/-- The material of a derived key: a TDES key has odd parity (R190). -/
def derivedMat (c : Cmd) (mat : Bytes) : Bytes := if isTdes (par c 80 1) then oddParity mat else mat

/-- What a DIG command gives the key that it derives from one key (R92, R190). -/
def derivedSpec (c : Cmd) (k : Key) (mat : Bytes) : NewKey := {
  owner := c.owner, hint := par c 83 1, alg := par c 80 1, life := par c 81 1, usage := BitVec.ofNat 16 (par c 84 2)
  export_ := min (par c 82 1) k.export_, pinned := false, depth := min 15 (k.depth + 1), derived := true
  ancCeremony := k.ancCeremony, ancImported := k.ancImported, ancGenerated := k.ancGenerated
  dest := BitVec.ofNat 16 (par c 86 2), session := c.session, mat := derivedMat c mat }

theorem length_derivedMat (c : Cmd) (mat : Bytes) : (derivedMat c mat).length = mat.length := by
  unfold derivedMat oddParity
  split
  · exact List.length_map _
  · rfl

/-- The key that a DIG command derives, and the device that then holds it. -/
def keyDerived (c : Cmd) (k : Key) (mat : Bytes) (d : Dev) : Key × Dev := makeKey (derivedSpec c k mat) d

theorem run_deriveTo {c : Cmd} {k : Key} {mat : Bytes} {d : Dev} (hlife : par c 81 1 ≤ 1) (hdir : dirRoom d c.owner = true)
    (hdue : d.ks.keyDue = false) (hfree : spanOf mat.length ≤ slotsFree d) :
    deriveTo c [k] mat d = (.ok (resOut (keyRecord (keyDerived c k mat d).2 (keyDerived c k mat d).1)), (keyDerived c k mat d).2) := by
  have hroom : needKeyRoom c.owner (par c 81 1) (derivedMat c mat).length false d = (.ok (), d) :=
    run_needKeyRoom hlife hdir hdue (by rwa [length_derivedMat])
  unfold derivedMat at hroom
  simp only [deriveTo, run_bind, hroom, run_get, List.foldl_cons, List.foldl_nil, Nat.zero_max, List.any_cons, List.any_nil,
    Bool.or_false]
  rfl

/-- A derived key is volatile: it is the newest of the directory, and the key store alone has changed. -/
theorem keyDerived_eq {c : Cmd} (hlife : par c 81 1 ≤ 1) (k : Key) (mat : Bytes) (d : Dev) :
    (keyDerived c k mat d).2 = onKs (fun _ => (keyDerived c k mat d).2.ks) d
      ∧ (keyDerived c k mat d).2.ks.keys = d.ks.keys ++ [(keyDerived c k mat d).1] := by
  have hvolatile : ((derivedSpec c k mat).life == 2) = false := beq_eq_false_iff_ne.mpr (Nat.lt_succ_of_le hlife).ne
  simp only [keyDerived, makeKey, hvolatile, doIf_false]
  exact ⟨rfl, rfl⟩

theorem keyRecord_congr {d e : Dev} (hvol : e.ks.volKey = d.ks.volKey) (hnvm : e.nvm = d.nvm) (k : Key) :
    keyRecord e k = keyRecord d k := by
  simp only [keyRecord, handleOf, handleTag, persHandleKey, hvol, hnvm]

theorem leNat_lt (b : Bytes) : leNat b < 256 ^ b.length := by
  induction b with
  | nil => decide
  | cons x b ih =>
    have hx : x.toNat < 256 := x.isLt
    have hcons : leNat (x :: b) = leNat b * 256 + x.toNat := rfl
    rw [hcons, List.length_cons, pow_succ]
    omega

theorem par_lt (c : Cmd) (o n : Nat) : par c o n < 256 ^ n := by
  have h := leNat_lt (slice c.params (o - 64) n)
  rwa [slice, List.length_map, List.length_range] at h

/-- A command that has ended with the record of the key that it derived has made the key of R92 and R190. -/
theorem madeFrom_of_keyDerived {c : Cmd} {k : Key} {mat : Bytes} {d : Dev} {u : State} (hlife : par c 81 1 ≤ 1)
    (hdone : (theCmd c.cid u).stage = .done (resOut (keyRecord (keyDerived c k mat d).2 (keyDerived c k mat d).1)))
    (hks : u.ks = (keyDerived c k mat d).2.ks) (hnvm : u.nvm = (keyDerived c k mat d).2.nvm) : madeFrom c k mat u := by
  have hlast : u.ks.keys.getLast? = some (keyDerived c k mat d).1 := by
    rw [hks, (keyDerived_eq hlife k mat d).2, List.getLast?_concat]
  refine ⟨?_, ?_, ?_⟩
  · have husage : (BitVec.ofNat 16 (par c 84 2)).toNat = par c 84 2 := Nat.mod_eq_of_lt (par_lt c 84 2)
    have hdest : (BitVec.ofNat 16 (par c 86 2)).toNat = par c 86 2 := Nat.mod_eq_of_lt (par_lt c 86 2)
    rw [newest, hlast]
    simp only [Option.map_some, keyDerived, makeKey, derivedSpec, derivedMat, husage, hdest]
  · rw [hlast]
    rfl
  · have hrecord := keyRecord_congr (d := (keyDerived c k mat d).2) (e := u.toDev) (congrArg (·.volKey) hks) hnvm
      (keyDerived c k mat d).1
    simp only [gaveRecord, hlast, hdone, hrecord, beq_self_eq_true]

end Sys2Proof.Machine
end

section
/-! PROOF. The digest engines: commands enter, absorb, and give digests, MACs and keys (R180 to R192). -/

namespace Sys2Proof.Machine

/-! ## Results -/

/-- The material that DIG_KDF forms (R191). -/
def kdfMat (c : Cmd) (key m : Bytes) : Bytes :=
  match digHash? (par c 64 1) with
  | some h => kdfCtr (.hmac h) key (m.take (par c 66 2)) (m.drop (par c 66 2)) ((newKeyLen c).getD 0)
  | none => digMacOut (par c 64 1) key (m.take (par c 66 2)) (m.drop (par c 66 2)) ((newKeyLen c).getD 0)

section
variable {k : Cmd} (hall : k.taskIn.length = digTotal k) (d : Dev)
include hall

theorem run_digResult_hash (hcode : k.code = 0x0501) (h65 : par k 65 1 = 0) : digResult k d =
    (.ok (resOut (digHashOut (par k 64 1) (if isShake (par k 64 1) then par k 68 4 else digLen (par k 64 1)) k.taskIn)), d) := by
  simp only [digResult, run_bind, need, hall, hcode, h65, beq_self_eq_true, zero_ne_one, if_true, if_false, run_pure]

theorem run_digResult_hashKey {x : Key} (hcode : k.code = 0x0501) (h65 : par k 65 1 = 1) (htaken : k.taken = [x]) :
    digResult k d = deriveTo k [x] (digHashOut (par k 64 1) ((newKeyLen k).getD 0) k.taskIn) d := by
  simp only [digResult, run_bind, need, hall, hcode, h65, htaken, beq_self_eq_true, if_true, run_pure, List.isEmpty_cons,
    Bool.not_false]

theorem run_digResult_mac (hcode : k.code = 0x0502 ∨ k.code = 0x0503) : digResult k d =
    (.ok (if k.code = 0x0502 then resOut (digMacOut (par k 64 1) ((k.taken.head?.map (·.mat)).getD []) (k.taskIn.take (par k 66 2))
        (k.taskIn.drop (par k 66 2)) (par k 68 4))
      else if fit k.taskOut (par k 68 4) = digMacOut (par k 64 1) ((k.taken.head?.map (·.mat)).getD []) (k.taskIn.take (par k 66 2))
        (k.taskIn.drop (par k 66 2)) (par k 68 4) then resOk else resErr stVerify 0), d) := by
  have hhash : k.code ≠ 0x0501 := by omega
  have hkdf : k.code ≠ 0x0504 := by omega
  simp only [digResult, run_bind, need, hall, hhash, hkdf, beq_self_eq_true, if_true, if_false, run_pure]

theorem run_digResult_kdf {x : Key} (hcode : k.code = 0x0504) (htaken : k.taken = [x]) :
    digResult k d = deriveTo k [x] (kdfMat k x.mat k.taskIn) d := by
  have hhash : k.code ≠ 0x0501 := by omega
  simp only [digResult, run_bind, need, hall, hcode, htaken, beq_self_eq_true, if_true, Nat.reduceEqDiff, if_false, run_pure]
  rfl

end

/-! ## A message without keys -/

/-- The message of a command without fragments of kind 2 is all absorbed with the last step: the command then holds it, and the keys it
had taken. -/
theorem allReached_plain {c : Cmd} {d : Dev} (hc : cmdOf? d c.cid = some c) (hready : c.ready = none) (hplain : fragsPlain c = true) :
    ∃ k, cmdOf? (allReached c d) c.cid = some k ∧ FurtherOn (unwaited c) k ∧ k.taken = c.taken ∧ k.taskIn = messageOf c
      ∧ k.taskIn.length = digTotal c ∧ allReached c d = onHif (fun _ => (allReached c d).hif) d := by
  obtain ⟨k, hk, hfurther, hkplain, htaken, hmessage, henough, hreach⟩ := reach_plain (digTotal c + 1) (c.taskFrags.length + 1)
    (cmdOf?_unwaited hc) (c := unwaited c) hplain hready rfl (Nat.le_succ _)
  have htotal : digTotal k = digTotal c := hfurther.par 72 8
  have hnil : k.taskFrags = [] := by
    refine henough.resolve_left fun hmore => ?_
    obtain ⟨-, -, -, -, hsum⟩ := fragsForm_iff.mp (fragsPlain_iff.mp hkplain).1
    omega
  obtain ⟨hin, hlen⟩ := reached_length hkplain hnil
  exact ⟨k, hk, hfurther, htaken, hin.trans hmessage, hlen.trans htotal, hreach⟩

/-! ## A message that is one key -/

/-- A command that has taken a key for its last fragment. -/
def keyHeld (x : Key) (c : Cmd) : Cmd := fragReached [] x.mat [x] (unwaited c)

theorem furtherOn_keyHeld (x : Key) (c : Cmd) : FurtherOn (unwaited c) (keyHeld x c) := furtherOn_fragReached ..
theorem keyHeld_taskIn (x : Key) (c : Cmd) : (keyHeld x c).taskIn = c.taskIn ++ x.mat := rfl
theorem keyHeld_taken (x : Key) (c : Cmd) : (keyHeld x c).taken = c.taken ++ [x] := rfl

/-- A list of one fragment of kind 2 is reached with its key's fetch. -/
theorem allReached_key {c : Cmd} {f : Frag} {x : Key} {d e : Dev} (hc : cmdOf? d c.cid = some c) (hready : c.ready = none)
    (hform : fragsForm c = true) (hfs : c.taskFrags = [f]) (hin : c.taskIn = []) (hkind : fragKind f = 2)
    (hmakes : digMakesKey c = true) (hlen : fragLen f = x.lenBytes)
    (hfetch : fetch (digUse c (some uDerive) (fun _ => true)) (fragSource f) (onCmd c.cid unwaited d) = (.ok x, e))
    (hhif : e.hif = (onCmd c.cid unwaited d).hif) :
    cmdOf? (allReached c d) c.cid = some (keyHeld x c) ∧ allReached c d = onCmd c.cid (fragReached [] x.mat [x]) e := by
  have hc' := cmdOf?_unwaited hc
  have hone := reachOne_of_takeOne hc' hfs (run_takeOne_key (c := unwaited c) hform hfs hkind hmakes hlen hfetch)
  have hk : cmdOf? (reachOne c.cid (onCmd c.cid unwaited d)) c.cid = some (keyHeld x c) := by
    rw [hone, cmdOf?_onCmd_self, cmdOf?_of_hif hhif, hc']
    · rfl
    · exact fun _ => rfl
  have hshort : (unwaited c).taskIn.length < digTotal c + 1 := by
    rw [show (unwaited c).taskIn = [] from hin]
    exact Nat.succ_pos _
  have hsome : (unwaited c).taskFrags ≠ [] := by
    rw [show (unwaited c).taskFrags = [f] from hfs]
    exact List.cons_ne_nil _ _
  have hreached : allReached c d = reachOne c.cid (onCmd c.cid unwaited d) := by
    rw [allReached, reach_more hc' hshort hready rfl hsome, hfs, reach_enough hk (.inr rfl)]
  rw [hreached]
  exact ⟨hk, hone⟩

/-! ## Digests and MACs -/

section
variable {c : Cmd} {r : Region} {l : Lane} {v n : Nat} {s : State} (habs : absorbs c r l v n s = true) (hn : n ≤ 1)
include habs hn

/-- A command whose result leaves the device as it was ends with it, and no key is made (R188). -/
theorem digestStepEnd_answers {res : Res} (hplain : fragsPlain c = true) (hcode : c.code / 256 = 5)
    (hresult : ∀ k d, FurtherOn (unwaited c) k → k.taken = c.taken → k.taskIn = messageOf c → k.taskIn.length = digTotal k →
      digResult k d = (.ok res, d)) :
    EndsWith (execDigestStepEnd r l s) c.cid res (fun u => u.ks.keys = s.ks.keys
      ∧ (regionOf u.toDev r).dig.bytes = (regionOf s.toDev r).dig.bytes + BitVec.ofNat 64 (digTotal c - digAt c 0)) := by
  obtain ⟨-, -, hready, hc, -⟩ := absorbs_iff.mp habs
  obtain ⟨k, hk, hfurther, htaken, hin, hall, hreach⟩ := allReached_plain hc hready hplain
  have hall' : k.taskIn.length = digTotal k := hall.trans (hfurther.par 72 8).symm
  obtain ⟨hdone, hks, -, hbytes⟩ := digestStepEnd_ends habs hn hcode hk hfurther hall (hresult k _ hfurther htaken hin hall') rfl
    (by rw [hreach]; rfl)
  refine ⟨stage_theCmd_of_cmdOf? hdone, ?_, hbytes⟩
  rw [onDev_toDev, hks, hreach]
  rfl

theorem digHash_ends (hplain : fragsPlain c = true) (hcode : c.code = 0x0501) (h65 : par c 65 1 = 0) :
    EndsWith (execDigestStepEnd r l s) c.cid
      (resOut (digHashOut (par c 64 1) (if isShake (par c 64 1) then par c 68 4 else digLen (par c 64 1)) (messageOf c)))
      (fun u => (regionOf u.toDev r).dig.bytes = (regionOf s.toDev r).dig.bytes + BitVec.ofNat 64 (digTotal c - digAt c 0)) := by
  obtain ⟨hdone, -, hbytes⟩ := digestStepEnd_answers habs hn hplain (by rw [hcode]) fun k d hfurther _ hin hall => by
    rw [run_digResult_hash hall d (hfurther.code.trans hcode) ((hfurther.par 65 1).trans h65), hin]
    simp only [hfurther.par]
    rfl
  exact ⟨hdone, hbytes⟩

theorem digMac_ends (hplain : fragsPlain c = true) (hcode : c.code = 0x0502 ∨ c.code = 0x0503) :
    EndsWith (execDigestStepEnd r l s) c.cid
      (if c.code = 0x0502 then resOut (digMacOut (par c 64 1) ((c.taken.head?.map (·.mat)).getD []) ((messageOf c).take (par c 66 2))
          ((messageOf c).drop (par c 66 2)) (par c 68 4))
        else if fit c.taskOut (par c 68 4) = digMacOut (par c 64 1) ((c.taken.head?.map (·.mat)).getD [])
          ((messageOf c).take (par c 66 2)) ((messageOf c).drop (par c 66 2)) (par c 68 4) then resOk else resErr stVerify 0)
      (fun u => u.ks.keys = s.ks.keys) := by
  have hclass : c.code / 256 = 5 := by omega
  obtain ⟨hdone, hkeys, -⟩ := digestStepEnd_answers habs hn hplain hclass fun k d hfurther htaken hin hall => by
    have hcodes : (unwaited c).code = 0x0502 ∨ (unwaited c).code = 0x0503 := hcode
    rw [run_digResult_mac hall d (hfurther.code ▸ hcodes), hin, htaken]
    simp only [hfurther.par, hfurther.code, hfurther.taskOut]
    rfl
  exact ⟨hdone, hkeys⟩

/-! ## Keys -/

/-- A command that holds its whole message and one key ends with the key that it derives from the two (R190). -/
theorem digestStepEnd_derives {k : Cmd} {x : Key} {mat : Bytes} (hcode : c.code / 256 = 5)
    (hk : cmdOf? (allReached c s.toDev) c.cid = some k) (hfurther : FurtherOn (unwaited c) k) (hall : k.taskIn.length = digTotal c)
    (hresult : digResult k (allReached c s.toDev) = deriveTo k [x] mat (allReached c s.toDev))
    (hdie : (allReached c s.toDev).die = s.die) (hsame : SameRoom s.toDev (allReached c s.toDev))
    (hroom : roomFor c.cid (par c 81 1) mat.length false s = true) (hlife : par c 81 1 ≤ 1) :
    Gives (execDigestStepEnd r l s) (madeFrom c x mat) := by
  obtain ⟨-, -, -, hc, -⟩ := absorbs_iff.mp habs
  have hcmd : theCmd c.cid s = c := by rw [theCmd, hc]; rfl
  obtain ⟨hdir, hdue, hfree⟩ := room_of_roomFor hroom hsame
  rw [hcmd] at hdir
  have hderive : deriveTo k [x] mat = deriveTo c [x] mat := by
    obtain ⟨_, _, _, _, rfl⟩ := hfurther
    rfl
  rw [hderive, run_deriveTo hlife hdir hdue hfree] at hresult
  have hmade := (keyDerived_eq hlife x mat (allReached c s.toDev)).1
  obtain ⟨hdone, hks, hnvm, -⟩ := digestStepEnd_ends habs hn hcode hk hfurther hall hresult (by rw [hmade]; rfl)
    (by rw [hmade]; exact hdie)
  exact madeFrom_of_keyDerived hlife (stage_theCmd_of_cmdOf? hdone) hks hnvm

theorem digKdf_derives {x : Key} (hplain : fragsPlain c = true) (hcode : c.code = 0x0504) (htaken : c.taken = [x])
    (hroom : roomFor c.cid (par c 81 1) (kdfMat c x.mat (messageOf c)).length false s = true) (hlife : par c 81 1 ≤ 1) :
    Gives (execDigestStepEnd r l s) (madeFrom c x (kdfMat c x.mat (messageOf c))) := by
  obtain ⟨-, -, hready, hc, -⟩ := absorbs_iff.mp habs
  obtain ⟨k, hk, hfurther, hktaken, hin, hall, hreach⟩ := allReached_plain hc hready hplain
  have hmat : kdfMat k x.mat k.taskIn = kdfMat c x.mat (messageOf c) := by
    rw [hin]
    obtain ⟨_, _, _, _, rfl⟩ := hfurther
    rfl
  have hresult := run_digResult_kdf (hall.trans (hfurther.par 72 8).symm) (allReached c s.toDev) (hfurther.code.trans hcode)
    (hktaken.trans htaken)
  rw [hmat] at hresult
  exact digestStepEnd_derives habs hn (by rw [hcode]) hk hfurther hall hresult (by rw [hreach]; rfl) (.of_ks (by rw [hreach]; rfl))
    hroom hlife

/-- DIG_HASH over one fragment of kind 2 makes a key of the digest of its key (R186, R190). -/
theorem digHash_derives {f : Frag} {x : Key} (hform : fragsForm c = true) (hcode : c.code = 0x0501) (h65 : par c 65 1 = 1)
    (hfs : c.taskFrags = [f]) (hin : c.taskIn = []) (htaken : c.taken = []) (hkind : fragKind f = 2)
    (hnames : names c.cid (fragSource f) x .digest (some uDerive) s = true) (hlen : fragLen f = x.lenBytes)
    (hmat : x.mat.length = x.lenBytes)
    (hroom : roomFor c.cid (par c 81 1) (digHashOut (par c 64 1) ((newKeyLen c).getD 0) x.mat).length false s = true)
    (hlife : par c 81 1 ≤ 1) :
    Gives (execDigestStepEnd r l s) (madeFrom c x (digHashOut (par c 64 1) ((newKeyLen c).getD 0) x.mat)) := by
  obtain ⟨-, -, hready, hc, -⟩ := absorbs_iff.mp habs
  have hcmd : theCmd c.cid s = c := by rw [theCmd, hc]; rfl
  have hmakes : digMakesKey c = true := by simp [digMakesKey, hcode, h65]
  have hfetch : fetch (digUse c (some uDerive) (fun _ => true)) (fragSource f) (onCmd c.cid unwaited s.toDev) =
      (.ok x, keyFetched x (onCmd c.cid unwaited s.toDev)) := by
    have hrun := run_fetchDig (f := fun _ => true) (onCmd c.cid unwaited s.toDev) hnames rfl (keyLookup_congr rfl rfl rfl)
    rwa [hcmd] at hrun
  obtain ⟨hk, hreached⟩ := allReached_key hc hready hform hfs hin hkind hmakes hlen hfetch rfl
  have hheld : (keyHeld x c).taskIn = x.mat := by rw [keyHeld_taskIn, hin, List.nil_append]
  have hall : (keyHeld x c).taskIn.length = digTotal c := by
    obtain ⟨-, -, -, -, hsum⟩ := fragsForm_iff.mp hform
    rw [hheld, hmat, ← hlen, ← hsum, hin, hfs]
    simp
  have hresult := run_digResult_hashKey (x := x) hall (allReached c s.toDev) hcode h65 (by rw [keyHeld_taken, htaken, List.nil_append])
  rw [hheld] at hresult
  exact digestStepEnd_derives habs hn (by rw [hcode]) hk (furtherOn_keyHeld x c) hall hresult (by rw [hreached]; rfl)
    (by rw [hreached]; exact sameRoom_of_keyFetched x rfl) hroom hlife

end

/-! ## The statement -/

/-- Settles O30: the checks of each command pass and leave steps enough for its message (`DigPlans`), with which it enters its context;
the fragments reached keep the message what it is (`reach_plain`), so that the last step forms the result of the whole; keys, outcomes
formed before and queues each by its own lemma. -/
theorem digestCommandsComplete : Obligations.DigestCommandsComplete := by
  unfold Obligations.DigestCommandsComplete
  refine ⟨?_, ?_, ?_, ?_, ?_, ?_, ?_, ?_, ?_, ?_⟩
  · intro cid hr r l lvl s hstarts hheads hgood halg ha h65 h66 h80 hout
    exact (entersDig_of_plans hstarts hheads hgood (digHash_plans rfl hgood halg ha h65 h66 h80 hout)
      ((inFlight_outputPlaced _).trans (inFlight_of_startsDig hstarts))).1
  · intro cid hr r l lvl n s hstarts hheads hgood halg ha h65 h66 h68 hkey hlen
    exact (entersDig_of_plans hstarts hheads hgood (digHashKey_plans rfl hgood halg ha h65 h66 h68 hkey hlen)
      ((inFlight_outputPlaced _).trans (inFlight_of_startsDig hstarts))).1
  · intro cid hr r l lvl k s hheads hgood halg h65 h80 h66 hlo hhi hkalg hcap
    refine ⟨fun hstarts hk => ?_, fun hstarts hk => ?_⟩
    · exact (entersDig_of_plans hstarts hheads hgood (digMac_plans rfl hgood false halg h65 h80 h66 hlo hhi hkalg hcap hk)
        (inFlight_oneFetched.trans (inFlight_of_startsDig hstarts))).1
    · exact entersDig_of_plans hstarts hheads hgood (digMac_plans rfl hgood true halg h65 h80 h66 hlo hhi hkalg hcap hk)
        (inFlight_oneFetched.trans (inFlight_of_startsDig hstarts))
  · intro cid hr r l lvl n k s hstarts hheads hgood halg h65 h68 h66 hkey hk hkalg
    exact (entersDig_of_plans hstarts hheads hgood (digKdf_plans rfl hgood halg h65 h68 h66 hkey hk hkalg)
      (inFlight_oneFetched.trans (inFlight_of_startsDig hstarts))).1
  · intro c r l v n s habs hn hplain
    exact digestStepEnd_absorbs habs hn hplain
  · intro c r l v n s habs hn hplain
    refine ⟨fun hcode h65 => digHash_ends habs hn hplain hcode h65, fun hcode => ?_, fun hcode => ?_⟩
    · have hends := digMac_ends habs hn hplain (.inl hcode)
      rwa [if_pos hcode] at hends
    · have hends := digMac_ends habs hn hplain (.inr hcode)
      rwa [if_neg (by omega)] at hends
  · intro c r l v n f k m s habs hn hform hcode h65 hfs hin htaken hkind hnames hlen hmat hm hroom hlife
    subst hm
    exact digHash_derives habs hn hform hcode h65 hfs hin htaken hkind hnames hlen hmat hroom hlife
  · intro c r l v n k mat s habs hn hplain hcode htaken hmat hroom hlife
    obtain rfl : mat = kdfMat c k.mat (messageOf c) := hmat
    exact digKdf_derives habs hn hplain hcode htaken hroom hlife
  · intro r l v n c res s hrun hctx hready hc hstage hcode
    exact digestStepEnd_formed hrun hctx hready hc hstage hcode
  · intro cid r l lvl s hloc hwait hlvl hsome
    obtain ⟨c, hc⟩ := Option.isSome_iff_exists.mp hsome
    have hcmd : theCmd cid s = c := by rw [theCmd, hc]; rfl
    obtain ⟨hmoved, hlast⟩ := digestPromote_moves hc (hcmd ▸ hloc) (hcmd ▸ hwait) hlvl
    refine ⟨?_, hlast⟩
    rw [hcmd, theCmd]
    exact congrArg (·.getD { cid := cid }) hmoved

end Sys2Proof.Machine
end

section
/-! PROOF. A read with prediction resistance from a DRBG whose key has lost a byte (R206, R210). -/

namespace Sys2Proof.Machine

/-- A DRBG that serves its region. Its key has 31 bytes, where R206 gives it 32. -/
def shortKeyDrbg : DrbgS := { instantiated := true, katPassed := true, key := zeros 31 }

/-- RANDOM under way for 16 bytes of region 0 with prediction resistance: it waits for the reseed that comes before its bytes. -/
def freshRead : Cmd := { cid := 1, code := 0x0601, stage := .running, scratch := [0, 16, 1] }

/-- The read waits, and one block of seed stands ready for its reseed. -/
def shortKeyState : State :=
  { die := { regions := [(0, { drbg := shortKeyDrbg })] }, ent := { reservoir := [zeros 32] }, hif := { cmds := [freshRead] } }

/-- The hypotheses of the clause on a read with prediction resistance hold. -/
theorem shortKeyState_admitted :
    drbgReseeds shortKeyState.toDev 0 = true ∧ readNext shortKeyState.toDev 0 = some freshRead
      ∧ cmdOf? shortKeyState.toDev freshRead.cid = some freshRead ∧ freshRead.taskOut = [] ∧ readLen freshRead ≤ 512
      ∧ shortKeyState.ent.reservoir = zeros 32 :: [] := by
  decide +kernel

/-- The generate gives fewer bytes than the read asks for, so the read goes on. -/
theorem shortKeyState_stage : (theCmd 1 (onDev (drbgServe 0) shortKeyState)).stage = .running := by
  decide +kernel

/-- Refutes O31: its clause on DRBG_GENERATE for a read with prediction resistance has the read end with the bytes that the
reseeded DRBG gives. The key schedule of a key of 31 bytes ends within a word, so the blocks of the cipher, and with them the
output, come out short; the read then waits for the rest. The clause lacks the hypothesis that the DRBG's key has the 32 bytes of
R206. -/
theorem not_entropyRuns : ¬ Obligations.EntropyRuns := by
  unfold Obligations.EntropyRuns
  rintro ⟨-, -, -, -, -, -, -, -, -, -, hread, -⟩
  obtain ⟨hreseeds, hnext, hcmd, hout, hlen, hseed⟩ := shortKeyState_admitted
  obtain ⟨hends, -⟩ := hread 0 freshRead (zeros 32) [] shortKeyState hreseeds hnext hcmd hout hlen hseed
  exact Stage.noConfusion (hends.symm.trans shortKeyState_stage)

end Sys2Proof.Machine
end

section
/-! PROOF. An access that the keyways let pass fares the same where the device differs in a region's state. -/

namespace Sys2Proof.Machine

section
variable {r : Nat} {f : RegionS → RegionS} {d : Dev}

theorem onKw_onRegion (u : KwUnit) (g : KwS → KwS) : onKw u g (onRegion r f d) = onRegion r f (onKw u g d) := by
  simp only [onKw, apply_ite (onRegion r f)]
  rfl

/-- The units of a path judge by their rules and the access alone. -/
theorem kwPass_onRegion {x : Stalled} {l : List KwUnit} (h : (kwPass x l d).1 = .allowed) :
    kwPass x l (onRegion r f d) = (.allowed, onRegion r f (kwPass x l d).2) := by
  induction l generalizing d with
  | nil => rfl
  | cons u us ih =>
    have hverdict : kwVerdict (onRegion r f d) u x = kwVerdict d u x := rfl
    have hunit : kwOf (onRegion r f d) u = kwOf d u := rfl
    have hjudge : kwJudge (onRegion r f d) u x.acc x.addr x.kind = kwJudge d u x.acc x.addr x.kind := rfl
    unfold kwPass at h ⊢
    rw [hverdict, hunit, hjudge, onKw_onRegion]
    cases hv : kwVerdict d u x with
    | some ok =>
      cases ok with
      | true =>
        simp only [hv] at h ⊢
        exact ih h
      | false => simp [hv] at h
    | none =>
      simp only [hv] at h ⊢
      split
      next hu => simp [hu] at h
      next hu =>
        simp only [hu] at h ⊢
        cases hj : kwJudge d u x.acc x.addr x.kind with
        | some p => simp [hj] at h
        | none =>
          simp only [hj, onKw_onRegion] at h ⊢
          exact ih h

/-- The answer of `kwMeet` where the address lies on no keyway page: an access that stalls has met no unit. -/
def kwMeetUnits (x : Stalled) (d : Dev) : Passage × Dev :=
  if (kwPass x (kwPath x.acc x.addr) d).1 == .stalled && x.again then (.stalled, stallAgain x d)
  else kwPass x (kwPath x.acc x.addr) d

theorem kwMeet_page {x : Stalled} {m : Nat} (hpage : pageAt x.addr = some m) (hkw : isKwPage m = true) (d : Dev) :
    kwMeet x d = kwPageCheck x.acc m x.addr x.kind d := by
  simp only [kwMeet, hpage, hkw, if_true]

theorem kwMeet_units {x : Stalled} (hno : ∀ m, pageAt x.addr = some m → isKwPage m = false) (d : Dev) :
    kwMeet x d = kwMeetUnits x d := by
  cases hpage : pageAt x.addr with
  | none =>
    simp only [kwMeet, hpage]
    rfl
  | some m =>
    simp only [kwMeet, hpage, hno m hpage]
    rfl

theorem kwMeetUnits_onRegion {x : Stalled} (h : (kwMeetUnits x d).1 = .allowed) :
    kwMeetUnits x (onRegion r f d) = (.allowed, onRegion r f (kwMeetUnits x d).2) := by
  unfold kwMeetUnits at h ⊢
  split at h
  next => cases h
  next hstall =>
    rw [if_neg hstall, kwPass_onRegion h]
    rfl

/-- The fixed check of a keyway page asks for the world and the lifecycle state. -/
theorem kwPageCheck_onRegion {acc : Access} {m a : Nat} {kind : AccKind} (h : (kwPageCheck acc m a kind d).1 = .allowed) :
    kwPageCheck acc m a kind (onRegion r f d) = (.allowed, onRegion r f (kwPageCheck acc m a kind d).2) := by
  have hadmits : debugAdmitted (onRegion r f d) = debugAdmitted d := rfl
  unfold kwPageCheck at h ⊢
  rw [hadmits]
  split at h
  next hworld => simp only [hworld, if_true]
  next => cases h

theorem kwMeet_onRegion {x : Stalled} (h : (kwMeet x d).1 = .allowed) :
    kwMeet x (onRegion r f d) = (.allowed, onRegion r f (kwMeet x d).2) := by
  by_cases hkw : ∃ m, pageAt x.addr = some m ∧ isKwPage m = true
  · obtain ⟨m, hpage, hkw⟩ := hkw
    rw [kwMeet_page hpage hkw] at h ⊢
    rw [kwMeet_page hpage hkw]
    exact kwPageCheck_onRegion h
  · have hno : ∀ m, pageAt x.addr = some m → isKwPage m = false := fun m hm =>
      Bool.eq_false_iff.mpr fun hkw' => hkw ⟨m, hm, hkw'⟩
    rw [kwMeet_units hno] at h ⊢
    rw [kwMeet_units hno]
    exact kwMeetUnits_onRegion h

end

/-- The working state with region `r` changed by `f`, and `ds` on the task's stack. -/
def OcdS.swapped (r : Nat) (f : RegionS → RegionS) (ds : List Word32) (o : OcdS) : OcdS :=
  { o with s := onDev (onRegion r f) o.s, k := { o.k with ds := ds } }

section
variable {r : Nat} {f : RegionS → RegionS} {ds : List Word32} {o p : OcdS}

theorem passAll_swapped {sg off : Nat} {kind : AccKind} {l : List (Nat × Nat)} (h : passAll sg off kind l o = (.ok (), p)) :
    passAll sg off kind l (o.swapped r f ds) = (.ok (), p.swapped r f ds) := by
  induction l generalizing o with
  | nil =>
    cases h
    rfl
  | cons a as ih =>
    have hown : ownAccess (o.swapped r f ds) sg off a.1 kind (Nat.log2 a.2) = ownAccess o sg off a.1 kind (Nat.log2 a.2) := rfl
    have hdev : (o.swapped r f ds).s.toDev = onRegion r f o.s.toDev := rfl
    simp only [passAll, ocd_bind, ocd_get] at h ⊢
    cases hmeet : (kwMeet (ownAccess o sg off a.1 kind (Nat.log2 a.2)) o.s.toDev).1 with
    | allowed =>
      simp only [hmeet, ocd_bind, ocd_set] at h
      simp only [hown, hdev, kwMeet_onRegion hmeet, ocd_bind, ocd_set]
      exact ih h
    | denied =>
      simp only [hmeet, ocd_bind, ocd_set] at h
      cases h
    | stalled =>
      simp only [hmeet] at h
      cases h

/-- An access asks for the task's segments and authority and for the keyways, for nothing of a region or of the stack. -/
theorem access_swapped {sg : Nat} {right : Right} {off len align : Nat} {kind : AccKind}
    (h : access sg right off len align kind o = (.ok (), p)) :
    access sg right off len align kind (o.swapped r f ds) = (.ok (), p.swapped r f ds) := by
  have hcheck : segCheck o.k sg right off len align = none := (access_ok h).2
  have hcheck' : segCheck (o.swapped r f ds).k sg right off len align = none := hcheck
  have hseg : segOf (o.swapped r f ds).k sg = segOf o.k sg := rfl
  obtain ⟨q, hq, hq'⟩ : ∃ q, accessTakes (segOf o.k sg).ms ((segOf o.k sg).base + off) kind o = (.ok (), q)
      ∧ accessTakes (segOf o.k sg).ms ((segOf o.k sg).base + off) kind (o.swapped r f ds) = (.ok (), q.swapped r f ds) :=
    ⟨_, rfl, rfl⟩
  simp only [access, ocd_bind, ocd_get, hcheck, hq] at h
  simp only [access, ocd_bind, ocd_get, hcheck', hseg, hq']
  split at h
  next hms =>
    rw [if_pos hms]
    cases h
    rfl
  next hms =>
    rw [if_neg hms]
    exact passAll_swapped h

end

end Sys2Proof.Machine
end

section
/-! PROOF. How an instruction that runs to its end leaves its task and its core (R270, R282). -/

namespace Sys2Proof.Machine

/-! ## The keyways' counts aside -/

theorem SameButKw.die {d e : Dev} (h : SameButKw d e) : e.die = d.die := by
  unfold SameButKw at h
  rw [h]
theorem SameButKw.hif {d e : Dev} (h : SameButKw d e) : e.hif = d.hif := by
  unfold SameButKw at h
  rw [h]

theorem OcdSame.die {o p : OcdS} (h : OcdSame o p) : p.s.die = o.s.die := h.1.die
theorem OcdSame.hif {o p : OcdS} (h : OcdSame o p) : p.s.hif = o.s.hif := h.1.hif
theorem OcdSame.mem {o p : OcdS} (h : OcdSame o p) : p.s.mem = o.s.mem := by rw [h.2]
theorem OcdSame.task {o p : OcdS} (h : OcdSame o p) : p.k = o.k := by rw [h.2]
theorem OcdSame.post {o p : OcdS} (h : OcdSame o p) : p.post = o.post := by rw [h.2]
theorem OcdSame.core {o p : OcdS} (h : OcdSame o p) : p.core = o.core := by rw [h.2]

/-! ## The fetch -/

section
variable {c : CoreId} {len : Nat} {s : State}

/-- Core `c` has fetched an instruction of `len` bytes: its task is on its way with `p`. -/
structure Fetched (c : CoreId) (len : Nat) (s : State) (p : OcdS) : Prop where
  task : coreTask s.toDev c = some (coreNo c s)
  fetch : fetchIns len (ocdStart c (coreNo c s) [] s) = (.ok (), p)

/-- What passes its checks after the fetch. -/
theorem exists_reached {m : Ocd Unit} (h : reaches c len m s = true) : ∃ p q, Fetched c len s p ∧ m p = (.ok (), q) := by
  unfold reaches at h
  cases ht : coreTask s.toDev c with
  | none => simp [ht] at h
  | some t =>
    have hno : coreNo c s = t := by rw [coreNo, ht]; rfl
    simp only [ht, ocd_bind] at h
    cases hf : fetchIns len (ocdStart c t [] s) with
    | mk e p =>
      cases e with
      | error e => simp [hf] at h
      | ok u =>
        simp only [hf] at h
        cases hm : m p with
        | mk e q =>
          cases e with
          | error e => simp [hm] at h
          | ok v => exact ⟨p, q, ⟨hno ▸ ht, hno ▸ hf⟩, hm⟩

theorem reaches_pure : reaches c len (pure ()) s = fetches c len s := by
  unfold reaches fetches
  cases coreTask s.toDev c with
  | none => rfl
  | some t =>
    simp only [ocd_bind]
    cases fetchIns len (ocdStart c t [] s) with
    | mk e p => cases e <;> rfl

theorem exists_fetched (h : fetches c len s = true) : ∃ p, Fetched c len s p := by
  obtain ⟨p, -, hf, -⟩ := exists_reached (reaches_pure.trans h)
  exact ⟨p, hf⟩

theorem Fetched.same {p : OcdS} (h : Fetched c len s p) :
    OcdSame { ocdStart c (coreNo c s) [] s with k := past len c s } p := fetchIns_ok h.fetch

end

/-! ## The end of an instruction -/

section
variable {c : CoreId} {s : State} {len : Nat} {body : Ocd Unit} {p q : OcdS}

theorem ocdRun_ok (hf : Fetched c len s p) (hbody : body p = (.ok (), q)) :
    ocdRun c len [] body s = ocdDone c (coreNo c s) q := by
  have hrun : (do fetchIns len; body : Ocd Unit) (ocdStart c (coreNo c s) [] s) = (.ok (), q) := by
    rw [ocd_bind, hf.fetch]
    exact hbody
  unfold ocdStart at hrun
  simp only [ocdRun, hf.task, hrun]

/-- The device as an instruction leaves it before its last effects: its task and core are written. -/
def retired (c : CoreId) (t : Nat) (o : OcdS) : State := ocdDone c t { o with post := [] }

theorem ocdDone_eq (t : Nat) : ocdDone c t q = q.post.foldl (fun s f => f s) (retired c t q) := rfl

theorem retired_mem (t : Nat) : (retired c t q).mem = q.s.mem := rfl

theorem regionOf_kwForget (f : Stalled → Bool) (d : Dev) (r : Nat) : regionOf (kwForget f d) r = regionOf d r := rfl

theorem coreOf_kwForget (f : Stalled → Bool) (d : Dev) : coreOf (kwForget f d) c = coreOf d c := rfl

theorem retired_task (t : Nat) : taskOf (retired c t q).toDev c.region t = { q.k with started := true } := by
  simp [retired, ocdDone, onDev]

theorem retired_insns (t : Nat) : (coreOf (retired c t q).toDev c).insns = (coreOf q.s.toDev c).insns + 1 := by
  simp [retired, ocdDone, onDev, coreOf_kwForget]

theorem retired_drbgQueue (t : Nat) : drbgQueue c (retired c t q) = drbgQueue c q.s := by
  simp [drbgQueue, retired, ocdDone, onDev, onCore, onTask, onTmb, regionOf_kwForget]

theorem foldl_toDev {l : List (State → State)} (h : ∀ f ∈ l, ∀ u, (f u).toDev = u.toDev) (u : State) :
    (l.foldl (fun s f => f s) u).toDev = u.toDev := by
  induction l generalizing u with
  | nil => rfl
  | cons f l ih =>
    rw [List.foldl_cons, ih (fun g hg => h g (List.mem_cons_of_mem _ hg)), h f List.mem_cons_self]

/-- The last effects of an instruction leave the device. -/
def OcdS.PostKeepsDev (o : OcdS) : Prop := ∀ f ∈ o.post, ∀ u, (f u).toDev = u.toDev

theorem postKeepsDev_nil (h : q.post = []) : q.PostKeepsDev := by
  intro f hf
  rw [h] at hf
  cases hf

theorem ocdDone_toDev (t : Nat) (h : q.PostKeepsDev) : (ocdDone c t q).toDev = (retired c t q).toDev := foldl_toDev h _

/-- An instruction whose body runs to its end completes with the task that the body leaves. -/
theorem completes_of_body {k : Task} (hf : Fetched c len s p) (hbody : body p = (.ok (), q)) (hpost : q.PostKeepsDev)
    (hcore : coreOf q.s.toDev c = coreOf s.toDev c) (hk : q.k = k) : Completes c s (.next (ocdRun c len [] body s)) k := by
  show taskOf _ _ _ = _ ∧ _ = _
  rw [ocdRun_ok hf hbody, ocdDone_toDev _ hpost, retired_task, retired_insns, hcore, hk]
  exact ⟨rfl, rfl⟩

theorem drbgQueue_of_body (hf : Fetched c len s p) (hbody : body p = (.ok (), q)) (hpost : q.PostKeepsDev) :
    drbgQueue c (ocdRun c len [] body s) = drbgQueue c q.s := by
  rw [ocdRun_ok hf hbody, ← retired_drbgQueue (coreNo c s)]
  exact congrArg (fun d => (regionOf d c.region).drbg.queue) (ocdDone_toDev _ hpost)

end

end Sys2Proof.Machine
end

section
/-! PROOF. GETC, and the random words and reads of coprocessor 5 (R210, R279, R286). -/

namespace Sys2Proof.Machine

section
variable {c : CoreId} {s : State} {p : OcdS}

/-! ## What the fetch leaves -/

theorem task_fetched {len : Nat} (h : Fetched c len s p) : p.k = past len c s := h.same.task

theorem held_fetched {len : Nat} (h : Fetched c len s p) : p.k.ds = (coreK c s).ds := by
  rw [task_fetched h]
  rfl

theorem coreOf_fetched {len : Nat} (h : Fetched c len s p) : coreOf p.s.toDev c = coreOf s.toDev c := by
  unfold coreOf regionOf
  rw [h.same.die]
  rfl

theorem drbgQueue_fetched {len : Nat} (h : Fetched c len s p) : drbgQueue c p.s = drbgQueue c s := by
  unfold drbgQueue regionOf
  rw [h.same.die]
  rfl

theorem cpRead?_fetched {len : Nat} (h : Fetched c len s p) : cpRead? p.s.toDev c = cpRead? s.toDev c := by
  unfold cpRead?
  rw [h.same.hif]
  rfl

theorem drbgGoes_fetched {len : Nat} (h : Fetched c len s p) : drbgGoes c p.s = drbgGoes c s := by
  unfold drbgGoes regionOf
  rw [h.same.die, cpRead?_fetched h]
  rfl

/-! ## GETC -/

/-- The work of GETC past its fetch. -/
def getcBody (imm : BitVec 24) : Ocd Unit := do
  if 8 ≤ imm.toNat then ocdTrap 1
  push (BitVec.ofNat 32 (taskConst (← get) imm.toNat))

theorem exec_getc (imm : BitVec 24) : exec (.getc c imm) s = .next (ocdRun c 4 [] (getcBody imm) s) := rfl

/-- The constants that GETC reads, of a task past its fetch. -/
theorem taskConst_fetched {i : Nat} (h : Fetched c 4 s p) (hi : i < 8) : taskConst p i = (taskConstants c s).getD i 0 := by
  rw [h.same.2]
  interval_cases i <;> rfl

theorem getcBody_pushes {imm : BitVec 24} (himm : imm.toNat < 8) (hroom : p.k.ds.length < 32) :
    getcBody imm p = (.ok (), { p with k := { p.k with ds := BitVec.ofNat 32 (taskConst p imm.toNat) :: p.k.ds } }) := by
  have hdefined : ¬ 8 ≤ imm.toNat := by omega
  simp only [getcBody, if_neg hdefined, ocd_bind, ocd_get]
  exact push_room hroom

theorem taskConstantsComplete : TaskConstantsComplete := by
  intro c imm s hfetch himm hroom
  obtain ⟨p, hf⟩ := exists_fetched hfetch
  have hk := task_fetched hf
  have hcore : coreOf p.s.toDev c = coreOf s.toDev c := coreOf_fetched hf
  rw [exec_getc]
  refine completes_of_body hf (getcBody_pushes himm (hk ▸ hroom)) (postKeepsDev_nil hf.same.post) hcore ?_
  rw [taskConst_fetched hf himm, hk]
  rfl

/-! ## Bytes from the head of the queue -/

/-- The region's DRBG with `n` bytes read from the head of its queue. -/
def drawn (n : Nat) (x : RegionS) : RegionS :=
  { x with drbg := { x.drbg with queue := x.drbg.queue.drop n, swBytes := x.drbg.swBytes + BitVec.ofNat 64 n } }

theorem coreOf_drawn (n : Nat) (d : Dev) : coreOf (onRegion c.region (drawn n) d) c = coreOf d c := by
  simp [coreOf, drawn]

theorem queue_drawn (n : Nat) (u : State) : drbgQueue c (onDev (onRegion c.region (drawn n)) u) = (drbgQueue c u).drop n := by
  simp [drbgQueue, drawn, onDev]

theorem takeRandom_queued {n : Nat} (hc : p.core = c) (hgoes : drbgGoes c p.s = true) (hlen : n ≤ (drbgQueue c p.s).length) :
    takeRandom n p = (.ok (stOk, (drbgQueue c p.s).take n), p.swapped c.region (drawn n) p.k.ds) := by
  subst hc
  unfold drbgGoes at hgoes
  obtain ⟨hruns, hnone⟩ := Bool.and_eq_true_iff.mp hgoes
  have hread : cpRead? p.s.toDev p.core = none := Option.isNone_iff_eq_none.mp hnone
  have hstopped : (regionOf p.s.toDev p.core.region).drbg.stopped = false := by simpa using hruns
  have hrandom : cpRandom p.core.region n p.s.toDev
      = some ((stOk, (drbgQueue p.core p.s).take n), onRegion p.core.region (drawn n) p.s.toDev) := by
    unfold drbgQueue at hlen
    simp only [cpRandom, hstopped, hlen, if_true]
    rfl
  simp only [takeRandom, ocd_bind, ocd_get, hread, hrandom, ocd_set]
  rfl

/-- A read that had to wait gives what it ended with, and its entry is gone. -/
theorem takeRandom_waited {n : Nat} {x : Cmd} {v : Res} (hc : p.core = c) (hread : cpRead? p.s.toDev c = some x)
    (hstage : x.stage = .done v) : takeRandom n p = (.ok (v.status, v.out), { p with s := onDev (cmdDrop x.cid) p.s }) := by
  subst hc
  simp only [takeRandom, ocd_bind, ocd_get, hread, hstage, ocd_set]
  rfl

/-! ## RN_WORD -/

/-- The work of RN_WORD past its fetch. -/
def rnWordBody : Ocd Unit := do
  push 0
  push 0
  let x ← takeRandom 4
  onK (fun k => { k with ds := x.1.zeroExtend 32 :: BitVec.ofNat 32 (leNat x.2) :: k.ds.drop 2 })

theorem exec_rnWord : exec (.rnWord c 0) s = .next (ocdRun c 4 [] rnWordBody s) := rfl

/-- Two cells are pushed before the bytes are taken, and then filled. -/
def OcdS.twoPushed (o : OcdS) : OcdS := { o with k := { o.k with ds := 0 :: 0 :: o.k.ds } }

theorem rnWordBody_runs {x : BitVec 16 × Bytes} {q : OcdS} (hroom : p.k.ds.length ≤ 30) (htake : takeRandom 4 p.twoPushed = (.ok x, q)) :
    rnWordBody p = (.ok (), { q with k := { q.k with
      ds := x.1.zeroExtend 32 :: BitVec.ofNat 32 (leNat x.2) :: q.k.ds.drop 2 } }) := by
  have hone : push 0 { p with k := { p.k with ds := 0 :: p.k.ds } } = (.ok (), p.twoPushed) :=
    push_room (by simp only [List.length_cons]; omega)
  simp only [rnWordBody, ocd_bind, push_room (show p.k.ds.length < 32 by omega), hone, htake, ocd_onK]

theorem rnWord_queued (hfetch : fetches c 4 s = true) (hroom : (coreK c s).ds.length ≤ 30) (hgoes : drbgGoes c s = true)
    (hlen : 4 ≤ (drbgQueue c s).length) :
    Completes c s (exec (.rnWord c 0) s) { past 4 c s with
        ds := 0 :: BitVec.ofNat 32 (leNat ((drbgQueue c s).take 4)) :: (coreK c s).ds }
      ∧ Gives (exec (.rnWord c 0) s) (fun u => drbgQueue c u = (drbgQueue c s).drop 4) := by
  obtain ⟨p, hf⟩ := exists_fetched hfetch
  have hk := task_fetched hf
  have hqueue := drbgQueue_fetched hf
  have htake : takeRandom 4 p.twoPushed = (.ok (stOk, (drbgQueue c p.s).take 4), _) :=
    takeRandom_queued hf.same.core ((drbgGoes_fetched hf).trans hgoes) (hqueue ▸ hlen)
  have hbody := rnWordBody_runs (hk ▸ hroom) htake
  have hpost := postKeepsDev_nil hf.same.post
  have hcore : coreOf p.s.toDev c = coreOf s.toDev c := coreOf_fetched hf
  rw [exec_rnWord]
  constructor
  · refine completes_of_body hf hbody hpost ((coreOf_drawn 4 _).trans hcore) ?_
    simp only [OcdS.swapped, OcdS.twoPushed, hk, hqueue]
    rfl
  · exact (drbgQueue_of_body hf hbody hpost).trans ((queue_drawn 4 _).trans (congrArg (·.drop 4) hqueue))

/-- The instruction that began a read takes its outcome once it has one. -/
theorem rnWord_waited {x : Cmd} {v : Res} (hfetch : fetches c 4 s = true) (hroom : (coreK c s).ds.length ≤ 30)
    (hread : cpRead? s.toDev c = some x) (hstage : x.stage = .done v) :
    Completes c s (exec (.rnWord c 0) s) { past 4 c s with
      ds := v.status.zeroExtend 32 :: BitVec.ofNat 32 (leNat v.out) :: (coreK c s).ds } := by
  obtain ⟨p, hf⟩ := exists_fetched hfetch
  have hk := task_fetched hf
  have htake : takeRandom 4 p.twoPushed = (.ok (v.status, v.out), _) :=
    takeRandom_waited hf.same.core ((cpRead?_fetched hf).trans hread) hstage
  have hbody := rnWordBody_runs (hk ▸ hroom) htake
  have hcore : coreOf p.s.toDev c = coreOf s.toDev c := coreOf_fetched hf
  rw [exec_rnWord]
  refine completes_of_body hf hbody (postKeepsDev_nil hf.same.post) hcore ?_
  simp only [OcdS.twoPushed, hk]
  rfl

/-! ## A store to RAM -/

theorem ramAt_of_segs {k k' : Task} (h : k.segs = k'.segs) (sg off : Nat) : ramAt k sg off = ramAt k' sg off := by
  rw [ramAt, ramAt, h]

theorem inRam_of_segs {k k' : Task} (h : k.segs = k'.segs) (sg off : Nat) : inRam k sg off = inRam k' sg off := by
  rw [inRam, inRam, ramAt_of_segs h, h]

theorem storeBytes_ram {sg off align : Nat} {b : Bytes} {o q : OcdS} (hacc : access sg .w off b.length align .write o = (.ok (), q))
    (hram : inRam q.k sg off = true) (hpost : q.post = []) :
    storeBytes sg off align b o = (.ok (), { q with post := [segStore q.k sg off b] }) := by
  have hto : ((segOf q.k sg).ms || isRam ((segOf q.k sg).base + off)) = true :=
    Bool.or_eq_true_iff.mpr (.inr (Bool.and_eq_true_iff.mp hram).2)
  simp only [storeBytes, ocd_bind, hacc, ocd_get, hto, if_true, ocd_after, hpost, List.nil_append]

theorem segStore_ram {k : Task} {sg off : Nat} (b : Bytes) (u : State) (hram : inRam k sg off = true) :
    segStore k sg off b u = onMem (fun m => memSetN m (ramAt k sg off) b) u := by
  obtain ⟨hms, hadr⟩ := Bool.and_eq_true_iff.mp hram
  have hms' : (segOf k sg).ms = false := by simpa [segOf] using hms
  have hadr' : isRam ((segOf k sg).base + off) = true := hadr
  simp only [segStore, hms', hadr', if_true]
  rfl

theorem postKeepsDev_segStore {k : Task} {sg off : Nat} {b : Bytes} {q : OcdS} (hpost : q.post = [segStore k sg off b])
    (hram : inRam k sg off = true) : q.PostKeepsDev := by
  intro f hf u
  rw [hpost, List.mem_singleton] at hf
  rw [hf, segStore_ram b u hram]
  rfl

/-- An instruction whose one last effect is a store to RAM. -/
theorem stores_of_body {k k' : Task} {sg off len : Nat} {b : Bytes} {body : Ocd Unit} {q : OcdS} (hf : Fetched c len s p)
    (hbody : body p = (.ok (), q)) (hpost : q.post = [segStore k' sg off b]) (hram : inRam k' sg off = true)
    (hcore : coreOf q.s.toDev c = coreOf s.toDev c) (hmem : q.s.mem = s.mem) (hk : q.k = k) :
    Stores c s (.next (ocdRun c len [] body s)) k (ramAt k' sg off) b := by
  have hwritten : (ocdRun c len [] body s).mem = memSetN s.mem (ramAt k' sg off) b := by
    rw [ocdRun_ok hf hbody, ocdDone_eq, hpost, List.foldl_cons, List.foldl_nil, segStore_ram b _ hram]
    exact congrArg (memSetN · (ramAt k' sg off) b) hmem
  refine ⟨completes_of_body hf hbody (postKeepsDev_segStore hpost hram) hcore hk, ?_, ?_⟩
  · intro hwf
    rw [hwritten]
    exact memGetN_memSetN hwf _ b
  · intro x hx
    rw [hwritten]
    exact memGet_memSetN_outside _ _ b x hx

/-! ## RN_READ -/

/-- The work of RN_READ past its fetch. -/
def rnReadBody : Ocd Unit := do
  needDs 2
  let len ← pop
  let ptr ← pop
  if len.toNat < 4 ∨ 256 < len.toNat then pushSt stParam
  else
    segOnly (ptrSeg ptr) .w (ptrOff ptr) len.toNat 1
    let x ← takeRandom len.toNat
    if x.1 = stOk then storeBytes (ptrSeg ptr) (ptrOff ptr) 1 x.2
    pushSt x.1

theorem exec_rnRead : exec (.rnRead c 0) s = .next (ocdRun c 4 [] rnReadBody s) := rfl

section
variable {n ptr : Word32} {r : List Word32}

/-- The task has given up its two operands. -/
def OcdS.withDs (ds : List Word32) (o : OcdS) : OcdS := { o with k := { o.k with ds := ds } }

theorem rnReadBody_operands (hds : p.k.ds = n :: ptr :: r) : rnReadBody p = (
    if n.toNat < 4 ∨ 256 < n.toNat then pushSt stParam
    else do
      segOnly (ptrSeg ptr) .w (ptrOff ptr) n.toNat 1
      let x ← takeRandom n.toNat
      if x.1 = stOk then storeBytes (ptrSeg ptr) (ptrOff ptr) 1 x.2
      pushSt x.1) (p.withDs r) := by
  have hheld : 2 ≤ p.k.ds.length := by simp [hds]
  simp only [rnReadBody, ocd_bind, needDs_held hheld, ocd_pop, hds, List.headD_cons, List.drop_succ_cons, List.drop_zero]
  rfl

theorem rnRead_refuses (hfetch : fetches c 4 s = true) (hds : (coreK c s).ds = n :: ptr :: r) (hroom : r.length < 32)
    (hlen : n.toNat < 4 ∨ 256 < n.toNat) : Completes c s (exec (.rnRead c 0) s) { past 4 c s with ds := 0x0103 :: r } := by
  obtain ⟨p, hf⟩ := exists_fetched hfetch
  have hk := task_fetched hf
  have hcore : coreOf p.s.toDev c = coreOf s.toDev c := coreOf_fetched hf
  have hbody : rnReadBody p = (.ok (), (p.withDs (0x0103 :: r))) := by
    rw [rnReadBody_operands ((held_fetched hf).trans hds), if_pos hlen]
    exact push_room (o := p.withDs r) hroom
  rw [exec_rnRead]
  refine completes_of_body hf hbody (postKeepsDev_nil hf.same.post) hcore ?_
  rw [OcdS.withDs, hk]

/-- The bytes taken are stored, and ST_OK is pushed. -/
theorem rnReadBody_stores {b : Bytes} {q u : OcdS} (hds : p.k.ds = n :: ptr :: r) (hlen : 4 ≤ n.toNat ∧ n.toNat ≤ 256)
    (hcheck : segCheck p.k (ptrSeg ptr) .w (ptrOff ptr) n.toNat 1 = none)
    (htake : takeRandom n.toNat (p.withDs r) = (.ok (stOk, b), q))
    (hstore : storeBytes (ptrSeg ptr) (ptrOff ptr) 1 b q = (.ok (), u)) (hroom : u.k.ds.length < 32) :
    rnReadBody p = (.ok (), u.withDs (0 :: u.k.ds)) := by
  have hgood : ¬ (n.toNat < 4 ∨ 256 < n.toNat) := by omega
  have hsegs : segOnly (ptrSeg ptr) .w (ptrOff ptr) n.toNat 1 (p.withDs r) = (.ok (), p.withDs r) := by
    have hcheck' : segCheck (p.withDs r).k (ptrSeg ptr) .w (ptrOff ptr) n.toNat 1 = none := hcheck
    simp only [segOnly, ocd_bind, ocd_get, hcheck', ocd_pure]
  rw [rnReadBody_operands hds, if_neg hgood]
  simp only [ocd_bind, hsegs, htake, if_true, hstore]
  exact push_room hroom

theorem rnRead_stores (hds : (coreK c s).ds = n :: ptr :: r) (hroom : r.length < 32) (hlen : 4 ≤ n.toNat ∧ n.toNat ≤ 256)
    (hgoes : drbgGoes c s = true) (hqueued : n.toNat ≤ (drbgQueue c s).length) (hram : inRam (coreK c s) (ptrSeg ptr) (ptrOff ptr) = true)
    (hreach : reaches c 4 (access (ptrSeg ptr) .w (ptrOff ptr) n.toNat 1 .write) s = true) :
    Stores c s (exec (.rnRead c 0) s) { past 4 c s with ds := 0 :: r } (ramAt (coreK c s) (ptrSeg ptr) (ptrOff ptr))
        ((drbgQueue c s).take n.toNat)
      ∧ Gives (exec (.rnRead c 0) s) (fun u => drbgQueue c u = (drbgQueue c s).drop n.toNat) := by
  obtain ⟨p, a, hf, hacc⟩ := exists_reached hreach
  obtain ⟨hsame, hcheck⟩ := access_ok hacc
  have hk : a.k = past 4 c s := hsame.task.trans (task_fetched hf)
  have hnopost : a.post = [] := hsame.post.trans hf.same.post
  have hqueue := drbgQueue_fetched hf
  generalize hb : (drbgQueue c s).take n.toNat = b
  have hblen : b.length = n.toNat := by rw [← hb, List.length_take, Nat.min_eq_left hqueued]
  have htake : takeRandom n.toNat (p.withDs r) = (.ok (stOk, b), p.swapped c.region (drawn n.toNat) r) := by
    rw [← hb, ← hqueue]
    exact takeRandom_queued hf.same.core ((drbgGoes_fetched hf).trans hgoes) (hqueue ▸ hqueued)
  have hsegs : (a.swapped c.region (drawn n.toNat) r).k.segs = (coreK c s).segs := by
    rw [OcdS.swapped, hk]
    rfl
  have hram' : inRam (a.swapped c.region (drawn n.toNat) r).k (ptrSeg ptr) (ptrOff ptr) = true := by
    rw [inRam_of_segs hsegs, hram]
  have hstore := storeBytes_ram (hblen ▸ access_swapped hacc) hram' hnopost
  have hbody := rnReadBody_stores ((held_fetched hf).trans hds) hlen hcheck htake hstore hroom
  have hdie : a.s.die = p.s.die := hsame.die
  have hcore : coreOf a.s.toDev c = coreOf s.toDev c := by
    rw [← coreOf_fetched hf, coreOf, regionOf, hdie]
    rfl
  have hleft : drbgQueue c a.s = drbgQueue c s := by
    rw [← hqueue, drbgQueue, regionOf, hdie]
    rfl
  have hmem : a.s.mem = s.mem := hsame.mem.trans hf.same.mem
  rw [exec_rnRead]
  constructor
  · rw [← ramAt_of_segs hsegs]
    refine stores_of_body hf hbody rfl hram' ((coreOf_drawn n.toNat _).trans hcore) hmem ?_
    rw [OcdS.withDs, OcdS.swapped, hk]
  · refine (drbgQueue_of_body hf hbody (postKeepsDev_segStore rfl hram')).trans ?_
    exact (queue_drawn n.toNat _).trans (congrArg (·.drop n.toNat) hleft)

end

theorem randomOperationsComplete : RandomOperationsComplete := by
  refine ⟨?_, ?_, ?_, ?_⟩
  · intro c s hfetch hroom hgoes hlen
    exact rnWord_queued hfetch hroom hgoes hlen
  · intro c s n p r hds hroom hlo hhi hgoes hqueued hram hreach
    exact rnRead_stores hds hroom ⟨hlo, hhi⟩ hgoes hqueued hram hreach
  · intro c s n p r hfetch hds hroom hlen
    exact rnRead_refuses hfetch hds hroom hlen
  · intro c s x v hfetch hroom hread hstage
    exact rnWord_waited hfetch hroom hread hstage

end

/-- Settles O56: each instruction's fetch leaves its task past the instruction, and its body then runs to its end: GETC reads the
task, RN_WORD and RN_READ take from the queue, and a store's access meets the keyways alike before and after the bytes are taken. -/
theorem taskConstantsAndRandomComplete : Obligations.TaskConstantsAndRandomComplete :=
  ⟨taskConstantsComplete, randomOperationsComplete⟩

end Sys2Proof.Machine
end

section
/-! PROOF. The vault engine (09): a partition made with a draw from a DRBG whose key has lost a byte (R206, R226, R227). -/

namespace Sys2Proof.Machine

/-- PART_CREATE of partition 0 for the Keeper. -/
def createsPartition : Cmd := { cid := 1, code := 0x0160, seq := 1, params := fit [0, 0x80] 64 }

/-- The command may start, the vault engine is ready and the store holds all its positions. The one DRBG that serves has generates
enough left in its seed period; its key has 31 bytes. -/
def createWithShortKey : State := {
  die := { regions := [(0, { drbg := { shortKeyDrbg with reqsLeft := 65 } })] }
  cpm := { power := .ready }
  nvm := { positions := (List.range 10).map some }
  vlt := { ready := true }
  hif := { cmds := [createsPartition] } }

/-- The hypotheses of the clause on PART_CREATE that are on the command and the partition hold. -/
theorem createWithShortKey_command :
    starts 0x0160 1 (plainRead []) createWithShortKey = true ∧ zeroFrom 1 66 createWithShortKey = true
      ∧ noHandles 1 createWithShortKey = true ∧ 0 = param 1 64 1 createWithShortKey ∧ 0x80 = param 1 65 1 createWithShortKey
      ∧ (partIn 0 createWithShortKey).owner = 0 := by
  decide +kernel

/-- Those on the vault, the store and the DRBGs hold. -/
theorem createWithShortKey_room :
    keepOnly createWithShortKey.toDev = false ∧ createWithShortKey.vlt.ready = true ∧ createWithShortKey.vlt.commit = none
      ∧ dirRoom createWithShortKey.toDev worldK = true ∧ persRoom createWithShortKey.toDev worldK = true
      ∧ slotsPinned createWithShortKey.toDev + spanOf 32 ≤ 49152 ∧ spanOf 32 ≤ slotsFree createWithShortKey.toDev
      ∧ canDraw createWithShortKey = true := by
  decide +kernel

/-- The draw of 32 bytes gives 4, and they become the partition's key. -/
theorem createWithShortKey_key :
    (partIn 0 (onDev (runCmd 0x0160 1 (plainRead []) false partCreate) createWithShortKey)).key.length = 4 := by
  decide +kernel

/-- Refutes O35: its clause on PART_CREATE gives the new partition a key of 32 bytes. The key is what the DRBG draws; where the
DRBG's key has 31 bytes, its key schedule ends within a word and the blocks of the cipher, and with them the draw, come out short.
The clause lacks the hypothesis that the DRBG's key has the 32 bytes of R206. -/
theorem not_vaultEpochsRun : ¬ Obligations.VaultEpochsRun := by
  unfold Obligations.VaultEpochsRun
  rintro ⟨-, -, -, -, -, -, -, -, -, hcreate, -⟩
  obtain ⟨hstarts, hzero, hnone, hpart, howner, hfree⟩ := createWithShortKey_command
  obtain ⟨hkeep, hready, hcommit, hdir, hpers, hpinned, hslots, hdraw⟩ := createWithShortKey_room
  obtain ⟨-, -, -, -, hlen, -⟩ := hcreate 1 (plainRead []) 0 0x80 createWithShortKey hstarts hzero hnone hpart (Nat.zero_le _) howner
    (.inr rfl) hfree hkeep hready hcommit hdir hpers hpinned hslots hdraw
  exact absurd (hlen.symm.trans createWithShortKey_key) (by decide)

end Sys2Proof.Machine
end

section
/-! PROOF. What the end of a command or of a task leaves of the tumblers and cores (R294, R296, R304). -/

namespace Sys2Proof.Machine

/-- What a region's tumbler and cores are. -/
def tumblerOf (d : Dev) (r : Nat) : TmbS × Tab CoreS := ((regionOf d r).tmb, (regionOf d r).cores)

section
variable {d e : Dev}

theorem taskOf_of_tumbler {r : Nat} (h : tumblerOf e r = tumblerOf d r) (t : Nat) : taskOf e r t = taskOf d r t :=
  congrArg (fun x : TmbS × Tab CoreS => tget x.1.tasks t {}) h

theorem coreOf_of_tumbler {c : CoreId} (h : tumblerOf e c.region = tumblerOf d c.region) : coreOf e c = coreOf d c :=
  congrArg (fun x : TmbS × Tab CoreS => tget x.2 c.pos {}) h

theorem tmb_of_tumbler {r : Nat} (h : tumblerOf e r = tumblerOf d r) : (regionOf e r).tmb = (regionOf d r).tmb :=
  congrArg (·.1) h

theorem tumblerOf_of_die (h : e.die = d.die) (r : Nat) : tumblerOf e r = tumblerOf d r := by
  simp only [tumblerOf, regionOf, h]

end

section
variable (d : Dev) (q : Nat)

theorem tumblerOf_onRegion (r : Nat) {f : RegionS → RegionS} (h : ∀ x, ((f x).tmb, (f x).cores) = (x.tmb, x.cores)) :
    tumblerOf (onRegion r f d) q = tumblerOf d q := by
  by_cases hq : q = r
  · subst hq
    rw [tumblerOf, regionOf_onRegion_self]
    exact h _
  · rw [tumblerOf, regionOf_onRegion_ne d f hq]
    rfl

@[simp] theorem tumblerOf_countEnd (c : Cmd) : tumblerOf (countEnd c d) q = tumblerOf d q := by
  unfold countEnd
  split
  any_goals split
  any_goals exact tumblerOf_onRegion _ _ _ fun _ => rfl
  all_goals rfl

@[simp] theorem tumblerOf_finish (cid : Nat) (r : Res) : tumblerOf (finish cid r d) q = tumblerOf d q := by
  unfold finish
  split
  · rfl
  · split
    · rfl
    · exact tumblerOf_countEnd ..

@[simp] theorem tumblerOf_cancelsDone (cid : Nat) : tumblerOf (cancelsDone cid d) q = tumblerOf d q :=
  forAll_keeps (tumblerOf · q) (fun _ d => tumblerOf_finish d q _ _) _ d

@[simp] theorem tumblerOf_logEv (code source p1 p2 p3 : Nat) : tumblerOf (logEv code source p1 p2 p3 d) q = tumblerOf d q :=
  tumblerOf_of_die (logEv_die ..) q

end

/-! ## Cores beside an update of one by its position -/

section
variable (d : Dev) {r : Nat}

theorem tmb_onCoreP (p : Nat) (f : CoreS → CoreS) (q : Nat) : (regionOf (onCoreP r p f d) q).tmb = (regionOf d q).tmb := by
  by_cases hq : q = r
  · subst hq
    rw [onCoreP, regionOf_onRegion_self]
  · rw [onCoreP, regionOf_onRegion_ne d _ hq]

theorem taskOf_onCoreP (p : Nat) (f : CoreS → CoreS) (q t : Nat) : taskOf (onCoreP r p f d) q t = taskOf d q t := by
  rw [taskOf, tmb_onCoreP, taskOf]

theorem onCoreP_pos (c : CoreId) (f : CoreS → CoreS) : onCoreP c.region c.pos f = onCore c f := rfl

theorem taskOf_freeCore (t q u : Nat) : taskOf (freeCore r t d) q u = taskOf d q u := by
  unfold freeCore
  split
  · exact taskOf_onCoreP ..
  · rfl

theorem tmb_freeCore (t q : Nat) : (regionOf (freeCore r t d) q).tmb = (regionOf d q).tmb := by
  unfold freeCore
  split
  · exact tmb_onCoreP ..
  · rfl

end

end Sys2Proof.Machine
end

section
/-! PROOF. The control registers of a core and of a DMA channel act for their worlds (R299, R373, R376, R507). -/

namespace Sys2Proof.Machine

/-! ## The registers of a core -/

theorem SameButKw.lc {d e : Dev} (h : SameButKw d e) : e.lc = d.lc := by rw [h]
theorem SameButKw.dma {d e : Dev} (h : SameButKw d e) : e.dma = d.dma := by rw [h]
theorem SameButKw.coreOf {d e : Dev} (h : SameButKw d e) (c : CoreId) : coreOf e c = Machine.coreOf d c :=
  coreOf_of_tumbler (tumblerOf_of_die h.die _)
theorem SameButKw.chOf {d e : Dev} (h : SameButKw d e) (i ch : Nat) : chOf e i ch = Machine.chOf d i ch := by
  rw [Machine.chOf, dmaOf, h.dma]
  rfl
theorem SameButKw.dmaDown {d e : Dev} (h : SameButKw d e) (i : Nat) : dmaDown e i = Machine.dmaDown d i := by
  rw [Machine.dmaDown, blkResetting, h.die]
  rfl
theorem SameButKw.debugAdmitted {d e : Dev} (h : SameButKw d e) : debugAdmitted e = Machine.debugAdmitted d := by
  rw [Machine.debugAdmitted, h.lc]
  rfl

section
variable {acc : Access} {c : CoreId} {s : State} {m off : Nat}

/-- A world that the register names acts, world D where debug access is admitted (R30, R531). -/
theorem regAction_writer {ws : List World} (hgo : regGoes acc m off s = true) (hw : writerOf acc ws s = true) (act : Dev → Dev) :
    ∃ e, SameButKw s.toDev e ∧ regAction acc m off ws act s.toDev = act e := by
  obtain ⟨e, hsame, hact⟩ := regAction_of_regGoes hgo ws act
  refine ⟨e, hsame, hact.trans (if_pos ?_)⟩
  rw [hsame.debugAdmitted]
  exact hw

theorem exec_ocdHalt : exec (.ocdHalt acc c) s = nextD (regAction acc (corePage c) 8 [.K, .D] (coreHalt c)) s := rfl
theorem exec_ocdResume : exec (.ocdResume acc c) s = nextD (regAction acc (corePage c) 8 [.K, .D] (coreResume c)) s := rfl
theorem exec_ocdStep : exec (.ocdStep acc c) s = nextD (regAction acc (corePage c) 8 [.K, .D] (coreStep c)) s := rfl

theorem coreOf_coreHalt (d : Dev) : coreOf (coreHalt c d) c = { coreOf d c with halt := true, halted := true } :=
  coreOf_onCore_self ..
theorem coreOf_coreResume (d : Dev) : coreOf (coreResume c d) c = { coreOf d c with halt := false, halted := false, step := false } :=
  coreOf_onCore_self ..
theorem coreOf_coreStep (d : Dev) : (coreOf (coreStep c d) c).step = ((coreOf d c).step || (coreOf d c).halt) := by
  rw [coreStep, coreOf_onCore_self]
  split
  next hhalt => simp [hhalt]
  next hhalt => simp [hhalt]

theorem pageSource_corePage (c : CoreId) : pageSource (corePage c) = coreMaster c := by
  obtain ⟨r, p⟩ := c
  revert r p
  decide

/-- A core's page lies below the fifth region's window. -/
theorem corePage_high (c : CoreId) : (pageBase (corePage c) + 8) / 2 ^ 32 % 256 = (pageBase (corePage c) + 8) / 2 ^ 32 := by
  obtain ⟨r, p⟩ := c
  revert r p
  decide

theorem coreRegisters_act (hgo : regGoes acc (corePage c) 8 s = true) (hw : writerOf acc [.K, .D] s = true) :
    Gives (exec (.ocdHalt acc c) s) (fun u => (coreOf u.toDev c).halt = true ∧ (coreOf u.toDev c).halted = true
        ∧ (coreOf u.toDev c).task = (coreOf s.toDev c).task)
      ∧ Gives (exec (.ocdResume acc c) s) (fun u => (coreOf u.toDev c).halt = false ∧ (coreOf u.toDev c).halted = false)
      ∧ Gives (exec (.ocdStep acc c) s) (fun u => (coreOf u.toDev c).step = ((coreOf s.toDev c).step || (coreOf s.toDev c).halt)) := by
  refine ⟨?_, ?_, ?_⟩
  · obtain ⟨e, hsame, hact⟩ := regAction_writer hgo hw (coreHalt c)
    rw [exec_ocdHalt, gives_nextD, onDev_toDev, hact, coreOf_coreHalt, hsame.coreOf]
    exact ⟨rfl, rfl, rfl⟩
  · obtain ⟨e, hsame, hact⟩ := regAction_writer hgo hw (coreResume c)
    rw [exec_ocdResume, gives_nextD, onDev_toDev, hact, coreOf_coreResume]
    exact ⟨rfl, rfl⟩
  · obtain ⟨e, hsame, hact⟩ := regAction_writer hgo hw (coreStep c)
    rw [exec_ocdStep, gives_nextD, onDev_toDev, hact, coreOf_coreStep, hsame.coreOf]

/-- The custodian's write is refused with EV_2201 of kind 3 under the core's source. -/
theorem ocdHalt_refused (hC : acc.world = .C) (hgo : regGoes acc (corePage c) 8 s = true) (hroom : logRoom s = true) :
    Gives (exec (.ocdHalt acc c) s) (fun u => coreOf u.toDev c = coreOf s.toDev c
      ∧ logged 0x2201 (coreMaster c) (3 * 2 ^ 24 + tagOf acc) ((pageBase (corePage c) + 8) % 2 ^ 32)
        ((pageBase (corePage c) + 8) / 2 ^ 32) u = true) := by
  obtain ⟨e, hsame, hact, hlog⟩ := regAction_refused (ws := [.K, .D]) (act := coreHalt c) hgo (by simp [hC]) hroom
  rw [exec_ocdHalt, gives_nextD]
  refine ⟨?_, ?_⟩
  · rw [onDev_toDev, hact, ← hsame.coreOf]
    exact coreOf_of_tumbler (tumblerOf_logEv ..)
  · rw [← pageSource_corePage, ← corePage_high]
    exact hlog _ hact

end

/-! ## The registers of a DMA channel -/

section
variable {acc : Access} {i : DmaInst} {ch : Channel} {s : State}

theorem exec_dmaChStart : exec (.dmaChStart acc i ch) s =
    nextD (regAction acc (dmaPage i) (0x108 + 0x20 * ch.val) [.K] (chStartWrite acc i ch)) s := rfl
theorem exec_dmaChStop : exec (.dmaChStop acc i ch) s =
    nextD (regAction acc (dmaPage i) (0x108 + 0x20 * ch.val) [.K] (chStopWrite i ch)) s := rfl

theorem chOf_onCh_self (d : Dev) (i ch : Nat) (f : ChS → ChS) : chOf (onCh i ch f d) i ch = f (chOf d i ch) := by
  simp [chOf, onCh, onDma, dmaOf]

/-- The datapath's choice leaves the channels. -/
theorem chOf_dmaPick (d : Dev) (i ch : Nat) : chOf (dmaPick i d) i ch = chOf d i ch := by
  have hchans : ∀ x : DmaS, (dmaTake x).chans = x.chans := fun x => by
    unfold dmaTake
    split <;> rfl
  simp only [chOf, dmaPick, dmaOf, onDma, tget_tmod_self]
  split
  · rfl
  · rw [hchans]

/-- A list begins from full initialisation where its DMA is in service. -/
theorem chOf_chBegin {d : Dev} {i ch : Nat} (f : ChS → ChS) (hup : dmaDown d i = false) :
    chOf (chBegin i ch f d) i ch = { f (chClear (chOf d i ch)) with
      startHeld := false, stop := false, state := .running, kind := 0, skipped := 0, retries := 0, done := 0, offset := 0 } := by
  simp only [chBegin, hup, Bool.false_eq_true, if_false]
  rw [chOf_dmaPick, chOf_onCh_self]

theorem chStartWrite_free {d : Dev} (hfree : chBusy (chOf d i ch) = false) : chStartWrite acc i ch d = chStart i ch d := by
  unfold chStartWrite
  split
  next h => simp [chBusy, h] at hfree
  next h => simp [chBusy, h] at hfree
  next => rfl

theorem chStartWrite_stopping {d : Dev} (h : (chOf d i ch).state = .stopping) :
    chStartWrite acc i ch d = onCh i ch (fun c => { c with startHeld := true }) d := by
  simp only [chStartWrite, h]

/-- A start of a channel that runs is refused with kind 5. -/
theorem chStartWrite_running {d : Dev} (h : (chOf d i ch).state = .running) :
    chOf (chStartWrite acc i ch d) i ch = chOf d i ch := by
  simp only [chStartWrite, h]
  rw [logRefused, logEv_eq_onEvr]
  rfl

section
variable (hgo : regGoes acc (dmaPage i) (0x108 + 0x20 * ch.val) s = true) (hK : acc.world = .K)
include hgo hK

theorem channelWrite_acts (act : Dev → Dev) : ∃ e, SameButKw s.toDev e
    ∧ regAction acc (dmaPage i) (0x108 + 0x20 * ch.val) [.K] act s.toDev = act e :=
  regAction_acts hgo (by simp [hK]) (by simp [hK])

theorem dmaChStart_starts (hfree : chBusy (chOf s.toDev i ch) = false) (hup : dmaDown s.toDev i = false) :
    Gives (exec (.dmaChStart acc i ch) s) (fun u => (chOf u.toDev i ch).state = .running
      ∧ (chOf u.toDev i ch).cur = (chOf s.toDev i ch).list
      ∧ (chOf u.toDev i ch).offset = 0 ∧ (chOf u.toDev i ch).done = 0 ∧ (chOf u.toDev i ch).ownerTask = none) := by
  obtain ⟨e, hsame, hact⟩ := channelWrite_acts hgo hK (chStartWrite acc i ch)
  have hstart := chStartWrite_free (acc := acc) ((congrArg chBusy (hsame.chOf i ch)).trans hfree)
  rw [exec_dmaChStart, gives_nextD, onDev_toDev, hact, hstart, chStart, chOf_chBegin _ ((hsame.dmaDown i).trans hup), hsame.chOf]
  exact ⟨rfl, rfl, rfl, rfl, rfl⟩

theorem dmaChStart_held (hstop : (chOf s.toDev i ch).state = .stopping) :
    Gives (exec (.dmaChStart acc i ch) s) (fun u => chOf u.toDev i ch = { chOf s.toDev i ch with startHeld := true }) := by
  obtain ⟨e, hsame, hact⟩ := channelWrite_acts hgo hK (chStartWrite acc i ch)
  have hheld := chStartWrite_stopping (acc := acc) ((congrArg (·.state) (hsame.chOf i ch)).trans hstop)
  rw [exec_dmaChStart, gives_nextD, onDev_toDev, hact, hheld, chOf_onCh_self, hsame.chOf]

theorem dmaChannel_running (hrun : (chOf s.toDev i ch).state = .running) :
    Gives (exec (.dmaChStop acc i ch) s) (fun u => chOf u.toDev i ch = { chOf s.toDev i ch with state := .stopping, stop := true })
      ∧ Gives (exec (.dmaChStart acc i ch) s) (fun u => chOf u.toDev i ch = chOf s.toDev i ch) := by
  constructor
  · obtain ⟨e, hsame, hact⟩ := channelWrite_acts hgo hK (chStopWrite i ch)
    have hruns : ((chOf e i ch).state == .running) = true := by rw [hsame.chOf, hrun]; rfl
    rw [exec_dmaChStop, gives_nextD, onDev_toDev, hact, chStopWrite, if_pos hruns, chOf_onCh_self, hsame.chOf]
  · obtain ⟨e, hsame, hact⟩ := channelWrite_acts hgo hK (chStartWrite acc i ch)
    rw [exec_dmaChStart, gives_nextD, onDev_toDev, hact, chStartWrite_running (by rw [hsame.chOf, hrun]), hsame.chOf]

end

end

/-- Settles O16: a write that the keyways let pass acts for the register's own worlds (`regAction_writer`), each register by its lemma
above, and world C's write of a core's register is refused (`regAction_refused`). -/
theorem coreAndChannelRegistersAct : Obligations.CoreAndChannelRegistersAct :=
  ⟨fun _ _ _ hgo hw => coreRegisters_act hgo hw, fun _ _ _ hC hgo hroom => ocdHalt_refused hC hgo hroom,
    fun _ _ _ _ hgo hK hfree hup => dmaChStart_starts hgo hK hfree hup, fun _ _ _ _ hgo hK hstop => dmaChStart_held hgo hK hstop,
    fun _ _ _ _ hgo hK hrun => dmaChannel_running hgo hK hrun⟩

end Sys2Proof.Machine
end

section
/-! PROOF. The tumbler's timers: a slice, an age, a time limit and the deadline of a wait (R291, R304, R306, R307). -/

namespace Sys2Proof.Machine

/-! ## Tasks put in the queue of their level -/

section
variable {d : Dev} {r t : Nat}

theorem taskOf_makeReady_self :
    taskOf (makeReady r t d) r t = { taskOf d r t with state := .ready, stamp := (regionOf d r).tmb.clock + 1 } := by
  simp [makeReady, taskOf, onTask, onTmb]

theorem cores_makeReady (q : Nat) : (regionOf (makeReady r t d) q).cores = (regionOf d q).cores := by
  by_cases hq : q = r
  · subst hq
    simp [makeReady, onTask, onTmb]
  · simp [makeReady, onTask, onTmb, regionOf_onRegion_ne _ _ hq]

theorem coreOf_makeReady (c : CoreId) : coreOf (makeReady r t d) c = coreOf d c := by
  rw [coreOf, cores_makeReady, coreOf]

end

/-! ## The slice -/

section
variable {c : CoreId} {t : Nat} {d : Dev}

/-- A task that runs on this core, and on none of a lower position, gives this one up. -/
theorem freeCore_of_running (h : coreRunning d c.region t = some c.pos.val) :
    freeCore c.region t d = onCore c (fun x => { x with task := none }) d := by
  simp only [freeCore, h, onCoreP_pos]

theorem timeSlice_expires (htask : (coreOf d c).task = some t) (hruns : coreRunning d c.region t = some c.pos.val)
    (hhalt : (coreOf d c).halt = false) (hheld : insHeld d c = false)
    (hpeer : (homedAt d c.region (taskOf d c.region t).home).any (fun x => x.2.state == .ready && x.2.ending.isNone
      && taskLevel x.2 == (taskOf d c.region t).priority) = true) :
    timeSlice c d = makeReady c.region t (onCore c (fun x => { x with task := none }) d) := by
  simp only [timeSlice, htask, hhalt, hheld, Bool.or_self, Bool.false_eq_true, if_false, hpeer, if_true, freeCore_of_running hruns]

theorem tmb_onCore (f : CoreS → CoreS) (q : Nat) : (regionOf (onCore c f d) q).tmb = (regionOf d q).tmb := tmb_onCoreP ..

theorem timeSliceExpire_gives {s : State} (htask : (coreOf s.toDev c).task = some t)
    (hruns : coreRunning s.toDev c.region t = some c.pos.val) (hhalt : (coreOf s.toDev c).halt = false) (hheld : insHeld s.toDev c = false)
    (hpeer : (homedAt s.toDev c.region (taskOf s.toDev c.region t).home).any (fun x => x.2.state == .ready && x.2.ending.isNone
      && taskLevel x.2 == (taskOf s.toDev c.region t).priority) = true) :
    Gives (exec (.timeSliceExpire c) s) (fun u => (coreOf u.toDev c).task = none
      ∧ taskOf u.toDev c.region t =
          { taskOf s.toDev c.region t with state := .ready, stamp := (regionOf s.toDev c.region).tmb.clock + 1 }) := by
  show (coreOf (timeSlice c s.toDev) c).task = none ∧ taskOf (timeSlice c s.toDev) c.region t = _
  rw [timeSlice_expires htask hruns hhalt hheld hpeer, coreOf_makeReady, coreOf_onCore_self, taskOf_makeReady_self, tmb_onCore,
    taskOf_onCore]
  exact ⟨rfl, rfl⟩

end

/-! ## Ages -/

theorem taskLevel_aged {k : Task} (h : k.priority + k.age < 14) : taskLevel { k with age := k.age + 1 } = taskLevel k + 1 := by
  have hprio : ¬ 14 ≤ k.priority := by omega
  simp only [taskLevel, hprio, if_false]
  omega

section
variable {r t : Nat} {d : Dev}

theorem taskLevel_taskAge (hready : (taskOf d r t).state = .ready) (hlow : (taskOf d r t).priority + (taskOf d r t).age < 14) :
    taskLevel (taskOf (taskAge r t d) r t) = taskLevel (taskOf d r t) + 1 := by
  simp only [taskAge, hready, hlow, beq_self_eq_true, decide_true, Bool.and_true, if_true, taskOf_onTask_self]
  exact taskLevel_aged hlow

theorem taskAge_top (htop : 14 ≤ (taskOf d r t).priority + (taskOf d r t).age) : taskAge r t d = d := by
  have hlow : ¬ (taskOf d r t).priority + (taskOf d r t).age < 14 := by omega
  simp [taskAge, hlow]

end

/-! ## The end of a task -/

section
variable {d : Dev} {r t : Nat} {e : Ending}

/-- A task that has not ended: it waits for its turn, runs or waits for an event. -/
def Task.lives (k : Task) : Prop := k.state ≠ .free ∧ k.state ≠ .done ∧ k.state ≠ .cancelled

theorem lives_of_contains {k : Task} (h : [TaskState.ready, .running, .waiting].contains k.state = true) : k.lives := by
  unfold Task.lives
  cases hs : k.state <;> simp [hs] at h ⊢

theorem hif_freeCore : (freeCore r t d).hif = d.hif := by
  unfold freeCore
  split <;> rfl

theorem dma_freeCore : (freeCore r t d).dma = d.dma := by
  unfold freeCore
  split <;> rfl

theorem taskQuiet_congr {d e : Dev} (hhif : e.hif = d.hif) (hdma : e.dma = d.dma) : taskQuiet e r t = taskQuiet d r t := by
  rw [taskQuiet, taskCmds, taskLists, dmaOf, hhif, hdma]
  rfl

theorem tumblerOf_logTrap_tmb (k : TrapRec) (q : Nat) : (regionOf (logTrap t k d) q).tmb = (regionOf d q).tmb := by
  unfold logTrap
  dsimp only
  split
  · rw [tmb_onCore, logEv_regionOf]
  · rw [logEv_regionOf]

/-- A task as its end leaves it, where nothing of it is outstanding. -/
def settled (e : Ending) (k : Task) : Task := { k with state := if e = .exit then .done else .cancelled, wake := 0, cancel := false }

/-- What `taskSettle` does to the tumblers before it logs a trap and ends the cancellations that wait. -/
def settling (r t : Nat) (e : Ending) (d : Dev) : Dev :=
  freeCore r t d |> onTask r t (settled e) |> doIf (e != .exit) (onTmb r (fun x => { x with cancels := x.cancels + 1 }))

theorem taskSettle_quiet (hend : (taskOf d r t).ending = some e) (hlives : (taskOf d r t).lives) (hquiet : taskQuiet d r t = true) :
    taskSettle r t d = cancelsDone (taskOf d r t).call (match (taskOf d r t).trap with
      | some tr => if e = .trap then logTrap t tr (settling r t e d) else settling r t e d
      | none => settling r t e d) := by
  obtain ⟨hfree, hdone, hcancelled⟩ := hlives
  simp only [taskSettle, hend, beq_eq_false_iff_ne.mpr hfree, beq_eq_false_iff_ne.mpr hdone, beq_eq_false_iff_ne.mpr hcancelled, hquiet,
    Bool.not_true, Bool.or_self, Bool.false_eq_true, if_false]
  rfl

theorem taskSettle_busy (hquiet : taskQuiet d r t = false) : taskSettle r t d = d := by
  unfold taskSettle
  dsimp only
  split
  · rfl
  · rw [if_pos (by simp [hquiet])]

/-- A task's end waits, or it has been decided and nothing of the task is outstanding. -/
theorem taskSettle_cases (d : Dev) (r t : Nat) : taskSettle r t d = d
    ∨ ∃ e, (taskOf d r t).ending = some e ∧ (taskOf d r t).lives ∧ taskQuiet d r t = true := by
  cases hend : (taskOf d r t).ending with
  | none => exact .inl (by simp only [taskSettle, hend])
  | some e =>
    cases hquiet : taskQuiet d r t with
    | false => exact .inl (taskSettle_busy hquiet)
    | true =>
      by_cases hlives : (taskOf d r t).lives
      · exact .inr ⟨e, rfl, hlives, rfl⟩
      · have hover : (taskOf d r t).state = .free ∨ (taskOf d r t).state = .done ∨ (taskOf d r t).state = .cancelled := by
          unfold Task.lives at hlives
          tauto
        refine .inl ?_
        rcases hover with h | h | h <;> simp [taskSettle, hend, h]

theorem taskOf_settling : taskOf (settling r t e d) r t = settled e (taskOf d r t) := by
  have htask : taskOf (onTask r t (settled e) (freeCore r t d)) r t = settled e (taskOf d r t) := by
    rw [taskOf_onTask_self, taskOf_freeCore]
  unfold settling
  cases e != .exit with
  | false => exact htask
  | true =>
    rw [doIf_true, ← htask]
    simp [taskOf, onTmb]

theorem cancels_onTask (f : Task → Task) : (regionOf (onTask r t f d) r).tmb.cancels = (regionOf d r).tmb.cancels := by
  simp [onTask, onTmb]

theorem cancels_settling (he : e ≠ .exit) : (regionOf (settling r t e d) r).tmb.cancels = (regionOf d r).tmb.cancels + 1 := by
  rw [settling, bne_iff_ne.mpr he, doIf_true, onTmb, regionOf_onRegion_self, cancels_onTask, tmb_freeCore]

/-- What is logged of a trap, and the cancellations that wait, leave the tumbler. -/
theorem tmb_taskSettle (hend : (taskOf d r t).ending = some e) (hlives : (taskOf d r t).lives) (hquiet : taskQuiet d r t = true)
    (q : Nat) : (regionOf (taskSettle r t d) q).tmb = (regionOf (settling r t e d) q).tmb := by
  rw [taskSettle_quiet hend hlives hquiet, tmb_of_tumbler (tumblerOf_cancelsDone ..)]
  cases (taskOf d r t).trap with
  | none => rfl
  | some tr =>
    dsimp only
    split
    · exact tumblerOf_logTrap_tmb ..
    · rfl

theorem taskOf_taskSettle_quiet (hend : (taskOf d r t).ending = some e) (hlives : (taskOf d r t).lives)
    (hquiet : taskQuiet d r t = true) : taskOf (taskSettle r t d) r t = settled e (taskOf d r t) := by
  rw [taskOf, tmb_taskSettle hend hlives hquiet, ← taskOf_settling]
  rfl

/-! ## A task whose end is decided -/

/-- A task that has given up its core with its end decided. -/
def decided (r t : Nat) (e : Ending) (d : Dev) : Dev :=
  onTask r t (fun x => { x with ending := some e, stop := none }) (freeCore r t d)

theorem taskEnding_eq : taskEnding r t e d = taskSettle r t (decided r t e d) := rfl

theorem taskOf_decided : taskOf (decided r t e d) r t = { taskOf d r t with ending := some e, stop := none } := by
  rw [decided, taskOf_onTask_self, taskOf_freeCore]

theorem taskQuiet_decided : taskQuiet (decided r t e d) r t = taskQuiet d r t := taskQuiet_congr hif_freeCore dma_freeCore

theorem taskOf_taskEnding_quiet (hlives : (taskOf d r t).lives) (hquiet : taskQuiet d r t = true) :
    taskOf (taskEnding r t e d) r t = settled e { taskOf d r t with ending := some e, stop := none } := by
  have hk := taskOf_decided (d := d) (r := r) (t := t) (e := e)
  rw [taskEnding_eq, taskOf_taskSettle_quiet (e := e) (by rw [hk]) (by rw [hk]; exact hlives) (taskQuiet_decided.trans hquiet), hk]

theorem taskOf_taskEnding_busy (hquiet : taskQuiet d r t = false) :
    taskOf (taskEnding r t e d) r t = { taskOf d r t with ending := some e, stop := none } := by
  rw [taskEnding_eq, taskSettle_busy (taskQuiet_decided.trans hquiet), taskOf_decided]

theorem cancels_taskEnding (he : e ≠ .exit) (hlives : (taskOf d r t).lives) (hquiet : taskQuiet d r t = true) :
    (regionOf (taskEnding r t e d) r).tmb.cancels = (regionOf d r).tmb.cancels + 1 := by
  have hk := taskOf_decided (d := d) (r := r) (t := t) (e := e)
  rw [taskEnding_eq, tmb_taskSettle (e := e) (by rw [hk]) (by rw [hk]; exact hlives) (taskQuiet_decided.trans hquiet), cancels_settling he,
    decided, cancels_onTask, tmb_freeCore]

/-! ## The time limit -/

section
variable (hlives : (taskOf d r t).lives) (hend : (taskOf d r t).ending = none) (hstop : (taskOf d r t).stop = none)
include hlives hend hstop

theorem cancelTask_open : cancelTask r t e d =
    if taskHeld d r t then onTask r t (fun x => { x with stop := some e }) (onTask r t (fun x => { x with cancel := true }) d)
    else taskEnding r t e (onTask r t (fun x => { x with cancel := true }) d) := by
  obtain ⟨hfree, hdone, hcancelled⟩ := hlives
  simp only [cancelTask, hend, hstop, beq_eq_false_iff_ne.mpr hfree, beq_eq_false_iff_ne.mpr hdone, beq_eq_false_iff_ne.mpr hcancelled,
    Option.isSome_none, Bool.or_self, Bool.false_eq_true, if_false]

/-- Nothing of the task is in progress: it is cancelled at once (R304). -/
theorem cancelTask_ends (he : e ≠ .exit) (hheld : taskHeld d r t = false) (hquiet : taskQuiet d r t = true) :
    (taskOf (cancelTask r t e d) r t).ending = some e ∧ (taskOf (cancelTask r t e d) r t).state = .cancelled
      ∧ (regionOf (cancelTask r t e d) r).tmb.cancels = (regionOf d r).tmb.cancels + 1 := by
  have hk := taskOf_onTask_self d r t (fun x => { x with cancel := true })
  have hlives' : (taskOf (onTask r t (fun x => { x with cancel := true }) d) r t).lives := by rw [hk]; exact hlives
  have hquiet' : taskQuiet (onTask r t (fun x => { x with cancel := true }) d) r t = true := (taskQuiet_congr rfl rfl).trans hquiet
  rw [cancelTask_open hlives hend hstop, hheld, if_neg Bool.false_ne_true, taskOf_taskEnding_quiet hlives' hquiet',
    cancels_taskEnding he hlives' hquiet', cancels_onTask]
  exact ⟨rfl, if_neg he, rfl⟩

/-- An instruction in progress completes first. -/
theorem cancelTask_stops (hheld : taskHeld d r t = true) :
    taskOf (cancelTask r t e d) r t = { taskOf d r t with cancel := true, stop := some e } := by
  rw [cancelTask_open hlives hend hstop, hheld, if_pos rfl, taskOf_onTask_self, taskOf_onTask_self]

end

theorem cancelTask_of_ending (hend : (taskOf d r t).ending.isSome = true) : cancelTask r t e d = d := by
  simp [cancelTask, hend]

/-! ## The deadline of a wait -/

section
variable (hwaits : (taskOf d r t).state = .waiting) (hend : (taskOf d r t).ending = none)
include hwaits hend

theorem waitDeadline_until (hwait : (taskOf d r t).wait = .until_) : (taskOf (waitDeadline r t d) r t).state = .ready
    ∧ (taskOf (waitDeadline r t d) r t).ds = (taskOf d r t).ds := by
  have hrow : waitDeadline r t d = makeReady r t (onTask r t (fun x => { x with wait := .none, wake := 0 }) d) := by
    simp [waitDeadline, hwaits, hend, hwait]
  rw [hrow, taskOf_makeReady_self, taskOf_onTask_self]
  exact ⟨rfl, rfl⟩

theorem waitDeadline_event (hwait : (taskOf d r t).wait = .eventUntil) : (taskOf (waitDeadline r t d) r t).state = .ready
    ∧ (taskOf (waitDeadline r t d) r t).ds = if eventPending d r (taskOf d r t) then (taskOf d r t).ds else 0 :: (taskOf d r t).ds := by
  cases hpending : eventPending d r (taskOf d r t) with
  | true =>
    have hrow : waitDeadline r t d = makeReady r t d := by simp [waitDeadline, hwaits, hend, hwait, hpending]
    rw [hrow, taskOf_makeReady_self]
    exact ⟨rfl, rfl⟩
  | false =>
    have hrow : waitDeadline r t d = makeReady r t (onTask r t (fun x => { x with wait := .none, wake := 0, ds := 0 :: x.ds }) d) := by
      simp [waitDeadline, hwaits, hend, hwait, hpending]
    rw [hrow, taskOf_makeReady_self, taskOf_onTask_self]
    exact ⟨rfl, rfl⟩

end

end

/-! ## The statement -/

section
variable {r : Region} {t : Nat} {s : State}

theorem exec_taskAgePromote : exec (.taskAgePromote r t) s = nextD (taskAge r t) s := rfl
theorem exec_taskTimeLimit : exec (.taskTimeLimit r t) s = nextD (cancelTask r t .limit) s := rfl
theorem exec_waitDeadline : exec (.waitDeadline r t) s = nextD (waitDeadline r t) s := rfl

/-- A row that leaves the device leaves the state. -/
theorem onDev_eq_self {f : Dev → Dev} (h : f s.toDev = s.toDev) : onDev f s = s := by
  unfold onDev
  rw [h]

end

/-- Settles O14: each timer's row by its lemma above, on a task that runs, is READY, lives or waits. -/
theorem tumblerTimersAct : Obligations.TumblerTimersAct := by
  unfold Obligations.TumblerTimersAct
  refine ⟨fun c t s htask hruns hhalt hheld hpeer => timeSliceExpire_gives htask hruns hhalt hheld hpeer,
    fun r t s hready hlow => ?_, fun r t s _ htop => ?_, fun r t s hlives hend hstop hheld hquiet => ?_,
    fun r t s hlives hend hstop hheld => ?_, fun r t s hend => ?_, fun r t s hwaits hend hwait => ?_,
    fun r t s hwaits hend hwait hpending => ?_, fun r t s hwaits hend hwait hpending => ?_⟩
  · rw [exec_taskAgePromote, gives_nextD]
    exact taskLevel_taskAge hready hlow
  · rw [exec_taskAgePromote, gives_nextD]
    exact onDev_eq_self (taskAge_top htop)
  · rw [exec_taskTimeLimit, gives_nextD]
    exact cancelTask_ends (lives_of_contains hlives) hend hstop (by decide) hheld hquiet
  · rw [exec_taskTimeLimit, gives_nextD]
    exact cancelTask_stops (lives_of_contains hlives) hend hstop hheld
  · rw [exec_taskTimeLimit, gives_nextD]
    exact onDev_eq_self (cancelTask_of_ending (by rw [hend]; rfl))
  · rw [exec_waitDeadline, gives_nextD]
    exact waitDeadline_until hwaits hend hwait
  · rw [exec_waitDeadline, gives_nextD]
    have hgives := waitDeadline_event hwaits hend hwait
    rwa [hpending] at hgives
  · rw [exec_waitDeadline, gives_nextD]
    have hgives := waitDeadline_event hwaits hend hwait
    rwa [hpending] at hgives

end Sys2Proof.Machine
end

section
/-! PROOF. Tasks end and complete their calls; a task's commands deliver their results (R285, R305). -/

namespace Sys2Proof.Machine

/-! ## Instances that nothing uses any more -/

section
variable (d : Dev) (r t cid : Nat)

theorem taskOf_onTmb (q : Nat) {f : TmbS → TmbS} (h : ∀ x, (f x).tasks = x.tasks) : taskOf (onTmb q f d) r t = taskOf d r t := by
  by_cases hr : r = q
  · subst hr
    simp [taskOf, onTmb, h]
  · simp [taskOf, onTmb, regionOf_onRegion_ne _ _ hr]

theorem taskOf_dropInst (n : Nat) : taskOf (dropInst n d) r t = taskOf d r t := by
  unfold dropInst
  refine forAll_keeps (taskOf · r t) (fun q d => ?_) _ d
  exact taskOf_onTmb d r t q fun _ => rfl

theorem hif_dropInst (n : Nat) : (dropInst n d).hif = d.hif := by
  unfold dropInst
  refine forAll_keeps (·.hif) (fun q d => ?_) _ d
  rfl

theorem storeOnly_recErase (id : Nat) : StoreOnly d (recErase id d) := (storeOnly_onNvm _ d).trans (storeOnly_stripesReuse _ _)

theorem die_recErase (id : Nat) : (recErase id d).die = d.die := by rw [storeOnly_recErase d id]
theorem hif_recErase (id : Nat) : (recErase id d).hif = d.hif := by rw [storeOnly_recErase d id]

theorem taskOf_retireOld : taskOf (retireOld d) r t = taskOf d r t := by
  unfold retireOld
  refine forAll_keeps (taskOf · r t) (fun a d => ?_) _ d
  rw [taskOf_of_tumbler (tumblerOf_logEv ..), taskOf_of_tumbler (tumblerOf_of_die (die_recErase ..) r)]
  exact taskOf_dropInst d r t a.inst

theorem hif_retireOld : (retireOld d).hif = d.hif := by
  unfold retireOld
  refine forAll_keeps (·.hif) (fun a d => ?_) _ d
  rw [logEv_hif, hif_recErase]
  exact hif_dropInst d a.inst

theorem taskOf_instanceCheck : taskOf (instanceCheck d) r t = taskOf d r t := taskOf_retireOld ..

theorem cmdOf?_instanceCheck : cmdOf? (instanceCheck d) cid = cmdOf? d cid := cmdOf?_of_hif (hif_retireOld (sessMove d)) cid

theorem tget_tdel_self {α : Type} (l : Tab α) (k : Nat) (x : α) : tget (tdel l k) k x = x := by
  have hnone : (tdel l k).lookup k = none := by
    rw [List.lookup_eq_none_iff]
    intro p hp
    simpa using Ne.symm (bne_iff_ne.mp (List.mem_filter.mp hp).2)
  rw [tget, tget?, hnone]
  rfl

theorem taskOf_freeTask : taskOf (freeTask r t d) r t = {} := by
  simp [taskOf, freeTask, onTmb, tget_tdel_self]

end

/-! ## The end of a task -/

section
variable {r : Region} {t : Nat} {s : State}

theorem exec_taskEnd : exec (.taskEnd r t) s = nextT (taskEnd r t (replyOf r t s)) s := rfl

theorem gives_next {u : State} {P : State → Prop} : Gives (.next u) P ↔ P u := Iff.rfl

theorem gives_nextT {f : Dev → Dev} {P : State → Prop} : Gives (nextT f s) P ↔ P (withTasks f s) := Iff.rfl

theorem isDone_eq_false {d : Dev} {c : Cmd} {cid : Nat} (hc : cmdOf? d cid = some c)
    (hopen : isDone ((cmdOf? d cid).getD { cid := cid }) = false) :
    isDone c = false := by
  rwa [hc] at hopen

/-- A task that has ended completes its call with what `callResult` gives, where that logs nothing, and is free. -/
theorem taskEnd_completes {res : Res} (hover : (taskOf s.toDev r t).state = .done ∨ (taskOf s.toDev r t).state = .cancelled)
    (hstop : (taskOf s.toDev r t).stop = none) (hcall : (cmdOf? s.toDev (taskOf s.toDev r t).call).isSome = true)
    (hopen : isDone (theCmd (taskOf s.toDev r t).call s) = false)
    (hres : callResult r t (taskOf s.toDev r t) (replyOf r t s) = (res, id)) :
    EndsWith (exec (.taskEnd r t) s) (taskOf s.toDev r t).call res (fun u => (taskOf u.toDev r t).state = .free) := by
  obtain ⟨c, hc⟩ := Option.isSome_iff_exists.mp hcall
  have hended : ((taskOf s.toDev r t).state == .done || (taskOf s.toDev r t).state == .cancelled) = true := by
    rcases hover with h | h <;> simp [h]
  have hrow : taskEnd r t (replyOf r t s) s.toDev =
      instanceCheck (freeTask r t (finish (taskOf s.toDev r t).call res s.toDev)) := by
    simp only [taskEnd, stopTask, hstop, hended, if_true, hres, id]
  rw [exec_taskEnd, EndsWith, gives_nextT]
  have hdev : (withTasks (taskEnd r t (replyOf r t s)) s).toDev = taskEnd r t (replyOf r t s) s.toDev := rfl
  refine ⟨stage_theCmd_of_cmdOf? ?_, ?_⟩
  · rw [hdev, hrow, cmdOf?_instanceCheck]
    exact finish_stage s.toDev res hc (isDone_eq_false hc hopen)
  · rw [hdev, hrow, taskOf_instanceCheck, taskOf_freeTask]

end

/-! ## What the wake and the end of a task leave of every task -/

section
variable {β : Type} {v : Task → β} (d : Dev) (r t q u : Nat)

theorem onTask_keeps {f : Task → Task} (hf : ∀ k, v (f k) = v k) : v (taskOf (onTask r t f d) q u) = v (taskOf d q u) := by
  by_cases h : q = r ∧ u = t
  · obtain ⟨rfl, rfl⟩ := h
    rw [taskOf_onTask_self, hf]
  · rw [taskOf_onTask_ne d f h]

theorem makeReady_keeps (hv : ∀ k st n, v { k with state := st, stamp := n } = v k) :
    v (taskOf (makeReady r t d) q u) = v (taskOf d q u) :=
  (congrArg v (taskOf_onTmb _ q u r fun _ => by rfl)).trans (onTask_keeps d r t q u fun k => hv k _ _)

theorem wakeTasks_keeps (hv : ∀ k st n, v { k with state := st, stamp := n } = v k) :
    v (taskOf (wakeTasks r d) q u) = v (taskOf d q u) := by
  unfold wakeTasks
  refine forAll_keeps (fun d => v (taskOf d q u)) (fun x d => ?_) _ d
  exact makeReady_keeps d r x.1 q u hv

theorem settling_keeps (e : Ending) (hv : ∀ k st w b, v { k with state := st, wake := w, cancel := b } = v k) :
    v (taskOf (settling r t e d) q u) = v (taskOf d q u) := by
  have hcounted : taskOf (settling r t e d) q u = taskOf (onTask r t (settled e) (freeCore r t d)) q u := by
    unfold settling
    refine doIf_keeps (taskOf · q u) (fun d => ?_) _ _
    exact taskOf_onTmb d q u r fun _ => rfl
  rw [hcounted, ← taskOf_freeCore d (r := r) t q u]
  exact onTask_keeps (f := settled e) _ r t q u fun k => hv k _ _ _

theorem taskSettle_keeps (hv : ∀ k st w b, v { k with state := st, wake := w, cancel := b } = v k) :
    v (taskOf (taskSettle r t d) q u) = v (taskOf d q u) := by
  rcases taskSettle_cases d r t with h | ⟨e, hend, hlives, hquiet⟩
  · rw [h]
  · rw [← settling_keeps d r t q u e hv]
    exact congrArg (fun x : TmbS => v (tget x.tasks u {})) (tmb_taskSettle hend hlives hquiet q)

end

/-! ## A command's result -/

section
variable (d : Dev) (r t cid : Nat)

theorem hif_wakeTasks : (wakeTasks r d).hif = d.hif := by
  unfold wakeTasks
  refine forAll_keeps (·.hif) (fun x d => ?_) _ d
  rfl

theorem hif_logTrap (k : TrapRec) : (logTrap t k d).hif = d.hif := by
  unfold logTrap
  dsimp only
  split
  · exact logEv_hif ..
  · exact logEv_hif ..

theorem inFlight_cancelsDone (x : Nat) : inFlight cid (cancelsDone x d) = inFlight cid d := by
  unfold cancelsDone
  refine forAll_keeps (inFlight cid) (fun c d => ?_) _ d
  exact inFlight_finish ..

theorem hif_settling (e : Ending) : (settling r t e d).hif = d.hif := by
  unfold settling
  refine (doIf_keeps (·.hif) (fun d => ?_) _ _).trans ?_
  · rfl
  · exact hif_freeCore

theorem inFlight_taskSettle : inFlight cid (taskSettle r t d) = inFlight cid d := by
  rcases taskSettle_cases d r t with h | ⟨e, hend, hlives, hquiet⟩
  · rw [h]
  · rw [taskSettle_quiet hend hlives hquiet, inFlight_cancelsDone]
    refine inFlight_of_hif _ ?_
    cases (taskOf d r t).trap with
    | none => exact hif_settling ..
    | some k =>
      dsimp only
      split
      · exact (hif_logTrap ..).trans (hif_settling ..)
      · exact hif_settling ..

end

section
variable {cid : Nat} {k : TaskRef} {res : Res} {c : Cmd} {s : State}

theorem exec_cpCommandComplete : exec (.cpCommandComplete cid) s = .next (cpComplete cid s) := rfl

/-- The state with the output and the result of a task's command written. -/
def delivered (k : TaskRef) (c : Cmd) (res : Res) (s : State) : State :=
  segStore (taskOf s.toDev k.region k.task) k.resSeg k.resOff (resultBytes c res)
    (cpOutput k c res { s with toDev := (resPass k s.toDev).2 })

/-- The command is gone, its task's latch is set, and a task that waits for it goes on or ends. -/
def collected (cid : Nat) (k : TaskRef) (d : Dev) : Dev :=
  cmdDrop cid d |> onTask k.region k.task (fun x => { x with latch := true }) |> wakeTasks k.region |> taskSettle k.region k.task

theorem cpComplete_delivers (hc : cmdOf? s.toDev cid = some c) (horigin : c.origin = .task k) (hdone : c.stage = .done res)
    (hfirst : resultWaits s.toDev k = false) (hcode : c.code ≠ 0xFF05) (hpass : (resPass k s.toDev).1 = .allowed) :
    cpComplete cid s = onDev (collected cid k) (delivered k c res s) := by
  unfold cpComplete
  simp only [hc, horigin, hdone, hfirst, decide_eq_false hcode, hpass]
  rfl

theorem latch_collected (d : Dev) : (taskOf (collected cid k d) k.region k.task).latch = true := by
  have hset : (taskOf (onTask k.region k.task (fun x => { x with latch := true }) (cmdDrop cid d)) k.region k.task).latch = true := by
    rw [taskOf_onTask_self]
  unfold collected
  rw [taskSettle_keeps (v := Task.latch) _ _ _ _ _ fun _ _ _ _ => rfl, wakeTasks_keeps (v := Task.latch) _ _ _ _ fun _ _ _ => rfl]
  exact hset

theorem cmdOf?_collected (d : Dev) : cmdOf? (collected cid k d) cid = none := by
  have hgone : inFlight cid (cmdDrop cid d) = false := by
    simp [inFlight, cmdOf?, cmdDrop, List.find?_eq_none]
  have hsame : inFlight cid (collected cid k d) = inFlight cid (cmdDrop cid d) := by
    unfold collected
    rw [inFlight_taskSettle, inFlight_of_hif _ (hif_wakeTasks ..)]
    rfl
  rw [hgone] at hsame
  simpa [inFlight] using hsame

theorem entryBytes_length (r : Res) (session seq tag : Word32) (sqHead qp flags : Nat) (qmask : BitVec 16) :
    (entryBytes r session seq tag sqHead qp flags qmask).length = 32 := by
  simp [entryBytes]

theorem wf_segStore {t : Task} {n off : Nat} {b : Bytes} {u : State} (h : Memory.wf u.mem) : Memory.wf (segStore t n off b u).mem := by
  unfold segStore
  dsimp only
  split
  · exact h
  · split
    · exact Memory.wf_memSetN h _ _
    · exact h

theorem wf_cpOutput {u : State} (h : Memory.wf u.mem) : Memory.wf (cpOutput k c res u).mem := by
  have hout : ∀ out : Bytes, Memory.wf (if out.isEmpty then u else match outTarget c with
      | some (n, o) => segStore (taskOf u.toDev k.region k.task) n o out u
      | none => u).mem := fun out => by
    split
    · exact h
    · split
      · exact wf_segStore h
      · exact h
  unfold cpOutput
  dsimp only
  split
  · split
    · exact wf_segStore (hout _)
    · exact hout _
  · exact hout _

theorem mem_delivered (hram : inRam (taskOf s.toDev k.region k.task) k.resSeg k.resOff = true) (hwf : Memory.wf s.mem) :
    memGetN (delivered k c res s).mem (ramAt (taskOf s.toDev k.region k.task) k.resSeg k.resOff) 32
      = entryBytes res c.session c.seq c.tag 0 0 0 0 := by
  have hlen := entryBytes_length res c.session c.seq c.tag 0 0 0 0
  rw [delivered, segStore_ram _ _ hram, onMem_mem, ← hlen]
  exact memGetN_memSetN (wf_cpOutput (u := { s with toDev := (resPass k s.toDev).2 }) hwf) _ _

end

/-- Settles O15: a task that has ended completes its call by `taskEnd_completes`, with the reply it left or the status of its
cancellation; a command's result is delivered by `cpComplete_delivers`. -/
theorem tasksAndTheirCommandsEnd : Obligations.TasksAndTheirCommandsEnd := by
  unfold Obligations.TasksAndTheirCommandsEnd
  refine ⟨fun r t s hdone hstop hcall hopen hstatus hlen => ?_, fun r t s hover hstop hcall hopen hend => ?_,
    fun r t s hover hstop hcall hopen hend => ?_, fun cid k res s hcall horigin hdone hfirst hcode hpass hram => ?_⟩
  · refine taskEnd_completes (.inl hdone) hstop hcall hopen ?_
    have hgood : ((fieldLE (replyOf r t s) 0 2 == 0 || (decide (0x8000 ≤ fieldLE (replyOf r t s) 0 2)
        && decide (fieldLE (replyOf r t s) 0 2 ≤ 0xFFFE))) && decide (fieldLE (replyOf r t s) 4 4 ≤ (taskOf s.toDev r t).outCap)) = true := by
      simpa [hlen] using hstatus
    simp only [callResult, hdone, beq_self_eq_true, if_true, hgood]
  · exact taskEnd_completes (.inr hover) hstop hcall hopen (by simp [callResult, hover, hend, stTrap])
  · refine taskEnd_completes (.inr hover) hstop hcall hopen ?_
    have hover' : ((taskOf s.toDev r t).state == .done) = false := by rw [hover]; rfl
    simp only [callResult, hover', hend]
    cases (taskOf s.toDev r t).started with
    | true => rfl
    | false => rfl
  · obtain ⟨c, hc⟩ := Option.isSome_iff_exists.mp hcall
    have hthe : theCmd cid s = c := by rw [theCmd, hc]; rfl
    rw [hthe] at horigin hdone hcode ⊢
    rw [exec_cpCommandComplete, gives_next, cpComplete_delivers hc horigin hdone hfirst hcode hpass]
    simp only [onDev_toDev, onDev_mem]
    exact ⟨cmdOf?_collected _, latch_collected _, mem_delivered hram⟩

end Sys2Proof.Machine
end

section
/-! PROOF. A tick of the timebase while no command waits (R291, R424, R428, R477). -/

namespace Sys2Proof.Machine

/-! ## Iteration over distinct items -/

/-- What one item of a list changes, and the others leave, is changed once by an iteration over distinct items. -/
theorem forAll_at {β : Type} {w : Dev → β} {g : β → β} {f : Nat → Dev → Dev} {a : Nat} (hself : ∀ d, w (f a d) = g (w d))
    (hother : ∀ x d, x ≠ a → w (f x d) = w d) {l : List Nat} (hl : l.Nodup) (d : Dev) :
    w (forAll l f d) = if a ∈ l then g (w d) else w d := by
  induction l generalizing d with
  | nil => rfl
  | cons x l ih =>
    obtain ⟨hx, hl⟩ := List.nodup_cons.mp hl
    rw [forAll_cons, ih hl]
    by_cases hxa : x = a
    · subst hxa
      rw [if_neg hx, if_pos List.mem_cons_self, hself]
    · have hmem : a ∈ x :: l ↔ a ∈ l := by simp [Ne.symm hxa]
      simp only [hother x d hxa, hmem]

/-! ## The parts of a tick -/

/-- What the slots, the engines and the crossbars do in a tick. -/
def ticked (d : Dev) : Dev :=
  onCpm (fun c => { c with timebase := c.timebase + 1 }) d |> forAll [0, 1] tickSlot |> forAll (List.range 18) tickEngine
    |> forAll (List.range 4) xbarGrant

/-- What slots, engines and crossbars leave in a tick. -/
def unticked (d : Dev) : HifS × KsS × BatS × EvrS × CpmS := (d.hif, d.ks, d.bat, d.evr, d.cpm)

section
variable (d : Dev)

theorem unticked_tickSlot (i : Nat) : unticked (tickSlot i d) = unticked d := rfl

theorem unticked_tickEngine (e : Nat) : unticked (tickEngine e d) = unticked d :=
  doIf_keeps unticked (fun _ => by rfl) _ d

theorem unticked_ticked : unticked (ticked d) = unticked (onCpm (fun c => { c with timebase := c.timebase + 1 }) d) := by
  unfold ticked
  rw [forAll_keeps unticked (fun r d => by rfl), forAll_keeps unticked (fun e d => unticked_tickEngine d e),
    forAll_keeps unticked (fun i d => unticked_tickSlot d i)]

theorem engOf_onEng_ne {e x : Nat} (h : e ≠ x) (f : EngS → EngS) : engOf (onEng x f d) e = engOf d e := by
  simp [engOf, onEng, tget_tmod_ne _ _ _ _ h]

/-- A running engine counts its busy cycles of 10 ns at 2.0 GHz. -/
def busier (g : EngS) : EngS := if g.running.isSome then { g with busy := g.busy + 20 } else g

theorem engOf_tickEngine_self (e : Nat) : engOf (tickEngine e d) e = busier (engOf d e) := by
  unfold tickEngine busier
  cases (engOf d e).running.isSome with
  | true => exact engOf_onEng_self ..
  | false => rfl

theorem engOf_tickEngine_ne {e x : Nat} (h : x ≠ e) : engOf (tickEngine x d) e = engOf d e :=
  doIf_keeps (engOf · e) (fun d => engOf_onEng_ne d h.symm _) _ d

theorem engOf_tickSlots (l : List Nat) (e : Nat) : engOf (forAll l tickSlot d) e = engOf d e := by
  refine forAll_keeps (engOf · e) (fun i d => ?_) l d
  rfl

theorem engOf_xbarGrants (l : List Nat) (e : Nat) : engOf (forAll l xbarGrant d) e = engOf d e := by
  refine forAll_keeps (engOf · e) (fun r d => ?_) l d
  rfl

theorem engOf_tickEngines {e : Nat} (he : e < 18) : engOf (forAll (List.range 18) tickEngine d) e = busier (engOf d e) := by
  refine (forAll_at (w := (engOf · e)) (g := busier) (fun d => ?_) (fun x d hx => ?_) List.nodup_range d).trans
    (if_pos (List.mem_range.mpr he))
  · exact engOf_tickEngine_self d e
  · exact engOf_tickEngine_ne d hx

theorem engOf_ticked {e : Nat} (he : e < 18) : engOf (ticked d) e = busier (engOf d e) := by
  rw [ticked, engOf_xbarGrants, engOf_tickEngines _ he, engOf_tickSlots]
  rfl

end

/-- The end of a tick: the measures of a millisecond and a second of operating time. -/
def tickEnd (d : Dev) : Dev := d |> doIf (nowTb d % ticksPerMs == 0) tickMeasure |> doIf (nowTb d % ticksPerS == 0) tickSecond

theorem tick_dark {d : Dev} (h : dieRuns d = false) : tick d = onBat batTick d := by
  have hdark : dieRuns (onBat batTick d) = false := h
  simp only [tick, hdark, Bool.not_false, if_true]

theorem tick_runs {d : Dev} (h : dieRuns d = true) : tick d = tickEnd (ticked (onBat batTick d)) := by
  have hruns : dieRuns (onBat batTick d) = true := h
  simp only [tick, hruns, Bool.not_true, Bool.false_eq_true, if_false]
  rfl

section
variable (d : Dev)

theorem tickMeasure_keeps : (tickMeasure d).hif = d.hif ∧ (tickMeasure d).ks = d.ks ∧ (tickMeasure d).bat = d.bat
    ∧ (tickMeasure d).evr = d.evr ∧ (tickMeasure d).cpm.timebase = d.cpm.timebase ∧ (tickMeasure d).brl = d.brl := by
  simp [tickMeasure, tickTraffic]

/-- The measures, where the millisecond ends. -/
def measured (d : Dev) : Dev := doIf (nowTb d % ticksPerMs == 0) tickMeasure d

theorem measured_keeps : (measured d).hif = d.hif ∧ (measured d).ks = d.ks ∧ (measured d).bat = d.bat
    ∧ (measured d).evr = d.evr ∧ (measured d).cpm.timebase = d.cpm.timebase ∧ (measured d).brl = d.brl := by
  unfold measured
  cases nowTb d % ticksPerMs == 0 with
  | true => exact tickMeasure_keeps d
  | false => exact ⟨rfl, rfl, rfl, rfl, rfl, rfl⟩

theorem tickEnd_eq : tickEnd d = doIf (nowTb d % ticksPerS == 0) tickSecond (measured d) := rfl

theorem tickEnd_keeps : (tickEnd d).hif = d.hif ∧ (tickEnd d).ks = d.ks ∧ (tickEnd d).bat = d.bat
    ∧ (tickEnd d).cpm.timebase = d.cpm.timebase ∧ (tickEnd d).brl = d.brl := by
  obtain ⟨hhif, hks, hbat, -, htb, hbrl⟩ := measured_keeps d
  rw [tickEnd_eq]
  cases nowTb d % ticksPerS == 0 with
  | true => exact ⟨hhif, hks, hbat, htb, hbrl⟩
  | false => exact ⟨hhif, hks, hbat, htb, hbrl⟩

theorem tickEnd_evr : (tickEnd d).evr = if nowTb d % ticksPerS = 0 then { d.evr with opTime := d.evr.opTime + 1 } else d.evr := by
  obtain ⟨-, -, -, hevr, -, -⟩ := measured_keeps d
  rw [tickEnd_eq, ← hevr]
  by_cases hs : nowTb d % ticksPerS = 0
  · rw [if_pos hs, beq_iff_eq.mpr hs]
    rfl
  · rw [if_neg hs, beq_eq_false_iff_ne.mpr hs]
    rfl

end

/-! ## The statement -/

section
variable {s : State}

theorem step_idle (hidle : s.pending = []) : step s = .next (onDev tick s) := by
  simp only [step, hidle]

/-- The parts of the device as a tick of a die that runs leaves them. -/
theorem ticked_idle : (ticked (onBat batTick s.toDev)).hif = s.hif ∧ (ticked (onBat batTick s.toDev)).ks = s.ks
    ∧ (ticked (onBat batTick s.toDev)).bat = batTick s.bat ∧ (ticked (onBat batTick s.toDev)).evr = s.evr
    ∧ nowTb (ticked (onBat batTick s.toDev)) = s.cpm.timebase + 1 := by
  have hparts := unticked_ticked (onBat batTick s.toDev)
  simp only [unticked, Prod.mk.injEq] at hparts
  obtain ⟨hhif, hks, hbat, hevr, hcpm⟩ := hparts
  exact ⟨hhif, hks, hbat, hevr, by rw [nowTb, hcpm]; rfl⟩

theorem evr_tickEnd_idle : (tickEnd (ticked (onBat batTick s.toDev))).evr =
    if (s.cpm.timebase + 1) % 100000000 = 0 then { s.evr with opTime := s.evr.opTime + 1 } else s.evr := by
  obtain ⟨-, -, -, hevr, htb⟩ := ticked_idle (s := s)
  rw [tickEnd_evr, htb, hevr]
  rfl

end

/-- Settles O5: a dark die ticks in its battery domain alone (`tick_dark`); a die that runs ticks in its parts (`tick_runs`), of which
the recorder moves as a second ends and each running engine counts. -/
theorem emptyQueueTicks : Obligations.EmptyQueueTicks := by
  unfold Obligations.EmptyQueueTicks
  refine ⟨fun s hidle hdark => ?_, fun s hidle hruns => ?_, fun b hlow => if_pos hlow, fun b hfull => if_neg (by exact Nat.not_lt.mpr hfull)⟩
  · rw [step_idle hidle, onDev, tick_dark hdark]
    rfl
  · obtain ⟨hhif, hks, hbat, htb, hbrl⟩ := tickEnd_keeps (ticked (onBat batTick s.toDev))
    obtain ⟨hhif', hks', hbat', -, htb'⟩ := ticked_idle (s := s)
    rw [step_idle hidle]
    refine ⟨?_, hidle, rfl, ?_, ?_, ?_, fun hwithin => ?_, fun hlast => ?_, fun e he hbusy => ?_⟩ <;>
      simp only [onDev_toDev, tick_runs hruns]
    · exact htb.trans htb'
    · exact hhif.trans hhif'
    · exact hks.trans hks'
    · exact hbat.trans hbat'
    · rw [evr_tickEnd_idle, if_neg (by omega)]
    · rw [evr_tickEnd_idle, if_pos (by omega)]
    · have heng : engOf (tickEnd (ticked (onBat batTick s.toDev))) e = busier (engOf s.toDev e) := by
        rw [engOf, hbrl]
        exact engOf_ticked _ he
      rw [heng, busier, if_pos hbusy]

end Sys2Proof.Machine
end

section
/-! PROOF. What the body of an instruction makes of its task where no spill or fill is due (R268, R273). -/

namespace Sys2Proof.Machine

/-- The working state with `k` as its task and `b` as the bound of its cycles. -/
def OcdS.left (p : OcdS) (k : Task) (b : Option Nat) : OcdS := { p with k := k, bound := b }

/-- The body runs to its end with the task as `k`, and changes nothing else but the bound of the cycles. -/
def Leaves (body : Ocd Unit) (p : OcdS) (k : Task) : Prop := ∃ b, body p = (.ok (), p.left k b)

section
variable {p : OcdS} {k : Task} {b : Option Nat} {n : Nat}

theorem takes_left : takes n (p.left k b) = (.ok (), p.left k (b.map (max n))) := rfl
theorem pop_left : pop (p.left k b) = (.ok (k.ds.headD 0), p.left { k with ds := k.ds.drop 1 } b) := rfl
theorem popR_left : popR (p.left k b) = (.ok (k.rs.headD 0), p.left { k with rs := k.rs.drop 1 } b) := rfl
theorem popD_left :
    popD (p.left k b) = (.ok (dbl ((k.ds.drop 1).headD 0) (k.ds.headD 0)), p.left { k with ds := (k.ds.drop 1).drop 1 } b) := rfl
theorem needDs_left (h : n ≤ k.ds.length) : needDs n (p.left k b) = (.ok (), p.left k b) := needDs_held h
theorem push_left {v : Word32} (h : k.ds.length < 32) : push v (p.left k b) = (.ok (), p.left { k with ds := v :: k.ds } b) :=
  push_room h
theorem pushD_left {v : Word64} (h : k.ds.length < 31) :
    pushD v (p.left k b) = (.ok (), p.left { k with ds := dhi v :: dlo v :: k.ds } b) := pushD_room h
theorem pushR_left {v : Word32} (h : k.rs.length < 16) : pushR v (p.left k b) = (.ok (), p.left { k with rs := v :: k.rs } b) :=
  pushR_room h

end

theorem bind_ok {α β : Type} {m : Ocd α} {f : α → Ocd β} {o q : OcdS} {a : α} (h : m o = (.ok a, q)) : (m >>= f) o = f a q := by
  rw [ocd_bind, h]

theorem bind_error {α β : Type} {m : Ocd α} {f : α → Ocd β} {o q : OcdS} {e : OcdEnd} (h : m o = (.error e, q)) :
    (m >>= f) o = (.error e, q) := by
  rw [ocd_bind, h]

theorem dhi_dbl (lo hi : Word32) : dhi (dbl lo hi) = hi := BitVec.extractLsb'_append_eq_left
theorem dlo_dbl (lo hi : Word32) : dlo (dbl lo hi) = lo := BitVec.extractLsb'_append_eq_right

/-! ## Instructions on the data stack -/

/-- The work makes `l'` of the stack `l`, where no spill is due. -/
def Turns (work : Ocd Unit) (l l' : List Word32) : Prop :=
  l'.length ≤ 32 → ∀ (p : OcdS) (k : Task) (b : Option Nat), k.ds = l → work (p.left k b) = (.ok (), p.left { k with ds := l' } b)

section
variable {l l' : List Word32} {v lo hi : Word32} {d : Word64} {work : Ocd Unit}

theorem Turns.done : Turns (pure ()) l l := by
  rintro - p k b rfl
  rfl

theorem Turns.pop {work : Word32 → Ocd Unit} (h : Turns (work v) l l') : Turns (Machine.pop >>= work) (v :: l) l' := by
  intro hroom p k b hk
  rw [bind_ok pop_left, hk]
  exact h hroom p _ b rfl

theorem Turns.popD {work : Word64 → Ocd Unit} (h : Turns (work (dbl lo hi)) l l') :
    Turns (Machine.popD >>= work) (hi :: lo :: l) l' := by
  intro hroom p k b hk
  rw [bind_ok popD_left, hk]
  exact h hroom p _ b rfl

theorem Turns.pushLast : Turns (Machine.push v) l (v :: l) := by
  rintro hroom p k b rfl
  exact push_left hroom

theorem Turns.pushDLast : Turns (Machine.pushD d) l (dhi d :: dlo d :: l) := by
  rintro hroom p k b rfl
  exact pushD_left (Nat.lt_of_succ_le (Nat.le_of_succ_le_succ hroom))

theorem Turns.push (h : Turns work (v :: l) l') (hlen : l.length < l'.length := by simp only [List.length_cons]; omega) :
    Turns (do Machine.push v; work) l l' := by
  rintro hroom p k b rfl
  rw [bind_ok (push_left (Nat.lt_of_lt_of_le hlen hroom))]
  exact h hroom p _ b rfl

theorem Turns.pushDblLast : Turns (Machine.pushD (dbl lo hi)) l (hi :: lo :: l) := by
  have h := Turns.pushDLast (d := dbl lo hi) (l := l)
  rwa [dhi_dbl, dlo_dbl] at h

theorem Turns.pushDbl (h : Turns work (hi :: lo :: l) l') (hlen : l.length + 1 < l'.length := by simp only [List.length_cons]; omega) :
    Turns (do Machine.pushD (dbl lo hi); work) l l' := by
  rintro hroom p k b rfl
  rw [bind_ok (pushD_left (by omega)), dhi_dbl, dlo_dbl]
  exact h hroom p _ b rfl

end

/-- The body finds `n` entries held or traps with cause 5, and makes `f` of the stack where no spill is due. -/
structure Works (body : Ocd Unit) (n : Nat) (f : List Word32 → List Word32) : Prop where
  held : ∀ p, n ≤ p.k.ds.length → (f p.k.ds).length ≤ 32 → Leaves body p { p.k with ds := f p.k.ds }
  short : ∀ p, dsDepth p.k < n → ∃ b, body p = (.error (.trap 5 0 0 0), p.left p.k b)

section
variable {n m : Nat} {f : List Word32 → List Word32} {body rest : Ocd Unit}

theorem works_of_needs (hrest : ∀ l, n ≤ l.length → Turns rest l (f l)) : Works (do needDs n; rest) n f where
  held p hheld hroom := ⟨p.bound, (bind_ok (needDs_held hheld)).trans (hrest _ hheld hroom p p.k p.bound rfl)⟩
  short p hshort := ⟨p.bound, bind_error (needDs_short hshort)⟩

theorem Works.takes (h : Works body n f) : Works (do takes m; body) n f where
  held p hheld hroom := by
    obtain ⟨b, hb⟩ := h.held (p.left p.k (p.bound.map (max m))) hheld hroom
    exact ⟨b, (bind_ok takes_left).trans hb⟩
  short p hshort := by
    obtain ⟨b, hb⟩ := h.short (p.left p.k (p.bound.map (max m))) hshort
    exact ⟨b, (bind_ok takes_left).trans hb⟩

end

/-- The instruction is a short form without an immediate, and its body does what its table says. -/
def OpRuns (op : StackOp) : Prop :=
  ∃ body : Ocd Unit, (∀ c imm s, exec (op.ins c imm) s = short0 c imm body s) ∧ Works body op.need (op.f 0)

/-! ## Entries of a stack -/

section
variable {l : List Word32}

theorem exists_cons (h : 1 ≤ l.length) : ∃ a r, l = a :: r := List.exists_cons_of_length_pos h

theorem exists_cons₂ (h : 2 ≤ l.length) : ∃ b a r, l = b :: a :: r := by
  obtain ⟨b, l, rfl⟩ := exists_cons (Nat.le_of_succ_le h)
  obtain ⟨a, r, rfl⟩ := exists_cons (Nat.le_of_succ_le_succ h)
  exact ⟨b, a, r, rfl⟩

theorem exists_cons₃ (h : 3 ≤ l.length) : ∃ c b a r, l = c :: b :: a :: r := by
  obtain ⟨c, l, rfl⟩ := exists_cons (Nat.le_of_succ_le (Nat.le_of_succ_le h))
  obtain ⟨b, a, r, rfl⟩ := exists_cons₂ (Nat.le_of_succ_le_succ h)
  exact ⟨c, b, a, r, rfl⟩

theorem exists_cons₄ (h : 4 ≤ l.length) : ∃ d c b a r, l = d :: c :: b :: a :: r := by
  obtain ⟨d, c, l, rfl⟩ := exists_cons₂ (Nat.le_of_succ_le (Nat.le_of_succ_le h))
  obtain ⟨b, a, r, rfl⟩ := exists_cons₂ (Nat.le_of_succ_le_succ (Nat.le_of_succ_le_succ h))
  exact ⟨d, c, b, a, r, rfl⟩

theorem exists_cons₅ (h : 5 ≤ l.length) : ∃ e d c b a r, l = e :: d :: c :: b :: a :: r := by
  obtain ⟨e, l, rfl⟩ := exists_cons (Nat.le_trans (by decide) h)
  obtain ⟨d, c, b, a, r, rfl⟩ := exists_cons₄ (Nat.le_of_succ_le_succ h)
  exact ⟨e, d, c, b, a, r, rfl⟩

end

end Sys2Proof.Machine
end

section
/-! PROOF. The stack instructions and the arithmetic on single and double cells do what their tables say (R273 to R275, R280). -/

namespace Sys2Proof.Machine

/-! ## Cells -/

section
variable (a b : Word32)

theorem mulHu_eq : mulHu a b = BitVec.ofNat 32 (a.toNat * b.toNat / 2 ^ 32) := by
  have hlt : a.toNat * b.toNat < 2 ^ 32 * 2 ^ 32 := Nat.mul_lt_mul'' a.isLt b.isLt
  have hmod : a.toNat * b.toNat % 18446744073709551616 = a.toNat * b.toNat := Nat.mod_eq_of_lt hlt
  apply BitVec.eq_of_toNat_eq
  simp [mulHu, BitVec.extractLsb'_toNat, hmod, Nat.shiftRight_eq_div_pow]

/-- The high half of a double cell is its signed value over 2^32, rounded down. -/
theorem dhi_eq_ofInt (d : Word64) : dhi d = BitVec.ofInt 32 (d.toInt / 2 ^ 32) := by
  have hlt := d.isLt
  apply BitVec.eq_of_toNat_eq
  rw [dhi, BitVec.extractLsb'_toNat, BitVec.toNat_ofInt, Nat.shiftRight_eq_div_pow, BitVec.toInt_eq_toNat_cond]
  split <;> omega

theorem toInt_mul_signExtend : (a.signExtend 64 * b.signExtend 64 : Word64).toInt = a.toInt * b.toInt := by
  have ha : |a.toInt| ≤ 2 ^ 31 := abs_le.mpr ⟨BitVec.le_toInt a, le_of_lt BitVec.toInt_lt⟩
  have hb : |b.toInt| ≤ 2 ^ 31 := abs_le.mpr ⟨BitVec.le_toInt b, le_of_lt BitVec.toInt_lt⟩
  have hprod : |a.toInt * b.toInt| ≤ 2 ^ 31 * 2 ^ 31 := by
    rw [abs_mul]
    exact mul_le_mul ha hb (abs_nonneg _) (by decide)
  obtain ⟨hlow, hhigh⟩ := abs_le.mp hprod
  rw [BitVec.toInt_mul, BitVec.toInt_signExtend_of_le (by decide), BitVec.toInt_signExtend_of_le (by decide)]
  exact Int.bmod_eq_of_le (by omega) (by omega)

theorem mulHs_eq : mulHs a b = BitVec.ofInt 32 (a.toInt * b.toInt / 2 ^ 32) := by
  rw [← toInt_mul_signExtend]
  exact dhi_eq_ofInt _

theorem umul_eq : a.zeroExtend 64 * b.zeroExtend 64 = BitVec.ofNat 64 (a.toNat * b.toNat) := by
  apply BitVec.eq_of_toNat_eq
  simp

theorem zeroExtend_eq_dbl : a.zeroExtend 64 = dbl a 0 := BitVec.setWidth_eq_append (w := 64) (x := a) (by decide)
theorem signExtend_eq_dbl : a.signExtend 64 = dbl a (if a.msb then 0xFFFFFFFF else 0) :=
  BitVec.signExtend_eq_append_of_le (v := 64) (x := a) (by decide)

/-- Signed quotients are truncated, and the one that does not fit wraps. -/
theorem sdiv_eq_ofInt : a.sdiv b = BitVec.ofInt 32 (a.toInt.tdiv b.toInt) := by
  apply BitVec.eq_of_toInt_eq
  rw [BitVec.toInt_sdiv, BitVec.toInt_ofInt]

theorem srem_eq_ofInt : a.srem b = BitVec.ofInt 32 (a.toInt.tmod b.toInt) := by
  rw [← BitVec.toInt_srem, BitVec.ofInt_toInt]

end

/-! ## Shapes of the tables -/

section
variable {n : Nat} {f : List Word32 → List Word32} {work : Ocd Unit}

theorem works_one (h : ∀ a r, Turns work (a :: r) (f (a :: r))) : Works (do needDs 1; work) 1 f :=
  works_of_needs fun _ hl => by
    obtain ⟨a, r, rfl⟩ := exists_cons hl
    exact h a r

theorem works_two (h : ∀ b a r, Turns work (b :: a :: r) (f (b :: a :: r))) : Works (do needDs 2; work) 2 f :=
  works_of_needs fun _ hl => by
    obtain ⟨b, a, r, rfl⟩ := exists_cons₂ hl
    exact h b a r

theorem works_three (h : ∀ c b a r, Turns work (c :: b :: a :: r) (f (c :: b :: a :: r))) : Works (do needDs 3; work) 3 f :=
  works_of_needs fun _ hl => by
    obtain ⟨c, b, a, r, rfl⟩ := exists_cons₃ hl
    exact h c b a r

theorem works_four (h : ∀ d c b a r, Turns work (d :: c :: b :: a :: r) (f (d :: c :: b :: a :: r))) :
    Works (do needDs 4; work) 4 f :=
  works_of_needs fun _ hl => by
    obtain ⟨d, c, b, a, r, rfl⟩ := exists_cons₄ hl
    exact h d c b a r

theorem works_five (h : ∀ e d c b a r, Turns work (e :: d :: c :: b :: a :: r) (f (e :: d :: c :: b :: a :: r))) :
    Works (do needDs 5; work) 5 f :=
  works_of_needs fun _ hl => by
    obtain ⟨e, d, c, b, a, r, rfl⟩ := exists_cons₅ hl
    exact h e d c b a r

end

theorem unary_works (f : Word32 → Word32) : Works (unary f) 1 (un f 0) := works_one fun _ _ => .pop .pushLast
theorem binary_works (f : Word32 → Word32 → Word32) : Works (binary f) 2 (bin f 0) := works_two fun _ _ _ => .pop (.pop .pushLast)
theorem unaryD_works (f : Word64 → Word64) : Works (unaryD f) 2 (unD f 0) := works_two fun _ _ _ => .popD .pushDLast
theorem binaryD_works (f : Word64 → Word64 → Word64) : Works (binaryD f) 4 (binD f 0) :=
  works_four fun _ _ _ _ _ => .popD (.popD .pushDLast)
theorem compareD_works (f : Word64 → Word64 → Bool) : Works (compareD f) 4 (cmpD f 0) :=
  works_four fun _ _ _ _ _ => .popD (.popD .pushLast)
theorem shiftD_works (f : Word64 → Nat → Word64) : Works (shiftD f) 3 (shD f 0) :=
  works_three fun _ _ _ _ => .pop (.popD .pushDLast)

/-! ## The instructions of the lists -/

theorem pure_works : Works (pure ()) 0 (fun l => l) where
  held p _ _ := ⟨p.bound, rfl⟩
  short _ h := absurd h (Nat.not_lt_zero _)

theorem shuffleOps_run : ∀ op ∈ shuffleOps, OpRuns op := by
  simp only [shuffleOps, List.forall_mem_cons, List.not_mem_nil, false_implies, implies_true, and_true]
  exact ⟨⟨_, fun _ _ _ => rfl, pure_works⟩,
    ⟨_, fun _ _ _ => rfl, pure_works⟩,
    ⟨_, fun _ _ _ => rfl, works_one fun _ _ => .pop .done⟩,
    ⟨_, fun _ _ _ => rfl, works_one fun _ _ => .pop (.push .pushLast)⟩,
    ⟨_, fun _ _ _ => rfl, works_two fun _ _ _ => .pop (.pop (.push .pushLast))⟩,
    ⟨_, fun _ _ _ => rfl, works_two fun _ _ _ => .pop (.pop (.push (.push .pushLast)))⟩,
    ⟨_, fun _ _ _ => rfl, works_three fun _ _ _ _ => .pop (.pop (.pop (.push (.push .pushLast))))⟩,
    ⟨_, fun _ _ _ => rfl, works_two fun _ _ _ => .pop (.pop .pushLast)⟩,
    ⟨_, fun _ _ _ => rfl, works_two fun _ _ _ => .pop (.pop (.push (.push .pushLast)))⟩,
    ⟨_, fun _ _ _ => rfl, works_two fun _ _ _ => .popD .done⟩,
    ⟨_, fun _ _ _ => rfl, works_two fun _ _ _ => .popD (.pushDbl .pushDblLast)⟩,
    ⟨_, fun _ _ _ => rfl, works_four fun _ _ _ _ _ => .popD (.popD (.pushDbl .pushDblLast))⟩,
    ⟨_, fun _ _ _ => rfl, works_four fun _ _ _ _ _ => .popD (.popD (.pushDbl (.pushDbl .pushDblLast)))⟩⟩

theorem unary_runs {ins : CoreId → BitVec 8 → Instr} {f g : Word32 → Word32}
    (hexec : ∀ c imm s, exec (ins c imm) s = short0 c imm (unary g) s) (hfg : ∀ a, g a = f a) : OpRuns ⟨ins, 1, un f⟩ := by
  obtain rfl : g = f := funext hfg
  exact ⟨_, hexec, unary_works g⟩

theorem binary_runs {ins : CoreId → BitVec 8 → Instr} {f g : Word32 → Word32 → Word32}
    (hexec : ∀ c imm s, exec (ins c imm) s = short0 c imm (binary g) s) (hfg : ∀ a b, g a b = f a b) : OpRuns ⟨ins, 2, bin f⟩ := by
  obtain rfl : g = f := funext₂ hfg
  exact ⟨_, hexec, binary_works g⟩

/-- A product takes two cycles. -/
theorem product_runs {ins : CoreId → BitVec 8 → Instr} {f g : Word32 → Word32 → Word32}
    (hexec : ∀ c imm s, exec (ins c imm) s = short0 c imm (do takes 2; binary g) s) (hfg : ∀ a b, g a b = f a b) :
    OpRuns ⟨ins, 2, bin f⟩ := by
  obtain rfl : g = f := funext₂ hfg
  exact ⟨_, hexec, (binary_works g).takes⟩

theorem singleOps_run : ∀ op ∈ singleOps, OpRuns op := by
  simp only [singleOps, List.forall_mem_cons, List.not_mem_nil, false_implies, implies_true, and_true]
  refine ⟨binary_runs (fun _ _ _ => rfl) fun _ _ => rfl,
    binary_runs (fun _ _ _ => rfl) fun _ _ => rfl,
    product_runs (fun _ _ _ => rfl) fun _ _ => rfl,
    product_runs (fun _ _ _ => rfl) mulHu_eq,
    product_runs (fun _ _ _ => rfl) mulHs_eq,
    binary_runs (fun _ _ _ => rfl) fun _ _ => rfl,
    binary_runs (fun _ _ _ => rfl) fun _ _ => rfl,
    binary_runs (fun _ _ _ => rfl) fun _ _ => rfl,
    unary_runs (fun _ _ _ => rfl) fun _ => rfl,
    unary_runs (fun _ _ _ => rfl) fun a => BitVec.zero_sub a,
    binary_runs (fun _ _ _ => rfl) fun _ _ => rfl,
    binary_runs (fun _ _ _ => rfl) fun _ _ => rfl,
    binary_runs (fun _ _ _ => rfl) fun _ _ => rfl,
    binary_runs (fun _ _ _ => rfl) fun _ _ => rfl,
    binary_runs (fun _ _ _ => rfl) fun _ _ => rfl,
    binary_runs (fun _ _ _ => rfl) fun _ _ => rfl,
    binary_runs (fun _ _ _ => rfl) fun _ _ => rfl,
    binary_runs (fun _ _ _ => rfl) fun _ _ => rfl,
    binary_runs (fun _ _ _ => rfl) fun _ _ => rfl,
    binary_runs (fun _ _ _ => rfl) fun _ _ => rfl,
    unary_runs (fun _ _ _ => rfl) fun _ => rfl,
    unary_runs (fun _ _ _ => rfl) fun _ => rfl,
    unary_runs (fun _ _ _ => rfl) fun _ => rfl,
    unary_runs (fun _ _ _ => rfl) fun _ => rfl,
    ⟨_, fun _ _ _ => rfl, works_three fun _ _ _ _ => .pop (.pop (.pop .pushLast))⟩,
    ⟨_, fun _ _ _ => rfl, works_two fun _ _ _ => .pop (.pop (.push .pushLast))⟩,
    ⟨_, fun _ _ _ => rfl, works_two fun _ _ _ => .pop (.pop (.push .pushLast))⟩⟩

theorem umul_turns (b a : Word32) (r : List Word32) :
    Turns (pop >>= fun b => pop >>= fun a => pushD (a.zeroExtend 64 * b.zeroExtend 64)) (b :: a :: r)
      (let d := BitVec.ofNat 64 (a.toNat * b.toNat); d.extractLsb' 32 32 :: d.extractLsb' 0 32 :: r) := by
  rw [← umul_eq]
  exact .pop (.pop .pushDLast)

theorem uext_turns (a : Word32) (r : List Word32) : Turns (pop >>= fun a => pushD (a.zeroExtend 64)) (a :: r) (0 :: a :: r) := by
  refine .pop ?_
  rw [zeroExtend_eq_dbl]
  exact .pushDblLast

theorem sext_turns (a : Word32) (r : List Word32) :
    Turns (pop >>= fun a => pushD (a.signExtend 64)) (a :: r) ((if a.msb then 0xFFFFFFFF else 0) :: a :: r) := by
  refine .pop ?_
  rw [signExtend_eq_dbl]
  exact .pushDblLast

theorem dlow_turns (h l : Word32) (r : List Word32) : Turns (popD >>= fun a => push (dlo a)) (h :: l :: r) (l :: r) := by
  refine .popD ?_
  rw [dlo_dbl]
  exact .pushLast

theorem dsel_turns (f bh bl ah al : Word32) (r : List Word32) :
    Turns (pop >>= fun f => popD >>= fun b => popD >>= fun a => pushD (if f = 0 then b else a)) (f :: bh :: bl :: ah :: al :: r)
      (if f = 0 then bh :: bl :: r else ah :: al :: r) := by
  refine .pop (.popD (.popD ?_))
  split
  · exact .pushDblLast
  · exact .pushDblLast

theorem doubleOps_run : ∀ op ∈ doubleOps, OpRuns op := by
  simp only [doubleOps, List.forall_mem_cons, List.not_mem_nil, false_implies, implies_true, and_true]
  refine ⟨⟨_, fun _ _ _ => rfl, binaryD_works _⟩,
    ⟨_, fun _ _ _ => rfl, binaryD_works _⟩,
    ⟨_, fun _ _ _ => rfl, (binaryD_works _).takes⟩,
    ⟨_, fun _ _ _ => rfl, (works_two umul_turns).takes⟩,
    ⟨_, fun _ _ _ => rfl, ?_⟩,
    ⟨_, fun _ _ _ => rfl, binaryD_works _⟩,
    ⟨_, fun _ _ _ => rfl, binaryD_works _⟩,
    ⟨_, fun _ _ _ => rfl, binaryD_works _⟩,
    ⟨_, fun _ _ _ => rfl, shiftD_works _⟩,
    ⟨_, fun _ _ _ => rfl, shiftD_works _⟩,
    ⟨_, fun _ _ _ => rfl, shiftD_works _⟩,
    ⟨_, fun _ _ _ => rfl, compareD_works _⟩,
    ⟨_, fun _ _ _ => rfl, compareD_works _⟩,
    ⟨_, fun _ _ _ => rfl, compareD_works _⟩,
    ⟨_, fun _ _ _ => rfl, works_two fun _ _ _ => .popD .pushLast⟩,
    ⟨_, fun _ _ _ => rfl, works_one uext_turns⟩,
    ⟨_, fun _ _ _ => rfl, works_one sext_turns⟩,
    ⟨_, fun _ _ _ => rfl, works_two dlow_turns⟩,
    ⟨_, fun _ _ _ => rfl, works_five dsel_turns⟩⟩
  exact (funext BitVec.zero_sub : (fun a : Word64 => 0 - a) = fun a => -a) ▸ unaryD_works fun a => 0 - a

end Sys2Proof.Machine
end

section
/-! PROOF. An access of an instruction does not ask for the data stack or for what the host gives (R282). -/

namespace Sys2Proof.Machine

/-- The working state with `ds` on the data stack and `host` as the host's bytes. -/
def OcdS.beside (ds : List Word32) (host : Bytes) (o : OcdS) : OcdS := { o with k := { o.k with ds := ds }, host := host }

section
variable {ds : List Word32} {host : Bytes} {o : OcdS}

theorem passAll_beside (sg off : Nat) (kind : AccKind) (l : List (Nat × Nat)) :
    passAll sg off kind l (o.beside ds host) =
      ((passAll sg off kind l o).1, (passAll sg off kind l o).2.beside ds host) := by
  induction l generalizing o with
  | nil => rfl
  | cons a as ih =>
    have hown : ownAccess (o.beside ds host) sg off a.1 kind (Nat.log2 a.2) = ownAccess o sg off a.1 kind (Nat.log2 a.2) := rfl
    have hdev : (o.beside ds host).s = o.s := rfl
    simp only [passAll, ocd_bind, ocd_get, hown, hdev]
    cases (kwMeet (ownAccess o sg off a.1 kind (Nat.log2 a.2)) o.s.toDev).1 with
    | allowed =>
      simp only [ocd_bind, ocd_set]
      exact ih (o := { o with s := { o.s with
        toDev := (kwMeet (ownAccess o sg off a.1 kind (Nat.log2 a.2)) o.s.toDev).2 } })
    | denied => rfl
    | stalled => rfl

theorem access_beside (sg : Nat) (right : Right) (off len align : Nat) (kind : AccKind) :
    access sg right off len align kind (o.beside ds host) =
      ((access sg right off len align kind o).1, (access sg right off len align kind o).2.beside ds host) := by
  have hcheck : segCheck (o.beside ds host).k sg right off len align = segCheck o.k sg right off len align := rfl
  have hseg : segOf (o.beside ds host).k sg = segOf o.k sg := rfl
  simp only [access, ocd_bind, ocd_get, hcheck, hseg]
  cases segCheck o.k sg right off len align with
  | some kd => rfl
  | none =>
    have htakes : ∃ q, accessTakes (segOf o.k sg).ms ((segOf o.k sg).base + off) kind o = (.ok (), q)
        ∧ accessTakes (segOf o.k sg).ms ((segOf o.k sg).base + off) kind (o.beside ds host) = (.ok (), q.beside ds host) :=
      ⟨_, rfl, rfl⟩
    obtain ⟨q, hq, hq'⟩ := htakes
    simp only [ocd_bind, hq, hq']
    split
    · rfl
    · exact passAll_beside ..

theorem access_beside_ok {sg : Nat} {right : Right} {off len align : Nat} {kind : AccKind} {p : OcdS}
    (h : access sg right off len align kind o = (.ok (), p)) :
    access sg right off len align kind (o.beside ds host) = (.ok (), p.beside ds host) := by
  rw [access_beside, h]

/-- The fetch is the same whatever the host gives. -/
theorem fetched_host {c : CoreId} {s : State} {len : Nat} {p : OcdS} (hf : Fetched c len s p) (host : Bytes) :
    fetchIns len (ocdStart c (coreNo c s) host s) = (.ok (), { p with host := host }) := by
  have hfetch := hf.fetch
  simp only [fetchIns, ocd_bind, ocd_get] at hfetch ⊢
  cases ha : access sgCS .x (ocdStart c (coreNo c s) [] s).k.pc.toNat len 2 .execute (ocdStart c (coreNo c s) [] s) with
  | mk r q =>
    rw [ha] at hfetch
    cases r with
    | error e => cases hfetch
    | ok u =>
      have hds : (ocdStart c (coreNo c s) [] s).k.ds = q.k.ds := (congrArg Task.ds (access_ok ha).1.task).symm
      have hhost : access sgCS .x (ocdStart c (coreNo c s) host s).k.pc.toNat len 2 .execute (ocdStart c (coreNo c s) host s) =
          (.ok (), q.beside (ocdStart c (coreNo c s) [] s).k.ds host) := access_beside_ok (o := ocdStart c (coreNo c s) [] s) ha
      rw [hhost, hds]
      cases hfetch
      rfl

end

end Sys2Proof.Machine
end

section
/-! PROOF. What a completed or trapped instruction makes of the device (R269, R272, R293). -/

namespace Sys2Proof.Machine

section
variable {c : CoreId} {s : State} {len : Nat} {body : Ocd Unit} {p : OcdS} {k : Task}

/-! ## Instructions that complete -/

theorem completes_of_leaves (hf : Fetched c len s p) (h : Leaves body p k) : Completes c s (.next (ocdRun c len [] body s)) k := by
  obtain ⟨b, hbody⟩ := h
  have hcore : coreOf p.s.toDev c = coreOf s.toDev c := coreOf_fetched hf
  exact completes_of_body hf hbody (postKeepsDev_nil hf.same.post) hcore rfl

/-- The frame of an instruction that stores nothing: its own task and its core's counts change. -/
theorem onlyOwnTask_of_leaves (hf : Fetched c len s p) (h : Leaves body p k) : OnlyOwnTask c s (ocdRun c len [] body s) := by
  obtain ⟨b, hbody⟩ := h
  have hsame := hf.same
  have hdev : SameButKw s.toDev p.s.toDev := hsame.1
  have hpend : p.s.pending = s.pending := by rw [hsame.2]; rfl
  have hrun : ocdRun c len [] body s = retired c (coreNo c s) (p.left k b) := by
    rw [ocdRun_ok hf hbody, ocdDone_eq]
    show List.foldl _ _ p.post = _
    rw [hsame.post]
    rfl
  have htasks : ∀ r t, ¬ (r = c.region.val ∧ t = coreNo c s) →
      taskOf (retired c (coreNo c s) (p.left k b)).toDev r t = taskOf s.toDev r t := fun r t hrt => by
    simp only [retired, ocdDone, List.foldl_nil, onDev_toDev, taskOf_onCore, taskOf_onTask_ne _ _ hrt]
    exact taskOf_of_tumbler (tumblerOf_of_die hdev.die r) t
  have hcores : ∀ e, e ≠ c → coreOf (retired c (coreNo c s) (p.left k b)).toDev e = coreOf s.toDev e := fun e he => by
    simp only [retired, ocdDone, List.foldl_nil, onDev_toDev, coreOf_onCore_ne _ _ he, coreOf_onTask]
    exact coreOf_of_tumbler (tumblerOf_of_die hdev.die _)
  have hown : ∃ x : CoreS, coreOf (retired c (coreNo c s) (p.left k b)).toDev c = x ∧ x.task = (coreOf s.toDev c).task
      ∧ x.sev = (coreOf s.toDev c).sev := by
    refine ⟨_, rfl, ?_⟩
    simp only [retired, ocdDone, List.foldl_nil, onDev_toDev, coreOf_onCore_self, coreOf_onTask]
    have hold : coreOf (kwForget (fun x => x.by_ == some c) (p.left k b).s.toDev) c = coreOf s.toDev c :=
      coreOf_of_tumbler (tumblerOf_of_die hdev.die _)
    rw [hold]
    exact ⟨rfl, rfl⟩
  obtain ⟨x, hx, htask, hsev⟩ := hown
  rw [hrun]
  refine ⟨hsame.mem, hpend, htasks, hcores, hx ▸ htask, hx ▸ hsev, ?_⟩
  have hparts : p.s.toDev = { s.toDev with kw := p.s.toDev.kw } := hdev
  exact ⟨(congrArg Dev.lc hparts :), (congrArg Dev.hif hparts :), (congrArg Dev.ks hparts :), (congrArg Dev.pol hparts :),
    (congrArg Dev.brl hparts :), (congrArg Dev.ent hparts :), (congrArg Dev.vlt hparts :), (congrArg Dev.apl hparts :),
    (congrArg Dev.crd hparts :), (congrArg Dev.dma hparts :), (congrArg Dev.spn hparts :), (congrArg Dev.nvm hparts :),
    (congrArg Dev.bat hparts :), (congrArg Dev.tmp hparts :), (congrArg Dev.evr hparts :), (congrArg Dev.cpm hparts :),
    (congrArg Dev.svc hparts :), (congrArg Dev.pg hparts :), (congrArg Dev.spi hparts :)⟩

end

/-! ## Cores beside the end of a task -/

section
variable {β : Type} {w : CoreS → β} (d : Dev) (c : CoreId) (r t : Nat)

theorem core_onCoreP_keeps (p : Nat) {f : CoreS → CoreS} (h : ∀ x, w (f x) = w x) (n i : Nat) :
    w (tget (regionOf (onCoreP r p f d) n).cores i {}) = w (tget (regionOf d n).cores i {}) := by
  by_cases hr : n = r
  · subst hr
    by_cases hp : i = p
    · subst hp
      simp [onCoreP, h]
    · simp [onCoreP, tget_tmod_ne _ _ _ _ hp]
  · simp [onCoreP, regionOf_onRegion_ne _ _ hr]

theorem coreOf_onCoreP_keeps {p : Nat} {f : CoreS → CoreS} (h : ∀ x, w (f x) = w x) :
    w (coreOf (onCoreP r p f d) c) = w (coreOf d c) := core_onCoreP_keeps d r p h c.region c.pos

theorem freeCore_keeps (h : ∀ x, w { x with task := none } = w x) : w (coreOf (freeCore r t d) c) = w (coreOf d c) := by
  unfold freeCore
  split
  · exact coreOf_onCoreP_keeps d c r h
  · rfl

theorem traps_logTrap (k : TrapRec) : (coreOf (logTrap t k d) c).traps = (coreOf d c).traps := by
  have hlog : ∀ code source p1 p2 p3, (coreOf (logEv code source p1 p2 p3 d) c).traps = (coreOf d c).traps := fun _ _ _ _ _ =>
    congrArg CoreS.traps (coreOf_of_tumbler (tumblerOf_logEv ..))
  unfold logTrap
  dsimp only
  split
  · exact (coreOf_onCoreP_keeps (w := CoreS.traps) _ _ _ fun _ => by rfl).trans (hlog ..)
  · exact hlog ..

theorem traps_settling (e : Ending) : (coreOf (settling r t e d) c).traps = (coreOf d c).traps := by
  have hcounted : coreOf (settling r t e d) c = coreOf (freeCore r t d) c := by
    unfold settling
    refine (doIf_keeps (coreOf · c) (fun d => ?_) _ _).trans (coreOf_onTask ..)
    by_cases hr : (c.region : Nat) = r
    · subst hr
      simp [coreOf, onTmb]
    · simp [coreOf, onTmb, regionOf_onRegion_ne _ _ hr]
  rw [hcounted]
  exact freeCore_keeps (w := CoreS.traps) d c r t fun _ => rfl

theorem traps_taskSettle : (coreOf (taskSettle r t d) c).traps = (coreOf d c).traps := by
  rcases taskSettle_cases d r t with h | ⟨e, hend, hlives, hquiet⟩
  · rw [h]
  · rw [taskSettle_quiet hend hlives hquiet, coreOf_of_tumbler (tumblerOf_cancelsDone ..)]
    cases (taskOf d r t).trap with
    | none => exact traps_settling ..
    | some k =>
      dsimp only
      split
      · rw [traps_logTrap, traps_settling]
      · exact traps_settling ..

theorem traps_taskEnding (e : Ending) : (coreOf (taskEnding r t e d) c).traps = (coreOf d c).traps := by
  rw [taskEnding_eq, traps_taskSettle, decided, coreOf_onTask]
  exact freeCore_keeps (w := CoreS.traps) d c r t fun _ => rfl

end

/-! ## Instructions that trap -/

/-- What a trap leaves of its task: its end, the record of the trap, the stacks and the program counter. -/
def Task.trapped (k : Task) : Option Ending × Option TrapRec × List Word32 × List Word32 × Word32 :=
  (k.ending, k.trap, k.ds, k.rs, k.pc)

section
variable {c : CoreId} {t cause kind sg off : Nat} {d : Dev}

theorem trapped_trapTask : (taskOf (trapTask c t cause kind sg off d) c.region t).trapped =
    (some .trap,
      some { cause := cause, kind := kind, seg := sg, p2 := BitVec.ofNat 32 off, pc := (taskOf d c.region t).pc, master := coreMaster c },
      (taskOf d c.region t).ds, (taskOf d c.region t).rs, (taskOf d c.region t).pc) := by
  have hforget : ∀ f, taskOf (onCore c f (insForget c d)) c.region t = taskOf d c.region t := fun f => by
    rw [taskOf_onCore]
    exact taskOf_of_tumbler (tumblerOf_of_die (insForget_die ..) _) t
  unfold trapTask
  simp only [taskEnding_eq]
  rw [taskSettle_keeps (v := Task.trapped) _ _ _ _ _ fun _ _ _ _ => rfl, taskOf_decided, taskOf_onTask_self, hforget]
  rfl

theorem traps_trapTask : (coreOf (trapTask c t cause kind sg off d) c).traps = (coreOf d c).traps + 1 := by
  unfold trapTask
  simp only
  rw [traps_taskEnding, coreOf_onTask, coreOf_onCore_self]
  exact congrArg (CoreS.traps · + 1) (coreOf_of_tumbler (tumblerOf_of_die (insForget_die ..) _))

end

section
variable {c : CoreId} {s : State} {len : Nat} {host : Bytes} {body : Ocd Unit} {p q : OcdS} {cause kind sg off : Nat}

theorem ocdRun_traps (hf : Fetched c len s p) (hbody : body { p with host := host } = (.error (.trap cause kind sg off), q)) :
    ocdRun c len host body s = onDev (trapTask c (coreNo c s) cause kind sg off) q.s := by
  have hrun : (do fetchIns len; body : Ocd Unit) (ocdStart c (coreNo c s) host s) = (.error (.trap cause kind sg off), q) :=
    (bind_ok (fetched_host hf host)).trans hbody
  unfold ocdStart at hrun
  simp only [ocdRun, hf.task, hrun]

/-- A trap whose instruction has changed nothing but the keyways' counts. -/
theorem traps_of_body (hf : Fetched c len s p) (hbody : body { p with host := host } = (.error (.trap cause kind sg off), q))
    (hdev : SameButKw s.toDev q.s.toDev) (hmem : q.s.mem = s.mem) :
    Traps c s (.next (ocdRun c len host body s)) cause kind sg := by
  have htask : taskOf q.s.toDev c.region (coreNo c s) = coreK c s := taskOf_of_tumbler (tumblerOf_of_die hdev.die _) _
  have htrapped := trapped_trapTask (c := c) (t := coreNo c s) (cause := cause) (kind := kind) (sg := sg) (off := off) (d := q.s.toDev)
  rw [htask] at htrapped
  simp only [Task.trapped, Prod.mk.injEq] at htrapped
  obtain ⟨hend, htrap, hds, hrs, hpc⟩ := htrapped
  rw [ocdRun_traps hf hbody]
  refine ⟨hend, ?_, hds, hrs, hpc, hmem, ?_⟩
  · rw [onDev_toDev, htrap]
    rfl
  · rw [onDev_toDev, traps_trapTask, hdev.coreOf]

/-- A trap of an instruction without the host's bytes that has touched its task alone. -/
theorem traps_of_unchanged (hf : Fetched c len s p) (hbody : body p = (.error (.trap cause kind sg off), q)) (hs : q.s = p.s) :
    Traps c s (.next (ocdRun c len [] body s)) cause kind sg := by
  have hhost : { p with host := [] } = p := by rw [hf.same.2]; rfl
  exact traps_of_body hf (hhost.symm ▸ hbody) (hs ▸ hf.same.1) (hs ▸ hf.same.mem)

end

end Sys2Proof.Machine
end

section
/-! PROOF. The arithmetic instructions complete with the results of their tables (R274, R275, R280). -/

namespace Sys2Proof.Machine

theorem short0_zero (c : CoreId) (body : Ocd Unit) (s : State) : short0 c 0 body s = .next (ocdRun c 2 [] body s) := rfl

theorem opsComplete_of_run {ops : List StackOp} (h : ∀ op ∈ ops, OpRuns op) : OpsComplete ops := by
  intro op hop c s hfetch hheld hroom
  obtain ⟨body, hexec, hworks⟩ := h op hop
  obtain ⟨p, hf⟩ := exists_fetched hfetch
  have hk := task_fetched hf
  have hds := held_fetched hf
  have hleaves := hworks.held p (hds ▸ hheld) (hds ▸ hroom)
  rw [hk] at hleaves
  rw [hexec, short0_zero]
  exact completes_of_leaves hf hleaves

/-! ## Division -/

section
variable {f : Word32 → Word32 → Word32} {b a : Word32} {r : List Word32} {p : OcdS}

/-- A division takes its operands off the stack before it looks at them. -/
theorem divide_operands (hds : p.k.ds = b :: a :: r) : ∃ bd, divide f p =
    (do if b = 0 then ocdTrap 6
        push (f a b) : Ocd Unit) (p.left { p.k with ds := r } bd) := by
  refine ⟨p.bound.map (max 34), ?_⟩
  have hheld : 2 ≤ p.k.ds.length := by simp [hds]
  have htakes : takes 34 p = (.ok (), p.left p.k (p.bound.map (max 34))) := rfl
  simp only [divide, bind_ok htakes, bind_ok (needDs_left hheld), bind_ok pop_left, hds, List.headD_cons, List.drop_succ_cons,
    List.drop_zero]

theorem divide_leaves (hds : p.k.ds = b :: a :: r) (hroom : r.length < 32) (hb : b ≠ 0) :
    Leaves (divide f) p { p.k with ds := f a b :: r } := by
  obtain ⟨bd, hbd⟩ := divide_operands (f := f) hds
  refine ⟨bd, ?_⟩
  rw [hbd, if_neg hb]
  exact push_left hroom

theorem divide_traps (hds : p.k.ds = b :: a :: r) (hb : b = 0) :
    ∃ q, divide f p = (.error (.trap 6 0 0 0), q) ∧ q.s = p.s := by
  obtain ⟨bd, hbd⟩ := divide_operands (f := f) hds
  rw [if_pos hb] at hbd
  exact ⟨p.left { p.k with ds := r } bd, hbd, rfl⟩

end

/-- The instruction is a division with the result `g`. -/
def Divides (x : (CoreId → BitVec 8 → Instr) × (Word32 → Word32 → Word32)) : Prop :=
  ∀ c imm s, exec (x.1 c imm) s = short0 c imm (divide x.2) s

theorem divisions_divide : ∀ x ∈ divisions, Divides x := by
  have hdivu : (fun a b : Word32 => BitVec.ofNat 32 (a.toNat / b.toNat)) = fun a b => a.udiv b := by
    funext a b
    exact (BitVec.eq_of_toNat_eq (by simp [Nat.mod_eq_of_lt (Nat.lt_of_le_of_lt (Nat.div_le_self ..) a.isLt)]))
  have hmodu : (fun a b : Word32 => BitVec.ofNat 32 (a.toNat % b.toNat)) = fun a b => a.umod b := by
    funext a b
    exact (BitVec.eq_of_toNat_eq (by simp [Nat.mod_eq_of_lt (Nat.lt_of_le_of_lt (Nat.mod_le ..) a.isLt)]))
  simp only [divisions, List.forall_mem_cons, List.not_mem_nil, false_implies, implies_true, and_true, Divides, hdivu, hmodu,
    ← sdiv_eq_ofInt, ← srem_eq_ofInt]
  exact ⟨fun _ _ _ => rfl, fun _ _ _ => rfl, fun _ _ _ => rfl, fun _ _ _ => rfl⟩

theorem divisionCompletesOrTraps : DivisionCompletesOrTraps := by
  intro x hx c s b a r hfetch hds hroom
  obtain ⟨p, hf⟩ := exists_fetched hfetch
  have hk := task_fetched hf
  have hpds : p.k.ds = b :: a :: r := (held_fetched hf).trans hds
  rw [divisions_divide x hx, short0_zero]
  constructor
  · intro hb
    have hleaves := divide_leaves (f := x.2) hpds hroom hb
    rw [hk] at hleaves
    exact completes_of_leaves hf hleaves
  · intro hb
    obtain ⟨q, hq, hs⟩ := divide_traps (f := x.2) hpds hb
    exact traps_of_unchanged hf hq hs

/-- Settles O51: each instruction of the lists takes its operands off the stack and pushes what its table says. -/
theorem arithmeticCompletes : Obligations.ArithmeticCompletes :=
  ⟨opsComplete_of_run singleOps_run, opsComplete_of_run doubleOps_run, divisionCompletesOrTraps⟩

end Sys2Proof.Machine
end

section
/-! PROOF. Immediates, the return stack, branches, calls, returns and long forms do what their tables say (R273, R276, R278, R279). -/

namespace Sys2Proof.Machine

/-- The instruction's body makes of the task what its table says, where its entries are held and no spill is due. -/
def TaskOpRuns {n : Nat} (len : Nat) (op : TaskOp n) : Prop :=
  ∃ body : BitVec n → Ocd Unit, (∀ c imm s, exec (op.ins c imm) s = .next (ocdRun c len [] (body imm) s)) ∧
    ∀ imm (p : OcdS), op.ok imm p.k = true → op.needD imm ≤ p.k.ds.length → op.needR imm ≤ p.k.rs.length →
      (op.f imm p.k).ds.length ≤ 32 → (op.f imm p.k).rs.length ≤ 16 → Leaves (body imm) p (op.f imm p.k)

theorem taskOpsComplete_of_run {n len : Nat} {ops : List (TaskOp n)} (h : ∀ op ∈ ops, TaskOpRuns len op) :
    TaskOpsComplete len ops := by
  intro op hop c imm s hfetch k hok hneedD hneedR hds hrs
  obtain ⟨body, hexec, hleaves⟩ := h op hop
  obtain ⟨p, hf⟩ := exists_fetched hfetch
  have hk : p.k = k := task_fetched hf
  rw [hexec]
  rw [← hk] at hok hneedD hneedR hds hrs ⊢
  exact completes_of_leaves hf (hleaves imm p hok hneedD hneedR hds hrs)

theorem onlyOwnTask_of_run {n len : Nat} {op : TaskOp n} (h : TaskOpRuns len op) {c : CoreId} {imm : BitVec n} {s : State}
    (hfetch : fetches c len s = true) (hok : op.ok imm (past len c s) = true) (hneedD : op.needD imm ≤ (past len c s).ds.length)
    (hneedR : op.needR imm ≤ (past len c s).rs.length) (hds : (op.f imm (past len c s)).ds.length ≤ 32)
    (hrs : (op.f imm (past len c s)).rs.length ≤ 16) : ∀ u, exec (op.ins c imm) s = .next u → OnlyOwnTask c s u := by
  intro u hu
  obtain ⟨body, hexec, hleaves⟩ := h
  obtain ⟨p, hf⟩ := exists_fetched hfetch
  rw [hexec] at hu
  rw [← task_fetched hf] at hok hneedD hneedR hds hrs
  cases hu
  exact onlyOwnTask_of_leaves hf (hleaves imm p hok hneedD hneedR hds hrs)

/-! ## How the parts leave the task -/

section
variable {p : OcdS} {k : Task} {n : Nat} {imm : BitVec 8} {body : Ocd Unit}

theorem Leaves.done : Leaves (pure ()) p p.k := ⟨p.bound, rfl⟩

theorem Leaves.needDs (hheld : n ≤ p.k.ds.length) (h : Leaves body p k) : Leaves (do Machine.needDs n; body) p k := by
  obtain ⟨b, hb⟩ := h
  exact ⟨b, (bind_ok (needDs_held hheld)).trans hb⟩

theorem Leaves.needRs (hheld : n ≤ p.k.rs.length) (h : Leaves body p k) : Leaves (do Machine.needRs n; body) p k := by
  obtain ⟨b, hb⟩ := h
  exact ⟨b, (bind_ok (needRs_held hheld)).trans hb⟩

theorem Leaves.pop {work : Word32 → Ocd Unit} (h : Leaves (work (top p.k)) (p.left { p.k with ds := p.k.ds.drop 1 } p.bound) k) :
    Leaves (Machine.pop >>= work) p k := by
  obtain ⟨b, hb⟩ := h
  exact ⟨b, (bind_ok (pop_left (b := p.bound))).trans hb⟩

theorem Leaves.popR {work : Word32 → Ocd Unit} (h : Leaves (work (topR p.k)) (p.left { p.k with rs := p.k.rs.drop 1 } p.bound) k) :
    Leaves (Machine.popR >>= work) p k := by
  obtain ⟨b, hb⟩ := h
  exact ⟨b, (bind_ok (popR_left (b := p.bound))).trans hb⟩

theorem Leaves.push {v : Word32} (hroom : p.k.ds.length < 32) (h : Leaves body (p.left (pushed v p.k) p.bound) k) :
    Leaves (do Machine.push v; body) p k := by
  obtain ⟨b, hb⟩ := h
  exact ⟨b, (bind_ok (push_left (b := p.bound) hroom)).trans hb⟩

theorem Leaves.pushR {v : Word32} (hroom : p.k.rs.length < 16) (h : Leaves body (p.left { p.k with rs := v :: p.k.rs } p.bound) k) :
    Leaves (do Machine.pushR v; body) p k := by
  obtain ⟨b, hb⟩ := h
  exact ⟨b, (bind_ok (pushR_left (b := p.bound) hroom)).trans hb⟩

theorem push_leaves {v : Word32} (hroom : p.k.ds.length < 32) : Leaves (push v) p (pushed v p.k) := ⟨p.bound, push_left hroom⟩

theorem pushR_leaves {v : Word32} (hroom : p.k.rs.length < 16) : Leaves (pushR v) p { p.k with rs := v :: p.k.rs } :=
  ⟨p.bound, pushR_left hroom⟩

theorem unary_leaves {f : Word32 → Word32} (hheld : 1 ≤ p.k.ds.length) (hroom : (mapTop f p.k).ds.length ≤ 32) :
    Leaves (unary f) p (mapTop f p.k) := .needDs hheld (.pop (push_leaves hroom))

theorem branchBy_leaves {off : Word32} : Leaves (branchBy off) p (branched off p.k) := ⟨p.bound.map (max 2), rfl⟩

theorem branchIf_leaves {c : Word32 → Bool} {off : Word32} (hheld : 1 ≤ p.k.ds.length) :
    Leaves (branchIf c off) p
      (if c (top p.k) then branched off { p.k with ds := p.k.ds.drop 1 } else { p.k with ds := p.k.ds.drop 1 }) := by
  refine .needDs hheld (.pop ?_)
  split
  · exact branchBy_leaves
  · exact .done

theorem pushNext_leaves (h : p.k.rs.length < 16) : Leaves pushNext p { p.k with rs := p.k.pc :: p.k.rs } := pushR_leaves h

theorem callBy_leaves {off : Word32} (h : p.k.rs.length < 16) :
    Leaves (callBy off) p (branched off { p.k with rs := p.k.pc :: p.k.rs }) := by
  obtain ⟨b, hb⟩ := pushNext_leaves h
  exact ⟨_, bind_ok hb⟩

theorem jumpTo_leaves {o : Word32} (heven : (!o.getLsbD 0) = true) : Leaves (jumpTo o) p { p.k with pc := o } := by
  refine ⟨p.bound.map (max 2), ?_⟩
  rw [jumpTo, if_neg (by simpa using heven)]
  rfl

/-- A short form whose immediate must be zero. -/
theorem leaves_of_zero (hzero : (imm == 0) = true) (h : Leaves body p k) : Leaves (if imm = 0 then body else ocdTrap 1) p k := by
  rwa [if_pos (beq_iff_eq.mp hzero)]

/-- As `leaves_of_zero`, where the offset to go to is even too. -/
theorem leaves_of_zero_even {o : Word32} (hok : (imm == 0 && !o.getLsbD 0) = true) (h : (!o.getLsbD 0) = true → Leaves body p k) :
    Leaves (if imm = 0 then body else ocdTrap 1) p k := by
  obtain ⟨hzero, heven⟩ := Bool.and_eq_true_iff.mp hok
  exact leaves_of_zero hzero (h heven)

theorem shiftImm_leaves {f : Word32 → Nat → Word32} (hok : decide (imm.toNat < 32) = true) (hheld : 1 ≤ p.k.ds.length)
    (hroom : (mapTop (fun a => f a imm.toNat) p.k).ds.length ≤ 32) :
    Leaves (shiftImm imm f) p (mapTop (fun a => f a imm.toNat) p.k) := by
  rw [shiftImm, if_neg (Nat.not_le.mpr (of_decide_eq_true hok))]
  exact unary_leaves hheld hroom

theorem pick_leaves (hok : decide (imm.toNat < 32) = true) (hheld : imm.toNat + 1 ≤ p.k.ds.length) (hroom : p.k.ds.length < 32) :
    Leaves (do
      if 32 ≤ imm.toNat then ocdTrap 1
      needDs (imm.toNat + 1)
      let k := (← get).k
      push (k.ds.getD imm.toNat 0)) p (pushed (p.k.ds.getD imm.toNat 0) p.k) := by
  rw [if_neg (Nat.not_le.mpr (of_decide_eq_true hok))]
  exact .needDs hheld (push_leaves hroom)

theorem twoToR_leaves (hheld : 2 ≤ p.k.ds.length) (hroom : p.k.rs.length + 1 < 16) :
    Leaves (do
      needDs 2
      let hi ← pop
      let lo ← pop
      pushR lo
      pushR hi) p { p.k with ds := p.k.ds.drop 2, rs := top p.k :: p.k.ds.getD 1 0 :: p.k.rs } := by
  obtain ⟨b, a, r, hl⟩ := exists_cons₂ hheld
  rw [hl, top, hl]
  refine .needDs hheld (.pop (.pop ?_))
  simp only [top, OcdS.left, hl, List.drop_succ_cons, List.drop_zero, List.headD_cons]
  exact .pushR (Nat.lt_of_succ_lt hroom) (pushR_leaves hroom)

theorem twoRFrom_leaves (hheld : 2 ≤ p.k.rs.length) (hroom : p.k.ds.length + 1 < 32) :
    Leaves (do
      needRs 2
      let hi ← popR
      let lo ← popR
      push lo
      push hi) p { p.k with ds := topR p.k :: p.k.rs.getD 1 0 :: p.k.ds, rs := p.k.rs.drop 2 } := by
  obtain ⟨b, a, r, hl⟩ := exists_cons₂ hheld
  rw [hl, topR, hl]
  refine .needRs hheld (.popR (.popR ?_))
  simp only [topR, OcdS.left, hl, List.drop_succ_cons, List.drop_zero, List.headD_cons]
  exact .push (Nat.lt_of_succ_lt hroom) (push_leaves hroom)

theorem callx_leaves (heven : (!(top p.k).getLsbD 0) = true) (hheld : 1 ≤ p.k.ds.length) (hroom : p.k.rs.length < 16) :
    Leaves (do
      needDs 1
      let o ← pop
      if o.getLsbD 0 then segFault 7 sgCS o.toNat
      pushNext
      jumpTo o) p { p.k with ds := p.k.ds.drop 1, rs := p.k.pc :: p.k.rs, pc := top p.k } := by
  refine .needDs hheld (.pop ?_)
  rw [if_neg (by simpa using heven)]
  exact .pushR hroom (jumpTo_leaves heven)

theorem seginfo_leaves {i : BitVec 24} (hok : decide (i.toNat < 8) = true) (hroom : p.k.ds.length + 1 < 32) :
    Leaves (do
      if 8 ≤ i.toNat then ocdTrap 1
      let g := segOf (← get).k i.toNat
      push (BitVec.ofNat 32 g.limit)
      push (g.rights.zeroExtend 32)) p
      { p.k with ds := (p.k.segs.getD i.toNat {}).rights.zeroExtend 32 :: BitVec.ofNat 32 (p.k.segs.getD i.toNat {}).limit :: p.k.ds } := by
  rw [if_neg (Nat.not_le.mpr (of_decide_eq_true hok))]
  exact .push (Nat.lt_of_succ_lt hroom) (push_leaves hroom)

end

/-- HI8 puts its byte above the low 24 bits. -/
theorem hi8_eq (a : Word32) (i : BitVec 24) (hi : i.toNat < 256) :
    (a &&& BitVec.ofNat 32 0x00FFFFFF) ||| (zx24 i <<< 24) = BitVec.ofNat 32 (a.toNat % 2 ^ 24 + i.toNat * 2 ^ 24) := by
  have hlow : a.toNat &&& (BitVec.ofNat 32 0x00FFFFFF).toNat = a.toNat % 2 ^ 24 := Nat.and_two_pow_sub_one_eq_mod a.toNat 24
  have hlt : a.toNat % 2 ^ 24 < 2 ^ 24 := Nat.mod_lt _ (by decide)
  have hbyte : (zx24 i <<< 24).toNat = i.toNat <<< 24 := by
    simp only [zx24, BitVec.toNat_shiftLeft, BitVec.toNat_setWidth, Nat.shiftLeft_eq]
    omega
  apply BitVec.eq_of_toNat_eq
  rw [BitVec.toNat_or, BitVec.toNat_and, hbyte, hlow, Nat.or_comm, ← Nat.shiftLeft_add_eq_or_of_lt hlt, BitVec.toNat_ofNat,
    Nat.shiftLeft_eq]
  omega

theorem hi8_leaves {p : OcdS} {i : BitVec 24} (hok : decide (i.toNat < 256) = true) (hheld : 1 ≤ p.k.ds.length)
    (hroom : (mapTop (fun a => BitVec.ofNat 32 (a.toNat % 2 ^ 24 + i.toNat * 2 ^ 24)) p.k).ds.length ≤ 32) :
    Leaves (if 256 ≤ i.toNat then ocdTrap 1 else unary (fun a => (a &&& BitVec.ofNat 32 0x00FFFFFF) ||| (zx24 i <<< 24))) p
      (mapTop (fun a => BitVec.ofNat 32 (a.toNat % 2 ^ 24 + i.toNat * 2 ^ 24)) p.k) := by
  have hbyte : i.toNat < 256 := of_decide_eq_true hok
  rw [if_neg (Nat.not_le.mpr hbyte), funext fun a => hi8_eq a i hbyte]
  exact unary_leaves hheld hroom

/-! ## The instructions of the lists -/

theorem immediateOps_run : ∀ op ∈ immediateOps, TaskOpRuns 2 op := by
  simp only [immediateOps, List.forall_mem_cons, List.not_mem_nil, false_implies, implies_true, and_true]
  exact ⟨⟨_, fun _ _ _ => rfl, fun _ _ _ _ _ hroom _ => push_leaves hroom⟩,
    ⟨_, fun _ _ _ => rfl, fun _ _ _ _ _ hroom _ => push_leaves hroom⟩,
    ⟨_, fun _ _ _ => rfl, fun _ _ _ hheld _ hroom _ => unary_leaves hheld hroom⟩,
    ⟨_, fun _ _ _ => rfl, fun _ _ _ hheld _ hroom _ => unary_leaves hheld hroom⟩,
    ⟨_, fun _ _ _ => rfl, fun _ _ hok hheld _ hroom _ => shiftImm_leaves hok hheld hroom⟩,
    ⟨_, fun _ _ _ => rfl, fun _ _ hok hheld _ hroom _ => shiftImm_leaves hok hheld hroom⟩,
    ⟨_, fun _ _ _ => rfl, fun _ _ hok hheld _ hroom _ => shiftImm_leaves hok hheld hroom⟩,
    ⟨_, fun _ _ _ => rfl, fun _ _ _ hheld _ hroom _ => unary_leaves hheld hroom⟩,
    ⟨_, fun _ _ _ => rfl, fun _ _ hok hheld _ hroom _ => pick_leaves hok hheld hroom⟩,
    ⟨_, fun _ _ _ => rfl, fun _ p hok _ _ hroom _ => leaves_of_zero hok ⟨p.bound, push_left hroom⟩⟩⟩

theorem returnOps_run : ∀ op ∈ returnOps, TaskOpRuns 2 op := by
  simp only [returnOps, List.forall_mem_cons, List.not_mem_nil, false_implies, implies_true, and_true]
  exact ⟨⟨_, fun _ _ _ => rfl, fun _ _ hok hd _ _ hroom => leaves_of_zero hok (.needDs hd (.pop (pushR_leaves hroom)))⟩,
    ⟨_, fun _ _ _ => rfl, fun _ _ hok _ hr hroom _ => leaves_of_zero hok (.needRs hr (.popR (push_leaves hroom)))⟩,
    ⟨_, fun _ _ _ => rfl, fun _ _ hok _ hr hroom _ => leaves_of_zero hok (.needRs hr (push_leaves hroom))⟩,
    ⟨_, fun _ _ _ => rfl, fun _ _ hok hd _ _ hroom =>
      leaves_of_zero hok (twoToR_leaves hd hroom)⟩,
    ⟨_, fun _ _ _ => rfl, fun _ _ hok _ hr hroom _ =>
      leaves_of_zero hok (twoRFrom_leaves hr hroom)⟩,
    ⟨_, fun _ _ _ => rfl, fun _ _ hok _ hr _ _ => leaves_of_zero hok (.needRs hr (.popR .done))⟩⟩

theorem branchZero_leaves {p : OcdS} {off : Word32} (hheld : 1 ≤ p.k.ds.length) : Leaves (branchIf (fun f => f == 0) off) p
    (if top p.k = 0 then branched off { p.k with ds := p.k.ds.drop 1 } else { p.k with ds := p.k.ds.drop 1 }) := by
  simpa only [beq_iff_eq] using branchIf_leaves (c := fun f => f == 0) (off := off) hheld

theorem branchNonzero_leaves {p : OcdS} {off : Word32} (hheld : 1 ≤ p.k.ds.length) : Leaves (branchIf (fun f => f != 0) off) p
    (if top p.k ≠ 0 then branched off { p.k with ds := p.k.ds.drop 1 } else { p.k with ds := p.k.ds.drop 1 }) := by
  simpa only [bne_iff_ne] using branchIf_leaves (c := fun f => f != 0) (off := off) hheld

theorem controlOps_run : ∀ op ∈ controlOps, TaskOpRuns 2 op := by
  simp only [controlOps, List.forall_mem_cons, List.not_mem_nil, false_implies, implies_true, and_true]
  exact ⟨⟨_, fun _ _ _ => rfl, fun _ _ _ _ _ _ _ => branchBy_leaves⟩,
    ⟨_, fun _ _ _ => rfl, fun _ _ _ hd _ _ _ => branchZero_leaves hd⟩,
    ⟨_, fun _ _ _ => rfl, fun _ _ _ hd _ _ _ => branchNonzero_leaves hd⟩,
    ⟨_, fun _ _ _ => rfl, fun _ _ _ _ _ _ hroom => callBy_leaves hroom⟩,
    ⟨_, fun _ _ _ => rfl, fun _ _ hok _ hr _ _ => leaves_of_zero_even hok fun heven => .needRs hr (.popR (jumpTo_leaves heven))⟩,
    ⟨_, fun _ _ _ => rfl, fun _ _ hok hd _ _ hroom => leaves_of_zero_even hok fun heven => callx_leaves heven hd hroom⟩,
    ⟨_, fun _ _ _ => rfl, fun _ _ hok hd _ _ _ => leaves_of_zero_even hok fun heven => .needDs hd (.pop (jumpTo_leaves heven))⟩⟩

theorem longOps_run : ∀ op ∈ longOps, TaskOpRuns 4 op := by
  simp only [longOps, List.forall_mem_cons, List.not_mem_nil, false_implies, implies_true, and_true]
  exact ⟨⟨_, fun _ _ _ => rfl, fun _ _ _ _ _ hroom _ => push_leaves hroom⟩,
    ⟨_, fun _ _ _ => rfl, fun _ _ _ _ _ hroom _ => push_leaves hroom⟩,
    ⟨_, fun _ _ _ => rfl, fun _ _ hok hd _ hroom _ => hi8_leaves hok hd hroom⟩,
    ⟨_, fun _ _ _ => rfl, fun _ _ _ hd _ hroom _ => unary_leaves hd hroom⟩,
    ⟨_, fun _ _ _ => rfl, fun _ _ _ _ _ _ _ => branchBy_leaves⟩,
    ⟨_, fun _ _ _ => rfl, fun _ _ _ hd _ _ _ => branchZero_leaves hd⟩,
    ⟨_, fun _ _ _ => rfl, fun _ _ _ hd _ _ _ => branchNonzero_leaves hd⟩,
    ⟨_, fun _ _ _ => rfl, fun _ _ _ _ _ _ hroom => callBy_leaves hroom⟩,
    ⟨_, fun _ _ _ => rfl, fun _ _ hok _ _ hroom _ => seginfo_leaves hok hroom⟩⟩

/-- Settles O52: each instruction of the lists finds its entries held and works on the task alone, as its table says. -/
theorem stackOpsAndControlComplete : Obligations.StackOpsAndControlComplete :=
  ⟨opsComplete_of_run shuffleOps_run, taskOpsComplete_of_run immediateOps_run,
    ⟨taskOpsComplete_of_run returnOps_run, taskOpsComplete_of_run controlOps_run⟩, taskOpsComplete_of_run longOps_run⟩

/-! ## The frame -/

theorem stackOps_run : ∀ op ∈ shuffleOps ++ singleOps ++ doubleOps, OpRuns op := by
  intro op hop
  rcases List.mem_append.mp hop with hop | hop
  · exact (List.mem_append.mp hop).elim (shuffleOps_run op) (singleOps_run op)
  · exact doubleOps_run op hop

/-- Settles O2: an instruction of the lists that runs to its end leaves its task anew, and else its core's counts and the
keyways' alone. -/
theorem stackInstructionsFrame : Obligations.StackInstructionsFrame := by
  refine ⟨?_, ?_, ?_⟩
  · intro op hop c s hfetch hheld hroom u hu
    obtain ⟨body, hexec, hworks⟩ := stackOps_run op hop
    obtain ⟨p, hf⟩ := exists_fetched hfetch
    have hds := held_fetched hf
    rw [hexec, short0_zero] at hu
    cases hu
    exact onlyOwnTask_of_leaves hf (hworks.held p (hds ▸ hheld) (hds ▸ hroom))
  · intro op hop c imm s hfetch k
    refine onlyOwnTask_of_run ?_ hfetch
    rcases List.mem_append.mp hop with hop | hop
    · exact (List.mem_append.mp hop).elim (immediateOps_run op) (returnOps_run op)
    · exact controlOps_run op hop
  · intro op hop c imm s hfetch k
    exact onlyOwnTask_of_run (longOps_run op hop) hfetch

end Sys2Proof.Machine
end

section
/-! PROOF. Bad instructions and bad accesses trap (R269, R272, R278, R282, R284). -/

namespace Sys2Proof.Machine

section
variable {c : CoreId} {s : State} {len cause : Nat} {body : Ocd Unit}

/-- An instruction that raises its trap before anything else. -/
theorem traps_of_throw {off : Nat} (hfetch : fetches c len s = true)
    (hbody : ∀ p, ∃ q, body p = (.error (.trap cause 0 0 off), q) ∧ q.s = p.s) :
    Traps c s (.next (ocdRun c len [] body s)) cause 0 0 := by
  obtain ⟨p, hf⟩ := exists_fetched hfetch
  obtain ⟨q, hq, hs⟩ := hbody p
  exact traps_of_unchanged hf hq hs

theorem traps_of_trap (hfetch : fetches c len s = true) : Traps c s (.next (ocdRun c len [] (ocdTrap cause) s)) cause 0 0 :=
  traps_of_throw hfetch fun p => ⟨p, rfl, rfl⟩

theorem traps_of_nonzero {imm : BitVec 8} (hfetch : fetches c 2 s = true) (himm : imm ≠ 0) : Traps c s (short0 c imm body s) 1 0 0 := by
  rw [short0, if_neg himm]
  exact traps_of_trap hfetch

end

/-! ## Bad instructions -/

/-- The short form asks for a zero immediate. -/
def AsksZero (ins : CoreId → BitVec 8 → Instr) : Prop := ∃ body, ∀ c imm s, exec (ins c imm) s = short0 c imm body s

theorem OpRuns.asksZero {op : StackOp} (h : OpRuns op) : AsksZero op.ins := by
  obtain ⟨body, hexec, -⟩ := h
  exact ⟨body, hexec⟩

theorem returnOps_ask : ∀ op ∈ returnOps, AsksZero op.ins := by
  simp only [returnOps, List.forall_mem_cons, List.not_mem_nil, false_implies, implies_true, and_true]
  exact ⟨⟨_, fun _ _ _ => rfl⟩, ⟨_, fun _ _ _ => rfl⟩, ⟨_, fun _ _ _ => rfl⟩, ⟨_, fun _ _ _ => rfl⟩, ⟨_, fun _ _ _ => rfl⟩,
    ⟨_, fun _ _ _ => rfl⟩⟩

theorem zeroForms_ask : ∀ ins ∈ zeroForms, AsksZero ins := by
  have hops : ∀ ins ∈ (shuffleOps ++ singleOps ++ doubleOps).map (·.ins), AsksZero ins := by
    intro ins hins
    obtain ⟨op, hop, rfl⟩ := List.mem_map.mp hins
    exact (stackOps_run op hop).asksZero
  have hdivs : ∀ ins ∈ divisions.map (·.1), AsksZero ins := by
    intro ins hins
    obtain ⟨x, hx, rfl⟩ := List.mem_map.mp hins
    exact ⟨_, divisions_divide x hx⟩
  have hreturns : ∀ ins ∈ returnOps.map (·.ins), AsksZero ins := by
    intro ins hins
    obtain ⟨op, hop, rfl⟩ := List.mem_map.mp hins
    exact returnOps_ask op hop
  have hothers : ∀ ins ∈ [Instr.depth, .ret, .callx, .jmpx, .wfe, .sev, .wuntil, .wfeu, .time, .yield, .exit], AsksZero ins := by
    simp only [List.forall_mem_cons, List.not_mem_nil, false_implies, implies_true, and_true]
    exact ⟨⟨_, fun _ _ _ => rfl⟩, ⟨_, fun _ _ _ => rfl⟩, ⟨_, fun _ _ _ => rfl⟩, ⟨_, fun _ _ _ => rfl⟩, ⟨_, fun _ _ _ => rfl⟩,
      ⟨_, fun _ _ _ => rfl⟩, ⟨_, fun _ _ _ => rfl⟩, ⟨_, fun _ _ _ => rfl⟩, ⟨_, fun _ _ _ => rfl⟩, ⟨_, fun _ _ _ => rfl⟩,
      ⟨_, fun _ _ _ => rfl⟩⟩
  intro ins hins
  simp only [zeroForms, List.mem_append] at hins hops
  rcases hins with ((hins | hins) | hins) | hins
  · exact hops ins hins
  · exact hdivs ins hins
  · exact hreturns ins hins
  · exact hothers ins hins

/-- The instruction's body, where the bound `n` of its immediate is reached, raises cause 1. -/
def Bounds {w : Nat} (len n : Nat) (ins : CoreId → BitVec w → Instr) : Prop :=
  ∃ body : BitVec w → Ocd Unit, (∀ c imm s, exec (ins c imm) s = .next (ocdRun c len [] (body imm) s)) ∧
    ∀ imm p, n ≤ imm.toNat → body imm p = (.error (.trap 1 0 0 0), p)

theorem Bounds.traps {w len n : Nat} {ins : CoreId → BitVec w → Instr} (h : Bounds len n ins) {c : CoreId} {imm : BitVec w} {s : State}
    (hfetch : fetches c len s = true) (himm : n ≤ imm.toNat) : Traps c s (exec (ins c imm) s) 1 0 0 := by
  obtain ⟨body, hexec, hbody⟩ := h
  rw [hexec]
  exact traps_of_throw hfetch fun p => ⟨p, hbody imm p himm, rfl⟩

theorem shifts_bound : ∀ ins ∈ [Instr.shli, .shrui, .shrsi, .pick], Bounds 2 32 ins := by
  simp only [List.forall_mem_cons, List.not_mem_nil, false_implies, implies_true, and_true]
  exact ⟨⟨_, fun _ _ _ => rfl, fun _ _ himm => congrFun (if_pos himm) _⟩, ⟨_, fun _ _ _ => rfl, fun _ _ himm => congrFun (if_pos himm) _⟩,
    ⟨_, fun _ _ _ => rfl, fun _ _ himm => congrFun (if_pos himm) _⟩, ⟨_, fun _ _ _ => rfl, fun _ _ himm => congrFun (if_pos himm) _⟩⟩

theorem constants_bound : ∀ ins ∈ [Instr.seginfo, .getc], Bounds 4 8 ins := by
  simp only [List.forall_mem_cons, List.not_mem_nil, false_implies, implies_true, and_true]
  exact ⟨⟨_, fun _ _ _ => rfl, fun _ _ himm => congrFun (if_pos himm) _⟩, ⟨_, fun _ _ _ => rfl, fun _ _ himm => congrFun (if_pos himm) _⟩⟩

theorem badInstructionsTrap : BadInstructionsTrap := by
  refine ⟨?_, ?_, ?_, ?_, ?_, ?_, ?_⟩
  · intro ins hins c imm s hfetch himm
    obtain ⟨body, hexec⟩ := zeroForms_ask ins hins
    rw [hexec]
    exact traps_of_nonzero hfetch himm
  · intro ins hins c imm s hfetch himm
    exact (shifts_bound ins hins).traps hfetch himm
  · intro ins hins c imm s hfetch himm
    exact (constants_bound ins hins).traps hfetch himm
  · intro c op imm s hundefined hfetch
    have hexec : exec (.undefinedOpcode c op imm) s = .next (ocdRun c (if op.toNat < 0xE0 then 2 else 4) [] (ocdTrap 1) s) :=
      if_neg (by simp [hundefined])
    rw [hexec]
    exact traps_of_trap hfetch
  · intro c cp imm s hcp hfetch
    have hexec : exec (.undefCp c cp imm) s = .next (ocdRun c 4 [] (ocdTrap 2) s) := if_neg (Nat.not_lt.mpr hcp)
    rw [hexec]
    exact traps_of_trap hfetch
  · intro c imm s hfetch
    have hexec : exec (.trap c imm) s = .next (ocdRun c 2 [] (throw (.trap 7 0 0 imm.toNat)) s) := rfl
    rw [hexec]
    exact traps_of_throw hfetch fun p => ⟨p, rfl, rfl⟩
  · intro op hop c s hfetch hshort
    obtain ⟨body, hexec, hworks⟩ := stackOps_run op hop
    obtain ⟨p, hf⟩ := exists_fetched hfetch
    have hdepth : dsDepth p.k = dsDepth (coreK c s) := by rw [task_fetched hf]; rfl
    obtain ⟨b, hb⟩ := hworks.short p (hdepth ▸ hshort)
    rw [hexec, short0_zero]
    exact traps_of_unchanged hf hb rfl

/-! ## Loads and stores -/

/-- A short load: its offset leaves the stack, and `rest` works on the bytes. -/
def loadThen (imm : BitVec 8) (w : Nat) (rest : Bytes → Ocd Unit) : Ocd Unit := do
  needDs 1
  let o ← pop
  let b ← loadBytes (immSeg imm) (effOff o imm w) w w
  rest b

/-- A short store of what `take` takes off the stack, `n` entries. -/
def storeTaken (imm : BitVec 8) (w n : Nat) (take : Ocd Bytes) : Ocd Unit := do
  needDs (n + 1)
  let o ← pop
  let b ← take
  storeBytes (immSeg imm) (effOff o imm w) w b

/-- The instruction loads, and pushes what its table makes of the bytes. -/
def Loads (x : (CoreId → BitVec 8 → List Byte → Instr) × Nat × (Bytes → List Word32)) : Prop :=
  ∃ rest : Bytes → Ocd Unit, (∀ c imm host s, exec (x.1 c imm host) s = .next (ocdRun c 2 host (loadThen imm x.2.1 rest) s)) ∧
    ∀ b p, p.k.ds.length + (x.2.2 []).length ≤ 32 → Leaves (rest b) p { p.k with ds := x.2.2 b ++ p.k.ds }

/-- The instruction stores the bytes that its table makes of the entries it takes. -/
def StoresTaken (x : (CoreId → BitVec 8 → Instr) × Nat × Nat × (List Word32 → Bytes)) : Prop :=
  (∀ l, (x.2.2.2 l).length = x.2.1) ∧
  ∃ take : Ocd Bytes, (∀ c imm s, exec (x.1 c imm) s = .next (ocdRun c 2 [] (storeTaken imm x.2.1 x.2.2.1 take) s)) ∧
    ∀ p, take p = (.ok (x.2.2.2 p.k.ds), p.withDs (p.k.ds.drop x.2.2.1))

theorem dbl_toNat (lo hi : Word32) : (dbl lo hi).toNat = hi.toNat * 2 ^ 32 + lo.toNat := by
  rw [dbl, BitVec.toNat_append, ← Nat.shiftLeft_add_eq_or_of_lt lo.isLt, Nat.shiftLeft_eq]

theorem dhi_ofNat (n : Nat) : dhi (BitVec.ofNat 64 n) = BitVec.ofNat 32 (n / 2 ^ 32) := by
  apply BitVec.eq_of_toNat_eq
  simp only [dhi, BitVec.extractLsb'_toNat, BitVec.toNat_ofNat, Nat.shiftRight_eq_div_pow]
  omega

theorem dlo_ofNat (n : Nat) : dlo (BitVec.ofNat 64 n) = BitVec.ofNat 32 (n % 2 ^ 32) := by
  apply BitVec.eq_of_toNat_eq
  simp only [dlo, BitVec.extractLsb'_toNat, BitVec.toNat_ofNat, Nat.shiftRight_zero]
  omega

theorem pushD_leaves {v : Word64} {p : OcdS} (hroom : p.k.ds.length < 31) :
    Leaves (pushD v) p { p.k with ds := dhi v :: dlo v :: p.k.ds } := ⟨p.bound, pushD_left hroom⟩

theorem pushD_ofNat_leaves {n : Nat} {p : OcdS} (hroom : p.k.ds.length < 31) :
    Leaves (pushD (BitVec.ofNat 64 n)) p { p.k with ds := BitVec.ofNat 32 (n / 2 ^ 32) :: BitVec.ofNat 32 (n % 2 ^ 32) :: p.k.ds } := by
  rw [← dhi_ofNat, ← dlo_ofNat]
  exact pushD_leaves hroom

theorem shortLoads_load : ∀ x ∈ shortLoads, Loads x := by
  simp only [shortLoads, List.forall_mem_cons, List.not_mem_nil, false_implies, implies_true, and_true]
  exact ⟨⟨fun b => push (BitVec.ofNat 32 (leNat b)), fun _ _ _ _ => rfl, fun _ _ hroom => push_leaves hroom⟩,
    ⟨fun b => push ((BitVec.ofNat 8 (leNat b)).signExtend 32), fun _ _ _ _ => rfl, fun _ _ hroom => push_leaves hroom⟩,
    ⟨fun b => push (BitVec.ofNat 32 (leNat b)), fun _ _ _ _ => rfl, fun _ _ hroom => push_leaves hroom⟩,
    ⟨fun b => push ((BitVec.ofNat 16 (leNat b)).signExtend 32), fun _ _ _ _ => rfl, fun _ _ hroom => push_leaves hroom⟩,
    ⟨fun b => push (BitVec.ofNat 32 (leNat b)), fun _ _ _ _ => rfl, fun _ _ hroom => push_leaves hroom⟩,
    ⟨fun b => pushD (BitVec.ofNat 64 (leNat b)), fun _ _ _ _ => rfl, fun _ _ hroom =>
      pushD_ofNat_leaves (Nat.lt_of_succ_le (Nat.le_of_succ_le_succ hroom))⟩⟩

/-- The bytes of the top entry. -/
def takeWord (w : Nat) : Ocd Bytes := do
  let x ← pop
  pure (natLE x.toNat w)

/-- The bytes of the two top entries, a double cell. -/
def takeDouble : Ocd Bytes := do
  let d ← popD
  pure (natLE d.toNat 8)

theorem popD_takes (p : OcdS) : ∃ d, popD p = (.ok d, p.withDs (p.k.ds.drop 2)) ∧
    d.toNat = (p.k.ds.headD 0).toNat * 2 ^ 32 + (p.k.ds.getD 1 0).toNat := by
  have hlow : (p.k.ds.drop 1).headD 0 = p.k.ds.getD 1 0 := by
    rcases p.k.ds with _ | ⟨a, _ | ⟨b, r⟩⟩ <;> rfl
  refine ⟨dbl ((p.k.ds.drop 1).headD 0) (p.k.ds.headD 0), ?_, hlow ▸ dbl_toNat ..⟩
  rw [ocd_popD, List.drop_drop]
  rfl

theorem takeDouble_takes (p : OcdS) :
    takeDouble p = (.ok (natLE ((p.k.ds.headD 0).toNat * 2 ^ 32 + (p.k.ds.getD 1 0).toNat) 8), p.withDs (p.k.ds.drop 2)) := by
  obtain ⟨d, hpop, hd⟩ := popD_takes p
  rw [takeDouble, bind_ok hpop, hd]
  rfl

theorem shortStores_store : ∀ x ∈ shortStores, StoresTaken x := by
  simp only [shortStores, List.forall_mem_cons, List.not_mem_nil, false_implies, implies_true, and_true]
  exact ⟨⟨fun _ => natLE_length .., takeWord 1, fun _ _ _ => rfl, fun _ => rfl⟩,
    ⟨fun _ => natLE_length .., takeWord 2, fun _ _ _ => rfl, fun _ => rfl⟩,
    ⟨fun _ => natLE_length .., takeWord 4, fun _ _ _ => rfl, fun _ => rfl⟩,
    ⟨fun _ => natLE_length .., takeDouble, fun _ _ _ => rfl, takeDouble_takes⟩⟩

/-! ## Bad accesses -/

section
variable {c : CoreId} {s : State} {p : OcdS} {kd sg off len align : Nat} {right : Right} {kind : AccKind}

theorem segCheck_past {n : Nat} : segCheck (past n c s) sg right off len align = segCheck (coreK c s) sg right off len align := rfl

/-- The checks of an access do not ask for the program counter. -/
theorem segCheck_fetched {n : Nat} (hf : Fetched c n s p) :
    segCheck p.k sg right off len align = segCheck (coreK c s) sg right off len align := by
  rw [task_fetched hf, segCheck_past]

theorem access_traps (h : segCheck p.k sg right off len align = some kd) :
    access sg right off len align kind p = (.error (.trap 3 kd sg off), p) := by
  simp only [access, ocd_bind, ocd_get, h]
  rfl

theorem loadBytes_traps (h : segCheck p.k sg .r off len align = some kd) :
    loadBytes sg off len align p = (.error (.trap 3 kd sg off), p) := by
  rw [loadBytes, bind_error (access_traps h)]

theorem storeBytes_traps {b : Bytes} (h : segCheck p.k sg .w off b.length align = some kd) :
    storeBytes sg off align b p = (.error (.trap 3 kd sg off), p) := by
  rw [storeBytes, bind_error (access_traps h)]

theorem loadThen_operand {imm : BitVec 8} {w : Nat} {rest : Bytes → Ocd Unit} {o : Word32} {r : List Word32} (hds : p.k.ds = o :: r) :
    loadThen imm w rest p = (loadBytes (immSeg imm) (effOff o imm w) w w >>= rest) (p.withDs r) := by
  have hheld : 1 ≤ p.k.ds.length := by simp [hds]
  simp only [loadThen, bind_ok (needDs_held hheld), bind_ok (ocd_pop p), hds]
  rfl

theorem storeTaken_operands {imm : BitVec 8} {w n : Nat} {take : Ocd Bytes} {f : List Word32 → Bytes} {o : Word32} {r : List Word32}
    (htake : ∀ p, take p = (.ok (f p.k.ds), p.withDs (p.k.ds.drop n))) (hds : p.k.ds = o :: r) (hheld : n ≤ r.length) :
    storeTaken imm w n take p = storeBytes (immSeg imm) (effOff o imm w) w (f r) (p.withDs (r.drop n)) := by
  have hall : n + 1 ≤ p.k.ds.length := by simp [hds, hheld]
  have hpop : pop p = (.ok o, p.withDs r) := by rw [ocd_pop, hds]; rfl
  simp only [storeTaken, bind_ok (needDs_held hall), bind_ok hpop, bind_ok (htake _)]
  rfl

theorem badAccessesTrap : BadAccessesTrap := by
  refine ⟨?_, ?_⟩
  · intro x hx c imm host s o r kd k hfetch hds hcheck
    obtain ⟨rest, hexec, -⟩ := shortLoads_load x hx
    obtain ⟨p, hf⟩ := exists_fetched hfetch
    have hbad : segCheck ({ p with host := host }.withDs r).k (immSeg imm) .r (effOff o imm x.2.1) x.2.1 x.2.1 = some kd :=
      (segCheck_fetched hf).trans hcheck
    have hbody : loadThen imm x.2.1 rest { p with host := host } =
        (.error (.trap 3 kd (immSeg imm) (effOff o imm x.2.1)), { p with host := host }.withDs r) := by
      rw [loadThen_operand (p := { p with host := host }) ((held_fetched hf).trans hds)]
      exact bind_error (loadBytes_traps hbad)
    rw [hexec]
    exact traps_of_body hf hbody hf.same.1 hf.same.mem
  · intro x hx c imm s o r kd k hfetch hds hheld hcheck
    obtain ⟨hlen, take, hexec, htake⟩ := shortStores_store x hx
    obtain ⟨p, hf⟩ := exists_fetched hfetch
    have hbad : segCheck (p.withDs (r.drop x.2.2.1)).k (immSeg imm) .w (effOff o imm x.2.1) (x.2.2.2 r).length x.2.1 = some kd := by
      rw [hlen]
      exact (segCheck_fetched hf).trans hcheck
    have hbody : storeTaken imm x.2.1 x.2.2.1 take p =
        (.error (.trap 3 kd (immSeg imm) (effOff o imm x.2.1)), p.withDs (r.drop x.2.2.1)) := by
      rw [storeTaken_operands htake ((held_fetched hf).trans hds) hheld]
      exact storeBytes_traps hbad
    rw [hexec]
    exact traps_of_unchanged hf hbody rfl

end

/-- Settles O53: a bad instruction traps before it touches anything, and one whose access fails a segment check has taken no more than
its operands. -/
theorem instructionsAndAccessesTrap : Obligations.InstructionsAndAccessesTrap := ⟨badInstructionsTrap, badAccessesTrap⟩

end Sys2Proof.Machine
end

section
/-! PROOF. Loads read RAM, and stores write it (R277, R279, R282). -/

namespace Sys2Proof.Machine

/-! ## Instructions with the host's bytes -/

section
variable {c : CoreId} {s : State} {len : Nat} {host : Bytes} {body : Ocd Unit} {p q : OcdS} {k : Task}

theorem ocdRun_ok_host (hf : Fetched c len s p) (hbody : body { p with host := host } = (.ok (), q)) :
    ocdRun c len host body s = ocdDone c (coreNo c s) q := by
  have hrun : (do fetchIns len; body : Ocd Unit) (ocdStart c (coreNo c s) host s) = (.ok (), q) :=
    (bind_ok (fetched_host hf host)).trans hbody
  unfold ocdStart at hrun
  simp only [ocdRun, hf.task, hrun]

/-- As `completes_of_body`, for an instruction that the host gives bytes. -/
theorem completes_of_done (hrun : ocdRun c len host body s = ocdDone c (coreNo c s) q) (hpost : q.PostKeepsDev)
    (hcore : coreOf q.s.toDev c = coreOf s.toDev c) (hk : q.k = k) : Completes c s (.next (ocdRun c len host body s)) k := by
  show taskOf _ _ _ = _ ∧ _ = _
  rw [hrun, ocdDone_toDev _ hpost, retired_task, retired_insns, hcore, hk]
  exact ⟨rfl, rfl⟩

/-- As `stores_of_body`, for an instruction that the host gives bytes. -/
theorem stores_of_done {k' : Task} {sg off : Nat} {b : Bytes} (hrun : ocdRun c len host body s = ocdDone c (coreNo c s) q)
    (hpost : q.post = [segStore k' sg off b]) (hram : inRam k' sg off = true) (hcore : coreOf q.s.toDev c = coreOf s.toDev c)
    (hmem : q.s.mem = s.mem) (hk : q.k = k) : Stores c s (.next (ocdRun c len host body s)) k (ramAt k' sg off) b := by
  have hwritten : (ocdRun c len host body s).mem = memSetN s.mem (ramAt k' sg off) b := by
    rw [hrun, ocdDone_eq, hpost, List.foldl_cons, List.foldl_nil, segStore_ram b _ hram]
    exact congrArg (memSetN · (ramAt k' sg off) b) hmem
  refine ⟨completes_of_done hrun (postKeepsDev_segStore hpost hram) hcore hk, ?_, ?_⟩
  · intro hwf
    rw [hwritten]
    exact memGetN_memSetN hwf _ b
  · intro x hx
    rw [hwritten]
    exact memGet_memSetN_outside _ _ b x hx

theorem coreOf_same {o : OcdS} (h : OcdSame o p) : coreOf p.s.toDev c = coreOf o.s.toDev c := by
  rw [coreOf, coreOf, regionOf, regionOf, h.die]

end

theorem ok_of_bind {α β : Type} {m : Ocd α} {f : α → Ocd β} {o q : OcdS} {b : β} (h : (m >>= f) o = (.ok b, q)) :
    ∃ a p, m o = (.ok a, p) ∧ f a p = (.ok b, q) := by
  rw [ocd_bind] at h
  cases hm : m o with
  | mk e p =>
    rw [hm] at h
    cases e with
    | error e => cases h
    | ok a => exact ⟨a, p, rfl, h⟩

/-! ## Accesses after the operands are taken -/

/-- The accesses change the keyways' counts and the bound alone, and do not ask for the data stack or the host's bytes. -/
def Checks (m : Ocd Unit) : Prop := ∀ o p, m o = (.ok (), p) → OcdSame o p ∧
  ∀ ds host, m (o.beside ds host) = (.ok (), p.beside ds host)

theorem access_checks (sg : Nat) (right : Right) (off len align : Nat) (kind : AccKind) : Checks (access sg right off len align kind) :=
  fun _ _ h => ⟨(access_ok h).1, fun _ _ => access_beside_ok h⟩

theorem Checks.seq {m n : Ocd Unit} (hm : Checks m) (hn : Checks n) : Checks (do m; n) := by
  intro o q h
  obtain ⟨⟨⟩, p, hp, hq⟩ := ok_of_bind h
  obtain ⟨hsame, hbeside⟩ := hm o p hp
  obtain ⟨hsame', hbeside'⟩ := hn p q hq
  exact ⟨hsame.trans hsame', fun ds host => (bind_ok (hbeside ds host)).trans (hbeside' ds host)⟩

/-- The instruction has passed its accesses with the task as `k`. -/
structure Cleared (c : CoreId) (s : State) (k : Task) (host : Bytes) (q : OcdS) : Prop where
  task : q.k = k
  host : q.host = host
  post : q.post = []
  core : coreOf q.s.toDev c = coreOf s.toDev c
  mem : q.s.mem = s.mem
  hif : q.s.hif = s.hif

section
variable {c : CoreId} {s : State} {len : Nat}

theorem exists_cleared {m : Ocd Unit} (hm : Checks m) (hreach : reaches c len m s = true) (ds : List Word32) (host : Bytes) :
    ∃ p q, Fetched c len s p ∧ m (p.beside ds host) = (.ok (), q) ∧ Cleared c s { past len c s with ds := ds } host q := by
  obtain ⟨p, q, hf, hq⟩ := exists_reached hreach
  obtain ⟨hsame, hbeside⟩ := hm p q hq
  refine ⟨p, q.beside ds host, hf, hbeside ds host, ⟨?_, rfl, hsame.post.trans hf.same.post,
    (coreOf_same hsame).trans (coreOf_fetched hf), hsame.mem.trans hf.same.mem, hsame.hif.trans hf.same.hif⟩⟩
  rw [OcdS.beside, hsame.task, task_fetched hf]

section
variable {ds : List Word32} {host : Bytes} {q : OcdS} (hp : Cleared c s { past len c s with ds := ds } host q)
include hp

theorem Cleared.held : q.k.ds = ds := congrArg Task.ds hp.task

theorem Cleared.ramAt_eq (sg off : Nat) : ramAt q.k sg off = ramAt (coreK c s) sg off := by
  rw [hp.task]
  rfl

theorem Cleared.inRam_eq (sg off : Nat) : inRam q.k sg off = inRam (coreK c s) sg off := by
  rw [hp.task]
  rfl

end

/-- An instruction without the host's bytes has none. -/
theorem host_fetched {p : OcdS} (hf : Fetched c len s p) : p.host = [] := by
  rw [hf.same.2]
  rfl

theorem beside_fetched {p : OcdS} (hf : Fetched c len s p) (ds : List Word32) : p.beside ds [] = p.withDs ds := by
  rw [← host_fetched hf]
  rfl

end

/-! ## Operands -/

theorem pops_one {p : OcdS} {a : Word32} {r : List Word32} {work : Word32 → Ocd Unit} (hds : p.k.ds = a :: r) :
    (do needDs 1; let x ← pop; work x : Ocd Unit) p = work a (p.beside r p.host) := by
  rw [bind_ok (needDs_held (by simp [hds])), bind_ok (ocd_pop p), hds]
  rfl

theorem pops_two {p : OcdS} {b a : Word32} {r : List Word32} {work : Word32 → Word32 → Ocd Unit} (hds : p.k.ds = b :: a :: r) :
    (do needDs 2; let y ← pop; let x ← pop; work y x : Ocd Unit) p = work b a (p.beside r p.host) := by
  rw [bind_ok (needDs_held (by simp [hds])), bind_ok (ocd_pop p), bind_ok (ocd_pop _), hds]
  rfl

/-! ## Loads -/

section
variable {c : CoreId} {s : State} {p q : OcdS} {sg off w : Nat} {ds : List Word32} {host : Bytes}

theorem loadBytes_ram {align : Nat} (hacc : access sg .r off w align .read p = (.ok (), q)) (hram : inRam q.k sg off = true) :
    loadBytes sg off w align p = (.ok (memGetN q.s.mem (ramAt q.k sg off) w), q) := by
  obtain ⟨hms, hadr⟩ := Bool.and_eq_true_iff.mp hram
  have hms' : (segOf q.k sg).ms = false := Bool.not_eq_true' _ ▸ hms
  have hadr' : isRam ((segOf q.k sg).base + off) = true := hadr
  rw [loadBytes, bind_ok hacc]
  simp only [fetchBytes, ocd_bind, ocd_get, hms', hadr', if_true]
  rfl

/-- A load that reaches RAM: what it works on once it has its bytes, and how the whole ends. -/
theorem completes_of_load {len : Nat} {body : Ocd Unit} {rest : Bytes → Ocd Unit} {k : Task}
    (hreach : reaches c len (access sg .r off w w .read) s = true) (hram : inRam (coreK c s) sg off = true)
    (hbody : ∀ p, Fetched c len s p → body { p with host := host } = (loadBytes sg off w w >>= rest) (p.beside ds host))
    (hrest : ∀ p : OcdS, p.k = { past len c s with ds := ds } →
      Leaves (rest (memGetN s.mem (ramAt (coreK c s) sg off) w)) p k) :
    Completes c s (.next (ocdRun c len host body s)) k := by
  obtain ⟨p, q, hf, hacc, hp⟩ := exists_cleared (access_checks sg _ off w w _) hreach ds host
  have hload := loadBytes_ram hacc ((hp.inRam_eq sg off).trans hram)
  rw [hp.ramAt_eq, hp.mem] at hload
  obtain ⟨b, hb⟩ := hrest q hp.task
  have hrun := ocdRun_ok_host hf ((hbody p hf).trans ((bind_ok hload).trans hb))
  exact completes_of_done hrun (postKeepsDev_nil hp.post) hp.core rfl

/-- LDA pushes a double cell or a cell, as its width says. -/
def pushLoaded (w : Nat) (b : Bytes) : Ocd Unit :=
  if w = 8 then pushD (BitVec.ofNat 64 (leNat b)) else push (BitVec.ofNat 32 (leNat b))

theorem pushLoaded_leaves {b : Bytes} (hroom : p.k.ds.length ≤ 30) :
    Leaves (pushLoaded w b) p { p.k with
      ds := (if w = 8 then [BitVec.ofNat 32 (leNat b / 2 ^ 32), BitVec.ofNat 32 (leNat b % 2 ^ 32)] else [BitVec.ofNat 32 (leNat b)])
        ++ p.k.ds } := by
  unfold pushLoaded
  split
  · exact pushD_ofNat_leaves (by omega)
  · exact push_leaves (by omega)

theorem exec_lda (imm : BitVec 24) : exec (.lda c imm host) s =
    .next (ocdRun c 4 host (loadBytes (ldaSeg imm) (ldaOff imm) (ldaWidth imm) (ldaWidth imm) >>= pushLoaded (ldaWidth imm)) s) := rfl

theorem loadsReadMemory : LoadsReadMemory := by
  refine ⟨?_, ?_⟩
  · intro x hx c imm host s o r k sg off hds hroom hram hreach
    obtain ⟨rest, hexec, hrest⟩ := shortLoads_load x hx
    rw [hexec]
    refine completes_of_load (ds := r) (rest := rest) hreach hram ?_ ?_
    · intro p hf
      exact loadThen_operand ((held_fetched hf).trans hds)
    · intro p hk
      have h := hrest (memGetN s.mem (ramAt k sg off) x.2.1) p
      rw [hk] at h
      exact h (Nat.add_comm .. ▸ hroom)
  · intro c imm host s k sg w off v hroom hram hreach
    rw [exec_lda]
    refine completes_of_load (ds := k.ds) (rest := pushLoaded w) hreach hram (fun p hf => ?_) (fun p hk => ?_)
    · rw [← held_fetched hf]
      rfl
    · have hds : p.k.ds = k.ds := (congrArg Task.ds hk :)
      have h := pushLoaded_leaves (w := w) (b := memGetN s.mem (ramAt k sg off) w) (hds ▸ hroom)
      rwa [hk] at h

end

/-! ## Stores -/

section
variable {c : CoreId} {s : State} {sg off w len : Nat} {ds : List Word32} {b : Bytes} {body : Ocd Unit}

/-- A store that reaches RAM, of what the instruction has taken off the stack. -/
theorem stores_of_store (hreach : reaches c len (access sg .w off w w .write) s = true) (hram : inRam (coreK c s) sg off = true)
    (hlen : b.length = w) (hbody : ∀ p, Fetched c len s p → body p = storeBytes sg off w b (p.withDs ds)) :
    Stores c s (.next (ocdRun c len [] body s)) { past len c s with ds := ds } (ramAt (coreK c s) sg off) b := by
  subst hlen
  obtain ⟨p, q, hf, hacc, hp⟩ := exists_cleared (access_checks sg _ off _ _ _) hreach ds []
  rw [beside_fetched hf] at hacc
  have hram' := (hp.inRam_eq sg off).trans hram
  have hstore := (hbody p hf).trans (storeBytes_ram hacc hram' hp.post)
  rw [← hp.ramAt_eq]
  exact stores_of_body hf hstore rfl hram' hp.core hp.mem hp.task

/-- STA stores a double cell or a cell, as its width says. -/
def storeAbs (sg off w : Nat) : Ocd Unit := do
  needDs (if w = 8 then 2 else 1)
  if w = 8 then
    let d ← popD
    storeBytes sg off 8 (natLE d.toNat 8)
  else
    let x ← pop
    storeBytes sg off w (natLE x.toNat w)

theorem storeAbs_operands {p : OcdS} (hheld : (if w = 8 then 2 else 1) ≤ p.k.ds.length) :
    storeAbs sg off w p = storeBytes sg off w
      (if w = 8 then natLE ((p.k.ds.headD 0).toNat * 2 ^ 32 + (p.k.ds.getD 1 0).toNat) 8 else natLE (p.k.ds.headD 0).toNat w)
      (p.withDs (p.k.ds.drop (if w = 8 then 2 else 1))) := by
  rw [storeAbs, bind_ok (needDs_held hheld)]
  split
  next hw =>
    subst w
    obtain ⟨d, hpop, hd⟩ := popD_takes p
    rw [bind_ok hpop, hd]
  next => rfl

theorem exec_sta (imm : BitVec 24) :
    exec (.sta c imm) s = .next (ocdRun c 4 [] (storeAbs (ldaSeg imm) (ldaOff imm) (ldaWidth imm)) s) := rfl

theorem storesWriteMemory : StoresWriteMemory := by
  refine ⟨?_, ?_⟩
  · intro x hx c imm s o r k sg off hds hheld hram hreach
    obtain ⟨hlen, take, hexec, htake⟩ := shortStores_store x hx
    rw [hexec]
    exact stores_of_store hreach hram (hlen r) fun p hf => storeTaken_operands htake ((held_fetched hf).trans hds) hheld
  · intro c imm s k sg w off n hheld hram hreach
    rw [exec_sta]
    refine stores_of_store hreach hram ?_ fun p hf => ?_
    · split
      next hw => rw [natLE_length, hw]
      next => exact natLE_length ..
    · have hds : p.k.ds = k.ds := held_fetched hf
      rw [← hds]
      exact storeAbs_operands (hds ▸ hheld)

/-- Settles O54: the access that passes before the operands are taken passes after it too, and the bytes behind it are RAM's. -/
theorem loadsAndStoresReachMemory : Obligations.LoadsAndStoresReachMemory := ⟨loadsReadMemory, storesWriteMemory⟩

end

end Sys2Proof.Machine
end

section
/-! PROOF. A stack that is full spills its deepest entries, and one that lacks an entry reads them back (R268, R269). -/

namespace Sys2Proof.Machine

theorem length_cells (l : List Word32) : (l.flatMap cellBytes).length = 4 * l.length := by
  induction l with
  | nil => rfl
  | cons w l ih =>
    rw [List.flatMap_cons, List.length_append, ih, cellBytes, natLE_length, List.length_cons]
    omega

/-! ## Spills -/

section
variable {p q : OcdS} {v : Word32}

/-- The 8 deepest data entries, the deepest at the lowest address. -/
def spilledDs (k : Task) : Bytes := (k.ds.drop 24).reverse.flatMap cellBytes

/-- The 4 deepest return entries, the deepest at the highest address. -/
def spilledRs (k : Task) : Bytes := (k.rs.drop 12).flatMap cellBytes

theorem push_spills (hfull : p.k.ds.length = 32) (hroom : p.k.dsp + 32 ≤ p.k.rsp)
    (hacc : access sgSS .w p.k.dsp 32 4 .write p = (.ok (), q)) (hram : inRam q.k sgSS p.k.dsp = true) (hpost : q.post = []) :
    push v p = (.ok (), { q with
      k := { q.k with ds := v :: q.k.ds.take 24, dsp := q.k.dsp + 32 }, post := [segStore q.k sgSS p.k.dsp (spilledDs p.k)]
      groups := q.groups + 1, bound := q.bound.map (· + 12) }) := by
  have hlen : (spilledDs p.k).length = 32 := by
    rw [spilledDs, length_cells, List.length_reverse, List.length_drop, hfull]
  have hapart : ¬ p.k.rsp < p.k.dsp + 32 := Nat.not_lt.mpr hroom
  have hstore : storeBytes sgSS p.k.dsp 4 ((p.k.ds.drop (32 - 8)).reverse.flatMap cellBytes) p =
      (.ok (), { q with post := [segStore q.k sgSS p.k.dsp (spilledDs p.k)] }) :=
    storeBytes_ram (b := spilledDs p.k) (hlen.symm ▸ hacc) hram hpost
  simp only [push, ocd_bind, ocd_get, hfull, le_refl, if_true, hapart, if_false, hstore]
  rfl

theorem pushR_spills (hfull : p.k.rs.length = 16) (hroom : p.k.dsp + 16 ≤ p.k.rsp)
    (hacc : access sgSS .w (p.k.rsp - 16) 16 4 .write p = (.ok (), q)) (hram : inRam q.k sgSS (p.k.rsp - 16) = true)
    (hpost : q.post = []) :
    pushR v p = (.ok (), { q with
      k := { q.k with rs := v :: q.k.rs.take 12, rsp := q.k.rsp - 16 }, post := [segStore q.k sgSS (p.k.rsp - 16) (spilledRs p.k)]
      groups := q.groups + 1, bound := q.bound.map (· + 12) }) := by
  have hlen : (spilledRs p.k).length = 16 := by rw [spilledRs, length_cells, List.length_drop, hfull]
  have hapart : ¬ p.k.rsp < p.k.dsp + 16 := Nat.not_lt.mpr hroom
  have hstore : storeBytes sgSS (p.k.rsp - 16) 4 ((p.k.rs.drop (16 - 4)).flatMap cellBytes) p =
      (.ok (), { q with post := [segStore q.k sgSS (p.k.rsp - 16) (spilledRs p.k)] }) :=
    storeBytes_ram (b := spilledRs p.k) (hlen.symm ▸ hacc) hram hpost
  simp only [pushR, ocd_bind, ocd_get, hfull, le_refl, if_true, hapart, if_false, hstore]
  rfl

theorem push_meets (hfull : p.k.ds.length = 32) (hmeet : p.k.rsp < p.k.dsp + 32) : push v p = (.error (.trap 4 0 0 0), p) := by
  simp only [push, ocd_bind, ocd_get, hfull, le_refl, if_true, hmeet, ocd_trap]

end

section
variable {c : CoreId} {s : State} {imm : BitVec 8}

theorem exec_lit : exec (.lit c imm) s = .next (ocdRun c 2 [] (push (sx8 imm)) s) := rfl

theorem lit_spills (hfull : (coreK c s).ds.length = 32) (hroom : (coreK c s).dsp + 32 ≤ (coreK c s).rsp)
    (hram : inRam (coreK c s) sgSS (coreK c s).dsp = true) (hreach : reaches c 2 (access sgSS .w (coreK c s).dsp 32 4 .write) s = true) :
    Stores c s (exec (.lit c imm) s)
      { past 2 c s with ds := imm.signExtend 32 :: (coreK c s).ds.take 24, dsp := (coreK c s).dsp + 32 }
      (ramAt (coreK c s) sgSS (coreK c s).dsp) (spilledDs (coreK c s)) := by
  obtain ⟨p, q, hf, hacc, hp⟩ := exists_cleared (access_checks _ _ _ _ _ _) hreach (coreK c s).ds []
  have hself : p.beside (coreK c s).ds [] = p := by
    rw [beside_fetched hf, ← held_fetched hf]
    rfl
  have hpk := task_fetched hf
  have hdsp : p.k.dsp = (coreK c s).dsp := (congrArg Task.dsp hpk :)
  have hram' := (hp.inRam_eq sgSS (coreK c s).dsp).trans hram
  rw [hself, ← hdsp] at hacc
  have hpush := push_spills (v := sx8 imm) (by rw [hpk]; exact hfull) (by rw [hpk]; exact hroom) hacc (hdsp ▸ hram') hp.post
  have hspilled : spilledDs p.k = spilledDs (coreK c s) := by rw [hpk]; rfl
  rw [hdsp, hspilled] at hpush
  rw [exec_lit, ← hp.ramAt_eq]
  exact stores_of_body hf hpush rfl hram' hp.core hp.mem (by rw [hp.task]; rfl)

/-- The work of >R past its fetch. -/
def toRBody : Ocd Unit := do
  needDs 1
  let a ← pop
  pushR a

theorem exec_toR : exec (.toR c 0) s = .next (ocdRun c 2 [] toRBody s) := rfl

theorem toR_spills {v : Word32} {r : List Word32} (hds : (coreK c s).ds = v :: r) (hfull : (coreK c s).rs.length = 16)
    (hroom : (coreK c s).dsp + 16 ≤ (coreK c s).rsp) (hram : inRam (coreK c s) sgSS ((coreK c s).rsp - 16) = true)
    (hreach : reaches c 2 (access sgSS .w ((coreK c s).rsp - 16) 16 4 .write) s = true) :
    Stores c s (exec (.toR c 0) s)
      { past 2 c s with ds := r, rs := v :: (coreK c s).rs.take 12, rsp := (coreK c s).rsp - 16 }
      (ramAt (coreK c s) sgSS ((coreK c s).rsp - 16)) (spilledRs (coreK c s)) := by
  obtain ⟨p, q, hf, hacc, hp⟩ := exists_cleared (access_checks _ _ _ _ _ _) hreach r []
  have hpk := task_fetched hf
  have hpop : toRBody p = pushR v (p.beside r []) := by
    rw [toRBody, pops_one ((held_fetched hf).trans hds), host_fetched hf]
  have hrsp : (p.beside r []).k.rsp = (coreK c s).rsp := (congrArg Task.rsp hpk :)
  have hram' := (hp.inRam_eq sgSS ((coreK c s).rsp - 16)).trans hram
  have hpush := pushR_spills (v := v) (p := p.beside r []) ((congrArg (·.rs.length) hpk :).trans hfull)
    (by rw [OcdS.beside, hpk]; exact hroom) (hrsp ▸ hacc) (hrsp ▸ hram') hp.post
  have hspilled : spilledRs (p.beside r []).k = spilledRs (coreK c s) := by rw [OcdS.beside, hpk]; rfl
  rw [hrsp, hspilled] at hpush
  rw [exec_toR, ← hp.ramAt_eq]
  exact stores_of_body hf (hpop.trans hpush) rfl hram' hp.core hp.mem (by rw [hp.task]; rfl)

/-! ## Fills -/

/-- The cells of a group of 32 bytes below its top, from the top down. -/
theorem wordsLE_group (f : Nat → Byte) : (wordsLE ((List.range 32).map f)).reverse.drop 1 =
    (List.range 7).map (fun i => BitVec.ofNat 32 (leNat (slice ((List.range 32).map f) (4 * (6 - i)) 4))) := rfl

theorem length_group (f : Nat → Byte) : (wordsLE ((List.range 32).map f)).reverse.length = 8 := rfl

theorem fillDs_group {p q : OcdS} (hempty : p.k.ds = []) (hspilled : 32 ≤ p.k.dsp)
    (hacc : access sgSS .r (p.k.dsp - 32) 32 4 .read p = (.ok (), q)) (hram : inRam q.k sgSS (p.k.dsp - 32) = true) :
    fillDs 1 5 p = (.ok (), { q with
      k := { q.k with ds := q.k.ds ++ (wordsLE (memGetN q.s.mem (ramAt q.k sgSS (p.k.dsp - 32)) 32)).reverse, dsp := q.k.dsp - 32 }
      groups := q.groups + 1, bound := q.bound.map (· + 12) }) := by
  have hload := loadBytes_ram hacc hram
  have hneeds : ¬ (1 ≤ p.k.ds.length ∨ p.k.dsp = 0) := by simp [hempty]; omega
  have hheld : 1 ≤ (q.k.ds ++ (wordsLE (memGetN q.s.mem (ramAt q.k sgSS (p.k.dsp - 32)) 32)).reverse).length := by
    rw [List.length_append, memGetN, length_group]
    omega
  rw [fillDs]
  simp only [ocd_bind, ocd_get, hneeds, if_false]
  rw [hload]
  simp only [ocd_onK, ocd_countGroup, fillDs, ocd_bind, ocd_get, hheld, true_or, if_true, ocd_pure]

/-- The work of DROP past its fetch. -/
def dropBody : Ocd Unit := do
  needDs 1
  let _ ← pop

theorem exec_drop : exec (.drop c 0) s = .next (ocdRun c 2 [] dropBody s) := rfl

theorem drop_fills (hempty : (coreK c s).ds = []) (hspilled : 32 ≤ (coreK c s).dsp)
    (hram : inRam (coreK c s) sgSS ((coreK c s).dsp - 32) = true)
    (hreach : reaches c 2 (access sgSS .r ((coreK c s).dsp - 32) 32 4 .read) s = true) :
    Completes c s (exec (.drop c 0) s) { past 2 c s with
      dsp := (coreK c s).dsp - 32
      ds := (wordsLE (memGetN s.mem (ramAt (coreK c s) sgSS ((coreK c s).dsp - 32)) 32)).reverse.drop 1 } := by
  obtain ⟨p, q, hf, hacc, hp⟩ := exists_cleared (access_checks _ _ _ _ _ _) hreach [] []
  have hpk := task_fetched hf
  have hpds : p.k.ds = [] := (held_fetched hf).trans hempty
  have hself : p.beside [] [] = p := by
    rw [beside_fetched hf, ← hpds]
    rfl
  have hdsp : p.k.dsp = (coreK c s).dsp := (congrArg Task.dsp hpk :)
  rw [hself, ← hdsp] at hacc
  have hfill := fillDs_group hpds (hdsp ▸ hspilled) hacc (hdsp ▸ (hp.inRam_eq _ _).trans hram)
  have hdepth : ¬ dsDepth p.k < 1 := by
    unfold dsDepth
    omega
  have hneed : needDs 1 p = fillDs 1 5 p := by
    simp only [needDs, ocd_bind, ocd_get, hdepth, if_false]
  have hbody := (bind_ok (f := fun _ => do let _ ← pop) (hneed.trans hfill)).trans (bind_ok (ocd_pop _))
  rw [exec_drop]
  refine completes_of_body hf hbody (postKeepsDev_nil hp.post) hp.core ?_
  simp only [hp.task, hp.mem, hdsp, List.nil_append]
  rfl

end

/-- Settles O1: the spill's access passes before the entry is pushed, the bytes it stores are those of the deepest entries, and a fill
reads back a whole group. -/
theorem stackSpillsAndFills : Obligations.StackSpillsAndFills := by
  refine ⟨?_, ?_, ?_, ?_⟩
  · intro c imm s k b hfull hroom hram hreach
    exact lit_spills hfull hroom hram hreach
  · intro c s v r k b hds hfull _ hroom hram hreach
    exact toR_spills hds hfull hroom hram hreach
  · intro c s k b hempty hspilled hram hreach
    have h := drop_fills hempty hspilled hram hreach
    rw [memGetN, wordsLE_group] at h
    exact h
  · intro c imm s hfetch hfull hmeet
    obtain ⟨p, hf⟩ := exists_fetched hfetch
    have hpk := task_fetched hf
    rw [exec_lit]
    exact traps_of_unchanged hf (push_meets (by rw [hpk]; exact hfull) (by rw [hpk]; exact hmeet)) rfl

end Sys2Proof.Machine
end

section
/-! PROOF. The handle-slot operations of the key-store coprocessor (R286). -/

namespace Sys2Proof.Machine

/-! ## Operands and slots -/

theorem slotCheck_checks (n : Word32) (kind : AccKind) : Checks (slotCheck n kind) := access_checks _ _ _ _ _ _

section
variable {c : CoreId} {s : State} {q : OcdS} {r : List Word32} {host : Bytes}

theorem slotBytes_reads (hk : q.k = { past 4 c s with ds := r }) (hmem : q.s.mem = s.mem) (n : Word32) :
    slotBytes n q = (.ok (hsBytes c n s), q) := by
  show (Except.ok (memGetN q.s.mem ((segOf q.k sgHS).base + 8 * n.toNat) 8), q) = _
  rw [hmem, hk]
  rfl

/-- ST_OK lies on the stack, and the bytes are to be stored in the slot. -/
def OcdS.slotWritten (n : Word32) (b : Bytes) (r : List Word32) (q : OcdS) : OcdS :=
  { q with k := { q.k with ds := 0 :: r }, post := [segStore q.k sgHS (8 * n.toNat) b] }

/-- The last step of an operation that writes a slot: the bytes are to be stored, and ST_OK is pushed. -/
theorem slotWrite_ends (hp : Cleared c s { past 4 c s with ds := r } host q) (hroom : r.length < 32) (n : Word32) (b : Bytes) :
    (do slotWrite n b; pushSt stOk : Ocd Unit) q = (.ok (), q.slotWritten n b r) := by
  have hds := hp.held
  have hwrite : slotWrite n b q = (.ok (), { q with post := [segStore q.k sgHS (8 * n.toNat) b] }) := by
    simp only [slotWrite, ocd_bind, ocd_get, ocd_after, hp.post, List.nil_append]
  rw [bind_ok hwrite, ← hds]
  exact push_room (o := { q with post := [segStore q.k sgHS (8 * n.toNat) b] }) (hds.symm ▸ hroom)

theorem stores_of_slotWrite {body : Ocd Unit} {n : Word32} {b left : Bytes} (hp : Cleared c s { past 4 c s with ds := r } left q)
    (hram : hsRam (coreK c s) n = true)
    (hrun : ocdRun c 4 host body s = ocdDone c (coreNo c s) (q.slotWritten n b r)) :
    Stores c s (.next (ocdRun c 4 host body s)) { past 4 c s with ds := 0 :: r } (hsAt (coreK c s) n) b := by
  have hat : hsAt (coreK c s) n = ramAt q.k sgHS (8 * n.toNat) := (hp.ramAt_eq _ _).symm
  rw [hat]
  exact stores_of_done hrun rfl ((hp.inRam_eq _ _).trans hram) hp.core hp.mem (by rw [OcdS.slotWritten, hp.task])

end

/-! ## The operations -/

section
variable {c : CoreId} {s : State} {r : List Word32}

/-- The work of KS_HCOPY past its fetch. -/
def hcopyBody : Ocd Unit := do
  needDs 2
  let dst ← pop
  let src ← pop
  slotCheck src .read
  slotCheck dst .write
  slotWrite dst (← slotBytes src)
  pushSt stOk

theorem exec_ksHcopy : exec (.ksHcopy c 0) s = .next (ocdRun c 4 [] hcopyBody s) := rfl

theorem ksHcopy_stores {dst src : Word32} (hds : (coreK c s).ds = dst :: src :: r) (hram : hsRam (coreK c s) dst = true)
    (hreach : reaches c 4 (do slotCheck src .read; slotCheck dst .write) s = true) (hroom : r.length < 32) :
    Stores c s (exec (.ksHcopy c 0) s) { past 4 c s with ds := 0 :: r } (hsAt (coreK c s) dst) (hsBytes c src s) := by
  obtain ⟨p, q, hf, hq, hp⟩ := exists_cleared ((slotCheck_checks src .read).seq (slotCheck_checks dst .write)) hreach r []
  have hhost := host_fetched hf
  obtain ⟨⟨⟩, q', hq', hq⟩ := ok_of_bind hq
  have hbody : hcopyBody p = (.ok (), q.slotWritten dst (hsBytes c src s) r) := by
    rw [hcopyBody, pops_two ((held_fetched hf).trans hds), hhost, bind_ok hq', bind_ok hq, bind_ok (slotBytes_reads hp.task hp.mem src)]
    exact slotWrite_ends hp hroom dst _
  rw [exec_ksHcopy]
  exact stores_of_slotWrite hp hram (ocdRun_ok hf hbody)

/-- The work of KS_HCLR past its fetch. -/
def hclrBody : Ocd Unit := do
  needDs 1
  let n ← pop
  slotCheck n .write
  slotWrite n (zeros 8)
  pushSt stOk

theorem exec_ksHclr : exec (.ksHclr c 0) s = .next (ocdRun c 4 [] hclrBody s) := rfl

theorem ksHclr_stores {n : Word32} (hds : (coreK c s).ds = n :: r) (hram : hsRam (coreK c s) n = true)
    (hreach : reaches c 4 (slotCheck n .write) s = true) (hroom : r.length < 32) :
    Stores c s (exec (.ksHclr c 0) s) { past 4 c s with ds := 0 :: r } (hsAt (coreK c s) n) (zeros 8) := by
  obtain ⟨p, q, hf, hq, hp⟩ := exists_cleared (slotCheck_checks n .write) hreach r []
  have hhost := host_fetched hf
  have hbody : hclrBody p = (.ok (), q.slotWritten n (zeros 8) r) := by
    rw [hclrBody, pops_one ((held_fetched hf).trans hds), hhost, bind_ok hq]
    exact slotWrite_ends hp hroom n _
  rw [exec_ksHclr]
  exact stores_of_slotWrite hp hram (ocdRun_ok hf hbody)

/-- The work of KS_HEQ past its fetch. -/
def heqBody : Ocd Unit := do
  needDs 2
  let b ← pop
  let a ← pop
  slotCheck a .read
  slotCheck b .read
  let x ← slotBytes a
  let y ← slotBytes b
  push (flag (x == y))

theorem exec_ksHeq : exec (.ksHeq c 0) s = .next (ocdRun c 4 [] heqBody s) := rfl

theorem ksHeq_completes {b a : Word32} (hds : (coreK c s).ds = b :: a :: r)
    (hreach : reaches c 4 (do slotCheck a .read; slotCheck b .read) s = true) (hroom : r.length < 32) :
    Completes c s (exec (.ksHeq c 0) s) { past 4 c s with ds := (if hsBytes c a s = hsBytes c b s then 1 else 0) :: r } := by
  obtain ⟨p, q, hf, hq, hp⟩ := exists_cleared ((slotCheck_checks a .read).seq (slotCheck_checks b .read)) hreach r []
  have hhost := host_fetched hf
  have hds' := hp.held
  obtain ⟨⟨⟩, q', hq', hq⟩ := ok_of_bind hq
  have hbody : heqBody p = (.ok (), q.left { q.k with ds := flag (hsBytes c a s == hsBytes c b s) :: r } q.bound) := by
    rw [heqBody, pops_two ((held_fetched hf).trans hds), hhost, bind_ok hq', bind_ok hq, bind_ok (slotBytes_reads hp.task hp.mem a),
      bind_ok (slotBytes_reads hp.task hp.mem b), ← hds']
    exact push_left (hds'.symm ▸ hroom)
  have hflag : flag (hsBytes c a s == hsBytes c b s) = if hsBytes c a s = hsBytes c b s then 1 else 0 := by
    simp [flag]
  rw [exec_ksHeq, ← hflag]
  exact completes_of_done (ocdRun_ok hf hbody) (postKeepsDev_nil hp.post) hp.core (by rw [OcdS.left, hp.task])

/-- The work of KS_HIN past its fetch. -/
def hinBody : Ocd Unit := do
  needDs 2
  let n ← pop
  let p ← pop
  needMs p
  access sgMS .r (ptrOff p) 8 8 .read
  slotCheck n .write
  slotWrite n (← fetchBytes sgMS (ptrOff p) 8)
  pushSt stOk

theorem exec_ksHin (host : Bytes) : exec (.ksHin c 0 host) s = .next (ocdRun c 4 host hinBody s) := rfl

/-- The pointer lies in the message window. -/
theorem needMs_ok {ptr : Word32} {p : OcdS} (hseg : ptrSeg ptr = 4) : needMs ptr p = (.ok (), p) :=
  congrFun (if_pos hseg) p

theorem fetchBytes_host {off len : Nat} {q : OcdS} (hms : (segOf q.k sgMS).ms = true) :
    fetchBytes sgMS off len q = (.ok (fit q.host len), { q with host := q.host.drop len }) := by
  simp only [fetchBytes, ocd_bind, ocd_get, hms, if_true, ocd_set, ocd_pure]

theorem ksHin_stores {host : Bytes} {n ptr : Word32} (hds : (coreK c s).ds = n :: ptr :: r) (hseg : ptrSeg ptr = 4)
    (hms : ((coreK c s).segs.getD 4 {}).ms = true) (hram : hsRam (coreK c s) n = true)
    (hreach : reaches c 4 (do access 4 .r (ptrOff ptr) 8 8 .read; slotCheck n .write) s = true) (hroom : r.length < 32) :
    Stores c s (exec (.ksHin c 0 host) s) { past 4 c s with ds := 0 :: r } (hsAt (coreK c s) n) (fit host 8) := by
  obtain ⟨p, q, hf, hq, hp⟩ := exists_cleared ((access_checks sgMS .r (ptrOff ptr) 8 8 .read).seq (slotCheck_checks n .write)) hreach r host
  obtain ⟨⟨⟩, q', hq', hq⟩ := ok_of_bind hq
  have hmsq : (segOf q.k sgMS).ms = true := by rw [hp.task]; exact hms
  have hfetch := fetchBytes_host (off := ptrOff ptr) (len := 8) hmsq
  rw [hp.host] at hfetch
  have hp' : Cleared c s { past 4 c s with ds := r } (host.drop 8) { q with host := host.drop 8 } :=
    ⟨hp.task, rfl, hp.post, hp.core, hp.mem, hp.hif⟩
  have hbody : hinBody { p with host := host } = (.ok (), OcdS.slotWritten n (fit host 8) r { q with host := host.drop 8 }) := by
    rw [hinBody, pops_two (p := { p with host := host }) ((held_fetched hf).trans hds), bind_ok (needMs_ok hseg)]
    refine (bind_ok hq').trans ((bind_ok hq).trans ((bind_ok hfetch).trans ?_))
    exact slotWrite_ends hp' hroom n _
  rw [exec_ksHin]
  exact stores_of_slotWrite hp' hram (ocdRun_ok_host hf hbody)

/-- The work of KS_HOUT past its fetch. -/
def houtBody : Ocd Unit := do
  needDs 2
  let p ← pop
  let n ← pop
  needMs p
  slotCheck n .read
  storeBytes sgMS (ptrOff p) 8 (← slotBytes n)
  pushSt stOk

theorem exec_ksHout : exec (.ksHout c 0) s = .next (ocdRun c 4 [] houtBody s) := rfl

theorem segStore_host {k : Task} {off : Nat} {b : Bytes} (hms : (segOf k sgMS).ms = true) (u : State) :
    segStore k sgMS off b u = onDev (onHif (fun h => { h with tx := h.tx ++ hostStores (msPieces k off) b })) u := by
  simp only [segStore, hms, if_true]

theorem storeBytes_host {off align : Nat} {b : Bytes} {o q : OcdS} (hacc : access sgMS .w off b.length align .write o = (.ok (), q))
    (hms : (segOf q.k sgMS).ms = true) (hpost : q.post = []) :
    storeBytes sgMS off align b o = (.ok (), { q with post := [segStore q.k sgMS off b] }) := by
  simp only [storeBytes, ocd_bind, hacc, ocd_get, hms, Bool.true_or, if_true, ocd_after, hpost, List.nil_append]

theorem ksHout_emits {ptr n : Word32} (hds : (coreK c s).ds = ptr :: n :: r) (hseg : ptrSeg ptr = 4)
    (hms : ((coreK c s).segs.getD 4 {}).ms = true)
    (hreach : reaches c 4 (do slotCheck n .read; access 4 .w (ptrOff ptr) 8 8 .write) s = true) (hroom : r.length < 32) :
    Completes c s (exec (.ksHout c 0) s) { past 4 c s with ds := 0 :: r }
      ∧ Gives (exec (.ksHout c 0) s) (fun u => u.mem = s.mem
          ∧ u.hif.tx = s.hif.tx ++ hostStores (msPieces (coreK c s) (ptrOff ptr)) (hsBytes c n s)) := by
  obtain ⟨p, q, hf, hq, hp⟩ := exists_cleared ((slotCheck_checks n .read).seq (access_checks sgMS .w (ptrOff ptr) 8 8 .write)) hreach r []
  have hhost := host_fetched hf
  obtain ⟨⟨⟩, q', hq', hq⟩ := ok_of_bind hq
  obtain ⟨hsame, -⟩ := access_ok hq
  have hread := slotBytes_reads (q := q') (hsame.task.symm.trans hp.task) (hsame.mem.symm.trans hp.mem) n
  have hms' : (segOf q.k sgMS).ms = true := by rw [hp.task]; exact hms
  have hds' := hp.held
  have hlen : (hsBytes c n s).length = 8 := by simp [hsBytes, memGetN]
  have hstore := storeBytes_host (b := hsBytes c n s) (q := q) (by rw [hlen]; exact hq) hms' hp.post
  have hbody : houtBody p = (.ok (), { q with
      k := { q.k with ds := 0 :: r }, post := [segStore q.k sgMS (ptrOff ptr) (hsBytes c n s)] }) := by
    rw [houtBody, pops_two ((held_fetched hf).trans hds), hhost, bind_ok (needMs_ok hseg)]
    refine (bind_ok hq').trans ((bind_ok hread).trans ((bind_ok hstore).trans ?_))
    rw [← hds']
    exact push_room (o := { q with post := [segStore q.k sgMS (ptrOff ptr) (hsBytes c n s)] }) (hds'.symm ▸ hroom)
  have hrun := ocdRun_ok hf hbody
  rw [ocdDone_eq, List.foldl_cons, List.foldl_nil, segStore_host hms'] at hrun
  have hpieces : msPieces q.k (ptrOff ptr) = msPieces (coreK c s) (ptrOff ptr) := by rw [hp.task]; rfl
  rw [exec_ksHout, hrun, hpieces]
  refine ⟨⟨?_, ?_⟩, hp.mem, congrArg (fun h => h.tx ++ _) hp.hif⟩
  · refine (retired_task _).trans ?_
    rw [hp.task]
  · exact (retired_insns _).trans (congrArg (fun x => x.insns + 1) hp.core)

end

/-- Settles O3: the accesses that pass before the operands are taken pass after it too, and what is left of the operation is the
store of a slot, the comparison of two, or the host's buffer. -/
theorem handleSlotOperationsComplete : Obligations.HandleSlotOperationsComplete := by
  refine ⟨?_, ?_, ?_, ?_, ?_⟩
  · intro c s dst src r hds hram hreach hroom
    exact ksHcopy_stores hds hram hreach hroom
  · intro c s n r hds hram hreach hroom
    exact ksHclr_stores hds hram hreach hroom
  · intro c s b a r hds hreach hroom
    exact ksHeq_completes hds hreach hroom
  · intro c s host n ptr r hds hseg hms hram hreach hroom
    exact ksHin_stores hds hseg hms hram hreach hroom
  · intro c s ptr n r hds hseg hms hreach hroom
    exact ksHout_emits hds hseg hms hreach hroom

end Sys2Proof.Machine
end

section
/-! PROOF. What a completed instruction leaves of the cores and the tumbler, and the waits (R288 to R291). -/

namespace Sys2Proof.Machine

/-! ## Cores and tumblers of a completed instruction -/

section
variable {β : Type} {w : CoreS → β} {c : CoreId} {t : Nat} {q : OcdS}

theorem cores_onTask (d : Dev) (r t n : Nat) (f : Task → Task) : (regionOf (onTask r t f d) n).cores = (regionOf d n).cores := by
  by_cases hr : n = r
  · subst hr
    simp [onTask, onTmb]
  · simp [onTask, onTmb, regionOf_onRegion_ne _ _ hr]

/-- An instruction's end counts on its core, and ends a step and a halt of it. -/
theorem core_retired_keeps (hw : ∀ x i y n b h, w { x with insns := i, cycles := y, spills := n, step := b, halted := h } = w x)
    (r p : Nat) :
    w (tget (regionOf (retired c t q).toDev r).cores p {}) = w (tget (regionOf q.s.toDev r).cores p {}) := by
  refine (core_onCoreP_keeps _ c.region c.pos (fun x => hw x _ _ _ _ _) r p).trans ?_
  rw [cores_onTask]
  rfl

theorem clock_retired (r : Nat) : (regionOf (retired c t q).toDev r).tmb.clock = (regionOf q.s.toDev r).tmb.clock := by
  have htmb : (regionOf (retired c t q).toDev r).tmb =
      (regionOf (onTask c.region t (fun _ => { q.k with started := true }) q.s.toDev) r).tmb := tmb_onCoreP ..
  rw [htmb]
  by_cases hr : r = c.region
  · subst hr
    simp [onTask, onTmb]
  · simp [onTask, onTmb, regionOf_onRegion_ne _ _ hr]

theorem taskOf_retired_ne {r u : Nat} (h : ¬ (r = c.region.val ∧ u = t)) : taskOf (retired c t q).toDev r u = taskOf q.s.toDev r u := by
  refine (taskOf_onCoreP _ c.pos _ r u).trans ?_
  rw [taskOf_onTask_ne _ _ h]
  rfl

theorem hif_retired : (retired c t q).hif = q.s.hif := rfl
theorem dma_retired : (retired c t q).dma = q.s.dma := rfl

end

/-! ## Waiting -/

section
variable {c : CoreId} {s : State} {p q : OcdS} {body : Ocd Unit}

/-- A core whose task gives it up to wait. -/
def leftToWait (x : CoreS) : CoreS := { x with task := none, waits := x.waits + 1 }

theorem startWait_runs (w : WaitKind) (wake : Nat) (hpost : p.post = []) :
    startWait w wake p = (.ok (), { p with
      k := { p.k with state := .waiting, wait := w, wake := wake }, post := [onDev (onCore p.core leftToWait)] }) := by
  simp only [startWait, ocd_bind, ocd_get, ocd_onK, afterD, ocd_after, hpost, List.nil_append]
  rfl

/-- An instruction whose one last effect is that its task gives up the core to wait. -/
theorem waits_of_body {len : Nat} {k : Task} {w : WaitKind} {wake : Nat} (hf : Fetched c len s p) (hbody : body p = startWait w wake q)
    (hsame : q = p.withDs k.ds) (hk : q.k = k) : Waits c s (.next (ocdRun c len [] body s)) k w wake := by
  have hpost : q.post = [] := hsame ▸ hf.same.post
  have hc : q.core = c := hsame ▸ hf.same.core
  have hdev : q.s = p.s := hsame ▸ rfl
  rw [startWait_runs w wake hpost] at hbody
  rw [ocdRun_ok hf hbody, ocdDone_eq, List.foldl_cons, List.foldl_nil, hc, hk]
  refine ⟨?_, ?_, ?_⟩
  · rw [onDev_toDev, taskOf_onCore, retired_task]
  · rw [onDev_toDev, coreOf_onCore_self]
    rfl
  · rw [onDev_toDev, coreOf_onCore_self]
    refine congrArg (· + 1) ((core_retired_keeps (w := CoreS.waits) (fun _ _ _ _ _ _ => rfl) c.region c.pos).trans ?_)
    exact congrArg CoreS.waits ((congrArg (fun u : State => coreOf u.toDev c) hdev).trans (coreOf_fetched hf))

theorem regionOf_fetched {len : Nat} (hf : Fetched c len s p) (r : Nat) : regionOf p.s.toDev r = regionOf s.toDev r := by
  rw [regionOf, hf.same.die]
  rfl

theorem homeCount_fetched {len : Nat} (hf : Fetched c len s p) (ds : List Word32) :
    homeCount (p.withDs ds) = homeSev c (coreK c s) s := by
  have hc : p.core = c := hf.same.core
  have hk := task_fetched hf
  show (tget (regionOf p.s.toDev p.core.region).cores p.k.home {}).sev = _
  rw [hc, hk, regionOf_fetched hf]
  rfl

theorem pendingNow_fetched {len : Nat} (hf : Fetched c len s p) (ds : List Word32) : pendingNow (p.withDs ds) = hasEvent c s := by
  have hk := task_fetched hf
  rw [pendingNow, homeCount_fetched hf]
  show (p.k.latch || p.k.seen != _) = _
  rw [hk]
  rfl

theorem nowTb_fetched {len : Nat} (hf : Fetched c len s p) : nowTb p.s.toDev = nowTb s.toDev := by
  have hdev := hf.same.1
  unfold SameButKw at hdev
  rw [hdev]
  rfl

end

/-! ## The waiting instructions -/

section
variable {c : CoreId} {s : State} {h l : Word32} {r : List Word32} (hfetch : fetches c 2 s = true)
include hfetch

/-- The work of WFE past its fetch. -/
def wfeBody : Ocd Unit := do
  if pendingNow (← get) then takeEvent else startWait .event 0

omit hfetch in
theorem exec_wfe : exec (.wfe c 0) s = .next (ocdRun c 2 [] wfeBody s) := rfl

omit hfetch in
theorem takeEvent_runs {p : OcdS} (hf : Fetched c 2 s p) (ds : List Word32) : takeEvent (p.withDs ds) =
    (.ok (), (p.withDs ds).left { p.k with ds := ds, latch := false, seen := homeSev c (coreK c s) s } p.bound) := by
  rw [← homeCount_fetched hf ds]
  rfl

theorem wfe_takes (hevent : hasEvent c s = true) :
    Completes c s (exec (.wfe c 0) s) { past 2 c s with latch := false, seen := homeSev c (coreK c s) s } := by
  obtain ⟨p, hf⟩ := exists_fetched hfetch
  have hpending : pendingNow p = true := (pendingNow_fetched hf p.k.ds).trans hevent
  have hbody : wfeBody p = takeEvent (p.withDs p.k.ds) := by
    simp only [wfeBody, ocd_bind, ocd_get, hpending, if_true]
    rfl
  rw [exec_wfe, ← task_fetched hf]
  exact completes_of_leaves hf ⟨_, hbody.trans (takeEvent_runs hf _)⟩

theorem wfe_waits (hevent : hasEvent c s = false) : Waits c s (exec (.wfe c 0) s) (past 2 c s) .event 0 := by
  obtain ⟨p, hf⟩ := exists_fetched hfetch
  have hk := task_fetched hf
  have hpending : pendingNow p = false := (pendingNow_fetched hf p.k.ds).trans hevent
  have hbody : wfeBody p = startWait .event 0 p := by
    simp only [wfeBody, ocd_bind, ocd_get, hpending, Bool.false_eq_true, if_false]
  rw [exec_wfe]
  exact waits_of_body hf hbody (hk ▸ rfl) hk

/-- The work of WUNTIL past its fetch. -/
def wuntilBody : Ocd Unit := do
  needDs 2
  let d ← popD
  let o ← get
  if d.toNat ≤ nowTb o.s.toDev then pure () else startWait .until_ d.toNat

omit hfetch in
theorem exec_wuntil : exec (.wuntil c 0) s = .next (ocdRun c 2 [] wuntilBody s) := rfl

omit hfetch in
/-- A double cell leaves the stack. -/
theorem popsD {p : OcdS} {work : Word64 → Ocd Unit} (hds : p.k.ds = h :: l :: r) :
    (do needDs 2; let d ← popD; work d : Ocd Unit) p = work (h ++ l) (p.withDs r) := by
  rw [bind_ok (needDs_held (by simp [hds])), bind_ok (ocd_popD p), hds]
  rfl

omit hfetch in
theorem wuntilBody_operand {p : OcdS} (hf : Fetched c 2 s p) (hds : (coreK c s).ds = h :: l :: r) : wuntilBody p =
    (if (h ++ l : Word64).toNat ≤ nowTb s.toDev then pure () else startWait .until_ (h ++ l).toNat : Ocd Unit) (p.withDs r) := by
  rw [wuntilBody, popsD ((held_fetched hf).trans hds), ← nowTb_fetched hf]
  rfl

theorem wuntil_passes (hds : (coreK c s).ds = h :: l :: r) (hpast : (h ++ l).toNat ≤ nowTb s.toDev) :
    Completes c s (exec (.wuntil c 0) s) { past 2 c s with ds := r } := by
  obtain ⟨p, hf⟩ := exists_fetched hfetch
  have hbody := wuntilBody_operand hf hds
  rw [if_pos hpast] at hbody
  rw [exec_wuntil, ← task_fetched hf]
  exact completes_of_leaves hf ⟨p.bound, hbody⟩

theorem wuntil_waits (hds : (coreK c s).ds = h :: l :: r) (hahead : nowTb s.toDev < (h ++ l).toNat) :
    Waits c s (exec (.wuntil c 0) s) { past 2 c s with ds := r } .until_ (h ++ l).toNat := by
  obtain ⟨p, hf⟩ := exists_fetched hfetch
  have hbody := wuntilBody_operand hf hds
  rw [if_neg (Nat.not_le.mpr hahead)] at hbody
  rw [exec_wuntil]
  exact waits_of_body hf hbody rfl (by rw [OcdS.withDs, task_fetched hf])

/-- The work of WFEU past its fetch. -/
def wfeuBody : Ocd Unit := do
  needDs 2
  let d ← popD
  let o ← get
  if pendingNow o then
    takeEvent
    push 1
  else if d.toNat ≤ nowTb o.s.toDev then push 0
  else startWait .eventUntil d.toNat

omit hfetch in
theorem exec_wfeu : exec (.wfeu c 0) s = .next (ocdRun c 2 [] wfeuBody s) := rfl

omit hfetch in
theorem wfeuBody_operand {p : OcdS} (hf : Fetched c 2 s p) (hds : (coreK c s).ds = h :: l :: r) : wfeuBody p =
    (if hasEvent c s then do takeEvent; push 1
      else if (h ++ l : Word64).toNat ≤ nowTb s.toDev then push 0 else startWait .eventUntil (h ++ l).toNat : Ocd Unit) (p.withDs r) := by
  rw [wfeuBody, popsD ((held_fetched hf).trans hds), ← nowTb_fetched hf, ← pendingNow_fetched hf r]
  rfl

theorem wfeu_takes (hds : (coreK c s).ds = h :: l :: r) (hroom : r.length < 32) (hevent : hasEvent c s = true) :
    Completes c s (exec (.wfeu c 0) s) { past 2 c s with ds := 1 :: r, latch := false, seen := homeSev c (coreK c s) s } := by
  obtain ⟨p, hf⟩ := exists_fetched hfetch
  have hbody := wfeuBody_operand hf hds
  rw [if_pos hevent, bind_ok (takeEvent_runs hf r)] at hbody
  rw [exec_wfeu, ← task_fetched hf]
  exact completes_of_leaves hf ⟨_, hbody.trans (push_left hroom)⟩

theorem wfeu_late (hds : (coreK c s).ds = h :: l :: r) (hroom : r.length < 32) (hevent : hasEvent c s = false)
    (hpast : (h ++ l).toNat ≤ nowTb s.toDev) : Completes c s (exec (.wfeu c 0) s) { past 2 c s with ds := 0 :: r } := by
  obtain ⟨p, hf⟩ := exists_fetched hfetch
  have hbody := wfeuBody_operand hf hds
  rw [hevent, if_neg Bool.false_ne_true, if_pos hpast] at hbody
  rw [exec_wfeu, ← task_fetched hf]
  exact completes_of_leaves hf ⟨p.bound, hbody.trans (push_room (o := p.withDs r) hroom)⟩

theorem wfeu_waits (hds : (coreK c s).ds = h :: l :: r) (hevent : hasEvent c s = false) (hahead : nowTb s.toDev < (h ++ l).toNat) :
    Waits c s (exec (.wfeu c 0) s) { past 2 c s with ds := r } .eventUntil (h ++ l).toNat := by
  obtain ⟨p, hf⟩ := exists_fetched hfetch
  have hbody := wfeuBody_operand hf hds
  rw [hevent, if_neg Bool.false_ne_true, if_neg (Nat.not_le.mpr hahead)] at hbody
  rw [exec_wfeu]
  exact waits_of_body hf hbody rfl (by rw [OcdS.withDs, task_fetched hf])

/-- The work of TIME past its fetch. -/
def timeBody : Ocd Unit := do
  let o ← get
  pushD (BitVec.ofNat 64 (nowTb o.s.toDev))

omit hfetch in
theorem exec_time : exec (.time c 0) s = .next (ocdRun c 2 [] timeBody s) := rfl

theorem time_pushes (hroom : (coreK c s).ds.length ≤ 30) : Completes c s (exec (.time c 0) s) { past 2 c s with
    ds := BitVec.ofNat 32 (nowTb s.toDev / 2 ^ 32) :: BitVec.ofNat 32 (nowTb s.toDev) :: (coreK c s).ds } := by
  obtain ⟨p, hf⟩ := exists_fetched hfetch
  have hbody : timeBody p = pushD (BitVec.ofNat 64 (nowTb s.toDev)) p := by
    rw [timeBody, bind_ok (ocd_get p), nowTb_fetched hf]
  have hlow : BitVec.ofNat 32 (nowTb s.toDev % 2 ^ 32) = BitVec.ofNat 32 (nowTb s.toDev) := by
    apply BitVec.eq_of_toNat_eq
    simp
  obtain ⟨b, hb⟩ := pushD_ofNat_leaves (n := nowTb s.toDev) (p := p) (by rw [held_fetched hf]; omega)
  rw [hlow, task_fetched hf] at hb
  rw [exec_time]
  exact completes_of_leaves hf ⟨b, hbody.trans hb⟩

end

end Sys2Proof.Machine
end

section
/-! PROOF. SEV, YIELD and EXIT (R288, R296, R303). -/

namespace Sys2Proof.Machine

/-! ## Waking -/

section
variable {d : Dev} {r t : Nat}

/-- What one item of a list brings about, and every item keeps, holds after the iteration. -/
theorem forAll_reaches {α : Type} {P : Dev → Prop} {f : α → Dev → Dev} {a : α} (hset : ∀ d, P (f a d)) (hkeep : ∀ x d, P d → P (f x d))
    {l : List α} (ha : a ∈ l) (d : Dev) : P (forAll l f d) := by
  have hrest : ∀ (l : List α) d, P d → P (forAll l f d) := fun l => by
    induction l with
    | nil => exact fun _ h => h
    | cons x l ih => exact fun d h => ih _ (hkeep x d h)
  induction l generalizing d with
  | nil => cases ha
  | cons x l ih =>
    rcases List.mem_cons.mp ha with rfl | ha
    · exact hrest l _ (hset d)
    · exact ih ha (f x d)

theorem ready_makeReady (u : Nat) (h : (taskOf d r t).state = .ready) : (taskOf (makeReady r u d) r t).state = .ready := by
  by_cases hu : t = u
  · subst hu
    rw [taskOf_makeReady_self]
  · have htask : taskOf (makeReady r u d) r t = taskOf d r t := by
      refine (taskOf_onTmb _ r t r fun _ => by rfl).trans ?_
      exact taskOf_onTask_ne d _ fun h => hu h.2
    rw [htask, h]

/-- A task that is not free stands in its tumbler's table. -/
theorem mem_tasksOf (h : (taskOf d r t).state ≠ .free) : (t, taskOf d r t) ∈ tasksOf d r := by
  have hlives : taskLives (taskOf d r t) = true := bne_iff_ne.mpr h
  refine List.mem_filter.mpr ⟨?_, hlives⟩
  unfold taskOf tget tget? at h ⊢
  cases hx : (regionOf d r).tmb.tasks.lookup t with
  | none =>
    rw [hx] at h
    exact absurd rfl h
  | some x =>
    obtain ⟨l₁, l₂, hl, -⟩ := List.lookup_eq_some_iff.mp hx
    rw [hl]
    exact List.mem_append_right _ List.mem_cons_self

theorem wakeTasks_wakes (hwaits : (taskOf d r t).state = .waiting) (hend : (taskOf d r t).ending = none)
    (hevent : waitsEvent (taskOf d r t) = true) (hpending : eventPending d r (taskOf d r t) = true) :
    (taskOf (wakeTasks r d) r t).state = .ready := by
  have hmem : (t, taskOf d r t) ∈ tasksOf d r := mem_tasksOf (by rw [hwaits]; decide)
  unfold wakeTasks
  refine forAll_reaches (P := fun d => (taskOf d r t).state = .ready) (a := (t, taskOf d r t)) (fun d => ?_) (fun x d h => ?_) ?_ d
  · exact congrArg Task.state taskOf_makeReady_self
  · exact ready_makeReady x.1 h
  · exact List.mem_filter.mpr ⟨hmem, by simp [hwaits, hend, hevent, hpending]⟩

theorem cores_wakeTasks (q : Nat) : (regionOf (wakeTasks r d) q).cores = (regionOf d q).cores :=
  forAll_keeps (fun d => (regionOf d q).cores) (fun _ _ => cores_makeReady q) _ d

end

/-! ## SEV -/

/-- The home slots that a mask names count an event each. -/
def countEvents (r : Nat) (m : Word32) (d : Dev) : Dev :=
  forAll ((List.range 7).filter (fun p => m.getLsbD p)) (fun p => onCoreP r p (fun x => { x with sev := x.sev + 1 })) d

section
variable {d : Dev} {r : Nat} {m : Word32}

theorem taskOf_countEvents (q t : Nat) : taskOf (countEvents r m d) q t = taskOf d q t :=
  forAll_keeps (taskOf · q t) (fun p d => taskOf_onCoreP d p _ q t) _ d

theorem sev_countEvents {p : Nat} (hp : p < 7) : (tget (regionOf (countEvents r m d) r).cores p {}).sev =
    (tget (regionOf d r).cores p {}).sev + (if m.getLsbD p then 1 else 0) := by
  have hnodup : ((List.range 7).filter (fun p => m.getLsbD p)).Nodup := List.nodup_range.filter _
  have hmem : p ∈ (List.range 7).filter (fun p => m.getLsbD p) ↔ m.getLsbD p = true := by simp [hp]
  refine (forAll_at (w := fun d => (tget (regionOf d r).cores p {}).sev) (g := (· + 1)) (a := p) (fun d => ?_) (fun x d hx => ?_) hnodup
    d).trans ?_
  · simp [onCoreP]
  · simp [onCoreP, tget_tmod_ne _ _ _ _ (Ne.symm hx)]
  · simp only [hmem]
    split <;> simp

end

section
variable {c : CoreId} {s : State}

/-- The work of SEV past its fetch. -/
def sevBody : Ocd Unit := do
  needDs 1
  let m ← pop
  let o ← get
  afterD (fun d => countEvents o.core.region m d |> wakeTasks o.core.region)

theorem exec_sev : exec (.sev c 0) s = .next (ocdRun c 2 [] sevBody s) := rfl

theorem sev_runs {m : Word32} {r : List Word32} (hfetch : fetches c 2 s = true) (hds : (coreK c s).ds = m :: r) :
    ∃ p, Fetched c 2 s p ∧ exec (.sev c 0) s =
      .next (onDev (fun d => wakeTasks c.region (countEvents c.region m d)) (retired c (coreNo c s) (p.withDs r))) := by
  obtain ⟨p, hf⟩ := exists_fetched hfetch
  have hc : p.core = c := hf.same.core
  have hpost : p.post = [] := hf.same.post
  have hbody : sevBody p = (.ok (), { p.withDs r with
      post := [onDev (fun d => wakeTasks c.region (countEvents c.region m d))] }) := by
    rw [sevBody, pops_one ((held_fetched hf).trans hds)]
    show (Except.ok (), { p.withDs r with
      post := p.post ++ [onDev (fun d => wakeTasks p.core.region (countEvents p.core.region m d))] }) = _
    rw [hc, hpost]
    rfl
  refine ⟨p, hf, ?_⟩
  rw [exec_sev, ocdRun_ok hf hbody, ocdDone_eq]
  rfl

theorem sev_counts {m : Word32} {r : List Word32} (hfetch : fetches c 2 s = true) (hds : (coreK c s).ds = m :: r) :
    Gives (exec (.sev c 0) s) (fun u => (taskOf u.toDev c.region (coreNo c s)).ds = r
      ∧ ∀ p, p < 7 → (tget (regionOf u.toDev c.region).cores p {}).sev =
          (tget (regionOf s.toDev c.region).cores p {}).sev + (if m.getLsbD p then 1 else 0)) := by
  obtain ⟨p, hf, hexec⟩ := sev_runs hfetch hds
  rw [hexec]
  constructor
  · rw [onDev_toDev, wakeTasks_keeps (v := Task.ds) _ _ _ _ fun _ _ _ => rfl, taskOf_countEvents, retired_task]
    rfl
  · intro i hi
    rw [onDev_toDev, cores_wakeTasks, sev_countEvents hi, core_retired_keeps (w := CoreS.sev) fun _ _ _ _ _ _ => rfl]
    show (tget (regionOf p.s.toDev c.region).cores i {}).sev + _ = _
    rw [regionOf_fetched hf]

theorem sev_wakes {m : Word32} {r : List Word32} {t : Nat} (hfetch : fetches c 2 s = true) (hds : (coreK c s).ds = m :: r)
    (hother : t ≠ coreNo c s) (hwaits : (taskOf s.toDev c.region t).state = .waiting) (hend : (taskOf s.toDev c.region t).ending = none)
    (hwait : (taskOf s.toDev c.region t).wait = .event) (hhome : (taskOf s.toDev c.region t).home < 7)
    (hbit : m.getLsbD (taskOf s.toDev c.region t).home = true)
    (hseen : (taskOf s.toDev c.region t).seen = homeSev c (taskOf s.toDev c.region t) s) :
    Gives (exec (.sev c 0) s) (fun u => (taskOf u.toDev c.region t).state = .ready) := by
  obtain ⟨p, hf, hexec⟩ := sev_runs hfetch hds
  have htask : taskOf (countEvents c.region m (retired c (coreNo c s) (p.withDs r)).toDev) c.region t = taskOf s.toDev c.region t := by
    rw [taskOf_countEvents, taskOf_retired_ne fun h => hother h.2]
    exact congrArg (fun x : RegionS => tget x.tmb.tasks t {}) (regionOf_fetched hf c.region)
  have hsev : (tget (regionOf (countEvents c.region m (retired c (coreNo c s) (p.withDs r)).toDev) c.region).cores
      (taskOf s.toDev c.region t).home {}).sev = homeSev c (taskOf s.toDev c.region t) s + 1 := by
    rw [sev_countEvents hhome, if_pos hbit, core_retired_keeps (w := CoreS.sev) fun _ _ _ _ _ _ => rfl]
    show (tget (regionOf p.s.toDev c.region).cores _ {}).sev + _ = _
    rw [regionOf_fetched hf]
    rfl
  rw [hexec]
  refine wakeTasks_wakes ?_ ?_ ?_ ?_
  · rw [htask, hwaits]
  · rw [htask, hend]
  · rw [htask, waitsEvent, hwait]
    rfl
  · rw [htask, eventPending, hsev, hseen]
    simp

end

/-! ## YIELD and EXIT -/

section
variable {c : CoreId} {s : State} (hfetch : fetches c 2 s = true)
include hfetch

/-- The work of YIELD past its fetch. -/
def yieldBody : Ocd Unit := do
  let o ← get
  afterD (fun d => onCore o.core (fun x => { x with task := none }) d |> makeReady o.core.region o.no)

omit hfetch in
theorem exec_yield : exec (.yield c 0) s = .next (ocdRun c 2 [] yieldBody s) := rfl

/-- The work of EXIT past its fetch. -/
def exitBody : Ocd Unit := do
  let o ← get
  afterD (taskEnding o.core.region o.no .exit)

omit hfetch in
theorem exec_exit : exec (.exit c 0) s = .next (ocdRun c 2 [] exitBody s) := rfl

omit hfetch in
theorem no_fetched {len : Nat} {p : OcdS} (hf : Fetched c len s p) : p.no = coreNo c s := by
  rw [hf.same.2]
  rfl

theorem yield_gives : Gives (exec (.yield c 0) s) (fun u => (coreOf u.toDev c).task = none
    ∧ taskOf u.toDev c.region (coreNo c s) =
        { past 2 c s with started := true, state := .ready, stamp := (regionOf s.toDev c.region).tmb.clock + 1 }) := by
  obtain ⟨p, hf⟩ := exists_fetched hfetch
  have hc : p.core = c := hf.same.core
  have hbody : yieldBody p = (.ok (), { p with
      post := [onDev (fun d => makeReady c.region (coreNo c s) (onCore c (fun x => { x with task := none }) d))] }) := by
    show (Except.ok (), { p with post := p.post ++ [onDev (fun d => makeReady p.core.region p.no (onCore p.core _ d))] }) = _
    rw [hc, no_fetched hf, hf.same.post]
    rfl
  rw [exec_yield, ocdRun_ok hf hbody, ocdDone_eq, List.foldl_cons, List.foldl_nil]
  constructor
  · rw [onDev_toDev, coreOf_makeReady, coreOf_onCore_self]
  · rw [onDev_toDev, taskOf_makeReady_self, tmb_onCore, clock_retired, taskOf_onCore, retired_task, regionOf_fetched hf,
      task_fetched hf]

omit hfetch in
theorem task_freeCore_none (d : Dev) (r t : Nat) (h : (coreOf d c).task = none) : (coreOf (freeCore r t d) c).task = none := by
  unfold freeCore
  split
  next p _ =>
    by_cases hc : (c.region : Nat) = r ∧ (c.pos : Nat) = p
    · obtain ⟨rfl, rfl⟩ := hc
      rw [onCoreP_pos, coreOf_onCore_self]
    · have hother : coreOf (onCoreP r p (fun x => { x with task := none }) d) c = coreOf d c := by
        by_cases hr : (c.region : Nat) = r
        · subst hr
          simp [coreOf, onCoreP, tget_tmod_ne _ _ _ _ fun hp => hc ⟨rfl, hp⟩]
        · simp [coreOf, onCoreP, regionOf_onRegion_ne _ _ hr]
      rw [hother, h]
  next => exact h

omit hfetch in
/-- A task that ends by EXIT has given up the core that runs it. -/
theorem core_exit {d : Dev} {t : Nat} (hruns : coreRunning d c.region t = some c.pos.val) :
    (coreOf (taskEnding c.region t .exit d) c).task = none := by
  have hdecided : (coreOf (decided c.region t .exit d) c).task = none := by
    rw [decided, coreOf_onTask, freeCore_of_running hruns, coreOf_onCore_self]
  rw [taskEnding_eq]
  rcases taskSettle_cases (decided c.region t .exit d) c.region t with h | ⟨e, hend, hlives, hquiet⟩
  · rw [h, hdecided]
  · have he : e = .exit := by
      rw [taskOf_decided] at hend
      exact (Option.some.inj hend).symm
    subst he
    rw [taskSettle_quiet hend hlives hquiet, coreOf_of_tumbler (tumblerOf_cancelsDone ..)]
    have hsettling : (coreOf (settling c.region t .exit (decided c.region t .exit d)) c).task = none := by
      show (coreOf (onTask c.region t (settled .exit) (freeCore c.region t (decided c.region t .exit d))) c).task = none
      rw [coreOf_onTask]
      exact task_freeCore_none _ _ _ hdecided
    cases (taskOf (decided c.region t .exit d) c.region t).trap with
    | none => exact hsettling
    | some tr => exact hsettling

omit hfetch in
theorem coreRunning_congr {d e : Dev} {r t : Nat}
    (h : ∀ p, (tget (regionOf e r).cores p {}).task = (tget (regionOf d r).cores p {}).task) : coreRunning e r t = coreRunning d r t := by
  simp only [coreRunning, h]

/-- A core that fetches runs a task that is RUNNING. -/
theorem running_of_fetches : (coreK c s).state = .running := by
  obtain ⟨p, hf⟩ := exists_fetched hfetch
  have htask := hf.task
  unfold coreTask at htask
  cases hx : (coreOf s.toDev c).task with
  | none => simp [hx] at htask
  | some t =>
    simp only [hx] at htask
    split at htask
    next hall =>
      have ht : t = coreNo c s := Option.some.inj htask
      rw [ht] at hall
      simp only [Bool.and_eq_true, beq_iff_eq] at hall
      obtain ⟨⟨⟨⟨⟨⟨hrun, -⟩, -⟩, -⟩, -⟩, -⟩, -⟩ := hall
      exact hrun
    next => cases htask

/-- EXIT decides the end of its task, which has given up its core. -/
theorem exit_runs (hsole : solelyRuns c s = true) : ∃ u : State,
    exec (.exit c 0) s = .next (onDev (taskEnding c.region (coreNo c s) .exit) u)
      ∧ coreRunning u.toDev c.region (coreNo c s) = some c.pos.val
      ∧ taskQuiet u.toDev c.region (coreNo c s) = taskQuiet s.toDev c.region (coreNo c s)
      ∧ taskOf u.toDev c.region (coreNo c s) = { past 2 c s with started := true } := by
  obtain ⟨p, hf⟩ := exists_fetched hfetch
  have hc : p.core = c := hf.same.core
  have hbody : exitBody p = (.ok (), { p with post := [onDev (taskEnding c.region (coreNo c s) .exit)] }) := by
    show (Except.ok (), { p with post := p.post ++ [onDev (taskEnding p.core.region p.no .exit)] }) = _
    rw [hc, no_fetched hf, hf.same.post]
    rfl
  have hdma : p.s.dma = s.dma := SameButKw.dma hf.same.1
  refine ⟨retired c (coreNo c s) p, ?_, ?_, ?_, ?_⟩
  · rw [exec_exit, ocdRun_ok hf hbody, ocdDone_eq]
    rfl
  · refine (coreRunning_congr fun i => ?_).trans (beq_iff_eq.mp hsole)
    rw [core_retired_keeps (w := CoreS.task) fun _ _ _ _ _ _ => rfl, regionOf_fetched hf]
  · exact taskQuiet_congr (hif_retired.trans hf.same.hif) (dma_retired.trans hdma)
  · rw [retired_task, task_fetched hf]

theorem exit_ends (hsole : solelyRuns c s = true) (hquiet : taskQuiet s.toDev c.region (coreNo c s) = true) :
    Gives (exec (.exit c 0) s) (fun u => (coreOf u.toDev c).task = none
      ∧ (taskOf u.toDev c.region (coreNo c s)).ending = some .exit ∧ (taskOf u.toDev c.region (coreNo c s)).state = .done) := by
  obtain ⟨u, hexec, hruns, hq, hk⟩ := exit_runs hfetch hsole
  have hlives : (taskOf u.toDev c.region (coreNo c s)).lives := by
    rw [hk]
    exact lives_of_contains (k := coreK c s) (by rw [running_of_fetches hfetch]; rfl)
  have htask := taskOf_taskEnding_quiet (e := .exit) hlives (hq.trans hquiet)
  rw [hexec]
  refine ⟨core_exit hruns, ?_, ?_⟩
  · rw [onDev_toDev, htask]
    rfl
  · rw [onDev_toDev, htask]
    rfl

theorem exit_lingers (hsole : solelyRuns c s = true) (hquiet : taskQuiet s.toDev c.region (coreNo c s) = false) :
    Gives (exec (.exit c 0) s) (fun u => (coreOf u.toDev c).task = none
      ∧ (taskOf u.toDev c.region (coreNo c s)).ending = some .exit ∧ (taskOf u.toDev c.region (coreNo c s)).state = .running) := by
  obtain ⟨u, hexec, hruns, hq, hk⟩ := exit_runs hfetch hsole
  have htask := taskOf_taskEnding_busy (e := .exit) (hq.trans hquiet)
  rw [hexec]
  refine ⟨core_exit hruns, ?_, ?_⟩
  · rw [onDev_toDev, htask]
  · rw [onDev_toDev, htask, hk]
    exact running_of_fetches hfetch

end

/-- Settles O55: what each instruction leaves behind it is its task, and for those that give up the core or wake others one last effect
on the cores and the tumbler. -/
theorem waitsYieldAndExitComplete : Obligations.WaitsYieldAndExitComplete := by
  refine ⟨⟨fun c s hfetch hevent => wfe_takes hfetch hevent, fun c s hfetch hevent => wfe_waits hfetch hevent,
    fun c s h l r hfetch hds hpast => wuntil_passes hfetch hds hpast, fun c s h l r hfetch hds hahead => wuntil_waits hfetch hds hahead,
    fun c s h l r hfetch hds hroom hevent => wfeu_takes hfetch hds hroom hevent,
    fun c s h l r hfetch hds hroom hevent hpast => wfeu_late hfetch hds hroom hevent hpast,
    fun c s h l r hfetch hds hevent hahead => wfeu_waits hfetch hds hevent hahead,
    fun c s hfetch hroom => time_pushes hfetch hroom, fun c s m r hfetch hds => sev_counts hfetch hds⟩, ?_, ?_, ?_, ?_⟩
  · intro c s m r t hfetch hds hother hwaits hend hwait _ hhome hbit hseen
    exact sev_wakes hfetch hds hother hwaits hend hwait hhome hbit hseen
  · intro c s hfetch
    exact yield_gives hfetch
  · intro c s hfetch hsole hquiet
    exact exit_ends hfetch hsole hquiet
  · intro c s hfetch hsole hquiet
    exact exit_lingers hfetch hsole hquiet

end Sys2Proof.Machine
end

section
/-! PROOF. A DMA start on a DMA that is out of service (R376). -/

namespace Sys2Proof.Machine

/-- A segment of the domain's firmware. -/
def ownSeg (rights : Byte) (base limit : Nat) : Seg := { base := base, limit := limit, rights := rights, world := .K, tenant := 0 }

/-- A task that runs, has been granted channel 0 and names it with its descriptor at offset 0 of CS. -/
def startingTask : Task := {
  state := .running, owner := ⟨.K, 0⟩, ds := [0, 0], rsp := 1024, pc := 16, dmaGrant := 1
  segs := [ownSeg 4 (regionBase 0) 0xFFF, ownSeg 3 (regionBase 0 + 0x1000) 0xFFF, ownSeg 3 (regionBase 0 + 0x2000) 1023] }

/-- Region 0 in service with this task on its core 0, and its DMA out of service. -/
def dmaDownState : State :=
  { die := {
      out := [.dma 0]
      regions := [(0, { phase := .up, tmb := { tasks := [(0, startingTask)] }, cores := [(0, { task := some 0 })] })] }
    cpm := { power := .ready } }

theorem dmaDownState_fetches : fetches ⟨0, 0⟩ 4 dmaDownState = true := by decide +kernel
theorem dmaDownState_task : coreK ⟨0, 0⟩ dmaDownState = startingTask := by decide +kernel
theorem dmaDownState_idle : chBusy (chOf dmaDownState.toDev 0 0) = false := by decide +kernel

/-- The list halts at once and signals the task: its latch is set. -/
theorem dmaDownState_signals : Gives (exec (.dmStart ⟨0, 0⟩ 0) dmaDownState)
    (fun u => (taskOf u.toDev 0 (coreNo ⟨0, 0⟩ dmaDownState)).latch = true) := by
  show (taskOf (ocdRun ⟨0, 0⟩ 4 [] _ dmaDownState).toDev 0 _).latch = true
  decide +kernel

/-- Refutes O57: the clause on an accepted DM_START has the task left with its operands replaced and nothing else, for every DMA. On one
that is out of service the list halts at once, which signals its end to the task and sets its latch. The clause lacks the hypothesis that
the DMA is in service, which its second half has. -/
theorem not_issuesDmaAndEventsComplete : ¬ Obligations.IssuesDmaAndEventsComplete := by
  unfold Obligations.IssuesDmaAndEventsComplete
  rintro ⟨-, -, -, -, hstart, -⟩
  have hds : (coreK ⟨0, 0⟩ dmaDownState).ds = 0 :: 0 :: [] := by rw [dmaDownState_task]; rfl
  have hgrant : (coreK ⟨0, 0⟩ dmaDownState).dmaGrant.testBit (0 : Word32).toNat = true := by rw [dmaDownState_task]; rfl
  obtain ⟨⟨htask, -⟩, -⟩ := hstart ⟨0, 0⟩ dmaDownState 0 0 [] dmaDownState_fetches hds (by decide) (by decide) (by decide) hgrant
    dmaDownState_idle
  have hlatch : (coreK ⟨0, 0⟩ dmaDownState).latch = true := (congrArg Task.latch htask).symm.trans dmaDownState_signals
  rw [dmaDownState_task] at hlatch
  exact absurd hlatch (by decide)

end Sys2Proof.Machine
end
